-- ==== Sys2Proof/Word.lean ====
section
/-! DEFINITION. The word types of the machine (R1, R47, R48): 64-bit registers, 32-bit instruction words, 128-bit tile rows. -/

namespace Sys2Proof

/-- A 64-bit word: scalar registers, state registers, pointers. -/
abbrev Word := BitVec 64

/-- A 32-bit instruction word. -/
abbrev W32 := BitVec 32

/-- One byte. -/
abbrev Byte := BitVec 8

/-- One 128-bit tile row (R48). -/
abbrev Row := BitVec 128

/-- A scalar register number `s0`–`s31`. -/
abbrev Reg := BitVec 5

/-- A tile register number `t0`–`t15`. -/
abbrev TReg := BitVec 4

end Sys2Proof
end

