-- ==== Sys2Proof/Syntax.lean ====
section
/-! DEFINITION. The instruction syntax (R223–R244): one constructor for every row of the table of operations and events.
The 147 rows with an encoding are instruction words; a field LA that the instruction ignores is kept, so that no bit of a
word is lost. The 81 rows without an encoding are events of the package; an event carries what the outside supplies with it
(a packet, a sensor reading, a host access) or the unit it happens at. No word decodes to an event. -/

namespace Sys2Proof

/-! ## Operand codes of the instruction words -/

/-- The conditions shared by `BCC`, `CMP` and `VCMP` (R240). -/
inductive Cond where
  | eq | ne | lt | ge | ltu | geu | bit | nbit
  deriving DecidableEq, Repr

/-- Lane types (R229). -/
inductive LaneTy where
  | i8 | i16 | i32 | i64 | bf16 | fp16 | fp32 | fp64
  deriving DecidableEq, Repr

/-- Rounding modes (R66). Codes 5–7 are no mode. -/
inductive RMode where
  | rne | rtz | rup | rdn | rna
  deriving DecidableEq, Repr

/-- Precision of format AF (R228). -/
inductive Prec where
  | fp32 | fp64
  deriving DecidableEq, Repr

/-- Ordering codes of format CM (R116). Code 3 is unassigned. -/
inductive CmOrd where
  | rlx | acq | rel
  deriving DecidableEq, Repr

/-- Access sizes of format CM: 1, 2, 4 or 8 bytes (R227). -/
inductive MSize where
  | b | h | w | d
  deriving DecidableEq, Repr

/-- Widths of `AADD`, `ASWAP`, `ACAS` and `AAGG` (R241). -/
inductive AWidth where
  | d | w
  deriving DecidableEq, Repr

/-- Variants of `AMIN` and `AMAX` (R241). -/
inductive MMVar where
  | ds | du | ws | wu
  deriving DecidableEq, Repr

/-- Variants of `ABIT` (R241). -/
inductive BitOp where
  | and | or | xor
  deriving DecidableEq, Repr

/-- Element formats of `AFADD` (R241). -/
inductive FFmt where
  | fp32 | bf16 | fp16 | fp64
  deriving DecidableEq, Repr

/-- Selectors of `VSHL` (R242). -/
inductive ShiftKind where
  | l | r | ra
  deriving DecidableEq, Repr

/-- Functions of `VSFU` (R242, R412). -/
inductive SfuFn where
  | exp2 | log2 | rcp | rsqrt | sin | cos | tanh | sigm
  deriving DecidableEq, Repr

/-- Operations of `VRED` (R242). -/
inductive RedOp where
  | sum | min | max
  deriving DecidableEq, Repr

/-- Point counts of `VHAD` (R242). -/
inductive HadN where
  | p16 | p32 | p64
  deriving DecidableEq, Repr

/-- Relations of `FCMP` (R300). -/
inductive FRel where
  | eq | lt | le | un
  deriving DecidableEq, Repr

/-- Selectors of `FCVT` (R301). -/
inductive CvtSel where
  | ff | fi64 | fn64 | i64f | n64f | fi32 | fn32 | i32f
  deriving DecidableEq, Repr

/-! ## What the events carry -/

/-- The three agents of a core that run instruction streams (R100). -/
inductive AgentKind where
  | main | loader | storer
  deriving DecidableEq, Repr

/-- An agent: a logical core and which of its streams. -/
structure AgentId where
  core : Nat
  kind : AgentKind
  deriving DecidableEq, Repr

/-- An ordered-class packet on its way to one member (R121, R122): channel, member, key (stamp, source device, seq) and payload.
`tag` is the device and input port at the receiving end of a dead link, for a packet resent after its death (R126). -/
structure OPacket where
  asid    : Nat
  chan    : Nat
  dst     : Nat
  stamp   : Nat
  src     : Nat
  seq     : Nat
  payload : Word
  tag     : Option (Nat × Nat)
  deriving DecidableEq, Repr

/-- What arrives on an ordered-class input port (R123): a packet or a beacon with its bound. -/
inductive OArrival where
  | packet (p : OPacket)
  | beacon (bound : Nat)
  deriving DecidableEq, Repr

/-- Direction of a collective item (R177): up to a parent, down to a child, or along a ring. -/
inductive GDir where
  | up | down | ring
  deriving DecidableEq, Repr

/-- A chunk head or one block of a chunk (R176). -/
inductive GBody where
  | head (bmap : Word) (ncon : Nat) (part : Bool) (rmask : Nat)
  | block (k : Nat) (data : List Byte)
  deriving DecidableEq, Repr

/-- A collective item on its way to a node (R181–R184): the address of the node it is for, address space and group, the sender's
node address, the relay it travels by, the child slot that a relayed item names, and its place in the round. -/
structure GItem where
  node  : Word
  asid  : Nat
  group : Nat
  src   : Word
  via   : Option Word
  slot  : Option Nat
  dir   : GDir
  round : Nat
  chunk : Nat
  body  : GBody
  deriving DecidableEq, Repr

/-- A message between inboxes (R336). -/
structure Msg where
  asid    : Nat
  src     : Word
  core    : Nat
  payload : Word
  deriving DecidableEq, Repr

/-- What an outside observer's access does at its home (R117). -/
inductive OutOp where
  | read (n : Nat)
  | write (bytes : List Byte)
  | add (n : Nat) (v : Word)
  | swap (n : Nat) (v : Word)
  | cas (n : Nat) (expected v : Word)
  | minmax (v2 : MMVar) (max : Bool) (v : Word)
  | bit (op : BitOp) (v : Word)
  deriving DecidableEq, Repr

/-- An access by an outside observer: the host or an agent of another device (R117). `va` is a global virtual address. -/
structure OutAccess where
  asid : Nat
  va   : Nat
  op   : OutOp
  deriving DecidableEq, Repr

/-- Where a soft error strikes (R197): an uncorrectable one, in shadow storage a span's image or the image bound to the record of a stopped
task (R202); or one that the device corrects, on an agent's access. -/
inductive SoftWhere where
  | cleanLine (addr : Nat)
  | storedLine (addr : Nat)
  | routerBuffer (core group : Nat)
  | register (a : AgentId) (code : Nat)
  | shadow (asid job : Nat)
  | taskImage (asid job : Nat) (rec : Word)
  | corrected (a : AgentId)
  | fabric
  deriving DecidableEq, Repr

/-- A thermal domain (R209): a core position (die, x, y) or an HBM stack. -/
inductive Domain where
  | position (die x y : Nat)
  | stack (n : Nat)
  deriving DecidableEq, Repr

/-- How a Felril port is trained (R18). -/
inductive PortLanes where
  | absent
  | four
  | eight
  deriving DecidableEq, Repr

/-- What start-up finds (R15, R17, R18, R221): the firmware image's checks and its digest, the fuse map, and how each port was trained.
`badPos` lists the bad pair positions (g, y); `channelsOut` the channels out of service as (stack, channel). -/
structure BootInput where
  version   : Nat
  rollback  : Nat
  digestOk  : Bool
  sigOk     : Bool
  digest    : List Byte
  badPos    : List (Nat × Nat)
  channelsOut : List (Fin 8 × Fin 32)
  ports     : Vector PortLanes 16
  deriving DecidableEq, Repr

/-! ## The instructions and events -/

/-- Every row of the table of operations and events. -/
inductive Instr where
  /-- `NOP` (R345): Does nothing; counts as one instruction for the chunk limit and for loop end actions. -/
  | nop (la : BitVec 4)
  /-- `B` (R277): Unconditional relative branch to a bundle. -/
  | branch (o : BitVec 24)
  /-- `CALL` (R282): Writes the return bundle pointer to s31 and branches to the target. -/
  | call (o : BitVec 24)
  /-- `BCC` (R279): Branches to the target when the condition on sa and sb holds. -/
  | bcc (c : Cond) (a : Reg) (b : Reg) (o : BitVec 11)
  /-- `JR` (R322): Jumps to word 0 of the bundle whose pointer is in register a. -/
  | jr (la : BitVec 4) (a : Reg)
  /-- `RET` (R358): Jumps to the bundle pointer in s31, as JR s31. -/
  | ret (la : BitVec 4)
  /-- `LOOP` (R330): Pushes a hardware loop level over the following bundles, or skips the body when the count is zero. -/
  | loop (la : BitVec 4) (a : Reg) (n : BitVec 10)
  /-- `WAIT` (R34): Ends the chunk and sleeps until one or all of 1 to 4 condition descriptors hold or the timeout expires. -/
  | wait (yld : Bool) (any : Bool) (n : BitVec 2) (f : Reg) (t : Reg)
  /-- `BAR` (R278): Ends the chunk and arrives at the gang barrier, sleeping until every strand of the gang has arrived. -/
  | bar (la : BitVec 4)
  /-- `VOTE` (R406): Ends the chunk, closes windows and arrives at the span-wide vote. -/
  | vote (la : BitVec 4)
  /-- `SPAWN` (R368): Publishes a continuation record as a new WAITING task of the issuer's job. -/
  | spawn (la : BitVec 4) (a : Reg)
  /-- `SUSPEND` (R375): Writes the task's continuation record back with new conditions and frees the core. -/
  | suspend (la : BitVec 4) (a : Reg) (b : Reg)
  /-- `RETIRE` (R359): Ends the agent's instruction stream after landing late results, flushing statistics and committing the chunk. -/
  | retire (la : BitVec 4)
  /-- `TRAP` (R381): Raises the named trap cause precisely with TVAL from register a. -/
  | trap (la : BitVec 4) (a : Reg) (c : BitVec 8)
  /-- `TRET` (R382): Returns from the trap handler or the user interrupt handler, restoring the banked registers and loop levels. -/
  | tret (la : BitVec 4)
  /-- `HCALL` (R317): Fences, waits for the core's host notice cell to be free, posts code and argument and raises MSI-X vector 1. -/
  | hcall (la : BitVec 4) (a : Reg) (c : BitVec 10)
  /-- `FENCE` (R303): Release and acquire at system scope: waits until the chunk, covered set and earlier external accesses are performed. -/
  | fence (la : BitVec 4)
  /-- `CHUNK` (R286): Ends the agent's current chunk after itself. -/
  | chunk (la : BitVec 4)
  /-- `LD` (R323): Loads 1 to 8 bytes, zero-extended, as a late result into the data register. -/
  | ld (la : BitVec 4) (o : CmOrd) (d : Reg) (b : Reg) (sz : MSize) (x : BitVec 6)
  /-- `ST` (R371): Stores the low n bytes of the data register, held in the agent's chunk until commit. -/
  | st (la : BitVec 4) (o : CmOrd) (d : Reg) (b : Reg) (sz : MSize) (x : BitVec 6)
  /-- `LDT` (R325): Loads 1 to 8 consecutive 16-byte rows into a tile as a late result. -/
  | ldt (la : BitVec 4) (o : CmOrd) (t : TReg) (b : Reg) (n : BitVec 2) (f : BitVec 3) (e : BitVec 3)
  /-- `STT` (R373): Stores 1 to 8 tile rows as consecutive bytes. -/
  | stt (la : BitVec 4) (o : CmOrd) (t : TReg) (b : Reg) (n : BitVec 2) (f : BitVec 3) (e : BitVec 3)
  /-- `LDFE` (R324): Reads an 8-byte word and clears its full tag in one access. -/
  | ldfe (la : BitVec 4) (o : CmOrd) (d : Reg) (b : Reg) (x : BitVec 6)
  /-- `STFE` (R372): Writes an 8-byte word and sets its full tag in one write. -/
  | stfe (la : BitVec 4) (o : CmOrd) (d : Reg) (b : Reg) (x : BitVec 6)
  /-- `FESET` (R305): Sets or clears the full/empty tag of an 8-byte word without changing its data. -/
  | feset (la : BitVec 4) (a : Reg) (full : Bool)
  /-- `FEQ` (R304): Writes 1 to d when the word's full tag is set, else 0. -/
  | feq (la : BitVec 4) (d : Reg) (b : Reg)
  /-- `AADD` (R266): Atomic wrapping add at the word's home, returning the old value. -/
  | aadd (la : BitVec 4) (o : BitVec 3) (d : Reg) (a : Reg) (v : Reg) (wd : AWidth)
  /-- `AMIN` (R273): Atomic minimum, signed or natural, 32 or 64 bits, returning the old value. -/
  | amin (la : BitVec 4) (o : BitVec 3) (d : Reg) (a : Reg) (v : Reg) (v2 : MMVar)
  /-- `AMAX` (R272): Atomic maximum, signed or natural, 32 or 64 bits, returning the old value. -/
  | amax (la : BitVec 4) (o : BitVec 3) (d : Reg) (a : Reg) (v : Reg) (v2 : MMVar)
  /-- `ABIT` (R268): Atomic AND, OR or XOR on 64 bits, returning the old value. -/
  | abit (la : BitVec 4) (o : BitVec 3) (d : Reg) (a : Reg) (v : Reg) (op : BitOp)
  /-- `ASWAP` (R276): Atomic exchange, returning the old value. -/
  | aswap (la : BitVec 4) (o : BitVec 3) (d : Reg) (a : Reg) (v : Reg) (wd : AWidth)
  /-- `ACAS` (R269): Atomic compare and swap against the expected value in d, returning the old value. -/
  | acas (la : BitVec 4) (o : BitVec 3) (d : Reg) (a : Reg) (v : Reg) (wd : AWidth)
  /-- `AFADD` (R271): Sequenced floating add to a 16-byte pair at its home, applied in sequence-number order. -/
  | afadd (la : BitVec 4) (o : BitVec 3) (d : Reg) (a : Reg) (v : Reg) (fm : FFmt)
  /-- `AAGG` (R267): Atomic add that the cluster may aggregate with same-cycle peers into one home add. -/
  | aagg (la : BitVec 4) (o : BitVec 3) (d : Reg) (a : Reg) (v : Reg) (wd : AWidth)
  /-- `PREF` (R353): Hints that a global superblock be read into the core's stash; never traps. -/
  | pref (la : BitVec 4) (a : Reg)
  /-- `WBACK` (R419): Writes the dirty lines of a global superblock back to the LLC, keeping clean copies. -/
  | wback (la : BitVec 4) (a : Reg)
  /-- `INVAL` (R320): Writes back and drops a global superblock from the core's stash. -/
  | inval (la : BitVec 4) (a : Reg)
  /-- `SBIND` (R362): Binds a scalar or tile register to an address generator as an input or output stream. -/
  | sbind (la : BitVec 4) (a : Reg) (r : BitVec 5) (n : BitVec 2) (tile : Bool) (out : Bool)
  /-- `SFREE` (R365): Unbinds a generator and its register. -/
  | sfree (la : BitVec 4) (n : BitVec 2)
  /-- `SSYNC` (R370): Returns a generator's position, or all ones when unbound. -/
  | ssync (la : BitVec 4) (d : Reg) (n : BitVec 2)
  /-- `MXPUB` (R344): Copies a tile-task record and the decode table into the cluster job queue and returns the job id. -/
  | mxpub (la : BitVec 4) (d : Reg) (b : Reg)
  /-- `CPPUB` (R289): Copies a copy job record into the cluster job queue and returns the job id. -/
  | cppub (la : BitVec 4) (d : Reg) (b : Reg)
  /-- `JOBQ` (R321): Returns the state and status word of an engine or copy job id. -/
  | jobq (la : BitVec 4) (d : Reg) (b : Reg)
  /-- `LICACQ` (R328): Acquires the matrix licence with a pin, or records a pending request. -/
  | licacq (la : BitVec 4) (d : Reg) (note : Bool)
  /-- `LICREL` (R329): Removes the job's pin and releases the licence to the twin or FREE when no pin remains. -/
  | licrel (la : BitVec 4)
  /-- `PENQ` (R351): Copies a record image into a pool slot, assigns SEQ and places it in stage 0 or the router. -/
  | penq (la : BitVec 4) (d : Reg) (b : Reg) (p : BitVec 4)
  /-- `PDEQ` (R349): Sleeps until a record is available in the core's stage queue and returns it with the stage number. -/
  | pdeq (la : BitVec 4) (d : Reg) (p : BitVec 4)
  /-- `PDONE` (R350): Finishes the record's current stage with pass or drop and forwards or retires it. -/
  | pdone (la : BitVec 4) (b : Reg) (p : BitVec 4) (drop : Bool)
  /-- `PSTAT` (R354): Returns a stage's queue depth, core count and last window pass count. -/
  | pstat (la : BitVec 4) (d : Reg) (p : BitVec 4) (s : BitVec 4)
  /-- `GSEND` (R315): Contributes chunk images as this core's operand for the next round of a group. -/
  | gsend (la : BitVec 4) (b : Reg) (n : BitVec 6)
  /-- `GRECV` (R314): Takes the oldest present group result into memory and returns the status word, or 0. -/
  | grecv (la : BitVec 4) (d : Reg) (b : Reg) (n : BitVec 6)
  /-- `GSTAT` (R316): Returns the status word of a group slot. -/
  | gstat (la : BitVec 4) (d : Reg) (n : BitVec 6)
  /-- `GCFG` (R312): Reads a group descriptor and stages it for a group slot until the next VOTE. -/
  | gcfg (la : BitVec 4) (b : Reg) (n : BitVec 6)
  /-- `OSEND` (R348): Sends one payload as an ordered-class packet on a channel; a release at system scope. -/
  | osend (la : BitVec 4) (b : Reg) (c : BitVec 4)
  /-- `ORECV` (R347): Takes the next entry of a channel's delivery queue, sleeping while it is empty; an acquire. -/
  | orecv (la : BitVec 4) (d : Reg) (key : Bool) (c : BitVec 4)
  /-- `MSEND` (R341): Sends a 64-bit payload to the inbox of a named node. -/
  | msend (la : BitVec 4) (a : Reg) (b : Reg)
  /-- `MRECV` (R340): Takes the oldest inbox entry, returning payload and sender, or zeros when empty. -/
  | mrecv (la : BitVec 4) (d : Reg)
  /-- `TWX` (R385): Exchanges a register with a twin-window cell in one access. -/
  | twx (la : BitVec 4) (d : Reg) (b : Reg) (n : BitVec 2)
  /-- `TWX_RD` (R385): Reads a twin-window cell, 0 when its recorded ASID differs. -/
  | twxRd (la : BitVec 4) (d : Reg) (n : BitVec 2)
  /-- `TWX_WR` (R385): Writes a twin-window cell and records the writer's ASID. -/
  | twxWr (la : BitVec 4) (b : Reg) (n : BitVec 2)
  /-- `CAPGIVE` (R283): Offers a held write capability to a named agent of the span, after the giver's writing jobs complete. -/
  | capgive (la : BitVec 4) (a : Reg) (b : Reg)
  /-- `CAPTAKE` (R285): Takes a FREE or offered capability, returning 0 on success and 1 when refused. -/
  | captake (la : BitVec 4) (d : Reg) (b : Reg)
  /-- `CAPQ` (R284): Returns the capability state word of a handle. -/
  | capq (la : BitVec 4) (d : Reg) (b : Reg)
  /-- `CYCBEG` (R290): Stages the start of a forward or backward layer-parallel run. -/
  | cycbeg (la : BitVec 4) (bwd : Bool)
  /-- `CYCEND` (R291): Stages the end of the active run. -/
  | cycend (la : BitVec 4)
  /-- `CYCSTAT` (R292): Returns the phase, direction, outcome, cycle count and span residual in force. -/
  | cycstat (la : BitVec 4) (d : Reg)
  /-- `RESTST` (R357): Writes 1 when the span residual is at most the tolerance or a register value. -/
  | restst (la : BitVec 4) (d : Reg) (b : Reg) (tol : Bool)
  /-- `WGFENCE` (R420): Stages an advance of the weight generation for the next VOTE. -/
  | wgfence (la : BitVec 4)
  /-- `GETSR` (R313): Reads a state register. -/
  | getsr (la : BitVec 4) (d : Reg) (i : BitVec 10)
  /-- `SETSR` (R364): Writes a state register, or stages it until the next VOTE. -/
  | setsr (la : BitVec 4) (a : Reg) (i : BitVec 10)
  /-- `HTLD` (R318): Copies a handle table entry to memory. -/
  | htld (la : BitVec 4) (a : Reg) (b : Reg)
  /-- `HTWR` (R319): Writes a handle table entry from memory and waits until every translation cache drops its copy. -/
  | htwr (la : BitVec 4) (a : Reg) (b : Reg)
  /-- `TSFLUSH` (R383): Flushes every held statistics entry to its tensor header as atomic adds. -/
  | tsflush (la : BitVec 4)
  /-- `ADD` (R270): Adds two registers modulo 2^64. -/
  | add (d : Reg) (a : Reg) (b : Reg)
  /-- `ADD_IMM` (R270): Adds a sign-extended immediate modulo 2^64. -/
  | addImm (d : Reg) (a : Reg) (i : BitVec 14)
  /-- `SUB` (R374): Subtracts two registers modulo 2^64. -/
  | sub (d : Reg) (a : Reg) (b : Reg)
  /-- `MUL` (R342): Low 64 bits of the product. -/
  | mul (d : Reg) (a : Reg) (b : Reg)
  /-- `MULH` (R343): High 64 bits of the signed 128-bit product. -/
  | mulh (d : Reg) (a : Reg) (b : Reg)
  /-- `MULH_U` (R343): High 64 bits of the natural 128-bit product. -/
  | mulhU (d : Reg) (a : Reg) (b : Reg)
  /-- `DIV` (R297): Signed or natural quotient rounded toward zero, never trapping. -/
  | div (d : Reg) (a : Reg) (b : Reg) (u : Bool)
  /-- `REM` (R355): Remainder of the DIV quotient, never trapping. -/
  | rem (d : Reg) (a : Reg) (b : Reg) (u : Bool)
  /-- `AND` (R274): Bitwise AND of two registers. -/
  | andR (d : Reg) (a : Reg) (b : Reg)
  /-- `OR` (R346): Bitwise OR of two registers. -/
  | orR (d : Reg) (a : Reg) (b : Reg)
  /-- `XOR` (R421): Bitwise XOR of two registers. -/
  | xorR (d : Reg) (a : Reg) (b : Reg)
  /-- `ANDN` (R275): AND with the complement of the second register. -/
  | andn (d : Reg) (a : Reg) (b : Reg)
  /-- `AND_IMM` (R274): Bitwise AND with a sign-extended immediate. -/
  | andImm (d : Reg) (a : Reg) (i : BitVec 14)
  /-- `OR_IMM` (R346): Bitwise OR with a sign-extended immediate. -/
  | orImm (d : Reg) (a : Reg) (i : BitVec 14)
  /-- `XOR_IMM` (R421): Bitwise XOR with a sign-extended immediate. -/
  | xorImm (d : Reg) (a : Reg) (i : BitVec 14)
  /-- `SHL` (R366): Logical left shift by the low six bits of b. -/
  | shl (d : Reg) (a : Reg) (b : Reg)
  /-- `SHR` (R367): Logical right shift by the low six bits of b. -/
  | shr (d : Reg) (a : Reg) (b : Reg)
  /-- `SRA` (R369): Arithmetic right shift by the low six bits of b. -/
  | sra (d : Reg) (a : Reg) (b : Reg)
  /-- `ROT` (R360): Rotates left by the low six bits of b. -/
  | rot (d : Reg) (a : Reg) (b : Reg)
  /-- `MIN` (R338): Signed or natural minimum of two registers. -/
  | minS (d : Reg) (a : Reg) (b : Reg) (u : Bool)
  /-- `MAX` (R337): Signed or natural maximum of two registers. -/
  | maxS (d : Reg) (a : Reg) (b : Reg) (u : Bool)
  /-- `CMP` (R288): Writes 1 when the condition on a and b holds, else 0. -/
  | cmp (d : Reg) (a : Reg) (b : Reg) (c : Cond)
  /-- `SEL` (R363): Selects a or b by whether register c is non-zero. -/
  | sel (d : Reg) (a : Reg) (b : Reg) (c : Reg)
  /-- `CLZ` (R287): Counts leading zero bits. -/
  | clz (d : Reg) (a : Reg)
  /-- `POPC` (R352): Counts set bits. -/
  | popc (d : Reg) (a : Reg)
  /-- `BFX` (R281): Extracts a zero-extended bit field. -/
  | bfx (d : Reg) (a : Reg) (p : BitVec 6) (w : BitVec 6)
  /-- `BFI` (R280): Inserts a bit field into d. -/
  | bfi (d : Reg) (a : Reg) (p : BitVec 6) (w : BitVec 6)
  /-- `LI` (R327): Loads a sign-extended 19-bit immediate. -/
  | li (d : Reg) (i : BitVec 19)
  /-- `LI_HI` (R327): Shifts d left by 19 and ORs in a 19-bit immediate. -/
  | liHi (d : Reg) (i : BitVec 19)
  /-- `MOV` (R339): Copies a register, popping or appending once for streams. -/
  | mov (d : Reg) (a : Reg)
  /-- `LEA` (R326): Adds an immediate to a pointer's offset, keeping its handle. -/
  | lea (d : Reg) (a : Reg) (i : BitVec 14)
  /-- `FADD` (R298): Floating add rounded once. -/
  | fadd (d : Reg) (a : Reg) (b : Reg) (r : RMode) (p : Prec)
  /-- `FSUB` (R311): Floating subtract rounded once. -/
  | fsub (d : Reg) (a : Reg) (b : Reg) (r : RMode) (p : Prec)
  /-- `FMUL` (R309): Floating multiply rounded once. -/
  | fmul (d : Reg) (a : Reg) (b : Reg) (r : RMode) (p : Prec)
  /-- `FMA` (R306): Fused multiply-add with one rounding. -/
  | fma (d : Reg) (a : Reg) (b : Reg) (c : Reg) (r : RMode) (p : Prec)
  /-- `FDIV` (R302): Floating divide as a late result. -/
  | fdiv (d : Reg) (a : Reg) (b : Reg) (la : BitVec 4) (r : RMode) (p : Prec)
  /-- `FSQRT` (R310): Floating square root as a late result. -/
  | fsqrt (d : Reg) (a : Reg) (la : BitVec 4) (r : RMode) (p : Prec)
  /-- `FMIN` (R308): IEEE minimum of two floats. -/
  | fmin (d : Reg) (a : Reg) (b : Reg) (p : Prec)
  /-- `FMAX` (R307): IEEE maximum of two floats. -/
  | fmax (d : Reg) (a : Reg) (b : Reg) (p : Prec)
  /-- `FCMP` (R300): Floating compare eq, lt, le or unordered, writing 1 or 0. -/
  | fcmp (d : Reg) (a : Reg) (b : Reg) (rel : FRel) (p : Prec)
  /-- `FCVT` (R301): Converts between float formats and integers by the selector. -/
  | fcvt (d : Reg) (a : Reg) (sel : CvtSel) (r : RMode) (p : Prec)
  /-- `FCLASS` (R299): Writes a one-hot classification of a float. -/
  | fclass (d : Reg) (a : Reg) (p : Prec)
  /-- `RESACC` (R165): Accumulates the squared differences of tile rows into the strand's residual partial as a late result. -/
  | resacc (la : BitVec 4) (ta : TReg) (tb : TReg) (n : BitVec 3) (f : BitVec 3) (lt : LaneTy)
  /-- `VADD` (R388): Lane-wise add of tile rows. -/
  | vadd (td : TReg) (ta : TReg) (tb : TReg) (n : BitVec 3) (f : BitVec 3) (lt : LaneTy)
  /-- `VSUB` (R415): Lane-wise subtract of tile rows. -/
  | vsub (td : TReg) (ta : TReg) (tb : TReg) (n : BitVec 3) (f : BitVec 3) (lt : LaneTy)
  /-- `VMUL` (R404): Lane-wise multiply of tile rows. -/
  | vmul (td : TReg) (ta : TReg) (tb : TReg) (n : BitVec 3) (f : BitVec 3) (lt : LaneTy)
  /-- `VFMA` (R398): Lane-wise fused multiply-add into td. -/
  | vfma (td : TReg) (ta : TReg) (tb : TReg) (n : BitVec 3) (f : BitVec 3) (lt : LaneTy)
  /-- `VMIN` (R402): Lane-wise minimum. -/
  | vmin (td : TReg) (ta : TReg) (tb : TReg) (n : BitVec 3) (f : BitVec 3) (lt : LaneTy)
  /-- `VMAX` (R401): Lane-wise maximum. -/
  | vmax (td : TReg) (ta : TReg) (tb : TReg) (n : BitVec 3) (f : BitVec 3) (lt : LaneTy)
  /-- `VAND` (R389): Lane-wise bitwise AND. -/
  | vand (td : TReg) (ta : TReg) (tb : TReg) (n : BitVec 3) (f : BitVec 3) (lt : LaneTy)
  /-- `VOR` (R405): Lane-wise bitwise OR. -/
  | vor (td : TReg) (ta : TReg) (tb : TReg) (n : BitVec 3) (f : BitVec 3) (lt : LaneTy)
  /-- `VXOR` (R416): Lane-wise bitwise XOR. -/
  | vxor (td : TReg) (ta : TReg) (tb : TReg) (n : BitVec 3) (f : BitVec 3) (lt : LaneTy)
  /-- `VSHL` (R413): Lane-wise left, logical right or arithmetic right shift. -/
  | vshl (td : TReg) (ta : TReg) (tb : TReg) (n : BitVec 3) (f : BitVec 3) (lt : LaneTy) (k : ShiftKind)
  /-- `VCMP` (R392): Lane-wise compare producing all-ones masks. -/
  | vcmp (td : TReg) (ta : TReg) (tb : TReg) (n : BitVec 3) (f : BitVec 3) (lt : LaneTy) (c : Cond)
  /-- `VSEL` (R411): Bitwise select of ta or tb by the mask in td. -/
  | vsel (td : TReg) (ta : TReg) (tb : TReg) (n : BitVec 3) (f : BitVec 3) (lt : LaneTy)
  /-- `VCVT` (R393): Converts lanes between lane types, part k of widening or narrowing. -/
  | vcvt (td : TReg) (ta : TReg) (k : BitVec 4) (n : BitVec 3) (f : BitVec 3) (lt : LaneTy) (dst : LaneTy)
  /-- `VDEC` (R394): Decodes 8-bit codes through the core's table into float lanes. -/
  | vdec (td : TReg) (ta : TReg) (k : BitVec 4) (n : BitVec 3) (f : BitVec 3) (lt : LaneTy)
  /-- `VENC` (R396): Encodes float lanes to 8-bit codes through the core's table. -/
  | venc (td : TReg) (ta : TReg) (k : BitVec 4) (n : BitVec 3) (f : BitVec 3) (lt : LaneTy)
  /-- `VBCAST` (R390): Broadcasts a scalar into every lane of tile rows. -/
  | vbcast (td : TReg) (s : Reg) (n : BitVec 3) (f : BitVec 3) (lt : LaneTy)
  /-- `VPERM` (R407): Permutes lanes of ta by indices in tb. -/
  | vperm (td : TReg) (ta : TReg) (tb : TReg) (n : BitVec 3) (f : BitVec 3) (lt : LaneTy)
  /-- `VSFU` (R412): Applies a special function per lane through the cluster's special-function unit as a late result. -/
  | vsfu (td : TReg) (ta : TReg) (la : BitVec 4) (n : BitVec 3) (f : BitVec 3) (lt : LaneTy) (fn : SfuFn)
  /-- `VRED` (R408): Reduces tile rows to lane 0 by a pairwise tree as a late result. -/
  | vred (td : TReg) (ta : TReg) (la : BitVec 4) (n : BitVec 3) (f : BitVec 3) (lt : LaneTy) (op : RedOp)
  /-- `VSCAN` (R410): Inclusive or exclusive sequential scan of tile rows as a late result. -/
  | vscan (td : TReg) (ta : TReg) (la : BitVec 4) (n : BitVec 3) (f : BitVec 3) (lt : LaneTy) (excl : Bool)
  /-- `VHAD` (R399): Keyed sign flips and a Hadamard transform over tile rows as a late result. -/
  | vhad (td : TReg) (ta : TReg) (la : BitVec 4) (n : BitVec 3) (f : BitVec 3) (lt : LaneTy) (pts : HadN)
  /-- `VSIGN` (R414): Inverts element signs by the keyed flip bits. -/
  | vsign (td : TReg) (ta : TReg) (n : BitVec 3) (f : BitVec 3) (lt : LaneTy)
  /-- `VCHAIN` (R391): Runs micro-program slots for a number of passes as a late result. -/
  | vchain (first : BitVec 4) (last : BitVec 4) (la : BitVec 4) (p : BitVec 3)
  /-- `VMPLD` (R403): Loads micro-program store slots from tile row words. -/
  | vmpld (first : BitVec 4) (ta : TReg) (n : BitVec 3) (f : BitVec 3)
  /-- `VREP` (R409): Replicates lane k of each row into every lane. -/
  | vrep (td : TReg) (ta : TReg) (k : BitVec 4) (n : BitVec 3) (f : BitVec 3) (lt : LaneTy)
  /-- `TZERO` (R386): Zeroes tile rows. -/
  | tzero (td : TReg) (n : BitVec 3) (f : BitVec 3) (lt : LaneTy)
  /-- `TMOV` (R380): Copies tile rows bit for bit. -/
  | tmov (td : TReg) (ta : TReg) (n : BitVec 3) (f : BitVec 3) (lt : LaneTy)
  /-- `TTRANS` (R384): Transposes a square lane block of tile rows. -/
  | ttrans (td : TReg) (ta : TReg) (n : BitVec 3) (f : BitVec 3) (lt : LaneTy)
  /-- `VINS` (R400): Inserts a scalar into one lane of a tile row. -/
  | vins (td : TReg) (s : Reg) (f : BitVec 3) (lt : LaneTy)
  /-- `VEXT` (R397): Extracts one lane of a tile row into a scalar. -/
  | vext (td : TReg) (s : Reg) (f : BitVec 3) (lt : LaneTy)
  /-- `VDOT` (R395): Dot product of tile rows into lane 0 by a pairwise tree. -/
  | vdot (td : TReg) (ta : TReg) (tb : TReg) (n : BitVec 3) (f : BitVec 3) (lt : LaneTy)
  /-- Event `AFADD_HOLD_TIMEOUT` (R113): An add held for 1 ms is discarded and its issuing strand takes SEQGAP. -/
  | afaddHoldTimeout (i : Nat)
  /-- Event `STAGE_QUEUE_ROOM` (R150): A stalled PENQ or PDONE proceeds once the full stage queue has room. -/
  | stageQueueRoom (a : AgentId)
  /-- Event `SPEEDWELL_ROUTE` (R151): The cluster router draws or takes in fixed order the next undone member for a record, once some weight is non-zero. -/
  | speedwellRoute (asid : Nat) (pipe : Nat) (cluster : Nat)
  /-- Event `DEFERRED_EFFECTS` (R153): When every lower SEQ has settled, the router performs a leaving record's deferred writes and log appends. -/
  | deferredEffects (asid : Nat) (pipe : Nat)
  /-- Event `PIPELINE_CORE_MOVE` (R154): Every 10 us the pipeline scheduler may move one core between stages by queue fill fraction. -/
  | pipelineCoreMove (asid : Nat) (pipe : Nat)
  /-- Event `GROUP_ITEM_ARRIVE` (R181): A chunk head or block reaches a node, which combines its present operands in fixed order when all are held. -/
  | groupItemArrive (it : GItem)
  /-- Event `GROUP_RESULT_ARRIVE` (R179): A round's result becomes present at a member, raising user interrupt source 2 when enabled. -/
  | groupResultArrive (core : Nat) (g : Nat)
  /-- Event `GROUP_ACK` (R183): A receiving node acknowledges a staged item, freeing the sender's replay block. -/
  | groupAck (core : Nat) (g : Nat)
  /-- Event `GROUP_TIMEOUT` (R185): A chunk timer expires with a head missing; the node folds what it has, sets PART and sends on. -/
  | groupTimeout (core : Nat) (g : Nat) (q : Nat)
  /-- Event `LATE_NOTICE_ARRIVE` (R185): A LATE notice for a discarded contribution sets LATE at members of the subtree. -/
  | lateNoticeArrive (core : Nat) (g : Nat)
  /-- Event `ROUTE_NOTICE_ARRIVE` (R184): A parent receives a child's route notice and sends later results through the named relay. -/
  | routeNoticeArrive (core : Nat) (g : Nat) (slot : Nat) (relay : Word)
  /-- Event `SLACK_WINDOW` (R187): Every 50 us the device raises or lowers its slack offset from the averaged collective slack. -/
  | slackWindow
  /-- Event `ORDERED_INJECT` (R122): Once its covered set is performed, an OSEND packet reaches the injection point and receives stamp and seq. -/
  | orderedInject
  /-- Event `ORDERED_PACKET_ARRIVE` (R123): An ordered packet or beacon arrives on an input port, advancing its watermark and forwarding eligible packets. -/
  | orderedPacketArrive (port : Nat) (x : OArrival)
  /-- Event `ORDERED_BEACON` (R123): A link idle for 256 ns sends a beacon carrying its bound. -/
  | orderedBeacon (port : Nat)
  /-- Event `ORDERED_DELIVER` (R124): Packets below the delivery watermark are delivered in key order into channel delivery queues. -/
  | orderedDeliver (asid : Nat)
  /-- Event `CLOSE_BEACON_ARRIVE` (R126): A close beacon removes the dead port from the receiving device's minima. -/
  | closeBeaconArrive (dev : Nat) (port : Nat)
  /-- Event `WATERMARK_STALL` (R127): A watermark or a held full queue stalls for the stall limit; delivery halts and waiting ORECVs take WATERMARK. -/
  | watermarkStall (asid : Nat)
  /-- Event `MESSAGE_ARRIVE` (R336): A message in flight enters the target core's inbox once it has room. -/
  | messageArrive (m : Msg)
  /-- Event `LATE_RESULT_LAND` (R99): A long-latency result lands in its late destination when its window closes. -/
  | lateResultLand (a : AgentId)
  /-- Event `COMMIT_GRANT` (R107): The commit arbiter grants a chunk, making its held writes visible and squashing conflicting open chunks. -/
  | commitGrant (a : AgentId)
  /-- Event `USER_INTERRUPT_ENTRY` (R60): At a pair boundary a pending enabled user interrupt switches to the shadow bank and enters the handler. -/
  | userInterruptEntry (core : Nat)
  /-- Event `WAIT_EVALUATE` (R35): After an event that may change a listed condition, a sleeping WAIT re-evaluates and ends when its mode is met. -/
  | waitEvaluate (a : AgentId)
  /-- Event `WAIT_TIMEOUT` (R36): A WAIT's tick timeout expires with the mode unmet and bit 63 of the result set. -/
  | waitTimeout (a : AgentId)
  /-- Event `WAIT_TABLE_SUMMARY` (R37): Every 10 us each cluster summarises its wait table to its die. -/
  | waitTableSummary
  /-- Event `BAR_COMPLETE` (R278): When every strand of the gang has arrived, the barrier completes on all of them. -/
  | barComplete (asid : Nat) (job : Nat) (gang : Nat)
  /-- Event `VOTE_COMMIT` (R40): When the last strand arrives, staged values commit and Yarrow acts before any strand continues. -/
  | voteCommit (asid : Nat) (job : Nat)
  /-- Event `CORE_WAKE` (R58): A sleeping or gated core wakes and runs a 64-cycle parity sweep before issue. -/
  | coreWake (core : Nat) (bad : List Nat)
  /-- Event `CORE_GATE` (R208): A core position with no agent for 20 us is gated. -/
  | coreGate (core : Nat)
  /-- Event `TABLE_RECHECK_DONE` (R71): The decode table re-check ends and TABBAD is updated. -/
  | tableRecheckDone (a : AgentId)
  /-- Event `PRESET_LOAD` (R69): A write of PRESET loads the E4M3 or E5M2 decode table preset and starts a re-check. -/
  | presetLoad (a : AgentId)
  /-- Event `TAKE_SLOT` (R42): The dispatcher takes a stream's full head slot, numbers the job and frees the slot. -/
  | takeSlot (stream : Nat)
  /-- Event `SPAN_PLACE` (R24): When enough clusters are free, the dispatcher places every gang of a span at once. -/
  | spanPlace (asid : Nat) (job : Nat)
  /-- Event `SPAN_WAIT_1MS` (R44): A span waiting 1 ms blocks placement of new equal or lower priority gangs. -/
  | spanWait1ms (stream : Nat)
  /-- Event `BAG_RECORD_ENTER` (R44): A task bag record enters the next cluster's task queue when it has room. -/
  | bagRecordEnter (asid : Nat) (job : Nat)
  /-- Event `RECORD_READY` (R32): A WAITING record's readiness test holds and it enters a cluster task queue as READY. -/
  | recordReady (asid : Nat) (ptr : Word)
  /-- Event `CLAIM_RECORD` (R45): An idle core claims the best READY record of its queue or steals from the nearest cluster. -/
  | claimRecord (core : Nat)
  /-- Event `JOB_COMPLETE` (R42): When every agent has retired and its jobs completed, the dispatcher writes the completion word as a system release. -/
  | jobComplete (asid : Nat) (job : Nat)
  /-- Event `JOB_QUEUE_READY` (R140): A queue entry's readiness conditions hold, or a failing condition ends it. -/
  | jobQueueReady (cluster : Nat) (id : Nat)
  /-- Event `ENGINE_ISSUE` (R142): The engine checks a tile-task and takes ownership of its destination lines. -/
  | engineIssue (cluster : Nat)
  /-- Event `ENGINE_STEP` (R143): An engine step of 4 cycles completes, writing a finished block to C. -/
  | engineStep (cluster : Nat)
  /-- Event `ENGINE_COMPLETE` (R140): The engine releases ownership, marks the job COMPLETE and writes its completion word in one grant. -/
  | engineComplete (cluster : Nat)
  /-- Event `COPY_ISSUE` (R144): The copy unit checks a copy job and takes ownership of its destination. -/
  | copyIssue (cluster : Nat)
  /-- Event `COPY_ROW` (R144): A copy row completes and CPROG is reported. -/
  | copyRow (cluster : Nat)
  /-- Event `COPY_COMPLETE` (R140): The copy unit releases ownership, marks the job COMPLETE and writes its completion word. -/
  | copyComplete (cluster : Nat)
  /-- Event `PARK` (R146): After the running step, accumulators are written to PARKP in 64 cycles and the job is PARKED. -/
  | park (cluster : Nat)
  /-- Event `UNPARK` (R146): The parking buffer is read back in 64 cycles and the job continues at its next step. -/
  | unpark (cluster : Nat)
  /-- Event `JOB_MOVE` (R147): A moving engine job enters the receiving queue when an entry frees. -/
  | jobMove (cluster : Nat)
  /-- Event `FELRIL_LINK_DEATH` (R126): A Felril link dies; receivers freeze watermarks and senders resend ordered packets and collective items by alternate routes. -/
  | felrilLinkDeath (port : Nat)
  /-- Event `PEER_ACCESS_ARRIVE` (R117): An access from the host or a peer device is performed at its home as a one-access chunk. -/
  | peerAccessArrive (x : OutAccess)
  /-- Event `RELEASE_PERFORMED` (R118): A release becomes visible to outside observers once its covered set is performed. -/
  | releasePerformed (line : Nat)
  /-- Event `PEER_LOAD_TIMEOUT` (R196): A peer-device load unreachable for 1 ms raises PEERDEAD. -/
  | peerLoadTimeout (a : AgentId)
  /-- Event `DIRECTORY_HANDLER_TURN` (R96): The directory handler strand takes the home core for at most 64 cycles to track extra sharers. -/
  | directoryHandlerTurn (core : Nat)
  /-- Event `SAVE_COMPLETE` (R199): Once every agent of a pre-empted span has stopped, its dirty state is saved into image slots. -/
  | saveComplete (asid : Nat) (job : Nat)
  /-- Event `THERMAL_READING` (R209): A domain's sensor reaches a threshold or satisfies the exit conditions and changes state. -/
  | thermalReading (d : Domain) (sixteenths : Int)
  /-- Event `THROTTLE_STEP` (R211): Each ms TTHR of a HOT pair that cannot migrate rises, or falls once the pair is out of HOT. -/
  | throttleStep (pair : Nat)
  /-- Event `HBM_REFRESH` (R212): A stack refreshes a channel every 3,900 ns or 1,950 ns, blocking it for 300 ns. -/
  | hbmRefresh (stack : Nat) (chan : Nat)
  /-- Event `BALLAST_WINDOW` (R207): Each 64-cycle window the ballast sequencer compares issue counts and starts or steps a fade. -/
  | ballastWindow (row : Nat) (count : Nat)
  /-- Event `SOFT_ERROR` (R197): An uncorrectable soft error drops, poisons, resends or faults by where it occurs. -/
  | softError (w : SoftWhere)
  /-- Event `PACKAGE_RESET` (R221): The boot ROM checks the signed firmware, which trains HBM, builds the placement and fills CAPB. -/
  | packageReset (b : BootInput)
  /-- Event `PARTITION_GO_LIVE` (R217): A write of PV = 1 makes the partition live and reads its channel tables, or fails. -/
  | partitionGoLive (asid : Nat)
  /-- Event `JSREG_WRITE` (R215): A write to a job stream register registers the ring and resumes a stream passed over after an error. -/
  | jsregWrite (s : Nat) (word : Nat) (v : Word)
  /-- Event `APERTURE_READ` (R214): A BAR2 read translated through APASID's page tables, or all ones on failure. -/
  | apertureRead (off : Nat) (n : Nat)
  /-- Event `APERTURE_WRITE` (R214): A BAR2 lower-half write of bytes as they are, or dropped with HERR set. -/
  | apertureWrite (off : Nat) (bytes : List Byte)
  /-- Event `APERTURE_TAGGED_WRITE` (R214): An aligned 8-byte BAR2 upper-half write that also sets the word's full tag. -/
  | apertureTaggedWrite (off : Nat) (bytes : List Byte)
  /-- Event `HERR_CLEAR` (R215): Writes of 1 clear HERR bits. -/
  | herrClear (v : Word)
  /-- Event `HCELL_CLEAR` (R317): The host clears HPEND, letting the core's next HCALL proceed. -/
  | hcellClear (core : Nat) (v : Word)
  /-- Event `DBG_READ` (R206): A host debug read of core registers wakes a sleeping core or reads a gated core's image slot. -/
  | dbgRead (core : Nat) (off : Nat)
  /-- Event `MGMT_REGISTER_WRITE` (R215): A write to a management window register that has no behaviour of its own. -/
  | mgmtRegisterWrite (off : Nat) (v : Word)
  /-- Event `PREEMPT_SPAN` (R198): Host command 0x01 pre-empts a span at chunk boundaries. -/
  | preemptSpan
  /-- Event `RESUME_SPAN` (R203): Host command 0x02 resumes a pre-empted span on its logical clusters. -/
  | resumeSpan
  /-- Event `TRANSLATION_SHOOTDOWN` (R219): Host command 0x03 drops every translation cache and cached handle entry of the ASID. -/
  | translationShootdown
  /-- Event `THAW` (R195): Host command 0x04 unpins a frozen slice and returns its cluster to service. -/
  | thaw
  /-- Event `DECLARE_PORT_OUT` (R205): Host command 0x05 removes a stalled ordered input port from the minima. -/
  | declarePortOut
  /-- Event `REENABLE_DELIVERY` (R205): Host command 0x06 re-enables ordered delivery for the ASID. -/
  | reenableDelivery
  /-- Event `CONTAIN` (R219): Host command 0x07 pre-empts every span of the ASID. -/
  | contain
  /-- Event `TEAR_DOWN` (R219): Host command 0x08 ends every job of the partition with PEERDEAD and clears PV. -/
  | tearDown
  /-- Event `ATTEST` (R222): Host command 0x09 signs the nonce, image digest, fuse map and CAPB with the device key. -/
  | attest
  /-- Event `HCMD_UNKNOWN_CODE` (R219): A command word with an unassigned code completes with status 2. -/
  | hcmdUnknownCode
  /-- Event `PEER_STORE_UNREACHABLE` (R196): A posted peer-device store whose target proves unreachable makes the agent's pending or next release at system scope or FENCE raise PEERDEAD with the pointer of the first failed store. -/
  | peerStoreUnreachable (id : Nat)
  /-- Event `PEER_ACCESS_REPLY` (R119): The reply to a peer-device or host access returns to the issuing device, delivering a load's data or reporting that an access has been performed at its target; `poisoned` marks data that the target found poisoned (R197). -/
  | peerAccessReply (id : Nat) (data : List Byte) (poisoned : Bool)
  deriving DecidableEq, Repr

end Sys2Proof
end

