-- ==== Sys2Proof/Decode.lean ====
section
/-! DEFINITION. The decoder of instruction words (R223, R227–R231, R239–R244) and, after it, the encoder. A word is a natural
number below 2^32; bit 31 belongs to the bundle (R223) and is not read here. Decoding accepts a word exactly when it carries
the fixed bits of a row of the table of operations and assigned codes in its selectors; every other word is rejected by name.
The operand limits of the entries (R229 and the rest) are `Instr.wf`. -/

namespace Sys2Proof

/-- Why a word is rejected (R231, R244). -/
inductive DecodeError where
  /-- A reserved major: C 0x34–0x3F, A 0x1F or 0x39–0x3F. -/
  | reservedMajor
  /-- A function, variant or selector that is not assigned, or a non-zero reserved bit, in a word of an assigned major. -/
  | reservedField
  /-- A code 5–7 of the rounding field (R66). -/
  | reservedRounding
  /-- Ordering 3 of format CM (R116). -/
  | reservedOrdering
  deriving DecidableEq, Repr

/-- Bits lo + n − 1 : lo of `w`. -/
def fld (w lo n : Nat) : Nat := w / 2 ^ lo % 2 ^ n

/-- Bits of `w` as a bit vector. -/
def fbv (w lo n : Nat) : BitVec n := BitVec.ofNat n (fld w lo n)

/-- One bit of `w`. -/
def fbit (w lo : Nat) : Bool := fld w lo 1 == 1

/-- The number a Boolean field holds. -/
def bitNat (b : Bool) : Nat := if b then 1 else 0

/-! ## Codes of the selectors (R229, R240–R242, R66, R116) -/

/-- Code of `Cond`. -/
def Cond.code : Cond → Nat
  | .eq => 0
  | .ne => 1
  | .lt => 2
  | .ge => 3
  | .ltu => 4
  | .geu => 5
  | .bit => 6
  | .nbit => 7

/-- `Cond` of a code; every code is assigned. -/
def Cond.ofCode : Nat → Cond
  | 0 => .eq
  | 1 => .ne
  | 2 => .lt
  | 3 => .ge
  | 4 => .ltu
  | 5 => .geu
  | 6 => .bit
  | _ => .nbit

/-- Code of `LaneTy`. -/
def LaneTy.code : LaneTy → Nat
  | .i8 => 0
  | .i16 => 1
  | .i32 => 2
  | .i64 => 3
  | .bf16 => 4
  | .fp16 => 5
  | .fp32 => 6
  | .fp64 => 7

/-- `LaneTy` of a code; every code is assigned. -/
def LaneTy.ofCode : Nat → LaneTy
  | 0 => .i8
  | 1 => .i16
  | 2 => .i32
  | 3 => .i64
  | 4 => .bf16
  | 5 => .fp16
  | 6 => .fp32
  | _ => .fp64

/-- Code of `RMode`. -/
def RMode.code : RMode → Nat
  | .rne => 0
  | .rtz => 1
  | .rup => 2
  | .rdn => 3
  | .rna => 4

/-- `RMode` of a code; `none` for an unassigned one. -/
def RMode.ofCode : Nat → Option RMode
  | 0 => some .rne
  | 1 => some .rtz
  | 2 => some .rup
  | 3 => some .rdn
  | 4 => some .rna
  | _ => none

/-- Code of `Prec`. -/
def Prec.code : Prec → Nat
  | .fp32 => 0
  | .fp64 => 1

/-- `Prec` of a code; every code is assigned. -/
def Prec.ofCode : Nat → Prec
  | 0 => .fp32
  | _ => .fp64

/-- Code of `CmOrd`. -/
def CmOrd.code : CmOrd → Nat
  | .rlx => 0
  | .acq => 1
  | .rel => 2

/-- `CmOrd` of a code; `none` for an unassigned one. -/
def CmOrd.ofCode : Nat → Option CmOrd
  | 0 => some .rlx
  | 1 => some .acq
  | 2 => some .rel
  | _ => none

/-- Code of `MSize`. -/
def MSize.code : MSize → Nat
  | .b => 0
  | .h => 1
  | .w => 2
  | .d => 3

/-- `MSize` of a code; every code is assigned. -/
def MSize.ofCode : Nat → MSize
  | 0 => .b
  | 1 => .h
  | 2 => .w
  | _ => .d

/-- Code of `AWidth`. -/
def AWidth.code : AWidth → Nat
  | .d => 0
  | .w => 1

/-- `AWidth` of a code; every code is assigned. -/
def AWidth.ofCode : Nat → AWidth
  | 0 => .d
  | _ => .w

/-- Code of `MMVar`. -/
def MMVar.code : MMVar → Nat
  | .ds => 0
  | .du => 1
  | .ws => 2
  | .wu => 3

/-- `MMVar` of a code; every code is assigned. -/
def MMVar.ofCode : Nat → MMVar
  | 0 => .ds
  | 1 => .du
  | 2 => .ws
  | _ => .wu

/-- Code of `BitOp`. -/
def BitOp.code : BitOp → Nat
  | .and => 0
  | .or => 1
  | .xor => 2

/-- `BitOp` of a code; `none` for an unassigned one. -/
def BitOp.ofCode : Nat → Option BitOp
  | 0 => some .and
  | 1 => some .or
  | 2 => some .xor
  | _ => none

/-- Code of `FFmt`. -/
def FFmt.code : FFmt → Nat
  | .fp32 => 0
  | .bf16 => 1
  | .fp16 => 2
  | .fp64 => 3

/-- `FFmt` of a code; every code is assigned. -/
def FFmt.ofCode : Nat → FFmt
  | 0 => .fp32
  | 1 => .bf16
  | 2 => .fp16
  | _ => .fp64

/-- Code of `ShiftKind`. -/
def ShiftKind.code : ShiftKind → Nat
  | .l => 0
  | .r => 1
  | .ra => 2

/-- `ShiftKind` of a code; `none` for an unassigned one. -/
def ShiftKind.ofCode : Nat → Option ShiftKind
  | 0 => some .l
  | 1 => some .r
  | 2 => some .ra
  | _ => none

/-- Code of `SfuFn`. -/
def SfuFn.code : SfuFn → Nat
  | .exp2 => 0
  | .log2 => 1
  | .rcp => 2
  | .rsqrt => 3
  | .sin => 4
  | .cos => 5
  | .tanh => 6
  | .sigm => 7

/-- `SfuFn` of a code; every code is assigned. -/
def SfuFn.ofCode : Nat → SfuFn
  | 0 => .exp2
  | 1 => .log2
  | 2 => .rcp
  | 3 => .rsqrt
  | 4 => .sin
  | 5 => .cos
  | 6 => .tanh
  | _ => .sigm

/-- Code of `RedOp`. -/
def RedOp.code : RedOp → Nat
  | .sum => 0
  | .min => 1
  | .max => 2

/-- `RedOp` of a code; `none` for an unassigned one. -/
def RedOp.ofCode : Nat → Option RedOp
  | 0 => some .sum
  | 1 => some .min
  | 2 => some .max
  | _ => none

/-- Code of `HadN`. -/
def HadN.code : HadN → Nat
  | .p16 => 0
  | .p32 => 1
  | .p64 => 2

/-- `HadN` of a code; `none` for an unassigned one. -/
def HadN.ofCode : Nat → Option HadN
  | 0 => some .p16
  | 1 => some .p32
  | 2 => some .p64
  | _ => none

/-- Code of `FRel`. -/
def FRel.code : FRel → Nat
  | .eq => 0
  | .lt => 1
  | .le => 2
  | .un => 3

/-- `FRel` of a code; every code is assigned. -/
def FRel.ofCode : Nat → FRel
  | 0 => .eq
  | 1 => .lt
  | 2 => .le
  | _ => .un

/-- Code of `CvtSel`. -/
def CvtSel.code : CvtSel → Nat
  | .ff => 0
  | .fi64 => 1
  | .fn64 => 2
  | .i64f => 3
  | .n64f => 4
  | .fi32 => 5
  | .fn32 => 6
  | .i32f => 7

/-- `CvtSel` of a code; every code is assigned. -/
def CvtSel.ofCode : Nat → CvtSel
  | 0 => .ff
  | 1 => .fi64
  | 2 => .fn64
  | 3 => .i64f
  | 4 => .n64f
  | 5 => .fi32
  | 6 => .fn32
  | _ => .i32f

/-! ## The decoder, one definition for each major -/

/-- C major 0x00: `NOP`. -/
def decode00 (w : Nat) : Except DecodeError Instr :=
  if fld w 0 20 = 0 then
    .ok (.nop (fbv w 20 4))
  else .error .reservedField

/-- C major 0x01: `B`. -/
def decode01 (w : Nat) : Except DecodeError Instr :=
  .ok (.branch (fbv w 0 24))

/-- C major 0x02: `CALL`. -/
def decode02 (w : Nat) : Except DecodeError Instr :=
  .ok (.call (fbv w 0 24))

/-- C major 0x03: `BCC`. -/
def decode03 (w : Nat) : Except DecodeError Instr :=
  .ok (.bcc (.ofCode (fld w 21 3)) (fbv w 16 5) (fbv w 11 5) (fbv w 0 11))

/-- C major 0x04: `JR`, `RET`. -/
def decode04 (w : Nat) : Except DecodeError Instr :=
  if fld w 0 15 = 0 then
    .ok (.jr (fbv w 20 4) (fbv w 15 5))
  else if fld w 0 20 = 1 then
    .ok (.ret (fbv w 20 4))
  else .error .reservedField

/-- C major 0x05: `LOOP`. -/
def decode05 (w : Nat) : Except DecodeError Instr :=
  if fld w 10 5 = 0 then
    .ok (.loop (fbv w 20 4) (fbv w 15 5) (fbv w 0 10))
  else .error .reservedField

/-- C major 0x06: `WAIT`. -/
def decode06 (w : Nat) : Except DecodeError Instr :=
  if fld w 0 6 = 0 ∧ fld w 20 4 = 0 then
    .ok (.wait (fbit w 19) (fbit w 18) (fbv w 16 2) (fbv w 11 5) (fbv w 6 5))
  else .error .reservedField

/-- C major 0x07: `BAR`. -/
def decode07 (w : Nat) : Except DecodeError Instr :=
  if fld w 0 20 = 0 then
    .ok (.bar (fbv w 20 4))
  else .error .reservedField

/-- C major 0x08: `VOTE`. -/
def decode08 (w : Nat) : Except DecodeError Instr :=
  if fld w 0 20 = 0 then
    .ok (.vote (fbv w 20 4))
  else .error .reservedField

/-- C major 0x09: `SPAWN`. -/
def decode09 (w : Nat) : Except DecodeError Instr :=
  if fld w 0 15 = 0 then
    .ok (.spawn (fbv w 20 4) (fbv w 15 5))
  else .error .reservedField

/-- C major 0x0A: `SUSPEND`. -/
def decode0A (w : Nat) : Except DecodeError Instr :=
  if fld w 0 10 = 0 then
    .ok (.suspend (fbv w 20 4) (fbv w 15 5) (fbv w 10 5))
  else .error .reservedField

/-- C major 0x0B: `RETIRE`. -/
def decode0B (w : Nat) : Except DecodeError Instr :=
  if fld w 0 20 = 0 then
    .ok (.retire (fbv w 20 4))
  else .error .reservedField

/-- C major 0x0C: `TRAP`. -/
def decode0C (w : Nat) : Except DecodeError Instr :=
  if fld w 8 7 = 0 then
    .ok (.trap (fbv w 20 4) (fbv w 15 5) (fbv w 0 8))
  else .error .reservedField

/-- C major 0x0D: `TRET`. -/
def decode0D (w : Nat) : Except DecodeError Instr :=
  if fld w 0 20 = 0 then
    .ok (.tret (fbv w 20 4))
  else .error .reservedField

/-- C major 0x0E: `HCALL`. -/
def decode0E (w : Nat) : Except DecodeError Instr :=
  if fld w 10 5 = 0 then
    .ok (.hcall (fbv w 20 4) (fbv w 15 5) (fbv w 0 10))
  else .error .reservedField

/-- C major 0x0F: `FENCE`, `CHUNK`. -/
def decode0F (w : Nat) : Except DecodeError Instr :=
  if fld w 0 20 = 0 then
    .ok (.fence (fbv w 20 4))
  else if fld w 0 20 = 1 then
    .ok (.chunk (fbv w 20 4))
  else .error .reservedField

/-- C major 0x10: `LD`. -/
def decode10 (w : Nat) : Except DecodeError Instr :=
  match CmOrd.ofCode (fld w 18 2) with
    | some o => .ok (.ld (fbv w 20 4) o (fbv w 13 5) (fbv w 8 5) (.ofCode (fld w 6 2)) (fbv w 0 6))
    | none => .error .reservedOrdering

/-- C major 0x11: `ST`. -/
def decode11 (w : Nat) : Except DecodeError Instr :=
  match CmOrd.ofCode (fld w 18 2) with
    | some o => .ok (.st (fbv w 20 4) o (fbv w 13 5) (fbv w 8 5) (.ofCode (fld w 6 2)) (fbv w 0 6))
    | none => .error .reservedOrdering

/-- C major 0x12: `LDT`. -/
def decode12 (w : Nat) : Except DecodeError Instr :=
  if fld w 17 1 = 0 then
    (match CmOrd.ofCode (fld w 18 2) with
    | some o => .ok (.ldt (fbv w 20 4) o (fbv w 13 4) (fbv w 8 5) (fbv w 6 2) (fbv w 3 3) (fbv w 0 3))
    | none => .error .reservedOrdering)
  else .error .reservedField

/-- C major 0x13: `STT`. -/
def decode13 (w : Nat) : Except DecodeError Instr :=
  if fld w 17 1 = 0 then
    (match CmOrd.ofCode (fld w 18 2) with
    | some o => .ok (.stt (fbv w 20 4) o (fbv w 13 4) (fbv w 8 5) (fbv w 6 2) (fbv w 3 3) (fbv w 0 3))
    | none => .error .reservedOrdering)
  else .error .reservedField

/-- C major 0x14: `LDFE`. -/
def decode14 (w : Nat) : Except DecodeError Instr :=
  if fld w 6 2 = 3 then
    (match CmOrd.ofCode (fld w 18 2) with
    | some o => .ok (.ldfe (fbv w 20 4) o (fbv w 13 5) (fbv w 8 5) (fbv w 0 6))
    | none => .error .reservedOrdering)
  else .error .reservedField

/-- C major 0x15: `STFE`. -/
def decode15 (w : Nat) : Except DecodeError Instr :=
  if fld w 6 2 = 3 then
    (match CmOrd.ofCode (fld w 18 2) with
    | some o => .ok (.stfe (fbv w 20 4) o (fbv w 13 5) (fbv w 8 5) (fbv w 0 6))
    | none => .error .reservedOrdering)
  else .error .reservedField

/-- C major 0x16: `FESET`, `FEQ`. -/
def decode16 (w : Nat) : Except DecodeError Instr :=
  if fld w 0 2 = 0 ∧ fld w 3 12 = 0 then
    .ok (.feset (fbv w 20 4) (fbv w 15 5) (fbit w 2))
  else if fld w 0 10 = 1 then
    .ok (.feq (fbv w 20 4) (fbv w 15 5) (fbv w 10 5))
  else .error .reservedField

/-- C major 0x17: `AADD`. -/
def decode17 (w : Nat) : Except DecodeError Instr :=
  if fld w 1 1 = 0 then
    .ok (.aadd (fbv w 20 4) (fbv w 17 3) (fbv w 12 5) (fbv w 7 5) (fbv w 2 5) (.ofCode (fld w 0 1)))
  else .error .reservedField

/-- C major 0x18: `AMIN`. -/
def decode18 (w : Nat) : Except DecodeError Instr :=
  .ok (.amin (fbv w 20 4) (fbv w 17 3) (fbv w 12 5) (fbv w 7 5) (fbv w 2 5) (.ofCode (fld w 0 2)))

/-- C major 0x19: `AMAX`. -/
def decode19 (w : Nat) : Except DecodeError Instr :=
  .ok (.amax (fbv w 20 4) (fbv w 17 3) (fbv w 12 5) (fbv w 7 5) (fbv w 2 5) (.ofCode (fld w 0 2)))

/-- C major 0x1A: `ABIT`. -/
def decode1A (w : Nat) : Except DecodeError Instr :=
  match BitOp.ofCode (fld w 0 2) with
    | some op => .ok (.abit (fbv w 20 4) (fbv w 17 3) (fbv w 12 5) (fbv w 7 5) (fbv w 2 5) op)
    | none => .error .reservedField

/-- C major 0x1B: `ASWAP`. -/
def decode1B (w : Nat) : Except DecodeError Instr :=
  if fld w 1 1 = 0 then
    .ok (.aswap (fbv w 20 4) (fbv w 17 3) (fbv w 12 5) (fbv w 7 5) (fbv w 2 5) (.ofCode (fld w 0 1)))
  else .error .reservedField

/-- C major 0x1C: `ACAS`. -/
def decode1C (w : Nat) : Except DecodeError Instr :=
  if fld w 1 1 = 0 then
    .ok (.acas (fbv w 20 4) (fbv w 17 3) (fbv w 12 5) (fbv w 7 5) (fbv w 2 5) (.ofCode (fld w 0 1)))
  else .error .reservedField

/-- C major 0x1D: `AFADD`. -/
def decode1D (w : Nat) : Except DecodeError Instr :=
  .ok (.afadd (fbv w 20 4) (fbv w 17 3) (fbv w 12 5) (fbv w 7 5) (fbv w 2 5) (.ofCode (fld w 0 2)))

/-- C major 0x1E: `AAGG`. -/
def decode1E (w : Nat) : Except DecodeError Instr :=
  if fld w 1 1 = 0 then
    .ok (.aagg (fbv w 20 4) (fbv w 17 3) (fbv w 12 5) (fbv w 7 5) (fbv w 2 5) (.ofCode (fld w 0 1)))
  else .error .reservedField

/-- C major 0x1F: `PREF`, `WBACK`, `INVAL`. -/
def decode1F (w : Nat) : Except DecodeError Instr :=
  if fld w 0 15 = 0 then
    .ok (.pref (fbv w 20 4) (fbv w 15 5))
  else if fld w 0 15 = 1 then
    .ok (.wback (fbv w 20 4) (fbv w 15 5))
  else if fld w 0 15 = 2 then
    .ok (.inval (fbv w 20 4) (fbv w 15 5))
  else .error .reservedField

/-- C major 0x20: `SBIND`, `SFREE`, `SSYNC`. -/
def decode20 (w : Nat) : Except DecodeError Instr :=
  if fld w 0 6 = 0 then
    .ok (.sbind (fbv w 20 4) (fbv w 15 5) (fbv w 10 5) (fbv w 8 2) (fbit w 7) (fbit w 6))
  else if fld w 0 8 = 1 ∧ fld w 10 10 = 0 then
    .ok (.sfree (fbv w 20 4) (fbv w 8 2))
  else if fld w 0 8 = 2 ∧ fld w 10 5 = 0 then
    .ok (.ssync (fbv w 20 4) (fbv w 15 5) (fbv w 8 2))
  else .error .reservedField

/-- C major 0x21: `MXPUB`. -/
def decode21 (w : Nat) : Except DecodeError Instr :=
  if fld w 0 10 = 0 then
    .ok (.mxpub (fbv w 20 4) (fbv w 15 5) (fbv w 10 5))
  else .error .reservedField

/-- C major 0x22: `CPPUB`. -/
def decode22 (w : Nat) : Except DecodeError Instr :=
  if fld w 0 10 = 0 then
    .ok (.cppub (fbv w 20 4) (fbv w 15 5) (fbv w 10 5))
  else .error .reservedField

/-- C major 0x23: `JOBQ`. -/
def decode23 (w : Nat) : Except DecodeError Instr :=
  if fld w 0 10 = 0 then
    .ok (.jobq (fbv w 20 4) (fbv w 15 5) (fbv w 10 5))
  else .error .reservedField

/-- C major 0x24: `LICACQ`, `LICREL`. -/
def decode24 (w : Nat) : Except DecodeError Instr :=
  if fld w 0 2 = 0 ∧ fld w 3 12 = 0 then
    .ok (.licacq (fbv w 20 4) (fbv w 15 5) (fbit w 2))
  else if fld w 0 20 = 1 then
    .ok (.licrel (fbv w 20 4))
  else .error .reservedField

/-- C major 0x25: `PENQ`, `PDEQ`, `PDONE`, `PSTAT`. -/
def decode25 (w : Nat) : Except DecodeError Instr :=
  if fld w 0 6 = 0 then
    .ok (.penq (fbv w 20 4) (fbv w 15 5) (fbv w 10 5) (fbv w 6 4))
  else if fld w 0 6 = 1 ∧ fld w 10 5 = 0 then
    .ok (.pdeq (fbv w 20 4) (fbv w 15 5) (fbv w 6 4))
  else if fld w 0 2 = 2 ∧ fld w 3 3 = 0 ∧ fld w 15 5 = 0 then
    .ok (.pdone (fbv w 20 4) (fbv w 10 5) (fbv w 6 4) (fbit w 2))
  else if fld w 0 2 = 3 ∧ fld w 10 5 = 0 then
    .ok (.pstat (fbv w 20 4) (fbv w 15 5) (fbv w 6 4) (fbv w 2 4))
  else .error .reservedField

/-- C major 0x26: `GSEND`. -/
def decode26 (w : Nat) : Except DecodeError Instr :=
  if fld w 0 4 = 0 ∧ fld w 15 5 = 0 then
    .ok (.gsend (fbv w 20 4) (fbv w 10 5) (fbv w 4 6))
  else .error .reservedField

/-- C major 0x27: `GRECV`, `GSTAT`. -/
def decode27 (w : Nat) : Except DecodeError Instr :=
  if fld w 0 4 = 0 then
    .ok (.grecv (fbv w 20 4) (fbv w 15 5) (fbv w 10 5) (fbv w 4 6))
  else if fld w 0 4 = 1 ∧ fld w 10 5 = 0 then
    .ok (.gstat (fbv w 20 4) (fbv w 15 5) (fbv w 4 6))
  else .error .reservedField

/-- C major 0x28: `GCFG`. -/
def decode28 (w : Nat) : Except DecodeError Instr :=
  if fld w 0 4 = 0 ∧ fld w 15 5 = 0 then
    .ok (.gcfg (fbv w 20 4) (fbv w 10 5) (fbv w 4 6))
  else .error .reservedField

/-- C major 0x29: `OSEND`, `ORECV`. -/
def decode29 (w : Nat) : Except DecodeError Instr :=
  if fld w 0 2 = 0 ∧ fld w 6 4 = 0 ∧ fld w 15 5 = 0 then
    .ok (.osend (fbv w 20 4) (fbv w 10 5) (fbv w 2 4))
  else if fld w 0 2 = 1 ∧ fld w 7 8 = 0 then
    .ok (.orecv (fbv w 20 4) (fbv w 15 5) (fbit w 6) (fbv w 2 4))
  else .error .reservedField

/-- C major 0x2A: `MSEND`, `MRECV`. -/
def decode2A (w : Nat) : Except DecodeError Instr :=
  if fld w 0 10 = 0 then
    .ok (.msend (fbv w 20 4) (fbv w 15 5) (fbv w 10 5))
  else if fld w 0 15 = 1 then
    .ok (.mrecv (fbv w 20 4) (fbv w 15 5))
  else .error .reservedField

/-- C major 0x2B: `TWX`, `TWX_RD`, `TWX_WR`. -/
def decode2B (w : Nat) : Except DecodeError Instr :=
  if fld w 0 2 = 0 ∧ fld w 4 6 = 0 then
    .ok (.twx (fbv w 20 4) (fbv w 15 5) (fbv w 10 5) (fbv w 2 2))
  else if fld w 0 2 = 1 ∧ fld w 4 11 = 0 then
    .ok (.twxRd (fbv w 20 4) (fbv w 15 5) (fbv w 2 2))
  else if fld w 0 2 = 2 ∧ fld w 4 6 = 0 ∧ fld w 15 5 = 0 then
    .ok (.twxWr (fbv w 20 4) (fbv w 10 5) (fbv w 2 2))
  else .error .reservedField

/-- C major 0x2C: `CAPGIVE`, `CAPTAKE`, `CAPQ`. -/
def decode2C (w : Nat) : Except DecodeError Instr :=
  if fld w 0 10 = 0 then
    .ok (.capgive (fbv w 20 4) (fbv w 15 5) (fbv w 10 5))
  else if fld w 0 10 = 1 then
    .ok (.captake (fbv w 20 4) (fbv w 15 5) (fbv w 10 5))
  else if fld w 0 10 = 2 then
    .ok (.capq (fbv w 20 4) (fbv w 15 5) (fbv w 10 5))
  else .error .reservedField

/-- C major 0x2D: `CYCBEG`, `CYCEND`, `CYCSTAT`. -/
def decode2D (w : Nat) : Except DecodeError Instr :=
  if fld w 0 2 = 0 ∧ fld w 3 17 = 0 then
    .ok (.cycbeg (fbv w 20 4) (fbit w 2))
  else if fld w 0 20 = 1 then
    .ok (.cycend (fbv w 20 4))
  else if fld w 0 15 = 2 then
    .ok (.cycstat (fbv w 20 4) (fbv w 15 5))
  else .error .reservedField

/-- C major 0x2E: `RESTST`. -/
def decode2E (w : Nat) : Except DecodeError Instr :=
  if fld w 1 9 = 0 then
    .ok (.restst (fbv w 20 4) (fbv w 15 5) (fbv w 10 5) (fbit w 0))
  else .error .reservedField

/-- C major 0x2F: `WGFENCE`. -/
def decode2F (w : Nat) : Except DecodeError Instr :=
  if fld w 0 20 = 0 then
    .ok (.wgfence (fbv w 20 4))
  else .error .reservedField

/-- C major 0x30: `GETSR`. -/
def decode30 (w : Nat) : Except DecodeError Instr :=
  if fld w 10 5 = 0 then
    .ok (.getsr (fbv w 20 4) (fbv w 15 5) (fbv w 0 10))
  else .error .reservedField

/-- C major 0x31: `SETSR`. -/
def decode31 (w : Nat) : Except DecodeError Instr :=
  if fld w 10 5 = 0 then
    .ok (.setsr (fbv w 20 4) (fbv w 15 5) (fbv w 0 10))
  else .error .reservedField

/-- C major 0x32: `HTLD`, `HTWR`. -/
def decode32 (w : Nat) : Except DecodeError Instr :=
  if fld w 0 10 = 0 then
    .ok (.htld (fbv w 20 4) (fbv w 15 5) (fbv w 10 5))
  else if fld w 0 10 = 1 then
    .ok (.htwr (fbv w 20 4) (fbv w 15 5) (fbv w 10 5))
  else .error .reservedField

/-- C major 0x33: `TSFLUSH`. -/
def decode33 (w : Nat) : Except DecodeError Instr :=
  if fld w 0 20 = 0 then
    .ok (.tsflush (fbv w 20 4))
  else .error .reservedField

/-- A major 0x00: `ADD` (R264, R333). -/
def decode40 (w : Nat) : Except DecodeError Instr :=
  if fld w 0 9 = 0 then
    .ok (.add (fbv w 19 5) (fbv w 14 5) (fbv w 9 5))
  else .error .reservedField

/-- A major 0x01: `ADD_IMM` (R264, R333). -/
def decode41 (w : Nat) : Except DecodeError Instr :=
  .ok (.addImm (fbv w 19 5) (fbv w 14 5) (fbv w 0 14))

/-- A major 0x02: `SUB` (R264, R333). -/
def decode42 (w : Nat) : Except DecodeError Instr :=
  if fld w 0 9 = 0 then
    .ok (.sub (fbv w 19 5) (fbv w 14 5) (fbv w 9 5))
  else .error .reservedField

/-- A major 0x03: `MUL`, `MULH`, `MULH_U` (R264, R333). -/
def decode43 (w : Nat) : Except DecodeError Instr :=
  if fld w 0 9 = 0 then
    .ok (.mul (fbv w 19 5) (fbv w 14 5) (fbv w 9 5))
  else if fld w 0 9 = 1 then
    .ok (.mulh (fbv w 19 5) (fbv w 14 5) (fbv w 9 5))
  else if fld w 0 9 = 2 then
    .ok (.mulhU (fbv w 19 5) (fbv w 14 5) (fbv w 9 5))
  else .error .reservedField

/-- A major 0x04: `DIV`, `REM` (R264, R333). -/
def decode44 (w : Nat) : Except DecodeError Instr :=
  if fld w 1 8 = 0 then
    .ok (.div (fbv w 19 5) (fbv w 14 5) (fbv w 9 5) (fbit w 0))
  else if fld w 1 8 = 1 then
    .ok (.rem (fbv w 19 5) (fbv w 14 5) (fbv w 9 5) (fbit w 0))
  else .error .reservedField

/-- A major 0x05: `AND`, `OR`, `XOR`, `ANDN` (R264, R333). -/
def decode45 (w : Nat) : Except DecodeError Instr :=
  if fld w 0 9 = 0 then
    .ok (.andR (fbv w 19 5) (fbv w 14 5) (fbv w 9 5))
  else if fld w 0 9 = 1 then
    .ok (.orR (fbv w 19 5) (fbv w 14 5) (fbv w 9 5))
  else if fld w 0 9 = 2 then
    .ok (.xorR (fbv w 19 5) (fbv w 14 5) (fbv w 9 5))
  else if fld w 0 9 = 3 then
    .ok (.andn (fbv w 19 5) (fbv w 14 5) (fbv w 9 5))
  else .error .reservedField

/-- A major 0x06: `AND_IMM` (R264, R333). -/
def decode46 (w : Nat) : Except DecodeError Instr :=
  .ok (.andImm (fbv w 19 5) (fbv w 14 5) (fbv w 0 14))

/-- A major 0x07: `OR_IMM` (R264, R333). -/
def decode47 (w : Nat) : Except DecodeError Instr :=
  .ok (.orImm (fbv w 19 5) (fbv w 14 5) (fbv w 0 14))

/-- A major 0x08: `XOR_IMM` (R264, R333). -/
def decode48 (w : Nat) : Except DecodeError Instr :=
  .ok (.xorImm (fbv w 19 5) (fbv w 14 5) (fbv w 0 14))

/-- A major 0x09: `SHL`, `SHR`, `SRA`, `ROT` (R264, R333). -/
def decode49 (w : Nat) : Except DecodeError Instr :=
  if fld w 0 9 = 0 then
    .ok (.shl (fbv w 19 5) (fbv w 14 5) (fbv w 9 5))
  else if fld w 0 9 = 1 then
    .ok (.shr (fbv w 19 5) (fbv w 14 5) (fbv w 9 5))
  else if fld w 0 9 = 2 then
    .ok (.sra (fbv w 19 5) (fbv w 14 5) (fbv w 9 5))
  else if fld w 0 9 = 3 then
    .ok (.rot (fbv w 19 5) (fbv w 14 5) (fbv w 9 5))
  else .error .reservedField

/-- A major 0x0A: `MIN`, `MAX` (R264, R333). -/
def decode4A (w : Nat) : Except DecodeError Instr :=
  if fld w 1 8 = 0 then
    .ok (.minS (fbv w 19 5) (fbv w 14 5) (fbv w 9 5) (fbit w 0))
  else if fld w 1 8 = 1 then
    .ok (.maxS (fbv w 19 5) (fbv w 14 5) (fbv w 9 5) (fbit w 0))
  else .error .reservedField

/-- A major 0x0B: `CMP` (R264, R333). -/
def decode4B (w : Nat) : Except DecodeError Instr :=
  if fld w 3 6 = 0 then
    .ok (.cmp (fbv w 19 5) (fbv w 14 5) (fbv w 9 5) (.ofCode (fld w 0 3)))
  else .error .reservedField

/-- A major 0x0C: `SEL` (R264, R333). -/
def decode4C (w : Nat) : Except DecodeError Instr :=
  if fld w 0 4 = 0 then
    .ok (.sel (fbv w 19 5) (fbv w 14 5) (fbv w 9 5) (fbv w 4 5))
  else .error .reservedField

/-- A major 0x0D: `CLZ`, `POPC` (R264, R333). -/
def decode4D (w : Nat) : Except DecodeError Instr :=
  if fld w 0 14 = 0 then
    .ok (.clz (fbv w 19 5) (fbv w 14 5))
  else if fld w 0 14 = 1 then
    .ok (.popc (fbv w 19 5) (fbv w 14 5))
  else .error .reservedField

/-- A major 0x0E: `BFX` (R264, R333). -/
def decode4E (w : Nat) : Except DecodeError Instr :=
  if fld w 12 2 = 0 then
    .ok (.bfx (fbv w 19 5) (fbv w 14 5) (fbv w 6 6) (fbv w 0 6))
  else .error .reservedField

/-- A major 0x0F: `BFI` (R264, R333). -/
def decode4F (w : Nat) : Except DecodeError Instr :=
  if fld w 12 2 = 0 then
    .ok (.bfi (fbv w 19 5) (fbv w 14 5) (fbv w 6 6) (fbv w 0 6))
  else .error .reservedField

/-- A major 0x10: `LI` (R264, R333). -/
def decode50 (w : Nat) : Except DecodeError Instr :=
  .ok (.li (fbv w 19 5) (fbv w 0 19))

/-- A major 0x11: `LI_HI` (R264, R333). -/
def decode51 (w : Nat) : Except DecodeError Instr :=
  .ok (.liHi (fbv w 19 5) (fbv w 0 19))

/-- A major 0x12: `MOV` (R264, R333). -/
def decode52 (w : Nat) : Except DecodeError Instr :=
  if fld w 0 14 = 0 then
    .ok (.mov (fbv w 19 5) (fbv w 14 5))
  else .error .reservedField

/-- A major 0x13: `LEA` (R264, R333). -/
def decode53 (w : Nat) : Except DecodeError Instr :=
  .ok (.lea (fbv w 19 5) (fbv w 14 5) (fbv w 0 14))

/-- A major 0x14: `FADD`. -/
def decode54 (w : Nat) : Except DecodeError Instr :=
  if fld w 4 5 = 0 then
    (match RMode.ofCode (fld w 1 3) with
    | some r => .ok (.fadd (fbv w 19 5) (fbv w 14 5) (fbv w 9 5) r (.ofCode (fld w 0 1)))
    | none => .error .reservedRounding)
  else .error .reservedField

/-- A major 0x15: `FSUB`. -/
def decode55 (w : Nat) : Except DecodeError Instr :=
  if fld w 4 5 = 0 then
    (match RMode.ofCode (fld w 1 3) with
    | some r => .ok (.fsub (fbv w 19 5) (fbv w 14 5) (fbv w 9 5) r (.ofCode (fld w 0 1)))
    | none => .error .reservedRounding)
  else .error .reservedField

/-- A major 0x16: `FMUL`. -/
def decode56 (w : Nat) : Except DecodeError Instr :=
  if fld w 4 5 = 0 then
    (match RMode.ofCode (fld w 1 3) with
    | some r => .ok (.fmul (fbv w 19 5) (fbv w 14 5) (fbv w 9 5) r (.ofCode (fld w 0 1)))
    | none => .error .reservedRounding)
  else .error .reservedField

/-- A major 0x17: `FMA`. -/
def decode57 (w : Nat) : Except DecodeError Instr :=
  match RMode.ofCode (fld w 1 3) with
    | some r => .ok (.fma (fbv w 19 5) (fbv w 14 5) (fbv w 9 5) (fbv w 4 5) r (.ofCode (fld w 0 1)))
    | none => .error .reservedRounding

/-- A major 0x18: `FDIV`. -/
def decode58 (w : Nat) : Except DecodeError Instr :=
  if fld w 8 1 = 0 then
    (match RMode.ofCode (fld w 1 3) with
    | some r => .ok (.fdiv (fbv w 19 5) (fbv w 14 5) (fbv w 9 5) (fbv w 4 4) r (.ofCode (fld w 0 1)))
    | none => .error .reservedRounding)
  else .error .reservedField

/-- A major 0x19: `FSQRT`. -/
def decode59 (w : Nat) : Except DecodeError Instr :=
  if fld w 8 6 = 0 then
    (match RMode.ofCode (fld w 1 3) with
    | some r => .ok (.fsqrt (fbv w 19 5) (fbv w 14 5) (fbv w 4 4) r (.ofCode (fld w 0 1)))
    | none => .error .reservedRounding)
  else .error .reservedField

/-- A major 0x1A: `FMIN`, `FMAX`. -/
def decode5A (w : Nat) : Except DecodeError Instr :=
  if fld w 1 8 = 0 then
    .ok (.fmin (fbv w 19 5) (fbv w 14 5) (fbv w 9 5) (.ofCode (fld w 0 1)))
  else if fld w 1 8 = 8 then
    .ok (.fmax (fbv w 19 5) (fbv w 14 5) (fbv w 9 5) (.ofCode (fld w 0 1)))
  else .error .reservedField

/-- A major 0x1B: `FCMP`. -/
def decode5B (w : Nat) : Except DecodeError Instr :=
  if fld w 1 3 = 0 ∧ fld w 6 3 = 0 then
    .ok (.fcmp (fbv w 19 5) (fbv w 14 5) (fbv w 9 5) (.ofCode (fld w 4 2)) (.ofCode (fld w 0 1)))
  else .error .reservedField

/-- A major 0x1C: `FCVT`. -/
def decode5C (w : Nat) : Except DecodeError Instr :=
  if fld w 7 7 = 0 then
    (match RMode.ofCode (fld w 1 3) with
    | some r => .ok (.fcvt (fbv w 19 5) (fbv w 14 5) (.ofCode (fld w 4 3)) r (.ofCode (fld w 0 1)))
    | none => .error .reservedRounding)
  else .error .reservedField

/-- A major 0x1D: `FCLASS`. -/
def decode5D (w : Nat) : Except DecodeError Instr :=
  if fld w 1 13 = 0 then
    .ok (.fclass (fbv w 19 5) (fbv w 14 5) (.ofCode (fld w 0 1)))
  else .error .reservedField

/-- A major 0x1E: `RESACC`. -/
def decode5E (w : Nat) : Except DecodeError Instr :=
  if fld w 0 3 = 0 then
    .ok (.resacc (fbv w 20 4) (fbv w 16 4) (fbv w 12 4) (fbv w 9 3) (fbv w 6 3) (.ofCode (fld w 3 3)))
  else .error .reservedField

/-- A major 0x20: `VADD`. -/
def decode60 (w : Nat) : Except DecodeError Instr :=
  if fld w 0 3 = 0 then
    .ok (.vadd (fbv w 20 4) (fbv w 16 4) (fbv w 12 4) (fbv w 9 3) (fbv w 6 3) (.ofCode (fld w 3 3)))
  else .error .reservedField

/-- A major 0x21: `VSUB`. -/
def decode61 (w : Nat) : Except DecodeError Instr :=
  if fld w 0 3 = 0 then
    .ok (.vsub (fbv w 20 4) (fbv w 16 4) (fbv w 12 4) (fbv w 9 3) (fbv w 6 3) (.ofCode (fld w 3 3)))
  else .error .reservedField

/-- A major 0x22: `VMUL`. -/
def decode62 (w : Nat) : Except DecodeError Instr :=
  if fld w 0 3 = 0 then
    .ok (.vmul (fbv w 20 4) (fbv w 16 4) (fbv w 12 4) (fbv w 9 3) (fbv w 6 3) (.ofCode (fld w 3 3)))
  else .error .reservedField

/-- A major 0x23: `VFMA`. -/
def decode63 (w : Nat) : Except DecodeError Instr :=
  if fld w 0 3 = 0 then
    .ok (.vfma (fbv w 20 4) (fbv w 16 4) (fbv w 12 4) (fbv w 9 3) (fbv w 6 3) (.ofCode (fld w 3 3)))
  else .error .reservedField

/-- A major 0x24: `VMIN`, `VMAX`. -/
def decode64 (w : Nat) : Except DecodeError Instr :=
  if fld w 0 3 = 0 then
    .ok (.vmin (fbv w 20 4) (fbv w 16 4) (fbv w 12 4) (fbv w 9 3) (fbv w 6 3) (.ofCode (fld w 3 3)))
  else if fld w 0 3 = 1 then
    .ok (.vmax (fbv w 20 4) (fbv w 16 4) (fbv w 12 4) (fbv w 9 3) (fbv w 6 3) (.ofCode (fld w 3 3)))
  else .error .reservedField

/-- A major 0x25: `VAND`, `VOR`, `VXOR`. -/
def decode65 (w : Nat) : Except DecodeError Instr :=
  if fld w 0 3 = 0 then
    .ok (.vand (fbv w 20 4) (fbv w 16 4) (fbv w 12 4) (fbv w 9 3) (fbv w 6 3) (.ofCode (fld w 3 3)))
  else if fld w 0 3 = 1 then
    .ok (.vor (fbv w 20 4) (fbv w 16 4) (fbv w 12 4) (fbv w 9 3) (fbv w 6 3) (.ofCode (fld w 3 3)))
  else if fld w 0 3 = 2 then
    .ok (.vxor (fbv w 20 4) (fbv w 16 4) (fbv w 12 4) (fbv w 9 3) (fbv w 6 3) (.ofCode (fld w 3 3)))
  else .error .reservedField

/-- A major 0x26: `VSHL`. -/
def decode66 (w : Nat) : Except DecodeError Instr :=
  match ShiftKind.ofCode (fld w 0 3) with
    | some k => .ok (.vshl (fbv w 20 4) (fbv w 16 4) (fbv w 12 4) (fbv w 9 3) (fbv w 6 3) (.ofCode (fld w 3 3)) k)
    | none => .error .reservedField

/-- A major 0x27: `VCMP`. -/
def decode67 (w : Nat) : Except DecodeError Instr :=
  .ok (.vcmp (fbv w 20 4) (fbv w 16 4) (fbv w 12 4) (fbv w 9 3) (fbv w 6 3) (.ofCode (fld w 3 3)) (.ofCode (fld w 0 3)))

/-- A major 0x28: `VSEL`. -/
def decode68 (w : Nat) : Except DecodeError Instr :=
  if fld w 0 3 = 0 then
    .ok (.vsel (fbv w 20 4) (fbv w 16 4) (fbv w 12 4) (fbv w 9 3) (fbv w 6 3) (.ofCode (fld w 3 3)))
  else .error .reservedField

/-- A major 0x29: `VCVT`. -/
def decode69 (w : Nat) : Except DecodeError Instr :=
  .ok (.vcvt (fbv w 20 4) (fbv w 16 4) (fbv w 12 4) (fbv w 9 3) (fbv w 6 3) (.ofCode (fld w 3 3)) (.ofCode (fld w 0 3)))

/-- A major 0x2A: `VDEC`. -/
def decode6A (w : Nat) : Except DecodeError Instr :=
  if fld w 0 3 = 0 then
    .ok (.vdec (fbv w 20 4) (fbv w 16 4) (fbv w 12 4) (fbv w 9 3) (fbv w 6 3) (.ofCode (fld w 3 3)))
  else .error .reservedField

/-- A major 0x2B: `VENC`. -/
def decode6B (w : Nat) : Except DecodeError Instr :=
  if fld w 0 3 = 0 then
    .ok (.venc (fbv w 20 4) (fbv w 16 4) (fbv w 12 4) (fbv w 9 3) (fbv w 6 3) (.ofCode (fld w 3 3)))
  else .error .reservedField

/-- A major 0x2C: `VBCAST`. -/
def decode6C (w : Nat) : Except DecodeError Instr :=
  if fld w 0 3 = 0 ∧ fld w 12 3 = 0 then
    .ok (.vbcast (fbv w 20 4) (fbv w 15 5) (fbv w 9 3) (fbv w 6 3) (.ofCode (fld w 3 3)))
  else .error .reservedField

/-- A major 0x2D: `VPERM`. -/
def decode6D (w : Nat) : Except DecodeError Instr :=
  if fld w 0 3 = 0 then
    .ok (.vperm (fbv w 20 4) (fbv w 16 4) (fbv w 12 4) (fbv w 9 3) (fbv w 6 3) (.ofCode (fld w 3 3)))
  else .error .reservedField

/-- A major 0x2E: `VSFU`. -/
def decode6E (w : Nat) : Except DecodeError Instr :=
  .ok (.vsfu (fbv w 20 4) (fbv w 16 4) (fbv w 12 4) (fbv w 9 3) (fbv w 6 3) (.ofCode (fld w 3 3)) (.ofCode (fld w 0 3)))

/-- A major 0x2F: `VRED`. -/
def decode6F (w : Nat) : Except DecodeError Instr :=
  match RedOp.ofCode (fld w 0 3) with
    | some op => .ok (.vred (fbv w 20 4) (fbv w 16 4) (fbv w 12 4) (fbv w 9 3) (fbv w 6 3) (.ofCode (fld w 3 3)) op)
    | none => .error .reservedField

/-- A major 0x30: `VSCAN`. -/
def decode70 (w : Nat) : Except DecodeError Instr :=
  if fld w 1 2 = 0 then
    .ok (.vscan (fbv w 20 4) (fbv w 16 4) (fbv w 12 4) (fbv w 9 3) (fbv w 6 3) (.ofCode (fld w 3 3)) (fbit w 0))
  else .error .reservedField

/-- A major 0x31: `VHAD`. -/
def decode71 (w : Nat) : Except DecodeError Instr :=
  match HadN.ofCode (fld w 0 3) with
    | some pts => .ok (.vhad (fbv w 20 4) (fbv w 16 4) (fbv w 12 4) (fbv w 9 3) (fbv w 6 3) (.ofCode (fld w 3 3)) pts)
    | none => .error .reservedField

/-- A major 0x32: `VSIGN`. -/
def decode72 (w : Nat) : Except DecodeError Instr :=
  if fld w 0 3 = 0 ∧ fld w 12 4 = 0 then
    .ok (.vsign (fbv w 20 4) (fbv w 16 4) (fbv w 9 3) (fbv w 6 3) (.ofCode (fld w 3 3)))
  else .error .reservedField

/-- A major 0x33: `VCHAIN`. -/
def decode73 (w : Nat) : Except DecodeError Instr :=
  if fld w 0 9 = 0 then
    .ok (.vchain (fbv w 20 4) (fbv w 16 4) (fbv w 12 4) (fbv w 9 3))
  else .error .reservedField

/-- A major 0x34: `VMPLD`. -/
def decode74 (w : Nat) : Except DecodeError Instr :=
  if fld w 0 6 = 0 ∧ fld w 12 4 = 0 then
    .ok (.vmpld (fbv w 20 4) (fbv w 16 4) (fbv w 9 3) (fbv w 6 3))
  else .error .reservedField

/-- A major 0x35: `VREP`. -/
def decode75 (w : Nat) : Except DecodeError Instr :=
  if fld w 0 3 = 0 then
    .ok (.vrep (fbv w 20 4) (fbv w 16 4) (fbv w 12 4) (fbv w 9 3) (fbv w 6 3) (.ofCode (fld w 3 3)))
  else .error .reservedField

/-- A major 0x36: `TZERO`, `TMOV`, `TTRANS`. -/
def decode76 (w : Nat) : Except DecodeError Instr :=
  if fld w 0 3 = 0 ∧ fld w 12 8 = 0 then
    .ok (.tzero (fbv w 20 4) (fbv w 9 3) (fbv w 6 3) (.ofCode (fld w 3 3)))
  else if fld w 0 3 = 1 ∧ fld w 12 4 = 0 then
    .ok (.tmov (fbv w 20 4) (fbv w 16 4) (fbv w 9 3) (fbv w 6 3) (.ofCode (fld w 3 3)))
  else if fld w 0 3 = 2 ∧ fld w 12 4 = 0 then
    .ok (.ttrans (fbv w 20 4) (fbv w 16 4) (fbv w 9 3) (fbv w 6 3) (.ofCode (fld w 3 3)))
  else .error .reservedField

/-- A major 0x37: `VINS`, `VEXT`. -/
def decode77 (w : Nat) : Except DecodeError Instr :=
  if fld w 0 3 = 0 ∧ fld w 9 6 = 0 then
    .ok (.vins (fbv w 20 4) (fbv w 15 5) (fbv w 6 3) (.ofCode (fld w 3 3)))
  else if fld w 0 3 = 1 ∧ fld w 9 6 = 0 then
    .ok (.vext (fbv w 20 4) (fbv w 15 5) (fbv w 6 3) (.ofCode (fld w 3 3)))
  else .error .reservedField

/-- A major 0x38: `VDOT`. -/
def decode78 (w : Nat) : Except DecodeError Instr :=
  if fld w 0 3 = 0 then
    .ok (.vdot (fbv w 20 4) (fbv w 16 4) (fbv w 12 4) (fbv w 9 3) (fbv w 6 3) (.ofCode (fld w 3 3)))
  else .error .reservedField

/-- The decoder of one instruction word, bit 31 aside (R244). -/
def decodeWord (w : Nat) : Except DecodeError Instr :=
  match fld w 24 7 with
  | 0x00 => decode00 w
  | 0x01 => decode01 w
  | 0x02 => decode02 w
  | 0x03 => decode03 w
  | 0x04 => decode04 w
  | 0x05 => decode05 w
  | 0x06 => decode06 w
  | 0x07 => decode07 w
  | 0x08 => decode08 w
  | 0x09 => decode09 w
  | 0x0A => decode0A w
  | 0x0B => decode0B w
  | 0x0C => decode0C w
  | 0x0D => decode0D w
  | 0x0E => decode0E w
  | 0x0F => decode0F w
  | 0x10 => decode10 w
  | 0x11 => decode11 w
  | 0x12 => decode12 w
  | 0x13 => decode13 w
  | 0x14 => decode14 w
  | 0x15 => decode15 w
  | 0x16 => decode16 w
  | 0x17 => decode17 w
  | 0x18 => decode18 w
  | 0x19 => decode19 w
  | 0x1A => decode1A w
  | 0x1B => decode1B w
  | 0x1C => decode1C w
  | 0x1D => decode1D w
  | 0x1E => decode1E w
  | 0x1F => decode1F w
  | 0x20 => decode20 w
  | 0x21 => decode21 w
  | 0x22 => decode22 w
  | 0x23 => decode23 w
  | 0x24 => decode24 w
  | 0x25 => decode25 w
  | 0x26 => decode26 w
  | 0x27 => decode27 w
  | 0x28 => decode28 w
  | 0x29 => decode29 w
  | 0x2A => decode2A w
  | 0x2B => decode2B w
  | 0x2C => decode2C w
  | 0x2D => decode2D w
  | 0x2E => decode2E w
  | 0x2F => decode2F w
  | 0x30 => decode30 w
  | 0x31 => decode31 w
  | 0x32 => decode32 w
  | 0x33 => decode33 w
  | 0x40 => decode40 w
  | 0x41 => decode41 w
  | 0x42 => decode42 w
  | 0x43 => decode43 w
  | 0x44 => decode44 w
  | 0x45 => decode45 w
  | 0x46 => decode46 w
  | 0x47 => decode47 w
  | 0x48 => decode48 w
  | 0x49 => decode49 w
  | 0x4A => decode4A w
  | 0x4B => decode4B w
  | 0x4C => decode4C w
  | 0x4D => decode4D w
  | 0x4E => decode4E w
  | 0x4F => decode4F w
  | 0x50 => decode50 w
  | 0x51 => decode51 w
  | 0x52 => decode52 w
  | 0x53 => decode53 w
  | 0x54 => decode54 w
  | 0x55 => decode55 w
  | 0x56 => decode56 w
  | 0x57 => decode57 w
  | 0x58 => decode58 w
  | 0x59 => decode59 w
  | 0x5A => decode5A w
  | 0x5B => decode5B w
  | 0x5C => decode5C w
  | 0x5D => decode5D w
  | 0x5E => decode5E w
  | 0x60 => decode60 w
  | 0x61 => decode61 w
  | 0x62 => decode62 w
  | 0x63 => decode63 w
  | 0x64 => decode64 w
  | 0x65 => decode65 w
  | 0x66 => decode66 w
  | 0x67 => decode67 w
  | 0x68 => decode68 w
  | 0x69 => decode69 w
  | 0x6A => decode6A w
  | 0x6B => decode6B w
  | 0x6C => decode6C w
  | 0x6D => decode6D w
  | 0x6E => decode6E w
  | 0x6F => decode6F w
  | 0x70 => decode70 w
  | 0x71 => decode71 w
  | 0x72 => decode72 w
  | 0x73 => decode73 w
  | 0x74 => decode74 w
  | 0x75 => decode75 w
  | 0x76 => decode76 w
  | 0x77 => decode77 w
  | 0x78 => decode78 w
  | _ => .error .reservedMajor

/-! ## The encoder -/

/-- `v` placed at bit `lo`. -/
def put (lo v : Nat) : Nat := v * 2 ^ lo

/-- The word of an instruction with bit 31 clear; 0 for an event, which has no encoding. -/
def encode : Instr → Nat
  | .nop la => 0x00000000 + put 20 la.toNat
  | .branch o => 0x01000000 + put 0 o.toNat
  | .call o => 0x02000000 + put 0 o.toNat
  | .bcc c a b o => 0x03000000 + put 21 c.code + put 16 a.toNat + put 11 b.toNat + put 0 o.toNat
  | .jr la a => 0x04000000 + put 20 la.toNat + put 15 a.toNat
  | .ret la => 0x04000001 + put 20 la.toNat
  | .loop la a n => 0x05000000 + put 20 la.toNat + put 15 a.toNat + put 0 n.toNat
  | .wait yld any n f t => 0x06000000 + put 19 (bitNat yld) + put 18 (bitNat any) + put 16 n.toNat + put 11 f.toNat + put 6 t.toNat
  | .bar la => 0x07000000 + put 20 la.toNat
  | .vote la => 0x08000000 + put 20 la.toNat
  | .spawn la a => 0x09000000 + put 20 la.toNat + put 15 a.toNat
  | .suspend la a b => 0x0A000000 + put 20 la.toNat + put 15 a.toNat + put 10 b.toNat
  | .retire la => 0x0B000000 + put 20 la.toNat
  | .trap la a c => 0x0C000000 + put 20 la.toNat + put 15 a.toNat + put 0 c.toNat
  | .tret la => 0x0D000000 + put 20 la.toNat
  | .hcall la a c => 0x0E000000 + put 20 la.toNat + put 15 a.toNat + put 0 c.toNat
  | .fence la => 0x0F000000 + put 20 la.toNat
  | .chunk la => 0x0F000001 + put 20 la.toNat
  | .ld la o d b sz x => 0x10000000 + put 20 la.toNat + put 18 o.code + put 13 d.toNat + put 8 b.toNat + put 6 sz.code + put 0 x.toNat
  | .st la o d b sz x => 0x11000000 + put 20 la.toNat + put 18 o.code + put 13 d.toNat + put 8 b.toNat + put 6 sz.code + put 0 x.toNat
  | .ldt la o t b n f e => 0x12000000 + put 20 la.toNat + put 18 o.code + put 13 t.toNat + put 8 b.toNat + put 6 n.toNat + put 3 f.toNat + put 0 e.toNat
  | .stt la o t b n f e => 0x13000000 + put 20 la.toNat + put 18 o.code + put 13 t.toNat + put 8 b.toNat + put 6 n.toNat + put 3 f.toNat + put 0 e.toNat
  | .ldfe la o d b x => 0x140000C0 + put 20 la.toNat + put 18 o.code + put 13 d.toNat + put 8 b.toNat + put 0 x.toNat
  | .stfe la o d b x => 0x150000C0 + put 20 la.toNat + put 18 o.code + put 13 d.toNat + put 8 b.toNat + put 0 x.toNat
  | .feset la a full => 0x16000000 + put 20 la.toNat + put 15 a.toNat + put 2 (bitNat full)
  | .feq la d b => 0x16000001 + put 20 la.toNat + put 15 d.toNat + put 10 b.toNat
  | .aadd la o d a v wd => 0x17000000 + put 20 la.toNat + put 17 o.toNat + put 12 d.toNat + put 7 a.toNat + put 2 v.toNat + put 0 wd.code
  | .amin la o d a v v2 => 0x18000000 + put 20 la.toNat + put 17 o.toNat + put 12 d.toNat + put 7 a.toNat + put 2 v.toNat + put 0 v2.code
  | .amax la o d a v v2 => 0x19000000 + put 20 la.toNat + put 17 o.toNat + put 12 d.toNat + put 7 a.toNat + put 2 v.toNat + put 0 v2.code
  | .abit la o d a v op => 0x1A000000 + put 20 la.toNat + put 17 o.toNat + put 12 d.toNat + put 7 a.toNat + put 2 v.toNat + put 0 op.code
  | .aswap la o d a v wd => 0x1B000000 + put 20 la.toNat + put 17 o.toNat + put 12 d.toNat + put 7 a.toNat + put 2 v.toNat + put 0 wd.code
  | .acas la o d a v wd => 0x1C000000 + put 20 la.toNat + put 17 o.toNat + put 12 d.toNat + put 7 a.toNat + put 2 v.toNat + put 0 wd.code
  | .afadd la o d a v fm => 0x1D000000 + put 20 la.toNat + put 17 o.toNat + put 12 d.toNat + put 7 a.toNat + put 2 v.toNat + put 0 fm.code
  | .aagg la o d a v wd => 0x1E000000 + put 20 la.toNat + put 17 o.toNat + put 12 d.toNat + put 7 a.toNat + put 2 v.toNat + put 0 wd.code
  | .pref la a => 0x1F000000 + put 20 la.toNat + put 15 a.toNat
  | .wback la a => 0x1F000001 + put 20 la.toNat + put 15 a.toNat
  | .inval la a => 0x1F000002 + put 20 la.toNat + put 15 a.toNat
  | .sbind la a r n tile out => 0x20000000 + put 20 la.toNat + put 15 a.toNat + put 10 r.toNat + put 8 n.toNat + put 7 (bitNat tile) + put 6 (bitNat out)
  | .sfree la n => 0x20000001 + put 20 la.toNat + put 8 n.toNat
  | .ssync la d n => 0x20000002 + put 20 la.toNat + put 15 d.toNat + put 8 n.toNat
  | .mxpub la d b => 0x21000000 + put 20 la.toNat + put 15 d.toNat + put 10 b.toNat
  | .cppub la d b => 0x22000000 + put 20 la.toNat + put 15 d.toNat + put 10 b.toNat
  | .jobq la d b => 0x23000000 + put 20 la.toNat + put 15 d.toNat + put 10 b.toNat
  | .licacq la d note => 0x24000000 + put 20 la.toNat + put 15 d.toNat + put 2 (bitNat note)
  | .licrel la => 0x24000001 + put 20 la.toNat
  | .penq la d b p => 0x25000000 + put 20 la.toNat + put 15 d.toNat + put 10 b.toNat + put 6 p.toNat
  | .pdeq la d p => 0x25000001 + put 20 la.toNat + put 15 d.toNat + put 6 p.toNat
  | .pdone la b p drop => 0x25000002 + put 20 la.toNat + put 10 b.toNat + put 6 p.toNat + put 2 (bitNat drop)
  | .pstat la d p s => 0x25000003 + put 20 la.toNat + put 15 d.toNat + put 6 p.toNat + put 2 s.toNat
  | .gsend la b n => 0x26000000 + put 20 la.toNat + put 10 b.toNat + put 4 n.toNat
  | .grecv la d b n => 0x27000000 + put 20 la.toNat + put 15 d.toNat + put 10 b.toNat + put 4 n.toNat
  | .gstat la d n => 0x27000001 + put 20 la.toNat + put 15 d.toNat + put 4 n.toNat
  | .gcfg la b n => 0x28000000 + put 20 la.toNat + put 10 b.toNat + put 4 n.toNat
  | .osend la b c => 0x29000000 + put 20 la.toNat + put 10 b.toNat + put 2 c.toNat
  | .orecv la d key c => 0x29000001 + put 20 la.toNat + put 15 d.toNat + put 6 (bitNat key) + put 2 c.toNat
  | .msend la a b => 0x2A000000 + put 20 la.toNat + put 15 a.toNat + put 10 b.toNat
  | .mrecv la d => 0x2A000001 + put 20 la.toNat + put 15 d.toNat
  | .twx la d b n => 0x2B000000 + put 20 la.toNat + put 15 d.toNat + put 10 b.toNat + put 2 n.toNat
  | .twxRd la d n => 0x2B000001 + put 20 la.toNat + put 15 d.toNat + put 2 n.toNat
  | .twxWr la b n => 0x2B000002 + put 20 la.toNat + put 10 b.toNat + put 2 n.toNat
  | .capgive la a b => 0x2C000000 + put 20 la.toNat + put 15 a.toNat + put 10 b.toNat
  | .captake la d b => 0x2C000001 + put 20 la.toNat + put 15 d.toNat + put 10 b.toNat
  | .capq la d b => 0x2C000002 + put 20 la.toNat + put 15 d.toNat + put 10 b.toNat
  | .cycbeg la bwd => 0x2D000000 + put 20 la.toNat + put 2 (bitNat bwd)
  | .cycend la => 0x2D000001 + put 20 la.toNat
  | .cycstat la d => 0x2D000002 + put 20 la.toNat + put 15 d.toNat
  | .restst la d b tol => 0x2E000000 + put 20 la.toNat + put 15 d.toNat + put 10 b.toNat + put 0 (bitNat tol)
  | .wgfence la => 0x2F000000 + put 20 la.toNat
  | .getsr la d i => 0x30000000 + put 20 la.toNat + put 15 d.toNat + put 0 i.toNat
  | .setsr la a i => 0x31000000 + put 20 la.toNat + put 15 a.toNat + put 0 i.toNat
  | .htld la a b => 0x32000000 + put 20 la.toNat + put 15 a.toNat + put 10 b.toNat
  | .htwr la a b => 0x32000001 + put 20 la.toNat + put 15 a.toNat + put 10 b.toNat
  | .tsflush la => 0x33000000 + put 20 la.toNat
  | .add d a b => 0x40000000 + put 19 d.toNat + put 14 a.toNat + put 9 b.toNat
  | .addImm d a i => 0x41000000 + put 19 d.toNat + put 14 a.toNat + put 0 i.toNat
  | .sub d a b => 0x42000000 + put 19 d.toNat + put 14 a.toNat + put 9 b.toNat
  | .mul d a b => 0x43000000 + put 19 d.toNat + put 14 a.toNat + put 9 b.toNat
  | .mulh d a b => 0x43000001 + put 19 d.toNat + put 14 a.toNat + put 9 b.toNat
  | .mulhU d a b => 0x43000002 + put 19 d.toNat + put 14 a.toNat + put 9 b.toNat
  | .div d a b u => 0x44000000 + put 19 d.toNat + put 14 a.toNat + put 9 b.toNat + put 0 (bitNat u)
  | .rem d a b u => 0x44000002 + put 19 d.toNat + put 14 a.toNat + put 9 b.toNat + put 0 (bitNat u)
  | .andR d a b => 0x45000000 + put 19 d.toNat + put 14 a.toNat + put 9 b.toNat
  | .orR d a b => 0x45000001 + put 19 d.toNat + put 14 a.toNat + put 9 b.toNat
  | .xorR d a b => 0x45000002 + put 19 d.toNat + put 14 a.toNat + put 9 b.toNat
  | .andn d a b => 0x45000003 + put 19 d.toNat + put 14 a.toNat + put 9 b.toNat
  | .andImm d a i => 0x46000000 + put 19 d.toNat + put 14 a.toNat + put 0 i.toNat
  | .orImm d a i => 0x47000000 + put 19 d.toNat + put 14 a.toNat + put 0 i.toNat
  | .xorImm d a i => 0x48000000 + put 19 d.toNat + put 14 a.toNat + put 0 i.toNat
  | .shl d a b => 0x49000000 + put 19 d.toNat + put 14 a.toNat + put 9 b.toNat
  | .shr d a b => 0x49000001 + put 19 d.toNat + put 14 a.toNat + put 9 b.toNat
  | .sra d a b => 0x49000002 + put 19 d.toNat + put 14 a.toNat + put 9 b.toNat
  | .rot d a b => 0x49000003 + put 19 d.toNat + put 14 a.toNat + put 9 b.toNat
  | .minS d a b u => 0x4A000000 + put 19 d.toNat + put 14 a.toNat + put 9 b.toNat + put 0 (bitNat u)
  | .maxS d a b u => 0x4A000002 + put 19 d.toNat + put 14 a.toNat + put 9 b.toNat + put 0 (bitNat u)
  | .cmp d a b c => 0x4B000000 + put 19 d.toNat + put 14 a.toNat + put 9 b.toNat + put 0 c.code
  | .sel d a b c => 0x4C000000 + put 19 d.toNat + put 14 a.toNat + put 9 b.toNat + put 4 c.toNat
  | .clz d a => 0x4D000000 + put 19 d.toNat + put 14 a.toNat
  | .popc d a => 0x4D000001 + put 19 d.toNat + put 14 a.toNat
  | .bfx d a p w => 0x4E000000 + put 19 d.toNat + put 14 a.toNat + put 6 p.toNat + put 0 w.toNat
  | .bfi d a p w => 0x4F000000 + put 19 d.toNat + put 14 a.toNat + put 6 p.toNat + put 0 w.toNat
  | .li d i => 0x50000000 + put 19 d.toNat + put 0 i.toNat
  | .liHi d i => 0x51000000 + put 19 d.toNat + put 0 i.toNat
  | .mov d a => 0x52000000 + put 19 d.toNat + put 14 a.toNat
  | .lea d a i => 0x53000000 + put 19 d.toNat + put 14 a.toNat + put 0 i.toNat
  | .fadd d a b r p => 0x54000000 + put 19 d.toNat + put 14 a.toNat + put 9 b.toNat + put 1 r.code + put 0 p.code
  | .fsub d a b r p => 0x55000000 + put 19 d.toNat + put 14 a.toNat + put 9 b.toNat + put 1 r.code + put 0 p.code
  | .fmul d a b r p => 0x56000000 + put 19 d.toNat + put 14 a.toNat + put 9 b.toNat + put 1 r.code + put 0 p.code
  | .fma d a b c r p => 0x57000000 + put 19 d.toNat + put 14 a.toNat + put 9 b.toNat + put 4 c.toNat + put 1 r.code + put 0 p.code
  | .fdiv d a b la r p => 0x58000000 + put 19 d.toNat + put 14 a.toNat + put 9 b.toNat + put 4 la.toNat + put 1 r.code + put 0 p.code
  | .fsqrt d a la r p => 0x59000000 + put 19 d.toNat + put 14 a.toNat + put 4 la.toNat + put 1 r.code + put 0 p.code
  | .fmin d a b p => 0x5A000000 + put 19 d.toNat + put 14 a.toNat + put 9 b.toNat + put 0 p.code
  | .fmax d a b p => 0x5A000010 + put 19 d.toNat + put 14 a.toNat + put 9 b.toNat + put 0 p.code
  | .fcmp d a b rel p => 0x5B000000 + put 19 d.toNat + put 14 a.toNat + put 9 b.toNat + put 4 rel.code + put 0 p.code
  | .fcvt d a sel r p => 0x5C000000 + put 19 d.toNat + put 14 a.toNat + put 4 sel.code + put 1 r.code + put 0 p.code
  | .fclass d a p => 0x5D000000 + put 19 d.toNat + put 14 a.toNat + put 0 p.code
  | .resacc la ta tb n f lt => 0x5E000000 + put 20 la.toNat + put 16 ta.toNat + put 12 tb.toNat + put 9 n.toNat + put 6 f.toNat + put 3 lt.code
  | .vadd td ta tb n f lt => 0x60000000 + put 20 td.toNat + put 16 ta.toNat + put 12 tb.toNat + put 9 n.toNat + put 6 f.toNat + put 3 lt.code
  | .vsub td ta tb n f lt => 0x61000000 + put 20 td.toNat + put 16 ta.toNat + put 12 tb.toNat + put 9 n.toNat + put 6 f.toNat + put 3 lt.code
  | .vmul td ta tb n f lt => 0x62000000 + put 20 td.toNat + put 16 ta.toNat + put 12 tb.toNat + put 9 n.toNat + put 6 f.toNat + put 3 lt.code
  | .vfma td ta tb n f lt => 0x63000000 + put 20 td.toNat + put 16 ta.toNat + put 12 tb.toNat + put 9 n.toNat + put 6 f.toNat + put 3 lt.code
  | .vmin td ta tb n f lt => 0x64000000 + put 20 td.toNat + put 16 ta.toNat + put 12 tb.toNat + put 9 n.toNat + put 6 f.toNat + put 3 lt.code
  | .vmax td ta tb n f lt => 0x64000001 + put 20 td.toNat + put 16 ta.toNat + put 12 tb.toNat + put 9 n.toNat + put 6 f.toNat + put 3 lt.code
  | .vand td ta tb n f lt => 0x65000000 + put 20 td.toNat + put 16 ta.toNat + put 12 tb.toNat + put 9 n.toNat + put 6 f.toNat + put 3 lt.code
  | .vor td ta tb n f lt => 0x65000001 + put 20 td.toNat + put 16 ta.toNat + put 12 tb.toNat + put 9 n.toNat + put 6 f.toNat + put 3 lt.code
  | .vxor td ta tb n f lt => 0x65000002 + put 20 td.toNat + put 16 ta.toNat + put 12 tb.toNat + put 9 n.toNat + put 6 f.toNat + put 3 lt.code
  | .vshl td ta tb n f lt k => 0x66000000 + put 20 td.toNat + put 16 ta.toNat + put 12 tb.toNat + put 9 n.toNat + put 6 f.toNat + put 3 lt.code + put 0 k.code
  | .vcmp td ta tb n f lt c => 0x67000000 + put 20 td.toNat + put 16 ta.toNat + put 12 tb.toNat + put 9 n.toNat + put 6 f.toNat + put 3 lt.code + put 0 c.code
  | .vsel td ta tb n f lt => 0x68000000 + put 20 td.toNat + put 16 ta.toNat + put 12 tb.toNat + put 9 n.toNat + put 6 f.toNat + put 3 lt.code
  | .vcvt td ta k n f lt dst => 0x69000000 + put 20 td.toNat + put 16 ta.toNat + put 12 k.toNat + put 9 n.toNat + put 6 f.toNat + put 3 lt.code + put 0 dst.code
  | .vdec td ta k n f lt => 0x6A000000 + put 20 td.toNat + put 16 ta.toNat + put 12 k.toNat + put 9 n.toNat + put 6 f.toNat + put 3 lt.code
  | .venc td ta k n f lt => 0x6B000000 + put 20 td.toNat + put 16 ta.toNat + put 12 k.toNat + put 9 n.toNat + put 6 f.toNat + put 3 lt.code
  | .vbcast td s n f lt => 0x6C000000 + put 20 td.toNat + put 15 s.toNat + put 9 n.toNat + put 6 f.toNat + put 3 lt.code
  | .vperm td ta tb n f lt => 0x6D000000 + put 20 td.toNat + put 16 ta.toNat + put 12 tb.toNat + put 9 n.toNat + put 6 f.toNat + put 3 lt.code
  | .vsfu td ta la n f lt fn => 0x6E000000 + put 20 td.toNat + put 16 ta.toNat + put 12 la.toNat + put 9 n.toNat + put 6 f.toNat + put 3 lt.code + put 0 fn.code
  | .vred td ta la n f lt op => 0x6F000000 + put 20 td.toNat + put 16 ta.toNat + put 12 la.toNat + put 9 n.toNat + put 6 f.toNat + put 3 lt.code + put 0 op.code
  | .vscan td ta la n f lt excl => 0x70000000 + put 20 td.toNat + put 16 ta.toNat + put 12 la.toNat + put 9 n.toNat + put 6 f.toNat + put 3 lt.code + put 0 (bitNat excl)
  | .vhad td ta la n f lt pts => 0x71000000 + put 20 td.toNat + put 16 ta.toNat + put 12 la.toNat + put 9 n.toNat + put 6 f.toNat + put 3 lt.code + put 0 pts.code
  | .vsign td ta n f lt => 0x72000000 + put 20 td.toNat + put 16 ta.toNat + put 9 n.toNat + put 6 f.toNat + put 3 lt.code
  | .vchain first last la p => 0x73000000 + put 20 first.toNat + put 16 last.toNat + put 12 la.toNat + put 9 p.toNat
  | .vmpld first ta n f => 0x74000000 + put 20 first.toNat + put 16 ta.toNat + put 9 n.toNat + put 6 f.toNat
  | .vrep td ta k n f lt => 0x75000000 + put 20 td.toNat + put 16 ta.toNat + put 12 k.toNat + put 9 n.toNat + put 6 f.toNat + put 3 lt.code
  | .tzero td n f lt => 0x76000000 + put 20 td.toNat + put 9 n.toNat + put 6 f.toNat + put 3 lt.code
  | .tmov td ta n f lt => 0x76000001 + put 20 td.toNat + put 16 ta.toNat + put 9 n.toNat + put 6 f.toNat + put 3 lt.code
  | .ttrans td ta n f lt => 0x76000002 + put 20 td.toNat + put 16 ta.toNat + put 9 n.toNat + put 6 f.toNat + put 3 lt.code
  | .vins td s f lt => 0x77000000 + put 20 td.toNat + put 15 s.toNat + put 6 f.toNat + put 3 lt.code
  | .vext td s f lt => 0x77000001 + put 20 td.toNat + put 15 s.toNat + put 6 f.toNat + put 3 lt.code
  | .vdot td ta tb n f lt => 0x78000000 + put 20 td.toNat + put 16 ta.toNat + put 12 tb.toNat + put 9 n.toNat + put 6 f.toNat + put 3 lt.code
  | .afaddHoldTimeout _ => 0
  | .stageQueueRoom _ => 0
  | .speedwellRoute _ _ _ => 0
  | .deferredEffects _ _ => 0
  | .pipelineCoreMove _ _ => 0
  | .groupItemArrive _ => 0
  | .groupResultArrive _ _ => 0
  | .groupAck _ _ => 0
  | .groupTimeout _ _ _ => 0
  | .lateNoticeArrive _ _ => 0
  | .routeNoticeArrive _ _ _ _ => 0
  | .slackWindow => 0
  | .orderedInject => 0
  | .orderedPacketArrive _ _ => 0
  | .orderedBeacon _ => 0
  | .orderedDeliver _ => 0
  | .closeBeaconArrive _ _ => 0
  | .watermarkStall _ => 0
  | .messageArrive _ => 0
  | .lateResultLand _ => 0
  | .commitGrant _ => 0
  | .userInterruptEntry _ => 0
  | .waitEvaluate _ => 0
  | .waitTimeout _ => 0
  | .waitTableSummary => 0
  | .barComplete _ _ _ => 0
  | .voteCommit _ _ => 0
  | .coreWake _ _ => 0
  | .coreGate _ => 0
  | .tableRecheckDone _ => 0
  | .presetLoad _ => 0
  | .takeSlot _ => 0
  | .spanPlace _ _ => 0
  | .spanWait1ms _ => 0
  | .bagRecordEnter _ _ => 0
  | .recordReady _ _ => 0
  | .claimRecord _ => 0
  | .jobComplete _ _ => 0
  | .jobQueueReady _ _ => 0
  | .engineIssue _ => 0
  | .engineStep _ => 0
  | .engineComplete _ => 0
  | .copyIssue _ => 0
  | .copyRow _ => 0
  | .copyComplete _ => 0
  | .park _ => 0
  | .unpark _ => 0
  | .jobMove _ => 0
  | .felrilLinkDeath _ => 0
  | .peerAccessArrive _ => 0
  | .releasePerformed _ => 0
  | .peerLoadTimeout _ => 0
  | .directoryHandlerTurn _ => 0
  | .saveComplete _ _ => 0
  | .thermalReading _ _ => 0
  | .throttleStep _ => 0
  | .hbmRefresh _ _ => 0
  | .ballastWindow _ _ => 0
  | .softError _ => 0
  | .packageReset _ => 0
  | .partitionGoLive _ => 0
  | .jsregWrite _ _ _ => 0
  | .apertureRead _ _ => 0
  | .apertureWrite _ _ => 0
  | .apertureTaggedWrite _ _ => 0
  | .herrClear _ => 0
  | .hcellClear _ _ => 0
  | .dbgRead _ _ => 0
  | .mgmtRegisterWrite _ _ => 0
  | .preemptSpan => 0
  | .resumeSpan => 0
  | .translationShootdown => 0
  | .thaw => 0
  | .declarePortOut => 0
  | .reenableDelivery => 0
  | .contain => 0
  | .tearDown => 0
  | .attest => 0
  | .hcmdUnknownCode => 0
  | .peerStoreUnreachable _ => 0
  | .peerAccessReply _ _ _ => 0

/-! ## Operand limits -/

/-- Width of a lane in bits (R48). -/
def LaneTy.width : LaneTy → Nat
  | .i8 => 8
  | .i16 | .bf16 | .fp16 => 16
  | .i32 | .fp32 => 32
  | .i64 | .fp64 => 64

/-- Lanes of a row (R48). -/
def LaneTy.lanes (t : LaneTy) : Nat := 128 / t.width

/-- The floating lane types. -/
def LaneTy.isFloat : LaneTy → Bool
  | .bf16 | .fp16 | .fp32 | .fp64 => true
  | .i8 | .i16 | .i32 | .i64 => false

/-- The lane types `bf16`, `fp16` and `fp32`. -/
def LaneTy.isHalfOrSingle : LaneTy → Bool
  | .bf16 | .fp16 | .fp32 => true
  | .i8 | .i16 | .i32 | .i64 | .fp64 => false

/-- Points of a transform (R79). -/
def HadN.points : HadN → Nat
  | .p16 => 16
  | .p32 => 32
  | .p64 => 64

/-- First row plus row count does not pass the eighth row (R229); `n` holds the row count less one. -/
def rowsFit (f n : BitVec 3) : Bool := f.toNat + (n.toNat + 1) ≤ 8

/-- The limits on operand fields that the entries state and decoding does not test; a word that breaks one raises ILLEGAL
(R229, R231, R244). Events have no operand fields. -/
def operandLimits : Instr → Bool
  | .nop _ => true
  | .branch _ => true
  | .call _ => true
  | .bcc _ _ _ _ => true
  | .jr _ _ => true
  | .ret _ => true
  | .loop _ _ n => n != 0
  | .wait _ _ _ _ _ => true
  | .bar _ => true
  | .vote _ => true
  | .spawn _ _ => true
  | .suspend _ _ _ => true
  | .retire _ => true
  | .trap _ _ c => (1 ≤ c.toNat && c.toNat ≤ 9) || (11 ≤ c.toNat && c.toNat ≤ 18)
  | .tret _ => true
  | .hcall _ _ _ => true
  | .fence _ => true
  | .chunk _ => true
  | .ld _ o _ _ _ _ => o != .rel
  | .st _ o _ _ _ _ => o != .acq
  | .ldt _ o _ _ n f _ => o != .rel && f.toNat + 2 ^ n.toNat ≤ 8
  | .stt _ o _ _ n f _ => o != .acq && f.toNat + 2 ^ n.toNat ≤ 8
  | .ldfe _ o _ _ _ => o != .rel
  | .stfe _ o _ _ _ => o != .acq
  | .feset _ _ _ => true
  | .feq _ _ _ => true
  | .aadd _ _ _ _ _ _ => true
  | .amin _ _ _ _ _ _ => true
  | .amax _ _ _ _ _ _ => true
  | .abit _ _ _ _ _ _ => true
  | .aswap _ _ _ _ _ _ => true
  | .acas _ _ _ _ _ _ => true
  | .afadd _ _ _ _ _ _ => true
  | .aagg _ _ _ _ _ _ => true
  | .pref _ _ => true
  | .wback _ _ => true
  | .inval _ _ => true
  | .sbind _ _ r _ tile _ => if tile then r.toNat ≤ 15 else 8 ≤ r.toNat && r.toNat ≤ 27
  | .sfree _ _ => true
  | .ssync _ _ _ => true
  | .mxpub _ _ _ => true
  | .cppub _ _ _ => true
  | .jobq _ _ _ => true
  | .licacq _ _ _ => true
  | .licrel _ => true
  | .penq _ _ _ _ => true
  | .pdeq _ d _ => d != 31
  | .pdone _ _ _ _ => true
  | .pstat _ _ _ _ => true
  | .gsend _ _ _ => true
  | .grecv _ _ _ _ => true
  | .gstat _ _ _ => true
  | .gcfg _ _ _ => true
  | .osend _ _ _ => true
  | .orecv _ d key _ => !key || d.toNat ≤ 28
  | .msend _ _ _ => true
  | .mrecv _ d => d != 31
  | .twx _ _ _ _ => true
  | .twxRd _ _ _ => true
  | .twxWr _ _ _ => true
  | .capgive _ _ _ => true
  | .captake _ _ _ => true
  | .capq _ _ _ => true
  | .cycbeg _ _ => true
  | .cycend _ => true
  | .cycstat _ _ => true
  | .restst _ _ b tol => !tol || b == 0
  | .wgfence _ => true
  | .getsr _ _ _ => true
  | .setsr _ _ _ => true
  | .htld _ _ _ => true
  | .htwr _ _ _ => true
  | .tsflush _ => true
  | .add _ _ _ => true
  | .addImm _ _ _ => true
  | .sub _ _ _ => true
  | .mul _ _ _ => true
  | .mulh _ _ _ => true
  | .mulhU _ _ _ => true
  | .div _ _ _ _ => true
  | .rem _ _ _ _ => true
  | .andR _ _ _ => true
  | .orR _ _ _ => true
  | .xorR _ _ _ => true
  | .andn _ _ _ => true
  | .andImm _ _ _ => true
  | .orImm _ _ _ => true
  | .xorImm _ _ _ => true
  | .shl _ _ _ => true
  | .shr _ _ _ => true
  | .sra _ _ _ => true
  | .rot _ _ _ => true
  | .minS _ _ _ _ => true
  | .maxS _ _ _ _ => true
  | .cmp _ _ _ _ => true
  | .sel _ _ _ _ => true
  | .clz _ _ => true
  | .popc _ _ => true
  | .bfx _ _ p w => p.toNat + w.toNat + 1 ≤ 64
  | .bfi _ _ p w => p.toNat + w.toNat + 1 ≤ 64
  | .li _ _ => true
  | .liHi _ _ => true
  | .mov _ _ => true
  | .lea _ _ _ => true
  | .fadd _ _ _ _ _ => true
  | .fsub _ _ _ _ _ => true
  | .fmul _ _ _ _ _ => true
  | .fma _ _ _ _ _ _ => true
  | .fdiv _ _ _ _ _ _ => true
  | .fsqrt _ _ _ _ _ => true
  | .fmin _ _ _ _ => true
  | .fmax _ _ _ _ => true
  | .fcmp _ _ _ _ _ => true
  | .fcvt _ _ _ _ _ => true
  | .fclass _ _ _ => true
  | .resacc _ _ _ n f lt => rowsFit f n && lt.isHalfOrSingle
  | .vadd _ _ _ n f _ => rowsFit f n
  | .vsub _ _ _ n f _ => rowsFit f n
  | .vmul _ _ _ n f _ => rowsFit f n
  | .vfma _ _ _ n f _ => rowsFit f n
  | .vmin _ _ _ n f _ => rowsFit f n
  | .vmax _ _ _ n f _ => rowsFit f n
  | .vand _ _ _ n f _ => rowsFit f n
  | .vor _ _ _ n f _ => rowsFit f n
  | .vxor _ _ _ n f _ => rowsFit f n
  | .vshl _ _ _ n f lt _ => rowsFit f n && !lt.isFloat
  | .vcmp _ _ _ n f lt c => rowsFit f n && c != .bit && c != .nbit && !(lt.isFloat && (c == .ltu || c == .geu))
  | .vsel _ _ _ n f _ => rowsFit f n
  | .vcvt _ _ k n f lt dst => rowsFit f n && k.toNat < max lt.width dst.width / min lt.width dst.width
  | .vdec _ _ k n f lt => rowsFit f n && lt.isHalfOrSingle && k.toNat < 16 / lt.lanes
  | .venc _ _ k n f lt => rowsFit f n && lt.isHalfOrSingle && k.toNat < 16 / lt.lanes
  | .vbcast _ _ n f _ => rowsFit f n
  | .vperm _ _ _ n f lt => rowsFit f n && !lt.isFloat
  | .vsfu _ _ _ n f lt _ => rowsFit f n && lt.isHalfOrSingle
  | .vred _ _ _ n f _ _ => rowsFit f n
  | .vscan _ _ _ n f _ _ => rowsFit f n
  | .vhad _ _ _ n f lt pts => rowsFit f n && lt.isHalfOrSingle && (n.toNat + 1) * 128 == pts.points * lt.width
  | .vsign _ _ n f lt => rowsFit f n && lt.isFloat
  | .vchain first last _ _ => first ≤ last
  | .vmpld first _ n f => rowsFit f n && n.toNat + 1 ≤ 4 && first.toNat + 4 * (n.toNat + 1) ≤ 16
  | .vrep _ _ k n f lt => rowsFit f n && k.toNat < lt.lanes
  | .tzero _ n f _ => rowsFit f n
  | .tmov _ _ n f _ => rowsFit f n
  | .ttrans _ _ n f lt => rowsFit f n && lt != .i8 && n.toNat + 1 == lt.lanes
  | .vins _ s _ _ => s != 31
  | .vext _ s _ _ => s != 31
  | .vdot _ _ _ n f _ => rowsFit f n
  | .afaddHoldTimeout _ => true
  | .stageQueueRoom _ => true
  | .speedwellRoute _ _ _ => true
  | .deferredEffects _ _ => true
  | .pipelineCoreMove _ _ => true
  | .groupItemArrive _ => true
  | .groupResultArrive _ _ => true
  | .groupAck _ _ => true
  | .groupTimeout _ _ _ => true
  | .lateNoticeArrive _ _ => true
  | .routeNoticeArrive _ _ _ _ => true
  | .slackWindow => true
  | .orderedInject => true
  | .orderedPacketArrive _ _ => true
  | .orderedBeacon _ => true
  | .orderedDeliver _ => true
  | .closeBeaconArrive _ _ => true
  | .watermarkStall _ => true
  | .messageArrive _ => true
  | .lateResultLand _ => true
  | .commitGrant _ => true
  | .userInterruptEntry _ => true
  | .waitEvaluate _ => true
  | .waitTimeout _ => true
  | .waitTableSummary => true
  | .barComplete _ _ _ => true
  | .voteCommit _ _ => true
  | .coreWake _ _ => true
  | .coreGate _ => true
  | .tableRecheckDone _ => true
  | .presetLoad _ => true
  | .takeSlot _ => true
  | .spanPlace _ _ => true
  | .spanWait1ms _ => true
  | .bagRecordEnter _ _ => true
  | .recordReady _ _ => true
  | .claimRecord _ => true
  | .jobComplete _ _ => true
  | .jobQueueReady _ _ => true
  | .engineIssue _ => true
  | .engineStep _ => true
  | .engineComplete _ => true
  | .copyIssue _ => true
  | .copyRow _ => true
  | .copyComplete _ => true
  | .park _ => true
  | .unpark _ => true
  | .jobMove _ => true
  | .felrilLinkDeath _ => true
  | .peerAccessArrive _ => true
  | .releasePerformed _ => true
  | .peerLoadTimeout _ => true
  | .directoryHandlerTurn _ => true
  | .saveComplete _ _ => true
  | .thermalReading _ _ => true
  | .throttleStep _ => true
  | .hbmRefresh _ _ => true
  | .ballastWindow _ _ => true
  | .softError _ => true
  | .packageReset _ => true
  | .partitionGoLive _ => true
  | .jsregWrite _ _ _ => true
  | .apertureRead _ _ => true
  | .apertureWrite _ _ => true
  | .apertureTaggedWrite _ _ => true
  | .herrClear _ => true
  | .hcellClear _ _ => true
  | .dbgRead _ _ => true
  | .mgmtRegisterWrite _ _ => true
  | .preemptSpan => true
  | .resumeSpan => true
  | .translationShootdown => true
  | .thaw => true
  | .declarePortOut => true
  | .reenableDelivery => true
  | .contain => true
  | .tearDown => true
  | .attest => true
  | .hcmdUnknownCode => true
  | .peerStoreUnreachable _ => true
  | .peerAccessReply _ _ _ => true

/-- The rows without an encoding: events of the package. -/
def Instr.isEvent : Instr → Bool
  | .nop _ => false
  | .branch _ => false
  | .call _ => false
  | .bcc _ _ _ _ => false
  | .jr _ _ => false
  | .ret _ => false
  | .loop _ _ _ => false
  | .wait _ _ _ _ _ => false
  | .bar _ => false
  | .vote _ => false
  | .spawn _ _ => false
  | .suspend _ _ _ => false
  | .retire _ => false
  | .trap _ _ _ => false
  | .tret _ => false
  | .hcall _ _ _ => false
  | .fence _ => false
  | .chunk _ => false
  | .ld _ _ _ _ _ _ => false
  | .st _ _ _ _ _ _ => false
  | .ldt _ _ _ _ _ _ _ => false
  | .stt _ _ _ _ _ _ _ => false
  | .ldfe _ _ _ _ _ => false
  | .stfe _ _ _ _ _ => false
  | .feset _ _ _ => false
  | .feq _ _ _ => false
  | .aadd _ _ _ _ _ _ => false
  | .amin _ _ _ _ _ _ => false
  | .amax _ _ _ _ _ _ => false
  | .abit _ _ _ _ _ _ => false
  | .aswap _ _ _ _ _ _ => false
  | .acas _ _ _ _ _ _ => false
  | .afadd _ _ _ _ _ _ => false
  | .aagg _ _ _ _ _ _ => false
  | .pref _ _ => false
  | .wback _ _ => false
  | .inval _ _ => false
  | .sbind _ _ _ _ _ _ => false
  | .sfree _ _ => false
  | .ssync _ _ _ => false
  | .mxpub _ _ _ => false
  | .cppub _ _ _ => false
  | .jobq _ _ _ => false
  | .licacq _ _ _ => false
  | .licrel _ => false
  | .penq _ _ _ _ => false
  | .pdeq _ _ _ => false
  | .pdone _ _ _ _ => false
  | .pstat _ _ _ _ => false
  | .gsend _ _ _ => false
  | .grecv _ _ _ _ => false
  | .gstat _ _ _ => false
  | .gcfg _ _ _ => false
  | .osend _ _ _ => false
  | .orecv _ _ _ _ => false
  | .msend _ _ _ => false
  | .mrecv _ _ => false
  | .twx _ _ _ _ => false
  | .twxRd _ _ _ => false
  | .twxWr _ _ _ => false
  | .capgive _ _ _ => false
  | .captake _ _ _ => false
  | .capq _ _ _ => false
  | .cycbeg _ _ => false
  | .cycend _ => false
  | .cycstat _ _ => false
  | .restst _ _ _ _ => false
  | .wgfence _ => false
  | .getsr _ _ _ => false
  | .setsr _ _ _ => false
  | .htld _ _ _ => false
  | .htwr _ _ _ => false
  | .tsflush _ => false
  | .add _ _ _ => false
  | .addImm _ _ _ => false
  | .sub _ _ _ => false
  | .mul _ _ _ => false
  | .mulh _ _ _ => false
  | .mulhU _ _ _ => false
  | .div _ _ _ _ => false
  | .rem _ _ _ _ => false
  | .andR _ _ _ => false
  | .orR _ _ _ => false
  | .xorR _ _ _ => false
  | .andn _ _ _ => false
  | .andImm _ _ _ => false
  | .orImm _ _ _ => false
  | .xorImm _ _ _ => false
  | .shl _ _ _ => false
  | .shr _ _ _ => false
  | .sra _ _ _ => false
  | .rot _ _ _ => false
  | .minS _ _ _ _ => false
  | .maxS _ _ _ _ => false
  | .cmp _ _ _ _ => false
  | .sel _ _ _ _ => false
  | .clz _ _ => false
  | .popc _ _ => false
  | .bfx _ _ _ _ => false
  | .bfi _ _ _ _ => false
  | .li _ _ => false
  | .liHi _ _ => false
  | .mov _ _ => false
  | .lea _ _ _ => false
  | .fadd _ _ _ _ _ => false
  | .fsub _ _ _ _ _ => false
  | .fmul _ _ _ _ _ => false
  | .fma _ _ _ _ _ _ => false
  | .fdiv _ _ _ _ _ _ => false
  | .fsqrt _ _ _ _ _ => false
  | .fmin _ _ _ _ => false
  | .fmax _ _ _ _ => false
  | .fcmp _ _ _ _ _ => false
  | .fcvt _ _ _ _ _ => false
  | .fclass _ _ _ => false
  | .resacc _ _ _ _ _ _ => false
  | .vadd _ _ _ _ _ _ => false
  | .vsub _ _ _ _ _ _ => false
  | .vmul _ _ _ _ _ _ => false
  | .vfma _ _ _ _ _ _ => false
  | .vmin _ _ _ _ _ _ => false
  | .vmax _ _ _ _ _ _ => false
  | .vand _ _ _ _ _ _ => false
  | .vor _ _ _ _ _ _ => false
  | .vxor _ _ _ _ _ _ => false
  | .vshl _ _ _ _ _ _ _ => false
  | .vcmp _ _ _ _ _ _ _ => false
  | .vsel _ _ _ _ _ _ => false
  | .vcvt _ _ _ _ _ _ _ => false
  | .vdec _ _ _ _ _ _ => false
  | .venc _ _ _ _ _ _ => false
  | .vbcast _ _ _ _ _ => false
  | .vperm _ _ _ _ _ _ => false
  | .vsfu _ _ _ _ _ _ _ => false
  | .vred _ _ _ _ _ _ _ => false
  | .vscan _ _ _ _ _ _ _ => false
  | .vhad _ _ _ _ _ _ _ => false
  | .vsign _ _ _ _ _ => false
  | .vchain _ _ _ _ => false
  | .vmpld _ _ _ _ => false
  | .vrep _ _ _ _ _ _ => false
  | .tzero _ _ _ _ => false
  | .tmov _ _ _ _ _ => false
  | .ttrans _ _ _ _ _ => false
  | .vins _ _ _ _ => false
  | .vext _ _ _ _ => false
  | .vdot _ _ _ _ _ _ => false
  | .afaddHoldTimeout _ => true
  | .stageQueueRoom _ => true
  | .speedwellRoute _ _ _ => true
  | .deferredEffects _ _ => true
  | .pipelineCoreMove _ _ => true
  | .groupItemArrive _ => true
  | .groupResultArrive _ _ => true
  | .groupAck _ _ => true
  | .groupTimeout _ _ _ => true
  | .lateNoticeArrive _ _ => true
  | .routeNoticeArrive _ _ _ _ => true
  | .slackWindow => true
  | .orderedInject => true
  | .orderedPacketArrive _ _ => true
  | .orderedBeacon _ => true
  | .orderedDeliver _ => true
  | .closeBeaconArrive _ _ => true
  | .watermarkStall _ => true
  | .messageArrive _ => true
  | .lateResultLand _ => true
  | .commitGrant _ => true
  | .userInterruptEntry _ => true
  | .waitEvaluate _ => true
  | .waitTimeout _ => true
  | .waitTableSummary => true
  | .barComplete _ _ _ => true
  | .voteCommit _ _ => true
  | .coreWake _ _ => true
  | .coreGate _ => true
  | .tableRecheckDone _ => true
  | .presetLoad _ => true
  | .takeSlot _ => true
  | .spanPlace _ _ => true
  | .spanWait1ms _ => true
  | .bagRecordEnter _ _ => true
  | .recordReady _ _ => true
  | .claimRecord _ => true
  | .jobComplete _ _ => true
  | .jobQueueReady _ _ => true
  | .engineIssue _ => true
  | .engineStep _ => true
  | .engineComplete _ => true
  | .copyIssue _ => true
  | .copyRow _ => true
  | .copyComplete _ => true
  | .park _ => true
  | .unpark _ => true
  | .jobMove _ => true
  | .felrilLinkDeath _ => true
  | .peerAccessArrive _ => true
  | .releasePerformed _ => true
  | .peerLoadTimeout _ => true
  | .directoryHandlerTurn _ => true
  | .saveComplete _ _ => true
  | .thermalReading _ _ => true
  | .throttleStep _ => true
  | .hbmRefresh _ _ => true
  | .ballastWindow _ _ => true
  | .softError _ => true
  | .packageReset _ => true
  | .partitionGoLive _ => true
  | .jsregWrite _ _ _ => true
  | .apertureRead _ _ => true
  | .apertureWrite _ _ => true
  | .apertureTaggedWrite _ _ => true
  | .herrClear _ => true
  | .hcellClear _ _ => true
  | .dbgRead _ _ => true
  | .mgmtRegisterWrite _ _ => true
  | .preemptSpan => true
  | .resumeSpan => true
  | .translationShootdown => true
  | .thaw => true
  | .declarePortOut => true
  | .reenableDelivery => true
  | .contain => true
  | .tearDown => true
  | .attest => true
  | .hcmdUnknownCode => true
  | .peerStoreUnreachable _ => true
  | .peerAccessReply _ _ _ => true

/-- The majors that the loader and the storer run (R101), those of the scalar integer mould among them (R264, R333): A 0x00–0x1D; C 0x00–0x06, 0x0B–0x0D, 0x0F–0x11, 0x14–0x1F, 0x30
and 0x31. -/
def Instr.inScalarSubset (i : Instr) : Bool :=
  let m := fld (encode i) 24 7
  !i.isEvent && (m ≤ 0x06 || (0x0B ≤ m && m ≤ 0x0D) || (0x0F ≤ m && m ≤ 0x11) || (0x14 ≤ m && m ≤ 0x1F) || m == 0x30 ||
    m == 0x31 || (0x40 ≤ m && m ≤ 0x5D))

/-- The instruction the decoder reads from a 32-bit word `w` (the table's rows have one word each); `none` where it rejects. -/
def decodeTableWord (_nbits w : Nat) : Option Instr :=
  match decodeWord (w % 2 ^ 32) with
  | .ok i => some i
  | .error _ => none

end Sys2Proof
end

