-- ==== Sys2Proof/Config.lean ====
section
/-! DEFINITION. What the manual leaves open and an implementation fixes: the free values (R5, R222). Each is a constant without
a body, so nothing can be proved about its value; the machine applies it to an address space and to the number of free values that
the space's partition has drawn before (log entry 6). -/

namespace Sys2Proof

/-- The n-th free 64-bit value of an address space. -/
opaque Config.freeWord : Nat → Nat → Word

/-- The n-th free tile row of an address space. -/
opaque Config.freeRow : Nat → Nat → Row

/-- The n-th free byte of an address space. -/
opaque Config.freeByte : Nat → Nat → Byte

/-- Byte `i` of the signature r ‖ s that Attest makes over a digest (R222); the device key is not in the manual (log entry 16). -/
opaque Config.attestByte : List Byte → Nat → Byte

/-- The bytes of a fuse map, given the bad positions, the channels out of service and the lanes it records; the manual gives no
layout (log entry 16). -/
opaque Config.fuseBytes : List Nat → List Nat → Word → List Byte

/-- The Felril port by which the fabric sends toward a device of a pod, outside the ordered class; the manual names no routing
(log entry 33). -/
opaque Config.hopPort : Nat → Nat → Nat

/-- The device and input port at the far end of the link on a Felril port, as the system is wired (log entry 33). -/
opaque Config.farEnd : Nat → Nat × Nat

/-- The child slot that a node holds at its parent on another device; its own descriptor does not name it (R184; log entry 75). Arguments:
address space, group, the node's own address. -/
opaque Config.childSlot : Nat → Nat → Nat → Nat

/-- The node of another device whose successor in a ring is a node of this one, which no descriptor of this device holds (R184; log entry 75).
Arguments: address space, group, the node's own address. -/
opaque Config.ringPred : Nat → Nat → Nat → Nat

/-- Whether a collective node of another device has a relay that its group can use while its link to its parent is dead, by its own
descriptor and links (R184; log entry 75). Arguments: address space, group, node address. -/
opaque Config.relayed : Nat → Nat → Nat → Bool

/-- Whether packets of a channel of an address space that enter at one input port leave at another output port, by the routes of
the devices of the pod; a device's memory holds only its own next hops (log entry 33). Arguments: address space, channel, input
port, output port. -/
opaque Config.carries : Nat → Nat → Nat → Nat → Bool

/-- Whether the link on a Felril port has credit for an ordered packet at a time in ns (R125); the manual leaves the flow control of a link
open (log entry 33). -/
opaque Config.credit : Nat → Nat → Bool

/-- How many of the ordered packets sent on a Felril port its neighbour has acknowledged when the link dies, of the number sent (R126; log
entry 33). -/
opaque Config.acked : Nat → Nat → Nat

/-- Clock of cores, engines and mesh at divider 1, in kHz (R19). -/
def Config.fclk : Nat := 1800000

end Sys2Proof
end

