-- ==== Sys2Proof/Machine/Float.lean ====
section
/-! DEFINITION. Floating formats and arithmetic (R63–R67, R73, R294, R300, R301): values are unpacked to exact dyadic numbers,
combined exactly, and rounded once. Bit patterns are natural numbers below 2 to the width. Also the trees, transforms and sign flips of R77,
R79 and R80, which instructions and engines share. -/

namespace Sys2Proof.Machine

/-- A floating format (R63): exponent and fraction widths. -/
structure Fmt where
  eb : Nat
  fb : Nat
  deriving DecidableEq, Repr

/-- Binary64. -/
def Fmt.fp64 : Fmt := ⟨11, 52⟩
/-- Binary32. -/
def Fmt.fp32 : Fmt := ⟨8, 23⟩
/-- Bits 31:16 of binary32. -/
def Fmt.bf16 : Fmt := ⟨8, 7⟩
/-- Binary16. -/
def Fmt.fp16 : Fmt := ⟨5, 10⟩
/-- The internal format of the engine (R64), as the pattern sign, exponent, fraction. -/
def Fmt.e8m10 : Fmt := ⟨8, 10⟩

/-- Bias of a format. -/
def Fmt.bias (f : Fmt) : Nat := 2 ^ (f.eb - 1) - 1
/-- Width of a format. -/
def Fmt.width (f : Fmt) : Nat := f.eb + f.fb + 1
/-- The sign bit as a pattern. -/
def Fmt.signBit (f : Fmt) : Nat := 2 ^ (f.eb + f.fb)
/-- Pattern of +∞. -/
def Fmt.infBits (f : Fmt) : Nat := (2 ^ f.eb - 1) * 2 ^ f.fb
/-- The canonical NaN (R63, R65). -/
def Fmt.canonNan (f : Fmt) : Nat := f.infBits + 2 ^ (f.fb - 1)

/-- An unpacked value: a NaN with its fraction aligned to 52 bits, an infinity, or the number ± m × 2^e. -/
inductive FVal where
  | nan (neg : Bool) (payload : Nat)
  | inf (neg : Bool)
  | fin (neg : Bool) (m : Nat) (e : Int)
  deriving DecidableEq, Repr

/-- The value of a pattern. -/
def unpack (f : Fmt) (x : Nat) : FVal :=
  let neg := x / f.signBit % 2 == 1
  let ex := x / 2 ^ f.fb % 2 ^ f.eb
  let fr := x % 2 ^ f.fb
  if ex = 2 ^ f.eb - 1 then
    if fr = 0 then .inf neg else .nan neg (fr * 2 ^ (52 - f.fb))
  else if ex = 0 then .fin neg fr (1 - (f.bias : Int) - f.fb)
  else .fin neg (2 ^ f.fb + fr) ((ex : Int) - f.bias - f.fb)

/-- The sign as a pattern. -/
def withSign (f : Fmt) (neg : Bool) (x : Nat) : Nat := if neg then f.signBit + x else x

/-- A NaN in a format: sign and upper payload bits kept, quiet bit set (R65). -/
def packNan (f : Fmt) (neg : Bool) (payload : Nat) : Nat :=
  let fr := payload / 2 ^ (52 - f.fb) % 2 ^ f.fb
  withSign f neg (f.infBits + (if fr / 2 ^ (f.fb - 1) % 2 = 1 then fr else fr + 2 ^ (f.fb - 1)))

/-- Whether a magnitude is rounded away from zero: `odd` is the last kept bit, `rem` of `2^sh` the bits cut off (R66). -/
def roundsUp (mode : RMode) (neg odd : Bool) (rem sh : Nat) : Bool :=
  match mode with
  | .rne => decide (2 * rem > 2 ^ sh) || (2 * rem == 2 ^ sh && odd)
  | .rna => decide (2 * rem ≥ 2 ^ sh)
  | .rtz => false
  | .rup => !neg && rem != 0
  | .rdn => neg && rem != 0

/-- The pattern that overflow gives under each mode (R66). -/
def overflowBits (f : Fmt) (mode : RMode) (neg : Bool) : Nat :=
  let toInf := match mode with
    | .rne | .rna => true
    | .rtz => false
    | .rup => !neg
    | .rdn => neg
  withSign f neg (if toInf then f.infBits else f.infBits - 1)

/-- ± m × 2^e rounded once to a format (R66). -/
def roundPack (f : Fmt) (mode : RMode) (neg : Bool) (m : Nat) (e : Int) : Nat :=
  if m = 0 then withSign f neg 0
  else
    let base : Int := 1 - (f.bias : Int) - f.fb
    let q := max (e + Nat.log2 m - f.fb) base
    let mant :=
      if q ≤ e then m * 2 ^ (e - q).toNat
      else
        let sh := (q - e).toNat
        let k := m / 2 ^ sh
        if roundsUp mode neg (k % 2 == 1) (m % 2 ^ sh) sh then k + 1 else k
    let body := (q - base).toNat * 2 ^ f.fb + mant
    if f.infBits ≤ body then overflowBits f mode neg else withSign f neg body

/-- A value in a format. -/
def pack (f : Fmt) (mode : RMode) : FVal → Nat
  | .nan neg p => packNan f neg p
  | .inf neg => withSign f neg f.infBits
  | .fin neg m e => roundPack f mode neg m e

/-- The first NaN of a list of operands (R65). -/
def firstNan : List FVal → Option (Bool × Nat)
  | [] => none
  | .nan n p :: _ => some (n, p)
  | .inf _ :: vs => firstNan vs
  | .fin _ _ _ :: vs => firstNan vs

/-- The signed integer of a finite value at the exponent `e0`, which is not above its own. -/
def scaled (neg : Bool) (m : Nat) (e e0 : Int) : Int :=
  let v : Int := ((m * 2 ^ (e - e0).toNat : Nat) : Int)
  if neg then -v else v

/-- Exact sum of two finite values, with the sign of an exact zero (R294). -/
def addFin (mode : RMode) (n1 : Bool) (m1 : Nat) (e1 : Int) (n2 : Bool) (m2 : Nat) (e2 : Int) : Bool × Nat × Int :=
  let e0 := min e1 e2
  let t := scaled n1 m1 e1 e0 + scaled n2 m2 e2 e0
  let zneg := if n1 == n2 then n1 else mode == .rdn
  (if t = 0 then zneg else decide (t < 0), t.natAbs, e0)

/-- a + b (R298). -/
def fAdd (f : Fmt) (mode : RMode) (a b : Nat) : Nat :=
  let x := unpack f a
  let y := unpack f b
  match firstNan [x, y] with
  | some (n, p) => packNan f n p
  | none =>
    match x, y with
    | .inf n, .inf n' => if n == n' then withSign f n f.infBits else f.canonNan
    | .inf n, _ => withSign f n f.infBits
    | _, .inf n => withSign f n f.infBits
    | .fin n1 m1 e1, .fin n2 m2 e2 =>
      let r := addFin mode n1 m1 e1 n2 m2 e2
      roundPack f mode r.1 r.2.1 r.2.2
    | _, _ => f.canonNan

/-- The pattern with its sign inverted. -/
def fNeg (f : Fmt) (a : Nat) : Nat := if a / f.signBit % 2 = 1 then a - f.signBit else a + f.signBit

/-- a − b (R311): a NaN operand keeps its own sign. -/
def fSub (f : Fmt) (mode : RMode) (a b : Nat) : Nat :=
  match firstNan [unpack f a, unpack f b] with
  | some (n, p) => packNan f n p
  | none => fAdd f mode a (fNeg f b)

/-- a × b (R309). -/
def fMul (f : Fmt) (mode : RMode) (a b : Nat) : Nat :=
  let x := unpack f a
  let y := unpack f b
  match firstNan [x, y] with
  | some (n, p) => packNan f n p
  | none =>
    match x, y with
    | .inf n, .inf n' => withSign f (n ^^ n') f.infBits
    | .inf n, .fin n' m _ => if m = 0 then f.canonNan else withSign f (n ^^ n') f.infBits
    | .fin n m _, .inf n' => if m = 0 then f.canonNan else withSign f (n ^^ n') f.infBits
    | .fin n1 m1 e1, .fin n2 m2 e2 => roundPack f mode (n1 ^^ n2) (m1 * m2) (e1 + e2)
    | _, _ => f.canonNan

/-- a × b + c with one rounding (R306). -/
def fFma (f : Fmt) (mode : RMode) (a b c : Nat) : Nat :=
  let x := unpack f a
  let y := unpack f b
  let z := unpack f c
  match firstNan [x, y, z] with
  | some (n, p) => packNan f n p
  | none =>
    match x, y, z with
    | .fin n1 m1 e1, .fin n2 m2 e2, .fin n3 m3 e3 =>
      let r := addFin mode (n1 ^^ n2) (m1 * m2) (e1 + e2) n3 m3 e3
      roundPack f mode r.1 r.2.1 r.2.2
    | .fin _ _ _, .fin _ _ _, z => pack f mode z
    | x, y, z =>
      let p := fMul f mode (pack f mode x) (pack f mode y)
      match unpack f p, z with
      | .inf n, .inf n' => if n == n' then p else f.canonNan
      | _, _ => p

/-- a ÷ b (R302). -/
def fDiv (f : Fmt) (mode : RMode) (a b : Nat) : Nat :=
  let x := unpack f a
  let y := unpack f b
  match firstNan [x, y] with
  | some (n, p) => packNan f n p
  | none =>
    match x, y with
    | .inf _, .inf _ => f.canonNan
    | .inf n, .fin n' _ _ => withSign f (n ^^ n') f.infBits
    | .fin n _ _, .inf n' => withSign f (n ^^ n') 0
    | .fin n1 m1 e1, .fin n2 m2 e2 =>
      if m2 = 0 then (if m1 = 0 then f.canonNan else withSign f (n1 ^^ n2) f.infBits)
      else
        let k := f.fb + 4 + Nat.log2 m2
        let num := m1 * 2 ^ k
        let sticky := if num % m2 = 0 then 0 else 1
        roundPack f mode (n1 ^^ n2) (num / m2 * 2 + sticky) (e1 - e2 - k - 1)
    | _, _ => f.canonNan

/-- The integer square root of `n`, found from bit `i` − 1 downward. -/
def isqrtFrom (n : Nat) : Nat → Nat → Nat
  | 0, r => r
  | i + 1, r => isqrtFrom n i (if (r + 2 ^ i) * (r + 2 ^ i) ≤ n then r + 2 ^ i else r)

/-- The integer square root. -/
def isqrt (n : Nat) : Nat := isqrtFrom n (Nat.log2 n / 2 + 1) 0

/-- √a (R310). -/
def fSqrt (f : Fmt) (mode : RMode) (a : Nat) : Nat :=
  match unpack f a with
  | .nan n p => packNan f n p
  | .inf n => if n then f.canonNan else f.infBits
  | .fin n m e =>
    if m = 0 then withSign f n 0
    else if n then f.canonNan
    else
      let k := 2 * (f.fb + 4) + (if e % 2 = 0 then 0 else 1)
      let num := m * 2 ^ k
      let r := isqrt num
      let sticky := if r * r = num then 0 else 1
      roundPack f mode false (r * 2 + sticky) ((e - k) / 2 - 1)

/-- Comparison of two values that are not NaNs: their signed order, zeros equal. -/
def fCmpVal : FVal → FVal → Ordering
  | .inf n, .inf n' => compare (if n then (0 : Int) else 1) (if n' then 0 else 1)
  | .inf n, _ => if n then .lt else .gt
  | _, .inf n => if n then .gt else .lt
  | .fin n1 m1 e1, .fin n2 m2 e2 =>
    let e0 := min e1 e2
    compare (scaled n1 m1 e1 e0) (scaled n2 m2 e2 e0)
  | _, _ => .eq

/-- Whether a pattern is a NaN. -/
def isNan (f : Fmt) (a : Nat) : Bool :=
  match unpack f a with
  | .nan _ _ => true
  | .inf _ | .fin _ _ _ => false

/-- The relations of `FCMP` (R300). -/
def fRel (f : Fmt) (rel : FRel) (a b : Nat) : Bool :=
  if isNan f a || isNan f b then rel == .un
  else
    let c := fCmpVal (unpack f a) (unpack f b)
    match rel with
    | .eq => c == .eq
    | .lt => c == .lt
    | .le => c != .gt
    | .un => false

/-- Order of two non-NaN patterns with −0 below +0 (R307). -/
def fBelow (f : Fmt) (a b : Nat) : Bool :=
  match fCmpVal (unpack f a) (unpack f b) with
  | .lt => true
  | .gt => false
  | .eq => a / f.signBit % 2 = 1 && b / f.signBit % 2 = 0

/-- IEEE minimum or maximum (R307, R308). -/
def fMinMax (f : Fmt) (wantMax : Bool) (a b : Nat) : Nat :=
  match firstNan [unpack f a, unpack f b] with
  | some (n, p) => packNan f n p
  | none => if fBelow f a b == wantMax then b else a

/-- The class bit of a value (R299). -/
def fClass (f : Fmt) (a : Nat) : Nat :=
  let neg := a / f.signBit % 2 == 1
  let ex := a / 2 ^ f.fb % 2 ^ f.eb
  let fr := a % 2 ^ f.fb
  if ex = 2 ^ f.eb - 1 then
    if fr = 0 then (if neg then 2 ^ 0 else 2 ^ 7)
    else if fr / 2 ^ (f.fb - 1) = 0 then 2 ^ 8 else 2 ^ 9
  else if ex = 0 then
    if fr = 0 then (if neg then 2 ^ 3 else 2 ^ 4) else (if neg then 2 ^ 2 else 2 ^ 5)
  else (if neg then 2 ^ 1 else 2 ^ 6)

/-- A pattern of one format in another (R65, R301). -/
def fConv (src dst : Fmt) (mode : RMode) (a : Nat) : Nat := pack dst mode (unpack src a)

/-- ± m × 2^e rounded to an integer by a mode. -/
def roundInt (mode : RMode) (neg : Bool) (m : Nat) (e : Int) : Int :=
  let k :=
    if 0 ≤ e then m * 2 ^ e.toNat
    else
      let sh := (-e).toNat
      let k := m / 2 ^ sh
      if roundsUp mode neg (k % 2 == 1) (m % 2 ^ sh) sh then k + 1 else k
  if neg then -(k : Int) else k

/-- Float to integer with saturation; a NaN gives 0 (R67). -/
def fToInt (f : Fmt) (mode : RMode) (lo hi : Int) (a : Nat) : Int :=
  match unpack f a with
  | .nan _ _ => 0
  | .inf n => if n then lo else hi
  | .fin n m e => max lo (min hi (roundInt mode n m e))

/-- Integer to float (R67). -/
def intToF (f : Fmt) (mode : RMode) (v : Int) : Nat := roundPack f mode (decide (v < 0)) v.natAbs 0

/-- A signed value as a pattern of `w` bits. -/
def toBits (w : Nat) (v : Int) : Nat := (v % ((2 ^ w : Nat) : Int)).toNat

/-- A pattern of `w` bits as a signed value. -/
def toSigned (w : Nat) (x : Nat) : Int := if x / 2 ^ (w - 1) % 2 = 1 then (x : Int) - ((2 ^ w : Nat) : Int) else x

/-! ## Trees and transforms (R77, R79, R80) -/

/-- The pairwise tree of R77 over a list of a power of two elements. -/
def pairTree (f : Nat → Nat → Nat) : Nat → List Nat → Nat
  | 0, xs => xs.headD 0
  | fuel + 1, xs =>
    let rec pairUp : List Nat → List Nat
      | a :: b :: m => f a b :: pairUp m
      | m => m
    match xs with
    | [] => 0
    | [x] => x
    | xs => pairTree f fuel (pairUp xs)

/-- The sign-flip function of R80. -/
def flip (seed row col : Nat) : Bool :=
  let z := (seed + row * 0x8C1D5E73B6A90F25 + col * 0x5F3AC7E129B4D86B) % 2 ^ 64
  let z := (z ^^^ z / 2 ^ 31) * 0xD3E94C2F7A15B869 % 2 ^ 64
  let z := (z ^^^ z / 2 ^ 29) * 0x9A6F21C8E53B7D47 % 2 ^ 64
  (z ^^^ z / 2 ^ 32) % 2 == 1

/-- Whether element `i` of the range is flipped. -/
def flipAt (k : Nat × Nat × Nat) (i : Nat) : Bool := flip k.1 k.2.1 ((k.2.2 + i) % 2 ^ 64)

/-- One stage of the butterflies of R79 at distance `h`, on FP32 points. -/
def hadStage (h : Nat) (xs : List Nat) : List Nat :=
  xs.mapIdx fun i x =>
    if i / h % 2 = 0 then fAdd .fp32 .rne x (xs.getD (i + h) 0) else fSub .fp32 .rne (xs.getD (i - h) 0) x

/-- The stages from distance `h` on; `k` of them. -/
def hadStages : Nat → Nat → List Nat → List Nat
  | 0, _, xs => xs
  | k + 1, h, xs => hadStages k (2 * h) (hadStage h xs)

/-- A point times 2^−k, rounded once to the lane type. -/
def scalePoint (f : Fmt) (k : Nat) (x : Nat) : Nat :=
  match unpack .fp32 x with
  | .fin neg m e => pack f .rne (.fin neg m (e - k))
  | v => pack f .rne v

/-- Stages and scale exponent of a transform (R79). -/
def hadShape : HadN → Nat × Nat
  | .p16 => (4, 2)
  | .p32 => (5, 3)
  | .p64 => (6, 3)

/-- The transform of R79 on elements of a format, with flips. -/
def hadamard (pts : HadN) (f : Fmt) (k : Nat × Nat × Nat) (es : List Nat) : List Nat :=
  let xs := es.mapIdx fun i v =>
    let x := fConv f .fp32 .rne v
    if flipAt k i then fNeg .fp32 x else x
  (hadStages (hadShape pts).1 1 xs).map (scalePoint f (hadShape pts).2)

end Sys2Proof.Machine
end

