-- ==== Sys2Proof/Machine/Map.lean ====
section
/-! DEFINITION. Sparse tables: lists of key and value with keys strictly rising, the form in which the state holds everything that
is keyed by a number. -/

namespace Sys2Proof.Machine

/-- A sparse table. -/
abbrev Tab (α : Type) := List (Nat × α)

/-- The entry of a key. -/
def tabGet {α : Type} (k : Nat) : Tab α → Option α
  | [] => none
  | (k', v) :: m => if k = k' then some v else tabGet k m

/-- The table with the entry of `k` set. -/
def tabSet {α : Type} (k : Nat) (v : α) : Tab α → Tab α
  | [] => [(k, v)]
  | (k', v') :: m =>
    if k < k' then (k, v) :: (k', v') :: m
    else if k = k' then (k, v) :: m
    else (k', v') :: tabSet k v m

/-- The table without an entry of `k`. -/
def tabDel {α : Type} (k : Nat) : Tab α → Tab α
  | [] => []
  | (k', v') :: m => if k = k' then tabDel k m else (k', v') :: tabDel k m

/-- The table with the entry of `k` changed, starting from a default. -/
def tabMod {α : Type} (k : Nat) (d : α) (f : α → α) (m : Tab α) : Tab α := tabSet k (f ((tabGet k m).getD d)) m

/-- The canonical form: keys strictly rising. -/
def tabSorted {α : Type} : Tab α → Bool
  | [] => true
  | (k, _) :: m => (match m with | [] => true | (k', _) :: _ => k < k') && tabSorted m

/-- A set of numbers in rising order with `k` added. -/
def setAdd (k : Nat) : List Nat → List Nat
  | [] => [k]
  | k' :: m => if k < k' then k :: k' :: m else if k = k' then k' :: m else k' :: setAdd k m

/-- A set of numbers without `k`. -/
def setDel (k : Nat) (m : List Nat) : List Nat := m.filter (· != k)

end Sys2Proof.Machine
end

