-- ==== Sys2Proof/Machine/Types.lean ====
section
/-! DEFINITION. The plain data the state is made of: agents, chunks, memory, queues, jobs, pipelines, groups, the ordered class,
the host window and the thermal domains. Every structure has the reset value of each field as its default. -/

namespace Sys2Proof.Machine

/-- Trap causes (R189). -/
inductive Cause where
  | illegal | priv | align | bounds | handle | page | cap | gen | licence | seqgap | parity | hang | watermark | peerdead
  | fpe | stream | soft
  deriving DecidableEq, Repr

/-! ## Registers of an agent -/

/-- A hardware loop level (R330): first and last bundle of the body and the count register. -/
structure LoopLevel where
  first : Word
  last  : Word
  cnt   : Reg
  deriving DecidableEq, Repr

/-- A `LOOP` whose bundle has not ended (R330). `count` is the count read at issue in a paired bundle. -/
structure LoopReq where
  level : LoopLevel
  count : Option Word
  deriving DecidableEq, Repr

/-- A stream binding (R52, R361): register code of R57, direction, position and descriptor. -/
structure Binding where
  code : Nat
  out  : Bool
  pos  : Nat
  base : Word
  cnt  : Nat
  esz  : Nat
  sgn  : Bool
  str1 : Word
  run  : Nat
  str2 : Word
  deriving DecidableEq, Repr

/-- What a checked store puts where, with its lines claimed and its elements encoded: bytes in memory, entries of the decode table
(which start a re-check), a preset to load, nothing, or a posted write outside the package with the writes it covers. -/
inductive Put where
  | bytes (segs : List (Nat × Nat)) (bs : List Byte)
  | table (segs : List (Nat × Nat)) (bs : List Byte)
  | preset (k : Nat)
  | nothing
  | outside (host : Bool) (dev pod addr : Nat) (bs : List Byte) (ptr : Word) (cov : List Nat)
  deriving DecidableEq, Repr

/-- A late result (R99): a scalar, tile rows (row q of tile t is row 8 t + q), the bits of tile rows that a mask names (R391, R393), `RPART`, or
elements appended to the output stream bound
to a register code, whose places in the stream their instruction took at issue (log entry 71). -/
inductive LateVal where
  | scalar (r : Reg) (v : Word)
  | rows (rs : List (Nat × Row))
  | lanes (rs : List (Nat × Row × Row))
  | rpart (v : W32)
  | append (code : Nat) (xs : List Put)
  deriving DecidableEq, Repr

/-- A late result and the words that complete before it lands, its own among them (R99). -/
structure Late where
  val  : LateVal
  left : Nat
  deriving DecidableEq, Repr

/-- The pending copies a strand keeps until the next `VOTE` (R39, R166, R174). `gcfg` holds staged group descriptors by slot. -/
structure Staged where
  swpol   : Option Word := none
  resTol  : Option Word := none
  cycMax  : Option Word := none
  cycPh   : Option Word := none
  cycBeg  : Option Bool := none
  cycEnd  : Bool := false
  wgFence : Bool := false
  gcfg    : Tab (List Word) := []
  deriving DecidableEq, Repr

/-- The part of an agent that a chunk checkpoint holds and a squash restores (R109, R332): registers, tiles, position, loop
levels, bindings, late results, state registers, both banks, micro-program store and pending copies. `loopReq` lists the `LOOP`s
of the bundle in progress; `uiPc` is the unit that a user interrupt interrupted, laid out as `TPC`. `dirty` has one bit per
register code (R57), bit 64 for the decode table and bit 65 for the micro-program store, and bit 128 + i for state register i. -/
structure Ctx where
  regs     : Vector Word 32 := Vector.replicate 32 0
  tiles    : Vector Row 128 := Vector.replicate 128 0
  pc       : Word := 0
  slot     : Bool := false
  loops    : List LoopLevel := []
  loopReq  : List LoopReq := []
  aside    : List (List LoopLevel × List LoopReq) := []
  binds    : Vector (Option Binding) 4 := Vector.replicate 4 none
  lates    : List Late := []
  cause    : BitVec 8 := 0
  dbl      : Bool := false
  tin      : Bool := false
  tpc      : Word := 0
  tval     : Word := 0
  tvec     : Word := 0
  uivec    : Word := 0
  uien     : BitVec 4 := 0
  uip      : BitVec 4 := 0
  uiin     : Bool := false
  uiPc     : Word := 0
  dvd      : BitVec 3 := 0
  pmsel    : Word := 0
  mplk     : Bool := false
  mp       : Vector W32 16 := Vector.replicate 16 0
  trapSave : Vector Word 8 := Vector.replicate 8 0
  uiSave   : Vector Word 8 := Vector.replicate 8 0
  rpart    : Option W32 := none
  staged   : Staged := {}
  dirty    : Nat := 0
  preset   : Option Nat := none
  recheck  : Bool := false
  deriving DecidableEq, Repr

/-- Counts of one tensor header (R82): the job (by its key) whose results they count, the pointer of the header, the tensor id that it
holds, and the three counts. -/
structure Stat where
  asid : Nat
  job  : Nat
  thp  : Word
  tid  : Nat
  sat  : Nat
  ftz  : Nat
  nan  : Nat
  deriving DecidableEq, Repr

/-- The open chunk of an agent (R104–R109). `count` is 0 when no chunk is open; `ended` says that it waits for its grant. -/
structure Chunk where
  count  : Nat := 0
  ckpt   : Ctx := {}
  held   : List Host.Cell := []
  tagw   : Tab Bool := []
  reads  : List Nat := []
  writes : List Nat := []
  rel    : List Nat := []
  stats  : List Stat := []
  ended  : Bool := false
  limit  : Nat := 512
  deriving DecidableEq, Repr

/-- What an agent sleeps in. A `WAIT` keeps its kind words and operands, mode, deadline in ticks and the lowest false kind
word of its last evaluation (R34–R38). `hold` is an `AFADD` held at its home (R113): the pair's address, format, addend, sequence number,
pointer, and whether it is a release at system scope; `ext` is an outside access awaiting its reply (R117). -/
inductive Sleep where
  | wait (conds : List (Word × Word)) (any : Bool) (deadline : Option Nat) (falseKind : Word)
  | bar
  | vote
  | pdeq
  | orecv
  | penq (p : Nat)
  | pdone (p : Nat)
  | hold (addr : Nat) (fmt : FFmt) (v : Word) (q : Nat) (ptr : Word) (o : BitVec 3)
  | ext (id : Nat)
  deriving DecidableEq, Repr

/-- What an agent does (R37, R45, R198): nothing is placed on it, it issues, sleeps since a time, is stopped by pre-emption, or
has retired. -/
inductive Act where
  | idle
  | running
  | asleep (k : Sleep) (since : Nat)
  | stopped
  | retired
  deriving DecidableEq, Repr

/-- What an event left for the re-issue of a sleeping instruction: nothing, leave to complete, a value, the ticks a stopped `WAIT`
still has (R417), that the instruction was stopped by pre-emption and is issued again first (R203), or a trap. -/
inductive Mark where
  | none
  | done
  | value (v : Word)
  | left (ticks : Nat)
  | again
  | trap (c : Cause) (v : Word)
  deriving DecidableEq, Repr

/-- An agent: what it runs, its registers, its chunk, and what neither a squash nor a checkpoint touches. `task` is the record
of a task; `gang` holds bits 11:0 of `GANG`; `got` lists what outside accesses of the unit in progress brought, by pointer and access, and `acq`
the outside writes covered by releases that its acquires have met (R119); `raised` holds the interrupt sources raised since the checkpoint (R109); `src0`
and `src1` the ids of the latest completed jobs of sources 0 and 1 (R60); `err` the first failed outside store (R196);
`parity` a fatal parity error to take (R58); `word` the word in which it last went to sleep (R38). -/
structure Agent where
  act     : Act := .idle
  asid    : Nat := 0
  job     : Nat := 0
  gang    : Nat := 0
  task    : Option Word := none
  ctx     : Ctx := {}
  chunk   : Chunk := {}
  mark    : Mark := .none
  got     : List (Word × OutOp × Except Cause (List Byte)) := []
  acq     : List Nat := []
  raised  : BitVec 4 := 0
  src0    : Word := 0
  src1    : Word := 0
  pmc     : Vector Word 4 := Vector.replicate 4 0
  err     : Option Word := none
  parity  : Option Nat := none
  word    : W32 := 0
  stopReq : Bool := false
  deriving DecidableEq, Repr

/-! ## Memory -/

/-- A translation-cache entry (R91): the cache that holds it (a core below 4096, cluster k as 4096 + k, 4608 for accesses that no
core makes), and one page of an address space as some walk found it. -/
structure TlbEntry where
  at_   : Nat
  asid  : Nat
  page  : Nat
  pa    : Nat
  write : Bool
  exec  : Bool
  deriving DecidableEq, Repr

/-- A cached handle entry (R86). -/
structure HandleCopy where
  asid  : Nat
  h     : Nat
  entry : List Word
  deriving DecidableEq, Repr

/-- A spilled superblock (R201): the job, the superblock (core × 1024 + number), the place of its bytes in the spill area (in superblocks,
from the area's base on), and its full tags. -/
structure Spill where
  job   : Nat
  sb    : Nat
  at_   : Nat
  full  : List Nat
  deriving DecidableEq, Repr

/-- Memory of the package. `bytes` holds package memory by physical address and, above it, every slice, decode table and
instruction store (Machine/Ops.lean gives the places); `tags` the addresses of the words whose full tag is set; `owned` the
lines owned by engine and copy jobs, with the job's id; `pins` the pinned superblocks with their job. -/
structure Memory where
  bytes  : List Host.Cell := []
  tags   : List Nat := []
  poison : List Nat := []
  owned  : Tab Nat := []
  pins   : Tab Nat := []
  spills : List Spill := []
  frozen : List Nat := []
  tlb    : List TlbEntry := []
  hcopies : List HandleCopy := []
  deriving DecidableEq, Repr

/-- Capability state of a tracked handle entry (R133): the holder or offeree, and the key of its job (R134). -/
inductive CapState where
  | free
  | held (a : AgentId) (job : Nat)
  | offered (a : AgentId) (job : Nat)
  deriving DecidableEq, Repr

/-! ## Cores and clusters -/

/-- A record taken by a core's latest `PDEQ` (R350). -/
structure Dequeued where
  pipe : Nat
  ptr  : Word
  deriving DecidableEq, Repr

/-- One image slot: the job that binds it, the saved agents of the core, its decode table and the record it had taken (R199). `kept` is the
main agent of a save that has been restored, or that went into the image of a task's record (R202): a debug read still finds its registers
there (R206). -/
structure Image where
  job    : Nat
  agents : List (AgentKind × Agent)
  table  : List Byte
  deq    : Option Dequeued
  kept   : Option Agent := none
  deriving DecidableEq, Repr

/-- What belongs to a logical core and not to an agent. `mp` and `mplk` are the micro-program store and its lock as the last agent
left them (R403). -/
structure Core where
  stats  : List Stat := []
  inbox  : List (Word × Word) := []
  hcode  : BitVec 10 := 0
  harg   : Word := 0
  hpend  : Bool := false
  images : List Image := []
  deq    : Option Dequeued := none
  gated  : Bool := false
  idle   : Nat := 0
  mp     : Vector W32 16 := Vector.replicate 16 0
  mplk   : Bool := false
  deriving DecidableEq, Repr

/-- States of an engine or copy job (R139). -/
inductive JobSt where
  | waiting | ready | running | parked | complete
  deriving DecidableEq, Repr

/-- An entry of a cluster job queue (R137–R144). `key` (publication × 512 + cluster) tells entries apart whose 20-bit count is the same;
`words` is the record as copied; `handles` the entries the job uses from issue on (R319); `mi`, `ni`, `ki` the step in progress or next; `acc`
the accumulators after the latest step; `rows` the copied rows; `atRecord` the pointer it was published with (R423); `sat`, `ftz`, `nan`
the statistics its results counted (R82); `seq` its order in its queue; `from_` the cluster that still holds its entry while it waits for
room in the twin's queue, and `first` that it is the job parked last, which unparks before anything else (R146, R147). `task` is the record of the task that
published it. -/
structure QJob where
  key     : Nat
  id      : Nat
  copy    : Bool
  words   : List Word
  pub     : AgentId
  asid    : Nat
  job     : Nat
  det     : Bool
  table   : List W32
  tabBad  : Bool
  st      : JobSt
  sts     : Nat
  handles : List (Word × List Word)
  mi      : Nat
  ni      : Nat
  ki      : Nat
  acc     : List W32
  rows    : Nat
  prkd    : Bool
  atRecord : Word
  seq     : Nat
  from_   : Option Nat := none
  sat     : Nat := 0
  ftz     : Nat := 0
  nan     : Nat := 0
  task    : Option Word := none
  first   : Bool := false
  deriving DecidableEq, Repr

/-- A task queue entry (R44, R45, R202): the record, its job, priority and ready time, and the image of a stopped task with the
decode table of its core; `soft` says that the image is damaged (R197). -/
structure TaskEnt where
  ptr   : Word
  asid  : Nat
  job   : Nat
  prio  : Nat
  since : Nat
  image : Option (Agent × List Byte)
  soft  : Bool := false
  deriving DecidableEq, Repr

/-- A publication of a cluster: its key and id, and its status once complete (R139). -/
structure Published where
  key : Nat
  id  : Nat
  sts : Option Nat
  deriving DecidableEq, Repr

/-- A physical cluster position's units under their logical cluster (R9, R137). `eng` and `cpy` are the keys of the running jobs; `hist`
lists the last 256 publications, newest first; `entered` counts the entries that came into the queue; `incoming` the jobs that wait for
room in it (R147, R203). -/
structure Cluster where
  queue    : List QJob := []
  eng      : Option Nat := none
  cpy      : Option Nat := none
  pubs     : Nat := 0
  entered  : Nat := 0
  hist     : List Published := []
  tasks    : List TaskEnt := []
  incoming : List QJob := []
  deriving DecidableEq, Repr

/-- A pending `LICACQ` (R146): its job, core and notify wish, and the jobs whose requests joined it (R147). -/
structure LicReq where
  job  : Nat
  core : Nat
  note : Bool
  also : List Nat := []
  deriving DecidableEq, Repr

/-- Why a licence is moving (R146): released, or transferred by the hardware. -/
inductive LicMove where
  | release
  | transfer
  deriving DecidableEq, Repr

/-- A twin cluster pair: its licence (holder: `false` for the die L cluster), pins, requests, moves, and the thermal divider
offset with the time of its last step (R145, R146, R211). -/
structure Pair where
  holder : Option Bool := none
  moving : Option LicMove := none
  pins   : List Nat := []
  reqL   : Option LicReq := none
  reqU   : Option LicReq := none
  lmov   : Nat := 0
  tthr   : Nat := 0
  tthrAt : Nat := 0
  deriving DecidableEq, Repr

/-- A twin-window cell and the `ASID` of its last writer (R49, R50). -/
structure TwinCell where
  val  : Word := 0
  asid : Nat := 0
  deriving DecidableEq, Repr

/-! ## Jobs -/

/-- The per-span registers 0x020–0x027 (R61, R152, R159–R163). -/
structure Span where
  rspan  : W32 := 0
  tol    : W32 := 0
  cycn   : BitVec 16 := 0
  lim    : BitVec 16 := 0
  ph     : BitVec 2 := 0
  dir    : Bool := false
  wgen   : W32 := 0
  mgstat : Word := 0
  fixo   : BitVec 16 := 0
  deriving DecidableEq, Repr

/-- Where a record of a task stands (R31): waiting for its conditions, in the task queue of a cluster, run by a core, or retired. -/
inductive RecAt where
  | waiting
  | queued (cluster : Nat)
  | running (core : Nat)
  | retired
  deriving DecidableEq, Repr

/-- A record of a job: its pointer, place, the cluster whose queue it enters, and whether it holds an entry there while it waits for
its conditions (R31, R44). `err` is the pointer of a failed outside write of its suspended task (R196), `acq` what the task's acquires have met
(R119). -/
structure Rec where
  ptr     : Word
  at_     : RecAt
  cluster : Nat
  entry   : Bool := false
  err     : Option Word := none
  acq     : List Nat := []
  deriving DecidableEq, Repr

/-- Stages of a job's life (R24, R198, R203): a span waiting for its cores, running, being stopped, off, or waiting to resume. -/
inductive JobStage where
  | waiting
  | running
  | stopping
  | off
  | resuming
  deriving DecidableEq, Repr

/-- Why a span is off (R198). -/
inductive OffWhy where
  | host
  | thermal
  deriving DecidableEq, Repr

/-- What a span's image records of one cluster (R200): its engine and copy jobs, whether the cluster held the licence and
whether the span held a pin. -/
structure ClusterImage where
  cluster : Nat
  queue   : List QJob
  held    : Bool
  pinned  : Bool
  deriving DecidableEq, Repr

/-! ## Collectives -/

/-- An operand of a round at a node (R181): chunk, the slot it stands in (8 for the node's own), head and blocks. -/
structure GOperand where
  round  : Nat
  chunk  : Nat
  slot   : Nat
  bmap   : Word
  ncon   : Nat
  part   : Bool
  blocks : Tab (List Byte)
  deriving DecidableEq, Repr

/-- One chunk of a result (R176). -/
structure GResult where
  round  : Nat
  chunk  : Nat
  bmap   : Word
  ncon   : Nat
  part   : Bool
  rmask  : Nat
  blocks : Tab (List Byte)
  deriving DecidableEq, Repr

/-- A group slot of a router (R174–R186). `rnd` is the next round; `ops` and `results` keep every operand and result chunk of the
slot, so that an item met twice is known; `present` lists the rounds whose result `GRECV` may take, `taken` those it took; `unacked` are
the items sent and not acknowledged, `held` those that wait in order for a replay block (R183), `parked` those down to a child that nothing leads to
until its route notice (R184); `sends` the rounds of this core's outstanding contributions with the job of each (R180); `timers` holds the start of each chunk's timer by round × 1024 + chunk; `flushed` the chunks
a timeout flushed; `done` the chunks whose head was combined and sent on, `outs` the blocks (round, chunk, block) that were; `relays` the
relay of a child slot (R184). -/
structure GSlot where
  desc    : List Word := []
  job     : Nat := 0
  dead    : Bool := false
  late    : Bool := false
  rnd     : Nat := 0
  ops     : List GOperand := []
  results : List GResult := []
  present : List Nat := []
  taken   : List Nat := []
  unacked : List GItem := []
  held    : List GItem := []
  parked  : List GItem := []
  sends   : List (Nat × Nat) := []
  timers  : Tab Nat := []
  flushed : List (Nat × Nat) := []
  done    : List (Nat × Nat) := []
  outs    : List (Nat × Nat × Nat) := []
  relays  : Tab Word := []
  deriving DecidableEq, Repr

/-- A job (R23, R42): a span or a bag of tasks, with what the dispatcher keeps of it. `held` lists the handles whose capability
an agent of the job ever held (R136); `router` the saved group slots, `boxes` the saved inboxes (R186, R336); `moved` the pair whose
migration stopped the span (R211); `blocks` says that the span had waited 1 ms at its stream's head (R44). -/
structure Job where
  asid    : Nat := 0
  id      : Nat := 0
  bag     : Bool := false
  prio    : Nat := 0
  det     : Bool := false
  donep   : Word := 0
  stream  : Nat := 0
  slotIx  : Nat := 0
  entry   : Word := 0
  arg     : Word := 0
  ngang   : Nat := 0
  nstr    : Nat := 0
  stage   : JobStage := .waiting
  status  : Option Nat := none
  hdr     : List Word := []
  gangs   : List Nat := []
  span    : Span := {}
  bars    : Tab (List AgentId) := []
  votes   : List AgentId := []
  next    : Option Word := none
  taken   : List Word := []
  recs    : List Rec := []
  held    : List Nat := []
  why     : OffWhy := .host
  images  : List ClusterImage := []
  router  : Tab GSlot := []
  boxes   : Tab (List (Word × Word)) := []
  soft    : Bool := false
  moved   : Option Nat := none
  blocks  : Bool := false
  deriving DecidableEq, Repr

/-- A job stream register (R41, R215). `waitAt` says since when a span waits at its head for clusters, `blocks` that it has waited
1 ms (R44). -/
structure Stream where
  base   : Word := 0
  logn   : Nat := 0
  asid   : Nat := 0
  sv     : Bool := false
  head   : Nat := 0
  eslot  : Nat := 0
  ecause : Nat := 0
  jerr   : Bool := false
  skip   : Bool := false
  waitAt : Option Nat := none
  blocks : Bool := false
  deriving DecidableEq, Repr

/-! ## Pipelines -/

/-- Where a pipeline record stands (R150, R151, R153): in a stage's queue, at the router of a cluster, taken by a core, or waiting
for its effects to be settled on its way out of a set (or, with `last`, out of the pipeline). -/
inductive PAt where
  | queue (stage : Nat)
  | router (cluster : Nat)
  | core (c : Nat)
  | settling (next : Option Nat)
  deriving DecidableEq, Repr

/-- A pipeline record (R149): slot number, sequence number, stage, finished members of the current set, and place. `left` lists
the commuting sets it has left. `core` is the core of its latest `PENQ` or `PDONE`. -/
structure PRec where
  slot    : Nat
  seq     : Nat
  stage   : Nat
  mask    : Nat
  drop    : Bool
  at_     : PAt
  arr     : Nat
  left    : List Nat
  core    : Nat
  deriving DecidableEq, Repr

/-- The statistics window of one stage at one router (R151). -/
structure PWindow where
  last   : Nat := 2048
  seen   : Nat := 0
  passes : Nat := 0
  deriving DecidableEq, Repr

/-- A pipeline at work (R148–R155). `desc` is the descriptor as the latest naming instruction read it (R218); `lfsr` is keyed by
cluster, `windows` by cluster × 16 + stage, `assign` and the pending `moves` by core. `owner` is the one agent that may enqueue in a
deterministic job (R351): a task by its record, wherever it runs. -/
structure Pipe where
  desc    : List Word := []
  job     : Nat := 0
  seq     : Nat := 0
  arr     : Nat := 0
  recs    : List PRec := []
  lfsr    : Tab Nat := []
  windows : Tab PWindow := []
  assign  : Tab Nat := []
  moves   : Tab Nat := []
  owner   : Option (Option Word × AgentId) := none
  movedAt : Nat := 0
  deriving DecidableEq, Repr

/-! ## The ordered class, the fabric and outside accesses -/

/-- An ordered input port (R123, R126, R127). `stuck` says that a packet from it was discarded, which stalls its watermark (R218). -/
structure InPort where
  wm      : Nat := 0
  frozen  : Bool := false
  removed : Bool := false
  stuck   : Bool := false
  advAt   : Nat := 0
  deriving DecidableEq, Repr

/-- An ordered output port (R123, R126): the packets queued for it, those sent on it and not acknowledged, with their tags, and the tags of
the close beacons sent on it. -/
structure OutPort where
  queue   : List OPacket := []
  unacked : List OPacket := []
  closes  : List (Nat × Nat) := []
  sentAt  : Nat := 0
  dead    : Bool := false
  deriving DecidableEq, Repr

/-- A packet that waits for its covered set before injection (R122): the outstanding outside writes it covers. -/
structure Inject where
  packet : OPacket
  cov    : List Nat
  deriving DecidableEq, Repr

/-- The ordered class on this device (R121–R127). `local_` holds packets received and not yet delivered here; `queues` the
delivery queues by ASID × 16 + channel; `halted` the stalled watermark of each halted ASID; `seen` the packets received;
`fullAt` when a delivery queue began to hold a packet back; `lost` the least stamp of an own packet that was discarded
(R218); `cut` the tags of which a resent packet was discarded here, whose close beacons go no further; `via` the channel, as ASID × 16 +
number, of the last packet sent on from here with each tag, as device × 16 + port, whose route its close beacon takes (R126). -/
structure Ordered where
  prevStamp : Nat := 0
  prevSeq   : Nat := 0
  inject    : List Inject := []
  inp       : Tab InPort := []
  outp      : Tab OutPort := []
  local_    : List OPacket := []
  queues    : Tab (List OPacket) := []
  halted    : Tab Nat := []
  seen      : List OPacket := []
  fullAt    : Tab Nat := []
  lost      : Option Nat := none
  cut       : List (Nat × Nat) := []
  via       : Tab Nat := []
  deriving DecidableEq, Repr

/-- An access of this package to peer-device or host space that is not yet performed (R117). `agent` is none for an access of the device on
behalf of a job; `task` is the record of the task that made it. -/
structure ExtOp where
  id     : Nat
  agent  : Option AgentId
  asid   : Nat
  job    : Nat
  task   : Option Word
  host   : Bool
  dev    : Nat
  pod    : Nat
  addr   : Nat
  op     : OutOp
  ptr    : Word
  store  : Bool
  sent   : Bool
  cov    : List Nat
  since  : Nat
  deriving DecidableEq, Repr

/-- An outside read that the device makes for a job (R117). -/
structure DevAsk where
  asid : Nat
  job  : Nat
  host : Bool
  dev  : Nat
  pod  : Nat
  addr : Nat
  n    : Nat
  ptr  : Word
  deriving DecidableEq, Repr

/-- What an outside read made by the device for a job has brought (R117): its bytes, or the status of a read that failed (R196, R197). -/
structure DevReply where
  asid : Nat
  job  : Nat
  ptr  : Word
  n    : Nat
  data : Except Cause (List Byte)
  deriving DecidableEq, Repr

/-- A release not yet visible outside (R118, R120): its lines and the outside writes it still covers. -/
structure Release where
  lines : List Nat
  cov   : List Nat
  deriving DecidableEq, Repr

/-- What has left the package for other devices or the host, in order. -/
inductive OutMsg where
  | item (i : GItem)
  | ack (node : Word) (i : GItem)
  | late (node : Word) (group : Nat) (deep : Bool)
  | route (node : Word) (group : Nat) (child relay : Word)
  | message (m : Msg) (node : Word)
  | lost (m : Msg)
  | packet (port : Nat) (p : OPacket)
  | beacon (port : Nat) (bound : Nat)
  | closeBeacon (port : Nat) (tag : Nat × Nat)
  | reply (asid : Nat) (data : List Byte) (poisoned : Bool)
  deriving DecidableEq, Repr

/-- A message that has not entered its inbox (R336): its sender, its job and the record of its task, where it comes from this package, its
target node, and for a target on another device the number by which that device answers. -/
structure Flight where
  sender : Option AgentId
  job    : Nat
  task   : Option Word
  msg    : Msg
  node   : Word
  id     : Option Nat
  deriving DecidableEq, Repr

/-- The fabric: collective items, late notices and messages in flight inside the package, outside accesses, replies that the device
awaits for a job, releases pending outside, and what has left. -/
structure Fabric where
  items   : List GItem := []
  acks    : List GItem := []
  lates   : List (Nat × Nat × Nat × Bool) := []
  msgs    : List Flight := []
  exts    : List ExtOp := []
  nextExt : Nat := 0
  replies : List DevReply := []
  rels    : List Release := []
  out     : List OutMsg := []
  deadPorts : List Nat := []
  deriving DecidableEq, Repr

/-! ## Host window, heat and power -/

/-- An ordered channel of a partition as the device read it when the partition went live (R218): its members in ascending order, and the
route table's entries by device. -/
structure Channel where
  members : List Nat
  routes  : Tab Nat
  deriving DecidableEq, Repr

/-- The host window (R214–R222): registers, partition descriptors, what was raised and what the last host read returned. `chans` holds the
channels of live partitions by ASID × 16 + number (R218). -/
structure HostWin where
  bootst : Nat := 0
  apasid : Nat := 0
  apbase : Nat := 0
  herr   : BitVec 3 := 0
  frzsel : BitVec 12 := 0
  pdesc  : Tab (List Word) := []
  chans  : Tab Channel := []
  hcmd   : List Word := List.replicate 8 0
  hres   : Word := 0
  sig    : List Byte := []
  msix   : List Nat := []
  rd     : List Byte := []
  rdBad  : Bool := false
  pendResume : List Nat := []
  fwVersion : Nat := 0
  fwDigest : List Byte := []
  deriving DecidableEq, Repr

/-- State of a thermal domain (R209): 0 normal, 1 HOT or DOUBLED, 2 package fault; times in ns; last reading in 1/16 °C. -/
structure Thermal where
  st      : Nat := 0
  since   : Nat := 0
  lastTr  : Option Nat := none
  reading : Int := 1120
  deriving DecidableEq, Repr

/-- A ballast sequencer (R207): the previous window's count and the fade in progress with its start. -/
structure Ballast where
  prev  : Nat := 0
  level : Nat := 0
  since : Nat := 0
  deriving DecidableEq, Repr

/-- Heat, power and slack (R187, R207–R212). `sent` holds when the device's last contribution to a round of a group that takes part in slack
control left the package, by (ASID × 64 + group) × 2^40 + round; `vacated` lists the pair positions (group × 64 + row) that a migration
left and whose cores have not all left HOT since (R211). -/
structure Plant where
  doms    : Tab Thermal := []
  ballast : Tab Ballast := []
  refresh : Tab Nat := []
  soff    : Nat := 0
  slacks  : List Nat := []
  sent    : Tab Nat := []
  slackAt : Nat := 0
  pendHot : List Nat := []
  moving  : Option (Nat × Nat × Nat) := none
  vacated : List Nat := []
  deriving DecidableEq, Repr

/-- The device as it was built and started (R13–R20): pair count, table entries that differ from the default placement, bad
positions (group × 64 + row), the channels out of service (stack × 32 + channel), lanes, device number, pod and pod-time offset. `failing`: a
package fault has arisen, and not every job has ended yet; `fault`: it has been carried out (R197). -/
structure Device where
  pairs    : Nat := 256
  lpt      : Tab Word := []
  badPos   : List Nat := []
  channelsOut : List Nat := []
  lanes    : Word := 0x8888888888888888
  devId    : Nat := 0
  podId    : Nat := 0
  podOff   : Nat := 0
  failing  : Bool := false
  fault    : Bool := false
  deriving DecidableEq, Repr

/-! ## The schedule and the unit in progress -/

/-- A change of the caches that time brings (R86, R91): a translation is cached by one cache or dropped from it, a handle entry is cached
or dropped, or every cache drops what it holds. -/
inductive CacheMove where
  | fillPage (at_ asid : Nat) (va : Nat)
  | dropPage (at_ asid : Nat) (page : Nat)
  | fillHandle (asid : Nat) (h : Nat)
  | dropHandle (asid : Nat) (h : Nat)
  | dropAll
  deriving DecidableEq, Repr

/-- Who moves: an agent, or an event of the table of operations. -/
inductive Move where
  | agent (a : AgentId)
  | event (i : Instr)
  deriving DecidableEq, Repr

/-- One turn of the schedule: nanoseconds that pass, cache changes, and who moves (log entry 1). -/
structure Turn where
  ns     : Nat
  caches : List CacheMove
  move   : Move
  deriving DecidableEq, Repr

/-- How the word in progress ended: done, a trap (taken, or waiting to be), it waits and is tried again, its chunk must end first (with an
operand it keeps), it put its agent to sleep (for an outside access, with the access it awaits), or it ended its agent's stream. -/
inductive UnitRes where
  | done
  | trapped (c : Cause) (v : Word)
  | blocked (c : Cause) (v : Word)
  | stalled
  | again
  | keeping (v : Word)
  | slept (k : Sleep)
  | outside (host : Bool) (dev pod addr : Nat) (op : OutOp) (ptr : Word) (cov : List Nat)
  | gone
  deriving DecidableEq, Repr

/-- Scratch of the word in progress: the word, the operand view of a paired bundle (R47), whether it is the second word, whether
its bundle is paired, where the branch it took goes, how it ended, whether it forms a chunk of its own (R110), whether its chunk ends after
it (R105), the register codes it has popped, and whether it is only tried, as if what it waits for had come. -/
structure UnitSt where
  word   : W32 := 0
  view   : Option (Vector Word 32 × Vector Row 128) := none
  second : Bool := false
  paired : Bool := false
  taken  : Option (Word × Bool) := none
  res    : UnitRes := .done
  own    : Bool := false
  ends   : Bool := false
  popped : List Nat := []
  tried  : Bool := false
  deriving DecidableEq, Repr

end Sys2Proof.Machine
end

