-- ==== Sys2Proof/Machine/State.lean ====
section
/-! DEFINITION. The state of the package, its faults and refusals, and the state right after package reset. -/

namespace Sys2Proof.Machine

/-- Why the machine stops: it never does. The manual gives every instruction and event an effect or a trap, so there is no fault to
name. -/
inductive Fault where
  deriving DecidableEq, Repr

/-- Why the machine gives no meaning. -/
inductive Refusal where
  /-- Raised by `exec` for a row of the table that has no meaning yet. Safe: nothing is claimed of it. -/
  | notModelled (mnemonic : String)
  deriving DecidableEq, Repr

/-- The whole package. `me` is the agent `cur`; every other agent that is not in its reset state stands in `others`, keyed by
core × 4 + kind. `cores` is keyed by logical core, `clusters` by logical cluster, `pairs` by twin cluster pair, `twins` by
pair of cores × 4 + cell, `caps` by ASID × 4096 + handle, `jobs` by ASID × 2^32 + job id, `jobCount` by ASID (the next number),
`bagRot` by ASID (the cluster that received the last record), `lastTaken` is the stream the last slot came from, `pipes` by ASID × 16 + pipeline, `groups` by core × 64 + slot. An
unlisted entry is in its reset state. `turns` and `free` (the free values drawn, by ASID, 256 for the host) belong to the model (log
entries 1 and 6). -/
structure State where
  cur      : AgentId := ⟨0, .main⟩
  me       : Agent := {}
  unit     : UnitSt := {}
  others   : Tab Agent := []
  cores    : Tab Core := []
  clusters : Tab Cluster := []
  pairs    : Tab Pair := []
  twins    : Tab TwinCell := []
  mem      : Memory := {}
  caps     : Tab CapState := []
  jobs     : Tab Job := []
  streams  : Tab Stream := []
  jobCount : Tab Nat := []
  bagRot   : Tab Nat := []
  lastTaken : Nat := 63
  hung     : List Nat := []
  sumAt    : Nat := 0
  pipes    : Tab Pipe := []
  groups   : Tab GSlot := []
  ord      : Ordered := {}
  fab      : Fabric := {}
  host     : HostWin := {}
  plant    : Plant := {}
  dev      : Device := {}
  now      : Nat := 0
  turns    : List Turn := []
  free     : Tab Nat := []
  deriving DecidableEq, Repr

/-- The package right after package reset (R13, R19, R49, R61, R122, R145, R215): every field at the value the manual states, and
each value the manual leaves out as log entries 2, 3, 4, 22 and 32 name it. -/
def State.reset : State where
  cur := ⟨0, .main⟩
  me := {}
  unit := {}
  others := []
  cores := []
  clusters := []
  pairs := []
  twins := []
  mem := {}
  caps := []
  jobs := []
  streams := []
  jobCount := []
  bagRot := []
  lastTaken := 63
  hung := []
  sumAt := 0
  pipes := []
  groups := []
  ord := {}
  fab := {}
  host := {}
  plant := {}
  dev := {}
  now := 0
  turns := []
  free := []

end Sys2Proof.Machine
end

