-- ==== Sys2Proof/Machine/Memory.lean ====
section
/-! DEFINITION. The bytes and tags of the package (R1, R68, R69, R84, R93): system addresses, the canonical byte list, little-endian
access, and the decode-table presets. -/

namespace Sys2Proof.Machine

/-! ## System addresses

Package memory stands at its physical addresses. Above it stand the stash slices, the decode tables and the instruction stores,
each at a place of the model's own. -/

/-- Byte `o` of the stash slice of core `c` (R88). -/
def stashAddr (c o : Nat) : Nat := 2 ^ 44 + c * 2 ^ 18 + o

/-- Byte `o` of the decode table of core `c` (R68). -/
def tableAddr (c o : Nat) : Nat := 2 ^ 45 + c * 2 ^ 10 + o

/-- Byte `o` of the instruction store of the loader or storer of core `c` (R55). -/
def istoreAddr (c : Nat) (storer : Bool) (o : Nat) : Nat := 2 ^ 46 + (2 * c + bitNat storer) * 2 ^ 14 + o

/-! ## Decode-table presets (R69) -/

/-- The finite value ± m × 2^e as an e8m10 pattern (R64). -/
def e8m10Of (neg : Bool) (m : Nat) (e : Int) : Nat := roundPack .e8m10 .rne neg m e

/-- The entry of code `c` in the E4M3 preset. -/
def presetE4M3 (c : Nat) : Nat :=
  let s := c / 128 % 2
  let e := c / 8 % 16
  let m := c % 8
  if c % 128 = 127 then 0x3FE00 + 2 ^ 19 + s * 2 ^ 18
  else if e = 0 then e8m10Of (s == 1) m (-9)
  else e8m10Of (s == 1) (8 + m) ((e : Int) - 10)

/-- The entry of code `c` in the E5M2 preset. -/
def presetE5M2 (c : Nat) : Nat :=
  let s := c / 128 % 2
  let e := c / 4 % 32
  let m := c % 4
  if e = 31 then
    if m = 0 then 0x3FC00 + 2 ^ 20 + s * 2 ^ 18 else 0x3FE00 + 2 ^ 19 + s * 2 ^ 18
  else if e = 0 then e8m10Of (s == 1) m (-16)
  else e8m10Of (s == 1) (4 + m) ((e : Int) - 17)

/-! ## Bytes -/

/-- What an unlisted address reads as: the E4M3 preset in a decode table (R69), 0 elsewhere (log entry 3). -/
def unlisted (a : Nat) : Byte :=
  if 2 ^ 45 ≤ a ∧ a < 2 ^ 46 then
    let o := (a - 2 ^ 45) % 2 ^ 10
    BitVec.ofNat 8 (presetE4M3 (o / 4) / 2 ^ (8 * (o % 4)))
  else 0

/-- The byte at an address. -/
def byteAt (m : List Host.Cell) (a : Nat) : Byte := (tabGet a m).getD (unlisted a)

/-- The byte list after a write: an entry that equals what its address reads as unlisted is not kept. -/
def setByte (a : Nat) (b : Byte) (m : List Host.Cell) : List Host.Cell :=
  if b = unlisted a then tabDel a m else tabSet a b m

/-- The byte list after writing consecutive bytes. -/
def setBytes (a : Nat) : List Byte → List Host.Cell → List Host.Cell
  | [], m => m
  | b :: bs, m => setBytes (a + 1) bs (setByte a b m)

/-- `n` consecutive bytes. -/
def bytesAt (m : List Host.Cell) (a : Nat) : Nat → List Byte
  | 0 => []
  | n + 1 => byteAt m a :: bytesAt m (a + 1) n

/-- No entry of the list equals what its address reads as unlisted. -/
def noIdle : List Host.Cell → Bool
  | [] => true
  | (a, b) :: m => b != unlisted a && noIdle m

/-- A set of numbers is in rising order. -/
def risingFrom : List Nat → Bool
  | [] => true
  | [_] => true
  | a :: b :: m => a < b && risingFrom (b :: m)

/-- The canonical form of memory: addresses strictly rising, no entry that an unlisted address would read as, and the set of
full words strictly rising. -/
def Memory.wf (m : Memory) : Bool := tabSorted m.bytes && noIdle m.bytes && risingFrom m.tags

/-! ## Little-endian values (R1) -/

/-- Bytes as a natural number, lowest address first. -/
def leNat : List Byte → Nat
  | [] => 0
  | b :: bs => b.toNat + 256 * leNat bs

/-- A natural number as `n` bytes, lowest address first. -/
def leBytes : Nat → Nat → List Byte
  | 0, _ => []
  | n + 1, v => BitVec.ofNat 8 v :: leBytes n (v / 256)

/-- `n` bytes of a word. -/
def wordBytes (n : Nat) (v : Word) : List Byte := leBytes n v.toNat

/-- Bytes as a word. -/
def leWord (bs : List Byte) : Word := BitVec.ofNat 64 (leNat bs)

/-- `n` words from consecutive bytes. -/
def leWords : Nat → List Byte → List Word
  | 0, _ => []
  | n + 1, bs => leWord (bs.take 8) :: leWords n (bs.drop 8)

/-- Bits hi:lo of a word as a number, given lo and the count. -/
def wbits (v : Word) (lo n : Nat) : Nat := v.toNat / 2 ^ lo % 2 ^ n

/-- Bit `i` of a word. -/
def wbit (v : Word) (i : Nat) : Bool := wbits v i 1 == 1

/-- Word `i` of a record. -/
def wordAt (ws : List Word) (i : Nat) : Word := ws.getD i 0

/-! ## Committed memory of a state -/

/-- The committed word of `n` bytes at a system address. -/
def State.peek (s : State) (a n : Nat) : Nat := leNat (bytesAt s.mem.bytes a n)

/-- Committed bytes written. -/
def State.poke (s : State) (a : Nat) (bs : List Byte) : State :=
  { s with mem := { s.mem with bytes := setBytes a bs s.mem.bytes } }

/-- Whether the full tag of an aligned word is set, in committed state. -/
def State.fullAt (s : State) (a : Nat) : Bool := s.mem.tags.contains a

/-- A committed full tag set or cleared. -/
def State.setTag (s : State) (a : Nat) (full : Bool) : State :=
  { s with mem := { s.mem with tags := if full then setAdd a s.mem.tags else setDel a s.mem.tags } }

/-- The 64-byte line of an address. -/
def lineOf (a : Nat) : Nat := a / 64

/-- The lines of `n` bytes at an address. -/
def linesOf (a n : Nat) : List Nat := (List.range ((a % 64 + n + 63) / 64)).map (fun i => a / 64 + i)

end Sys2Proof.Machine
end

