-- ==== Sys2Proof/WellFormed.lean ====
section
/-! DEFINITION. Well-formed instructions: the static limits the entries put on operand fields (R229, R231, R244). The limits
themselves are `operandLimits`, beside the decoder whose words they judge. -/

namespace Sys2Proof

/-- An instruction whose operand fields the manual allows. -/
def Instr.wf (i : Instr) : Bool := operandLimits i

end Sys2Proof
end

