-- ==== Sys2Proof/Machine/Access.lean ====
section
/-! DEFINITION. Agents and what they reach: logical numbering (R11–R14), partitions (R217), handles and the checks of R87, spaces
(R88), pins (R89, R201), translation (R90, R91), and the chunk an agent's accesses belong to (R104–R110). -/

namespace Sys2Proof.Machine

/-- Codes of R189. -/
def Cause.code : Cause → Nat
  | .illegal => 0x01
  | .priv => 0x02
  | .align => 0x03
  | .bounds => 0x04
  | .handle => 0x05
  | .page => 0x06
  | .cap => 0x07
  | .gen => 0x08
  | .licence => 0x09
  | .seqgap => 0x0B
  | .parity => 0x0C
  | .hang => 0x0D
  | .watermark => 0x0E
  | .peerdead => 0x0F
  | .fpe => 0x10
  | .stream => 0x11
  | .soft => 0x12

/-- The cause of an assigned code. -/
def Cause.ofCode : Nat → Option Cause
  | 0x01 => some .illegal
  | 0x02 => some .priv
  | 0x03 => some .align
  | 0x04 => some .bounds
  | 0x05 => some .handle
  | 0x06 => some .page
  | 0x07 => some .cap
  | 0x08 => some .gen
  | 0x09 => some .licence
  | 0x0B => some .seqgap
  | 0x0C => some .parity
  | 0x0D => some .hang
  | 0x0E => some .watermark
  | 0x0F => some .peerdead
  | 0x10 => some .fpe
  | 0x11 => some .stream
  | 0x12 => some .soft
  | _ => none

end Sys2Proof.Machine

namespace Sys2Proof

/-! ## Agents -/

/-- Code of an agent kind (R133). -/
def AgentKind.code : AgentKind → Nat
  | .main => 0
  | .loader => 1
  | .storer => 2

/-- The agent kind of a code; 3 does not occur. -/
def AgentKind.ofCode : Nat → Option AgentKind
  | 0 => some .main
  | 1 => some .loader
  | 2 => some .storer
  | _ => none

/-- Key of an agent: ascending logical core, main before loader before storer (R107). -/
def AgentId.key (a : AgentId) : Nat := a.core * 4 + a.kind.code

/-- The agent of a key. -/
def agentOfKey (k : Nat) : AgentId := ⟨k / 4, (AgentKind.ofCode (k % 4)).getD .main⟩

end Sys2Proof

namespace Sys2Proof.Machine

/-- An agent of the package. -/
def State.agent (s : State) (a : AgentId) : Agent := if a = s.cur then s.me else (tabGet a.key s.others).getD {}

/-- An agent replaced. -/
def State.setAgent (s : State) (a : AgentId) (g : Agent) : State :=
  if a = s.cur then { s with me := g } else { s with others := tabSet a.key g s.others }

/-- An agent changed. -/
def State.modAgent (s : State) (a : AgentId) (f : Agent → Agent) : State := s.setAgent a (f (s.agent a))

/-- The same package with the turn given to `a`. -/
def State.focus (s : State) (a : AgentId) : State :=
  if a = s.cur then s
  else { s with cur := a, me := s.agent a, others := tabSet s.cur.key s.me (tabDel a.key s.others) }

/-- `f` done as agent `a`, with no word in progress; the turn then goes back. -/
def State.asAgent (s : State) (a : AgentId) (f : State → State) : State :=
  { (f { s.focus a with unit := {} }).focus s.cur with unit := s.unit }

/-- The agents that are not in their reset state, with the current one. -/
def State.agents (s : State) : List (AgentId × Agent) :=
  (tabSet s.cur.key s.me s.others).map fun kg => (agentOfKey kg.1, kg.2)

/-- The context of the current agent changed. -/
def State.modCtx (s : State) (f : Ctx → Ctx) : State := { s with me := { s.me with ctx := f s.me.ctx } }

/-- The chunk of the current agent changed. -/
def State.modChunk (s : State) (f : Chunk → Chunk) : State := { s with me := { s.me with chunk := f s.me.chunk } }

/-! ## Logical numbering (R11–R15, R20) -/

/-- Cluster of a logical core. -/
def clusterOf (c : Nat) : Nat := c / 8
/-- Twin cluster pair of a logical cluster. -/
def pairOf (k : Nat) : Nat := k % 256
/-- The twin cluster. -/
def twinCluster (k : Nat) : Nat := if k < 256 then k + 256 else k - 256
/-- Whether a cluster stands on die U. -/
def onDieU (k : Nat) : Bool := decide (256 ≤ k)
/-- The twin core. -/
def twinCore (c : Nat) : Nat := if c < 2048 then c + 2048 else c - 2048
/-- Whether a logical core exists on this part. -/
def State.coreExists (s : State) (c : Nat) : Bool := c < 4096 && c % 2048 / 8 < s.dev.pairs
/-- Logical cores of the part (R19). -/
def State.ncore (s : State) : Nat := 16 * s.dev.pairs

/-- The entry of pair `k` under the default placement (R14). -/
def defaultEntry (k : Nat) : Word := BitVec.ofNat 64 (k % 8 + k / 8 * 8 + 2 ^ 9 + 0xFAC688 * 2 ^ 16)

/-- Entry `k` of the logical-to-physical table (R13). -/
def State.lptEntry (s : State) (k : Nat) : Word :=
  if k < s.dev.pairs then (tabGet k s.dev.lpt).getD (defaultEntry k) else 0

/-- Physical group and row of a pair. -/
def State.pairPos (s : State) (k : Nat) : Nat × Nat := (wbits (s.lptEntry k) 0 3, wbits (s.lptEntry k) 3 6)

/-- Channels in service of a stack (R17, R19). -/
def Device.channelsOf (d : Device) (i : Nat) : Nat := 32 - (d.channelsOut.filter fun c => c / 32 == i).length

/-- Channels in service of the package (R17, R19). -/
def Device.channels (d : Device) : Nat := 256 - d.channelsOut.length

/-- Memory capacity in bytes (R17, R19). -/
def State.hbmsz (s : State) : Nat := 2 ^ 31 * s.dev.channels

/-- `CHN` and `STKMSK` of a part: a 6-bit count and a bit for each stack. -/
def Device.stackWord (d : Device) : Nat :=
  ((List.range 8).map fun i =>
    d.channelsOf i * 2 ^ (16 + 6 * i) + (if d.channelsOf i = 0 then 0 else 2 ^ i)).foldl (· + ·) 0

/-- Lanes of a Felril port: 8, 4, or 0 where it is absent (R18, R19). -/
def State.portLanes (s : State) (p : Nat) : Nat := wbits s.dev.lanes (4 * p) 4

/-- Whether a Felril port joins this device to a neighbour: it is trained, at 8 or at 4 lanes (R18, R20). -/
def State.linked (s : State) (p : Nat) : Bool := s.portLanes p != 0

/-- Word `i` of the capability block (R19). -/
def State.capWord (s : State) (i : Nat) : Word :=
  BitVec.ofNat 64 <| match i with
  | 0 => 0x0301
  | 1 => s.dev.pairs + 16 * s.dev.pairs * 2 ^ 16
  | 2 => s.dev.stackWord
  | 3 => s.hbmsz
  | 4 => s.dev.channels * (12 * 2 ^ 20)
  | 5 => s.dev.lanes.toNat
  | 6 => Config.fclk + 3800 * 2 ^ 32
  | 7 => 256 + 4096 * 2 ^ 16
  | _ => 0

/-- Bytes of the capability block from `o` on. -/
def State.capBytes (s : State) (o n : Nat) : List Byte :=
  (List.range n).map fun i => BitVec.ofNat 8 ((s.capWord ((o + i) / 8)).toNat / 2 ^ (8 * ((o + i) % 8)))

/-! ## Tables of the host in package memory (R85, R90, R218) -/

/-- `n` bytes of package memory at a physical address, as the device reads a table there: nothing at or above HBMSZ, where no memory
exists, holds anything but zeros (R20, log entry 29). -/
def State.phys (s : State) (a n : Nat) : List Byte :=
  let k := min n (s.hbmsz - a)
  bytesAt s.mem.bytes a k ++ List.replicate (n - k) 0

/-- A little-endian number of `n` bytes in a table. -/
def State.physNat (s : State) (a n : Nat) : Nat := leNat (s.phys a n)

/-! ## Free values (R5, log entry 6) -/

/-- The free values that the partition of an address space has drawn. -/
def State.drawn (s : State) (asid : Nat) : Nat := (tabGet asid s.free).getD 0

/-- `n` free values of an address space drawn. -/
def State.draw (s : State) (asid n : Nat) : State := { s with free := tabSet asid (s.drawn asid + n) s.free }

/-- The place from which a partition that goes live draws: no partition before it drew there. -/
def State.freshDraws (s : State) (asid : Nat) : State :=
  { s with free := tabSet asid ((s.drawn asid / 2 ^ 64 + 1) * 2 ^ 64) s.free }

/-! ## Partitions (R217) -/

/-- Word `i` of the partition descriptor of an address space. -/
def State.pdWord (s : State) (asid i : Nat) : Word := wordAt ((tabGet asid s.host.pdesc).getD []) i

/-- Whether the partition is live. -/
def State.live (s : State) (asid : Nat) : Bool := wbit (s.pdWord asid 0) 0

/-- Whether counter mode is selected (R32). -/
def State.rdycnt (s : State) (asid : Nat) : Bool := wbit (s.pdWord asid 0) 1

/-- Whether a pair belongs to the partition. -/
def State.ownsPair (s : State) (asid k : Nat) : Bool := wbit (s.pdWord asid (8 + k / 64)) (k % 64)

/-- Whether a logical core exists and belongs to the partition. -/
def State.ownsCore (s : State) (asid c : Nat) : Bool := s.coreExists c && s.ownsPair asid (pairOf (clusterOf c))

/-- The partition's clusters in ascending order. -/
def State.clustersOf (s : State) (asid : Nat) : List Nat :=
  let ks := (List.range s.dev.pairs).filter (s.ownsPair asid)
  ks ++ ks.map (· + 256)

/-- The address space whose partition owns a pair. -/
def State.asidOfPair (s : State) (k : Nat) : Option Nat :=
  (s.host.pdesc.find? fun d => wbit (wordAt d.2 0) 0 && wbit (wordAt d.2 (8 + k / 64)) (k % 64)).map (·.1)

/-- Key of a job. -/
def jobKey (asid id : Nat) : Nat := asid * 2 ^ 32 + id

/-- A job. -/
def State.job (s : State) (key : Nat) : Job := (tabGet key s.jobs).getD {}

/-- A job changed, where it exists. -/
def State.modJob (s : State) (key : Nat) (f : Job → Job) : State :=
  match tabGet key s.jobs with
  | some j => { s with jobs := tabSet key (f j) s.jobs }
  | none => s

/-- Key of the current agent's job. -/
def State.myJob (s : State) : Nat := jobKey s.me.asid s.me.job

/-- Core data of a logical core. -/
def State.core (s : State) (c : Nat) : Core := (tabGet c s.cores).getD {}

/-- Core data changed. -/
def State.modCore (s : State) (c : Nat) (f : Core → Core) : State := { s with cores := tabMod c {} f s.cores }

/-- Cluster data. -/
def State.cluster (s : State) (k : Nat) : Cluster := (tabGet k s.clusters).getD {}

/-- Cluster data changed. -/
def State.modCluster (s : State) (k : Nat) (f : Cluster → Cluster) : State := { s with clusters := tabMod k {} f s.clusters }

/-- Twin cluster pair data. -/
def State.pair (s : State) (k : Nat) : Pair := (tabGet k s.pairs).getD {}

/-- Twin cluster pair data changed. -/
def State.modPair (s : State) (k : Nat) (f : Pair → Pair) : State := { s with pairs := tabMod k {} f s.pairs }

/-! ## Time -/

/-- Ticks since package reset (R3, R61). -/
def State.tick (s : State) : Nat := s.now / 10

/-- Pod time in ns (R18). -/
def State.podt (s : State) : Nat := s.now + s.dev.podOff

/-! ## Handle entries (R85) -/

/-- Handle index of a pointer (R84). -/
def handleOf (p : Word) : Nat := wbits p 52 12
/-- Offset of a pointer (R84). -/
def offsetOf (p : Word) : Nat := wbits p 0 52
/-- A pointer moved by a distance: the handle stays, the offset wraps modulo 2^52 (R84). -/
def ptrAdd (p : Word) (d : Nat) : Word := BitVec.ofNat 64 (handleOf p * 2 ^ 52 + (offsetOf p + d) % 2 ^ 52)

/-- `BASE`. -/
def hBase (e : List Word) : Nat := (wordAt e 0).toNat
/-- `BOUND`. -/
def hBound (e : List Word) : Nat := wbits (wordAt e 1) 0 52
/-- `SPACE`. -/
def hSpace (e : List Word) : Nat := wbits (wordAt e 2) 0 3
/-- `WIN`. -/
def hWin (e : List Word) : Nat := wbits (wordAt e 2) 3 2
/-- `CPOL`. -/
def hCpol (e : List Word) : Nat := wbits (wordAt e 2) 5 2
/-- `VALID`. -/
def hValid (e : List Word) : Bool := wbit (wordAt e 2) 7
/-- `WP`. -/
def hWp (e : List Word) : Bool := wbit (wordAt e 2) 8
/-- `CAPT`. -/
def hCapt (e : List Word) : Bool := wbit (wordAt e 2) 9
/-- `GENT`. -/
def hGent (e : List Word) : Bool := wbit (wordAt e 2) 10
/-- `THDR`. -/
def hThdr (e : List Word) : Bool := wbit (wordAt e 2) 11
/-- `PSLOT`. -/
def hPslot (e : List Word) : Nat := wbits (wordAt e 2) 12 3
/-- `HGEN`. -/
def hHgen (e : List Word) : Nat := wbits (wordAt e 2) 16 16
/-- `DEVID`. -/
def hDevid (e : List Word) : Nat := wbits (wordAt e 2) 32 13
/-- `POD`. -/
def hPod (e : List Word) : Nat := wbits (wordAt e 2) 45 4
/-- `THP`. -/
def hThp (e : List Word) : Word := wordAt e 3

/-- The entry of the capability block as `HTLD` shows it (R318): `BOUND` 0x100, `VALID` and `WP` set. -/
def capHandle : List Word := [0, 0x100, 0x180, 0]

/-- A handle entry without its reserved bits, which read 0 (R2, R85). -/
def maskEntry (e : List Word) : List Word :=
  [wordAt e 0, BitVec.ofNat 64 (wbits (wordAt e 1) 0 52),
    BitVec.ofNat 64 (wbits (wordAt e 2) 0 15 + 2 ^ 16 * wbits (wordAt e 2) 16 33), wordAt e 3]

/-- The place of a handle entry in the table of an address space (R85, R217). -/
def State.entryAddr (s : State) (asid h : Nat) : Nat := (s.pdWord asid 1).toNat + 32 * h

/-- The handle entry in force (R86): a cached copy where one stands, else the table in memory. -/
def State.handle (s : State) (asid h : Nat) : List Word :=
  if h = 0xFFF then capHandle
  else
    match s.mem.hcopies.find? fun c => c.asid == asid && c.h == h with
    | some c => c.entry
    | none => maskEntry (leWords 4 (s.phys (s.entryAddr asid h) 32))

/-! ## Translation (R90, R91) -/

/-- The result of a walk: physical address, writable, executable. -/
structure Leaf where
  pa    : Nat
  write : Bool
  exec  : Bool
  deriving DecidableEq, Repr

/-- A page-table entry. -/
def State.pte (s : State) (a : Nat) : Word := BitVec.ofNat 64 (s.physNat a 8)

/-- One upper level of the walk: the next table, or failure on `V` = 0, `LEAF` = 1 or a non-zero reserved bit. -/
def State.nextTable (s : State) (t i : Nat) : Option Nat :=
  let e := s.pte (t + 8 * i)
  if !wbit e 0 || wbit e 1 || wbits e 4 8 != 0 || wbits e 52 12 != 0 then none else some (wbits e 12 40 * 2 ^ 12)

/-- The lower levels of the walk. -/
def State.walkLeaf (s : State) (t va : Nat) : Option Leaf :=
  let e := s.pte (t + 8 * (va / 2 ^ 21 % 2 ^ 9))
  if !wbit e 0 || wbits e 52 12 != 0 then none
  else if wbit e 1 then
    if wbits e 4 17 != 0 then none
    else some ⟨wbits e 21 31 * 2 ^ 21 + va % 2 ^ 21, wbit e 2, wbit e 3⟩
  else if wbits e 4 4 != 0 then none
  else
    let e := s.pte (wbits e 8 44 * 2 ^ 8 + 8 * (va / 2 ^ 16 % 2 ^ 5))
    if !wbit e 0 || !wbit e 1 || wbits e 4 12 != 0 || wbits e 52 12 != 0 then none
    else some ⟨wbits e 16 36 * 2 ^ 16 + va % 2 ^ 16, wbit e 2, wbit e 3⟩

/-- The walk of R90 from the root the partition descriptor names. -/
def State.walk (s : State) (asid va : Nat) : Option Leaf :=
  match s.nextTable (s.pdWord asid 2).toNat (va / 2 ^ 39 % 2 ^ 9) with
  | none => none
  | some t =>
    match s.nextTable t (va / 2 ^ 30 % 2 ^ 9) with
    | none => none
    | some t => s.walkLeaf t va

/-- The caches that an access of a core looks in: its own, then its cluster's (R91). -/
def cachesOf (core : Nat) : List Nat := [core, 4096 + clusterOf core]

/-- The cache of accesses that no core makes: outside observers, the aperture, the dispatcher's digest (R91, log entry 14). -/
def hubCaches : List Nat := [4608]

/-- A cached translation of a page in the first of some caches that holds one (R91). -/
def State.cached (s : State) (asid page : Nat) (ks : List Nat) : Option TlbEntry :=
  ks.findSome? fun k => s.mem.tlb.find? fun c => c.at_ == k && c.asid == asid && c.page == page

/-- Translation of one virtual address: through a cached page where one stands (R91), else by a walk; `none` is PAGE. -/
def State.translate (s : State) (ks : List Nat) (asid va : Nat) (wr fetch : Bool) : Option Nat :=
  if va / 2 ^ 48 != 0 then none
  else
    let r := match s.cached asid (va / 2 ^ 16) ks with
      | some c => some (Leaf.mk (c.pa + va % 2 ^ 16) c.write c.exec)
      | none => s.walk asid va
    match r with
    | none => none
    | some l => if (wr && !l.write) || (fetch && !l.exec) || s.hbmsz ≤ l.pa then none else some l.pa

/-- Translation of `n` bytes, page by page; `fuel` bounds the pages. -/
def State.translateRange (s : State) (ks : List Nat) (asid : Nat) (wr fetch : Bool) : Nat → Nat → Nat → Option (List (Nat × Nat))
  | 0, _, _ => some []
  | fuel + 1, va, n =>
    if n = 0 then some []
    else
      let k := min n (2 ^ 16 - va % 2 ^ 16)
      match s.translate ks asid va wr fetch with
      | none => none
      | some pa =>
        match s.translateRange ks asid wr fetch fuel ((va + k) % 2 ^ 64) (n - k) with
        | none => none
        | some segs => some ((pa, k) :: segs)

/-- The segments of `n` bytes of an address space, translated through some caches. -/
def State.segsOf (s : State) (ks : List Nat) (asid va n : Nat) (wr fetch : Bool) : Option (List (Nat × Nat)) :=
  s.translateRange ks asid wr fetch (n / 2 ^ 16 + 2) va n

/-! ## The checks of R87 -/

/-- Who makes an access: address space, agent, job, its deterministic mode, and the generation its reads expect (R171). -/
structure Who where
  asid : Nat
  aid  : AgentId
  job  : Nat
  det  : Bool
  wgen : Nat
  deriving DecidableEq, Repr

/-- An access to be checked: read, write or both, bytes, alignment, and which steps and spaces apply. `spaces` lists the spaces
that do not raise HANDLE; `raw` asks for the raw window; `ali`, `gen` and `cap` say whether steps 2, 4 and 5 apply. -/
structure Acc where
  rd     : Bool
  wr     : Bool
  n      : Nat
  align  : Nat
  ali    : Bool := true
  raw    : Bool := false
  spaces : List Nat := [0, 1, 2, 3, 4, 5]
  gen    : Bool := true
  cap    : Bool := true
  fetch  : Bool := false
  deriving DecidableEq, Repr

/-- Where a checked access lands: segments of package memory or of a slice, the accessor's table window, the capability block,
or outside. -/
inductive Place where
  | mem (segs : List (Nat × Nat))
  | table (o : Nat)
  | capBlock (o : Nat)
  | outside (host : Bool) (dev pod addr : Nat)
  deriving DecidableEq, Repr

/-- Bytes a stored element takes in a window (R74); 4 stands for the raw window, whose bytes are as they are. -/
def winWidth : Nat → Nat
  | 1 => 1
  | 2 => 2
  | 3 => 2
  | _ => 4

/-- Whether the agent, in the job it runs for, holds the writer capability of a handle (R133, R134). -/
def State.holds (s : State) (w : Who) (h : Nat) : Bool :=
  match tabGet (w.asid * 4096 + h) s.caps with
  | some (.held a job) => a = w.aid && job == w.job
  | some .free | some (.offered _ _) | none => false

/-- Step 1: the entry and the pointer's space. -/
def stepHandle (e : List Word) (h : Nat) (a : Acc) : Bool :=
  hValid e && hSpace e ≤ 5 && hCpol e != 3 && !(hWin e != 0 && 3 ≤ hSpace e) && !(a.wr && hWp e) && !(a.wr && h == 0xFFF) &&
    a.spaces.contains (hSpace e) && !(a.raw && hWin e != 0)

/-- Step 2: alignment by the instruction, by R74 in an alias window and by R69 in the table window. -/
def stepAlign (e : List Word) (p : Word) (a : Acc) : Bool :=
  p.toNat % 2 ^ 52 % a.align = 0 && (hWin e = 0 || (offsetOf p % 4 = 0 && a.n % 4 = 0)) &&
    (hSpace e != 3 || ((a.n = 4 || a.n = 8) && offsetOf p % a.n = 0))

/-- Step 3: the bound, the slice's size in stash and peer-stash space (R88) and the table window's size (R69). -/
def stepBounds (e : List Word) (p : Word) (a : Acc) : Bool :=
  let o := offsetOf p
  let lim := if hSpace e = 3 then min (hBound e) 1032 else hBound e
  let so := o / 4 * winWidth (hWin e)
  let sn := (a.n + 3) / 4 * winWidth (hWin e)
  let ok := if hWin e = 0 then hBase e + o + a.n ≤ 2 ^ 18 else hBase e + so + sn ≤ 2 ^ 18
  o + a.n ≤ lim && ((hSpace e != 1 && hSpace e != 2) || ok)

/-- Step 5, with R135: what a store needs of the capability. -/
def State.stepCap (s : State) (w : Who) (e : List Word) (h : Nat) : Bool :=
  (!hCapt e || s.holds w h) &&
    !(w.det && ((!hCapt e && (hSpace e = 0 || hSpace e = 4 || hSpace e = 5)) || hSpace e = 2))

/-- Bytes of storage behind `n` image bytes at an offset: start and count (R74). -/
def storedRange (e : List Word) (o n : Nat) : Nat × Nat :=
  if hWin e = 0 then (o, n) else (o / 4 * winWidth (hWin e), (n + 3) / 4 * winWidth (hWin e))

/-- Step 6 and the place: translation in global space, none elsewhere (R88). -/
def State.placeOf (s : State) (w : Who) (e : List Word) (p : Word) (a : Acc) : Except Cause Place :=
  let r := storedRange e (offsetOf p) a.n
  if handleOf p = 0xFFF then .ok (.capBlock (offsetOf p))
  else
    match hSpace e with
    | 0 =>
      match s.segsOf (cachesOf w.aid.core) w.asid ((hBase e + r.1) % 2 ^ 64) r.2 a.wr a.fetch with
      | some segs => .ok (.mem segs)
      | none => .error .page
    | 1 => .ok (.mem [(stashAddr w.aid.core (hBase e + r.1), r.2)])
    | 2 => .ok (.mem [(stashAddr (clusterOf w.aid.core * 8 + hPslot e) (hBase e + r.1), r.2)])
    | 3 => .ok (.table (offsetOf p))
    | 4 => .ok (.outside false (hDevid e) (hPod e) ((hBase e + r.1) % 2 ^ 64))
    | _ => .ok (.outside true 0 0 ((hBase e + r.1) % 2 ^ 64))

/-- The checks of R87 in their order; the first failing one names the trap. -/
def State.check (s : State) (w : Who) (p : Word) (a : Acc) : Except Cause Place :=
  let h := handleOf p
  let e := s.handle w.asid h
  if !stepHandle e h a then .error .handle
  else if a.ali && !stepAlign e p a then .error .align
  else if !stepBounds e p a then .error .bounds
  else if a.gen && a.rd && hGent e && hHgen e != w.wgen then .error .gen
  else if a.cap && a.wr && !s.stepCap w e h then .error .cap
  else s.placeOf w e p a

/-- The current agent as an accessor. A task compares generations against 0 (R171). -/
def State.who (s : State) : Who :=
  let j := s.job s.myJob
  ⟨s.me.asid, s.cur, s.myJob, j.det, if s.me.task.isSome then 0 else j.span.wgen.toNat % 2 ^ 16⟩

/-! ## Pins and spills (R89, R201) -/

/-- Superblock of a slice that a system address lies in, as core × 1024 + number. -/
def superblockOf (a : Nat) : Nat := (a - 2 ^ 44) / 2 ^ 8

/-- System address of a superblock of a slice. -/
def superblockAddr (sb : Nat) : Nat := 2 ^ 44 + sb * 2 ^ 8

/-- The full words of a superblock. -/
def State.fullWords (s : State) (sb : Nat) : List Nat :=
  s.mem.tags.filter fun a => superblockAddr sb ≤ a && a < superblockAddr (sb + 1)

/-- The poison of `n` bytes copied with them (R197): a line of the copy is poisoned where a line it was copied from is, and one written whole
from good bytes is good. -/
def State.copyPoison (s : State) (src dst n : Nat) : State :=
  if s.mem.poison.isEmpty then s
  else
    let bad (l : Nat) : Bool := (List.range n).any fun i => lineOf (dst + i) == l && s.mem.poison.contains (lineOf (src + i))
    let kept := s.mem.poison.filter fun l => !(dst ≤ 64 * l && 64 * l + 64 ≤ dst + n)
    { s with mem := { s.mem with poison := ((linesOf dst n).filter bad).foldl (fun m l => setAdd l m) kept } }

/-- A superblock replaced: its bytes and its full words. All its lines are written whole, which makes poisoned ones good (R197). -/
def State.setSuperblock (s : State) (sb : Nat) (data : List Byte) (full : List Nat) : State :=
  let a0 := superblockAddr sb
  let s := s.poke a0 data
  let s := { s with mem := { s.mem with poison := s.mem.poison.filter fun l => !(linesOf a0 256).contains l } }
  let kept := s.mem.tags.filter fun a => !(a0 ≤ a && a < a0 + 2 ^ 8)
  { s with mem := { s.mem with tags := full.foldl (fun m a => setAdd a m) kept } }

/-- The address of a place in the spill area of an address space (R201, R217). -/
def State.spillAddr (s : State) (asid i : Nat) : Nat := (s.pdWord asid 3).toNat + 256 * i

/-- The first free place in the spill area of an address space, of those up to the number in use. -/
def State.spillSlot (s : State) (asid : Nat) : Nat :=
  let used := (s.mem.spills.filter fun x => x.job / 2 ^ 32 == asid).map (·.at_)
  ((List.range (used.length + 1)).find? fun i => !used.contains i).getD used.length

/-- The superblock, with the poison of its lines, written to the spill area of the job that pins it. The order of the area is the model's choice; where the area leaves
package memory nothing is written (log entry 78). -/
def State.spill (s : State) (sb job : Nat) : State :=
  let asid := job / 2 ^ 32
  let i := s.spillSlot asid
  let a := s.spillAddr asid i
  let bs := bytesAt s.mem.bytes (superblockAddr sb) 256
  let x : Spill := ⟨job, sb, i, s.fullWords sb⟩
  let t := if a + 256 ≤ s.hbmsz then (s.poke a bs).copyPoison (superblockAddr sb) a 256 else s
  { t with mem := { t.mem with spills := x :: t.mem.spills } }

/-- Whether a job is off, stopped by pre-emption (R198). -/
def State.isOff (s : State) (job : Nat) : Bool :=
  match (s.job job).stage with
  | .off | .stopping | .resuming => true
  | .waiting | .running => false

/-- An access of a job to a superblock of a slice: pinned afresh on the first access, with the spills and reloads of R201. -/
def State.pinFor (s : State) (job sb : Nat) : State :=
  let owner := tabGet sb s.mem.pins
  let pinned (s : State) : State := { s with mem := { s.mem with pins := tabSet sb job s.mem.pins } }
  match s.mem.spills.find? fun x => x.job == job && x.sb == sb with
  | some x =>
    let from_ := s.spillAddr (job / 2 ^ 32) x.at_
    let data := s.phys from_ 256
    let s := match owner with
      | some j => if j = job then s else s.spill sb j
      | none => s
    let s := { s with mem := { s.mem with spills := s.mem.spills.filter fun y => !(y.job == job && y.sb == sb) } }
    pinned ((s.setSuperblock sb data x.full).copyPoison from_ (superblockAddr sb) 256)
  | none =>
    match owner with
    | some j =>
      if j != job && s.isOff j then pinned ((s.spill sb j).setSuperblock sb (List.replicate 256 0) []) else s
    | none => pinned (s.setSuperblock sb (List.replicate 256 0) [])

/-- The superblocks that a segment touches, where it lies in a slice. -/
def superblocks (g : Nat × Nat) : List Nat :=
  if 2 ^ 44 ≤ g.1 && g.1 < 2 ^ 45 then (List.range ((g.1 % 256 + g.2 + 255) / 256)).map (superblockOf g.1 + ·) else []

/-- Whether an access of a job to a superblock puts other contents in its place (R201): the job's own, which was spilled, or fresh ones where a
job that is off pins it. -/
def State.swaps (s : State) (job sb : Nat) : Bool :=
  (s.mem.spills.any fun x => x.job == job && x.sb == sb) || match tabGet sb s.mem.pins with
    | some j => j != job && s.isOff j
    | none => false

/-- The lines in whose place an access of a job to the segments puts other contents (R201). -/
def State.swapLines (s : State) (job : Nat) (segs : List (Nat × Nat)) : List Nat :=
  ((segs.flatMap superblocks).filter (s.swaps job)).flatMap fun sb => linesOf (superblockAddr sb) 256

/-! ## Words of the machine -/

/-- Why a word does not complete: a trap, it waits and is tried again (while the device reads outside for it), the chunk must end before it
(with an operand it keeps), or its agent goes to sleep in it (for an outside access, with the access it awaits). -/
inductive Stop where
  | trap (c : Cause) (v : Word)
  | stall
  | ask (x : DevAsk)
  | again
  | keep (v : Word)
  | sleep (k : Sleep)
  | outside (host : Bool) (dev pod addr : Nat) (op : OutOp) (ptr : Word) (cov : List Nat)
  deriving DecidableEq, Repr

/-- A computation of a word on the state. What stops it leaves the state as it was. -/
abbrev M (α : Type) := StateT State (Except Stop) α

/-- Raise a trap (R238). -/
def trapM {α : Type} (c : Cause) (v : Word) : M α := fun _ => .error (.trap c v)
/-- Wait where the word stands, and be tried again. -/
def stallM {α : Type} : M α := fun _ => .error .stall
/-- End the chunk before this word (R105). -/
def againM {α : Type} : M α := fun _ => .error .again
/-- Put the agent to sleep in this word. -/
def sleepM {α : Type} (k : Sleep) : M α := fun _ => .error (.sleep k)
/-- Read something of the state. -/
def getM {α : Type} (f : State → α) : M α := fun s => .ok (f s, s)
/-- Change the state. -/
def modM (f : State → State) : M Unit := fun s => .ok ((), f s)
/-- Go on only when a condition holds; otherwise stop. -/
def needM (b : Bool) (x : Stop) : M Unit := fun s => if b then .ok ((), s) else .error x
/-- ILLEGAL on the word in progress (R189). -/
def illegalM {α : Type} : M α := fun s => .error (.trap .illegal (s.unit.word.zeroExtend 64))
/-- ILLEGAL on the word in progress unless a condition holds. -/
def legalM (b : Bool) : M Unit := fun s => if b then .ok ((), s) else .error (.trap .illegal (s.unit.word.zeroExtend 64))

/-! ## The chunk (R104–R110) -/

/-- Bytes of the segments as the current agent sees them: its held writes over committed memory (R97, R106). -/
def State.viewBytes (s : State) (segs : List (Nat × Nat)) : List Byte :=
  segs.flatMap fun g => (List.range g.2).map fun i => (tabGet (g.1 + i) s.me.chunk.held).getD (byteAt s.mem.bytes (g.1 + i))

/-- The full tag of a word as the current agent sees it. -/
def State.viewTag (s : State) (a : Nat) : Bool := (tabGet a s.me.chunk.tagw).getD (s.fullAt a)

/-- The lines of segments. -/
def segLines (segs : List (Nat × Nat)) : List Nat := segs.flatMap fun g => linesOf g.1 g.2

/-- Lines added to the read set of the chunk. -/
def State.noteReads (s : State) (ls : List Nat) : State :=
  s.modChunk fun c => { c with reads := ls.foldl (fun m l => setAdd l m) c.reads }

/-- Lines added to the write set of the chunk. -/
def State.noteWrites (s : State) (ls : List Nat) : State :=
  s.modChunk fun c => { c with writes := ls.foldl (fun m l => setAdd l m) c.writes }

/-- Bytes held at the segments. -/
def holdSegs : List (Nat × Nat) → List Byte → List Host.Cell → List Host.Cell
  | [], _, m => m
  | g :: gs, bs, m =>
    holdSegs gs (bs.drop g.2)
      ((List.range g.2).foldl (fun m i => tabSet (g.1 + i) (bs.getD i 0) m) m)

/-- Bytes written to the segments in committed memory. -/
def State.pokeSegs (s : State) : List (Nat × Nat) → List Byte → State
  | [], _ => s
  | g :: gs, bs => (s.poke g.1 (bs.take g.2)).pokeSegs gs (bs.drop g.2)

/-- Whether a sorted set of lines meets another. -/
def meets (a b : List Nat) : Bool := a.any fun x => b.contains x

/-- Whether some line is owned by an engine or copy job (R129). -/
def State.ownedAny (s : State) (ls : List Nat) : Bool := ls.any fun l => (tabGet l s.mem.owned).isSome

/-- The dirty bit of a state register (R57). -/
def srDirty (idx : Nat) : Nat := 2 ^ (128 + idx)

/-- The counters that count an event code, as numbers 0 to 3 (R213). -/
def Ctx.counting (c : Ctx) (code : Nat) : List Nat := (List.range 4).filter fun i => wbits c.pmsel (8 * i) 8 == code

/-- Count an event of the performance counters on an agent (R61, R213): each agent's own counters count its own events (log entry 72). -/
def Agent.countEvent (g : Agent) (code n : Nat) : Agent :=
  let ks := g.ctx.counting code
  if ks.isEmpty then g
  else
    { g with
      pmc := Vector.ofFn fun i : Fin 4 => if ks.contains i.val then g.pmc[i] + BitVec.ofNat 64 n else g.pmc[i]
      ctx := { g.ctx with dirty := ks.foldl (fun m i => m ||| srDirty (0x50 + i)) g.ctx.dirty } }

/-- The dirty bits of what a squash does not restore: `PMC0`–`PMC3` and `UIMASK` (R57, R109). -/
def unrestored : Nat := [0x15, 0x50, 0x51, 0x52, 0x53].foldl (fun m i => m ||| srDirty i) 0

/-- A squash (R109): held writes and late results discarded, the checkpoint restored, the pending interrupts raised since kept,
the limit halved down to 1. -/
def Agent.squash (g : Agent) : Agent :=
  let g := g.countEvent 0x04 1
  { g with
    ctx := { g.chunk.ckpt with
      uip := g.chunk.ckpt.uip ||| g.raised, dirty := g.chunk.ckpt.dirty ||| (g.ctx.dirty &&& unrestored) }
    chunk := { limit := max 1 (g.chunk.limit / 2) }
    mark := .none, got := [] }

/-- Whether a chunk is open, or ended and not granted, and its lines meet a set of lines. -/
def Agent.conflicts (g : Agent) (ls : List Nat) : Bool :=
  g.chunk.count != 0 && (meets ls g.chunk.reads || meets ls g.chunk.writes)

/-- Every other agent whose open chunk meets the lines is squashed (R107). -/
def State.squashOthers (s : State) (ls : List Nat) : State :=
  if ls.isEmpty then s
  else { s with others := s.others.map fun kg => (kg.1, if kg.2.conflicts ls then kg.2.squash else kg.2) }

/-- Every agent whose open chunk meets the lines is squashed: a grant of an engine, a copy unit or an outside observer. -/
def State.squashAll (s : State) (ls : List Nat) : State :=
  let s := s.squashOthers ls
  if s.me.conflicts ls then { s with me := s.me.squash } else s

/-- Whether a one-instruction chunk of another agent holds a reservation that the lines meet (R109). Of two that hold one either may be
granted first (the model's choice, log entry 86). -/
def State.reserved (s : State) (ls : List Nat) : Bool :=
  s.me.chunk.limit != 1 && s.others.any fun kg => kg.2.chunk.limit == 1 && kg.2.conflicts ls

/-- Whether a one-instruction chunk of any agent holds a reservation that the lines meet (R109): what a grant of a unit, of the device or of
an outside observer waits for. -/
def State.reservedAny (s : State) (ls : List Nat) : Bool :=
  (s.me.chunk.limit == 1 && s.me.conflicts ls) || s.others.any fun kg => kg.2.chunk.limit == 1 && kg.2.conflicts ls

/-- Every superblock of the segments pinned for a job, where they lie in a slice. What an open chunk of another agent has read or stored in
contents that give way counts no more: the chunk is squashed, and finds them again where they belong (R107, R201; the
model's choice, log entry 104). -/
def State.pinSegs (s : State) (job : Nat) (segs : List (Nat × Nat)) : State :=
  (segs.flatMap superblocks).foldl (fun s sb => s.pinFor job sb) (s.squashOthers (s.swapLines job segs))

/-- The superblocks of the segments pinned for the current agent. Contents with a reservation on them stay until it is gone (R109), and those that
the agent's own open chunk has met until that chunk has ended. -/
def pinM (segs : List (Nat × Nat)) : M Unit := fun s =>
  let ls := s.swapLines s.myJob segs
  if s.reserved ls then .error .stall
  else if s.me.conflicts ls then .error .again
  else .ok ((), s.pinSegs s.myJob segs)

/-- Whether an outside access was made by the stream that an agent runs: for the same job, and for the same task, on whatever core that ran
(R117). -/
def State.madeBy (s : State) (a : AgentId) (x : ExtOp) : Bool :=
  let g := s.agent a
  (x.agent == some a || g.task.isSome) && x.job == jobKey g.asid g.job && x.task == g.task

/-- Whether two outside accesses of agents were made by one stream. -/
def ExtOp.sameStream (x y : ExtOp) : Bool := x.job == y.job && x.task == y.task && (x.task.isSome || x.agent == y.agent)

/-- The outside writes of an agent not yet performed (R118). -/
def State.outstanding (s : State) (a : AgentId) : List Nat :=
  (s.fab.exts.filter fun x => s.madeBy a x && x.store).map (·.id)

/-- The covered set of a release made now by an agent: its outstanding outside writes and those that releases before it, not yet
visible outside, still wait for (R118). -/
def State.covered (s : State) (a : AgentId) : List Nat :=
  (s.fab.rels.flatMap (·.cov)).foldl (fun m i => setAdd i m) (s.outstanding a)

/-- A release on lines: pending outside while its covered set is not performed (R118, R120). -/
def State.release (s : State) (a : AgentId) (ls : List Nat) : State :=
  let cov := s.covered a
  if ls.isEmpty || cov.isEmpty then s else { s with fab := { s.fab with rels := s.fab.rels ++ [⟨ls, cov⟩] } }

/-- The outside writes covered by releases of some lines that are still pending outside. -/
def State.releasedBy (s : State) (ls : List Nat) : List Nat := (s.fab.rels.filter fun r => meets ls r.lines).flatMap (·.cov)

/-- An agent's acquire that has met releases with these covered writes (R119). -/
def Agent.acquires (g : Agent) (cov : List Nat) : Agent :=
  if cov.isEmpty then g else { g with acq := cov.foldl (fun m i => setAdd i m) g.acq }

/-- An acquire on lines (R119): the outside writes covered by releases of these lines that are still pending outside stand before every later
outside read of the agent (log entry 88). -/
def State.acquire (s : State) (ls : List Nat) : State :=
  { s with me := s.me.acquires (s.releasedBy ls) }

/-- The outside writes that the acquires of the current agent have met and that are not yet performed (R119). -/
def State.acquired (s : State) : List Nat := s.me.acq.filter fun i => s.fab.exts.any fun x => x.id == i

/-- Whether a segment lies in the slice of one of some cores. -/
def inSlices (cores : List Nat) (g : Nat × Nat) : Bool :=
  2 ^ 44 ≤ g.1 && g.1 < 2 ^ 45 && cores.contains ((g.1 - 2 ^ 44) / 2 ^ 18)

/-- Whether some segment lies in the frozen slice of a core (R195). -/
def State.frozenSegs (s : State) (segs : List (Nat × Nat)) : Bool := segs.any (inSlices s.mem.frozen)

/-- Whether an agent's open chunk holds writes to the slice of one of some cores. -/
def Agent.writesSlices (g : Agent) (cores : List Nat) : Bool :=
  g.chunk.count != 0 && g.chunk.writes.any fun l => inSlices cores (64 * l, 64)

/-- The slices of some cores frozen (R195). A store that stands in an open chunk has not reached its slice: the chunk is squashed, and the
store then meets the freeze. -/
def State.freeze (s : State) (cores : List Nat) : State :=
  let cut (g : Agent) : Agent := if g.writesSlices cores then g.squash else g
  { s with
    me := cut s.me, others := s.others.map fun kg => (kg.1, cut kg.2)
    mem := { s.mem with frozen := cores.foldl (fun m c => setAdd c m) s.mem.frozen } }

/-! ## Records that software stores to (R31) -/

/-- The stored bytes of `n` bytes of a record from `o` on, in memory. -/
def State.recPart (s : State) (asid : Nat) (p : Word) (o n : Nat) : List (Nat × Nat) :=
  let w : Who := ⟨asid, ⟨0, .main⟩, 0, false, 0⟩
  match s.placeOf w (s.handle asid (handleOf p)) (ptrAdd p o) { rd := true, wr := false, n := n, align := 1 } with
  | .ok (.mem segs) => segs
  | .ok (.table _) | .ok (.capBlock _) | .ok (.outside _ _ _ _) | .error _ => []

/-- The stored bytes of a record: its head, and its tail where `TAIL` stands in it (R27). -/
def State.recSegs (s : State) (asid : Nat) (p : Word) : List (Nat × Nat) :=
  let head := s.recPart asid p 0 64
  if wbit (BitVec.ofNat 64 (s.peek ((head.headD (0, 0)).1 + 8) 8)) 40 then head ++ s.recPart asid p 0x40 128 else head

/-- Whether a record stands READY or RUNNING (R31, R202). -/
def RecAt.inUse : RecAt → Bool
  | .queued _ | .running _ => true
  | .waiting | .retired => false

/-- Whether two lists of segments share a byte. -/
def overlap (xs ys : List (Nat × Nat)) : Bool := xs.any fun x => ys.any fun y => x.1 < y.1 + y.2 && y.1 < x.1 + x.2

/-- A READY or RUNNING record that a store meets: its address space and stored bytes. -/
structure HitRec where
  asid : Nat
  segs : List (Nat × Nat)
  deriving DecidableEq, Repr

/-- The READY and RUNNING records that a store of some bytes meets (R31). -/
def State.hitRecs (s : State) (ys : List (Nat × Nat)) : List HitRec :=
  s.jobs.flatMap fun kj => (kj.2.recs.filter fun r => r.at_.inUse).filterMap fun r =>
    let xs := s.recSegs kj.2.asid r.ptr
    if overlap xs ys then some ⟨kj.2.asid, xs⟩ else none

/-- The bits of byte `i` of a record that are no reserved field and can be set (R2, R27): `STATE` is at most 3. -/
def recMask (i : Nat) : Byte :=
  if i = 0 then 0xFC else if i = 0x0C then 0x77 else if i = 0x0D then 0x07
  else if i = 0x0E || i = 0x0F || (0x3C ≤ i && i < 0x40) then 0 else 0xFF

/-- The bytes of a record whose fields are undefined, from the n-th free byte on; its reserved fields read 0 (R2, R5, R31). -/
def HitRec.spoilt (x : HitRec) (n : Nat) : List Byte :=
  (List.range ((x.segs.map (·.2)).foldl (· + ·) 0)).map fun i => Config.freeByte x.asid (n + i) &&& recMask i

/-- The fields of the records that a store met become undefined (R31). -/
def State.spoilRecords (s : State) (xs : List HitRec) : State :=
  xs.foldl (fun s x =>
    let bs := x.spoilt (s.drawn x.asid)
    (s.pokeSegs x.segs bs).draw x.asid bs.length) s

/-- Bytes stored by software to segments of committed memory (R31). -/
def State.softPoke (s : State) (segs : List (Nat × Nat)) (bs : List Byte) : State :=
  (s.pokeSegs segs bs).spoilRecords (s.hitRecs segs)

/-! ## Statistics (R82, R83) -/

/-- Whether two entries count for one tensor id of an address space (R82). -/
def Stat.sameId (x y : Stat) : Bool := x.asid == y.asid && x.tid == y.tid

/-- Whether two entries count on one header, for one job and tensor id. -/
def Stat.same (x y : Stat) : Bool := x.sameId y && x.thp == y.thp && x.job == y.job

/-- A statistics entry counted on those held, the most recently used tensor id first (R82). -/
def addStat (x : Stat) (m : List Stat) : List Stat :=
  let y := match m.find? x.same with
    | some y => { y with sat := y.sat + x.sat, ftz := y.ftz + x.ftz, nan := y.nan + x.nan }
    | none => x
  y :: (m.filter fun z => x.sameId z && !x.same z) ++ m.filter fun z => !x.sameId z

/-- The tensor ids of a list, in order. -/
def statIds (m : List Stat) : List (Nat × Nat) :=
  m.foldl (fun ids x => if ids.contains (x.asid, x.tid) then ids else ids ++ [(x.asid, x.tid)]) []

/-- Entries counted one after another on those held: what is held then, of at most 8 tensor ids, and what has fallen out (R82). -/
def addStats (xs : List Stat) (m : List Stat) : List Stat × List Stat :=
  xs.foldl (fun (r : List Stat × List Stat) x =>
    let y := addStat x r.1
    let ids := (statIds y).take 8
    (y.filter fun z => ids.contains (z.asid, z.tid), r.2 ++ y.filter fun z => !ids.contains (z.asid, z.tid))) (m, [])

/-- The saturating 64-bit add of a flush (R83). -/
def satAdd (v n : Nat) : Nat := min (v + n) (2 ^ 64 - 1)

/-- The word of a header at `o`, where its checks pass as an 8-byte atomic (R83, R383). A header outside the package counts as
HANDLE (log entry 28). -/
def State.statPlace (s : State) (w : Who) (x : Stat) (o : Nat) : Except Cause (List (Nat × Nat)) :=
  match s.check { w with asid := x.asid } (ptrAdd x.thp o)
      { rd := true, wr := true, n := 8, align := 8, raw := true, spaces := [0, 1, 2] } with
  | .ok (.mem segs) => if s.frozenSegs segs then .error .peerdead else .ok segs
  | .ok (.table _) | .ok (.capBlock _) | .ok (.outside _ _ _ _) => .error .handle
  | .error c => .error c

/-- An entry with the `TID` that its header holds as it is counted (R81, R82); a header that cannot be reached counts as a tensor id of its own
(log entry 28). -/
def State.withTid (s : State) (w : Who) (x : Stat) : Stat :=
  { x with tid := match s.statPlace w x 8 with
      | .ok segs => leNat (segs.flatMap fun g => bytesAt s.mem.bytes g.1 g.2) % 2 ^ 32
      | .error _ => 2 ^ 32 + x.thp.toNat }

/-- The lines that flushes of entries write (R83), or put other contents in place of (R201). -/
def State.statLines (s : State) (w : Who) (xs : List Stat) : List Nat :=
  xs.flatMap fun x => [0x10, 0x18, 0x20].flatMap fun o => match s.statPlace w x o with
    | .ok segs => segLines segs ++ s.swapLines w.job segs
    | .error _ => []

/-- One count added to a header in committed memory. -/
def State.addCount (s : State) (w : Who) (x : Stat) (o n : Nat) : State :=
  match s.statPlace w x o with
  | .ok segs =>
    let s := (s.pinSegs w.job segs).squashOthers (segLines segs)
    s.softPoke segs (leBytes 8 (satAdd (leNat (segs.flatMap fun g => bytesAt s.mem.bytes g.1 g.2)) n))
  | .error _ => s

/-- The flush of one entry (R83): three atomic adds that saturate. A header that fails its checks is skipped here; `TSFLUSH`
raises the trap before it flushes. -/
def State.flushStat (s : State) (w : Who) (x : Stat) : State :=
  ((s.addCount w x 0x10 x.sat).addCount w x 0x18 x.ftz).addCount w x 0x20 x.nan

/-- What counting entries on a core would flush (R82). -/
def State.fallsOut (s : State) (w : Who) (c : Nat) (xs : List Stat) : List Stat := (addStats (xs.map (s.withTid w)) (s.core c).stats).2

/-- The entries of a core after counting, with the least recently used tensor ids beyond 8 flushed (R82). -/
def State.countStats (s : State) (w : Who) (c : Nat) (xs : List Stat) : State :=
  if xs.isEmpty then s
  else
    let r := addStats (xs.map (s.withTid w)) (s.core c).stats
    r.2.foldl (fun s y => s.flushStat w y) (s.modCore c fun k => { k with stats := r.1 })

/-- Poison cleared on every line that a set of written bytes covers whole (R197). -/
def State.clearPoison (s : State) (cells : List Host.Cell) : State :=
  { s with mem := { s.mem with poison := s.mem.poison.filter fun l =>
      !((List.range 64).all fun i => (tabGet (64 * l + i) cells).isSome) } }

/-- The lines that the grant of the current agent's chunk writes: its own, and those of the flushes it makes (R82, R106). -/
def State.grantLines (s : State) : List Nat :=
  s.me.chunk.writes ++ (if s.me.chunk.stats.isEmpty then [] else s.statLines s.who (s.fallsOut s.who s.cur.core s.me.chunk.stats))

/-- The held writes and tags of the current agent's chunk in committed memory: they make whole poisoned lines good (R197), and a record in use that they
hit is spoilt (R31). -/
def State.heldInPlace (s : State) : State :=
  let c := s.me.chunk
  let hit := s.hitRecs (c.held.map fun x => (x.1, 1))
  let s := { s with mem := { s.mem with
    bytes := c.held.foldl (fun m (x : Nat × Byte) => setByte x.1 x.2 m) s.mem.bytes
    tags := c.tagw.foldl (fun m (x : Nat × Bool) => if x.2 then setAdd x.1 m else setDel x.1 m) s.mem.tags } }
  (if s.mem.poison.isEmpty then s else s.clearPoison c.held).spoilRecords hit

/-- The grant of the current agent's chunk (R107): its held writes, tags, statistics and releases become visible, conflicting open
chunks are squashed, and the next chunk starts with the full limit. -/
def State.grant (s : State) : State :=
  let c := s.me.chunk
  if c.count = 0 then s
  else
    let s := (s.squashOthers c.writes).heldInPlace
    let s := s.release s.cur c.rel
    let s := s.countStats s.who s.cur.core c.stats
    { s with me := ({ s.me with chunk := {}, raised := 0 }).countEvent 0x03 1 }

/-- Whether the grant of the current agent's chunk must wait: another agent holds a reservation against it (R109), or a header it
flushes to is owned by an engine or copy job (R129). -/
def State.grantWaits (s : State) : Bool :=
  let ls := s.grantLines
  s.reserved ls || (!s.me.chunk.stats.isEmpty && s.ownedAny (s.statLines s.who (s.fallsOut s.who s.cur.core s.me.chunk.stats)))

end Sys2Proof.Machine
end

