-- ==== Sys2Proof/Machine/Operands.lean ====
section
/-! DEFINITION. The operand forms: loads and stores of a word through every space and window (R74, R87–R89, R295, R334), the
decode table (R68–R73), scalar and tile operands with stream bindings (R47, R48, R52, R361), lane access (R48), and late
results (R99). -/

namespace Sys2Proof.Machine

/-! ## The decode table (R68–R73) -/

/-- Entry `c` of a core's table as the current agent sees it. -/
def State.tableEntry (s : State) (c : Nat) : Nat := leNat (s.viewBytes [(tableAddr s.cur.core (4 * c), 4)])

/-- The current core's table as its agent sees it. -/
def State.table (s : State) : List W32 := (List.range 256).map fun c => BitVec.ofNat 32 (s.tableEntry c)

/-- The 16 lines of a core's decode table. -/
def tableLines (core : Nat) : List Nat := linesOf (tableAddr core 0) 1024

/-- The chunk has read the current core's decode table: its lines stand in the read signature, so that a commit by another agent of the core
that rewrites the table squashes it (R106–R108; log entry 74). -/
def State.noteTable (s : State) : State := if s.unit.own then s else s.noteReads (tableLines s.cur.core)

/-- `NANF` of an entry. -/
def tNan (e : Nat) : Bool := e / 2 ^ 19 % 2 == 1
/-- `INFF` of an entry. -/
def tInf (e : Nat) : Bool := e / 2 ^ 20 % 2 == 1
/-- `VAL` of an entry. -/
def tVal (e : Nat) : Nat := e % 2 ^ 19

/-- Magnitude of an entry for the order of R70: infinity above every finite one. -/
def tMag (e : Nat) : Nat := if tInf e then 2 ^ 18 else tVal e % 2 ^ 18

/-- The magnitudes of the non-NaN entries rise strictly. -/
def tRises : List Nat → Bool
  | [] => true
  | [_] => true
  | a :: b :: m => tMag a < tMag b && tRises (b :: m)

/-- The check of R70. -/
def tableGood (t : List W32) : Bool :=
  let es := t.map (·.toNat)
  let half (k : Nat) : List Nat := (es.drop (128 * k)).take 128
  let signs (k : Nat) : Bool := (half k).all fun e => tNan e || tVal e / 2 ^ 18 == k
  es.getD 0 0 % 2 ^ 21 == 0 && es.getD 128 0 % 2 ^ 21 == 2 ^ 18 &&
    es.all (fun e => !(tNan e && tInf e) && (tNan e || tInf e || tVal e / 2 ^ 10 % 2 ^ 8 != 255)) &&
    signs 0 && signs 1 && tRises ((half 0).filter (!tNan ·)) && tRises ((half 1).filter (!tNan ·))

/-- `TABBAD` of the current core's table. -/
def State.tabBad (s : State) : Bool := !tableGood s.table

/-- Whether a re-check of the core's table runs (R71). -/
def State.rechecking (s : State) : Bool :=
  s.me.ctx.recheck || s.me.ctx.preset.isSome ||
    [AgentKind.main, .loader, .storer].any fun k =>
      let g := s.agent ⟨s.cur.core, k⟩
      g.ctx.recheck || g.ctx.preset.isSome

/-- Decode8 to an FP32 pattern (R64, R68). An unflagged entry with exponent 255, which makes `TABBAD` 1 and which R64 gives no value, has
the pattern `VAL` × 2^13 (log entry 73). -/
def decode8 (e : Nat) : Nat :=
  if tNan e then Fmt.canonNan .fp32
  else if tInf e then withSign .fp32 (tVal e / 2 ^ 18 == 1) (Fmt.infBits .fp32)
  else tVal e * 2 ^ 13

/-- Codes of one half that are not NaN, in ascending order, with their entries. -/
def halfCodes (t : List W32) (neg : Bool) : List (Nat × Nat) :=
  ((List.range 128).map fun i => (128 * bitNat neg + i, (t.getD (128 * bitNat neg + i) 0).toNat)).filter fun c => !tNan c.2

/-- The lowest NaN code of a half. -/
def nanCode (t : List W32) (neg : Bool) : Option Nat :=
  ((List.range 128).map (128 * bitNat neg + ·)).find? fun c => tNan (t.getD c 0).toNat

/-- The finite magnitude of an entry at the exponent −`k`. -/
def magAt (k : Nat) (e : Nat) : Nat :=
  match unpack .e8m10 (tVal e % 2 ^ 18) with
  | .fin _ m x => m * 2 ^ (x + k).toNat
  | .inf _ | .nan _ _ => 0

/-- The code nearest to a magnitude among finite codes in rising order (R73): ties go to the even code, or to the lower one. -/
def nearest (k v : Nat) : List (Nat × Nat) → Nat
  | [] => 0x7F
  | [c] => c.1
  | lo :: hi :: cs =>
    let a := magAt k lo.2
    let b := magAt k hi.2
    if b ≤ v then nearest k v (hi :: cs)
    else if 2 * v < a + b then lo.1
    else if a + b < 2 * v then hi.1
    else if hi.1 % 2 = 0 && lo.1 % 2 = 1 then hi.1 else lo.1

/-- Encode8 of a value (R73). -/
def encode8 (t : List W32) (v : FVal) : Nat :=
  match v with
  | .nan neg _ => (nanCode t neg).getD ((nanCode t (!neg)).getD 0x7F)
  | .inf neg =>
    let cs := halfCodes t neg
    match cs.find? fun c => tInf c.2 with
    | some c => c.1
    | none => ((cs.filter fun c => !tInf c.2).map (·.1)).getLastD 0x7F
  | .fin neg m e =>
    let k := max 136 (-e).toNat
    nearest k (m * 2 ^ (e + k).toNat) ((halfCodes t neg).filter fun c => !tInf c.2)

/-! ## Lanes (R48) -/

/-- Lane `j` of a row. -/
def laneOf (w : Nat) (row : Row) (j : Nat) : Nat := row.toNat / 2 ^ (w * j) % 2 ^ w

/-- Lanes as a number, lane 0 lowest. -/
def packLanes (w : Nat) : List Nat → Nat
  | [] => 0
  | x :: xs => x % 2 ^ w + 2 ^ w * packLanes w xs

/-- A row from its lanes. -/
def rowOf (w : Nat) (xs : List Nat) : Row := BitVec.ofNat 128 (packLanes w xs)

/-- The lanes of a row. -/
def lanesOf (w : Nat) (row : Row) : List Nat := (List.range (128 / w)).map (laneOf w row)

/-- The floating format of a lane type; FP32 for an integer type, where it is not used. -/
def LaneFmt (t : LaneTy) : Fmt :=
  match t with
  | .bf16 => .bf16
  | .fp16 => .fp16
  | .fp64 => .fp64
  | .fp32 | .i8 | .i16 | .i32 | .i64 => .fp32

/-! ## Windows (R74) -/

/-- A stored element of an alias window as an FP32 pattern. -/
def State.windowLoad (s : State) (win x : Nat) : Nat :=
  match win with
  | 1 => decode8 (s.tableEntry (x % 256))
  | 2 => x * 2 ^ 16
  | _ => fConv .fp16 .fp32 .rne x

/-- The format behind a 16-bit alias window. -/
def winFmt (win : Nat) : Fmt := if win = 2 then .bf16 else .fp16

/-- An FP32 pattern as a stored element of an alias window. -/
def windowStore (t : List W32) (win x : Nat) : Nat :=
  match win with
  | 1 => encode8 t (unpack .fp32 x)
  | w => fConv .fp32 (winFmt w) .rne x

/-- Whether a finite magnitude exceeds another: ± m × 2^e against m' × 2^e'. -/
def magAbove (m : Nat) (e : Int) (m' : Nat) (e' : Int) : Bool :=
  let e0 := min e e'
  m' * 2 ^ (e' - e0).toNat < m * 2 ^ (e - e0).toNat

/-- Whether an exact value lies beyond a finite limit. -/
def beyond : FVal → FVal → Bool
  | .inf _, .fin _ _ _ => true
  | .fin _ m e, .fin _ ml el => magAbove m e ml el
  | .inf _, _ | .fin _ _ _, _ | .nan _ _, _ => false

/-- Whether a value is not zero. -/
def nonZero : FVal → Bool
  | .fin _ m _ => m != 0
  | .inf _ | .nan _ _ => true

/-- The three counts of one stored element (R82), from the exact value, the stored value and the largest finite value of its half or format:
a saturation when a finite limit or an infinity stands for a value beyond the limit, a flush when a non-zero value stores as zero, a NaN when
a NaN is stored. A zero that is its half's limit can be both of the first two (log entry 30). -/
def countOf (exact stored lim : FVal) : Nat × Nat × Nat :=
  match stored with
  | .nan _ _ => (0, 0, 1)
  | .inf _ => match exact with
    | .fin _ _ _ => (1, 0, 0)
    | .inf _ | .nan _ _ => (0, 0, 0)
  | .fin _ m _ => (bitNat (beyond exact lim), bitNat (m == 0 && nonZero exact), 0)

/-- The largest finite value that an element of a value's sign can store in a window. -/
def windowLimit (t : List W32) (win : Nat) (neg : Bool) : FVal :=
  match win with
  | 1 => unpack .e8m10 (tVal (((halfCodes t neg).filter fun c => !tInf c.2).map (·.2)).getLast?.get! % 2 ^ 18)
  | w => unpack (winFmt w) ((winFmt w).infBits - 1)

/-- The sign of an FP32 pattern. -/
def neg32 (x : Nat) : Bool := x / 2 ^ 31 % 2 == 1

/-- The counts of one element stored through a window. -/
def windowCount (t : List W32) (win x y : Nat) : Nat × Nat × Nat :=
  let stored := match win with
    | 1 => unpack .fp32 (decode8 (t.getD y 0).toNat)
    | w => unpack (winFmt w) y
  countOf (unpack .fp32 x) stored (windowLimit t win (neg32 x))

/-- Elements of `k` bytes each, as numbers. -/
def splitElems (k : Nat) : Nat → List Byte → List Nat
  | 0, _ => []
  | n + 1, bs => leNat (bs.take k) :: splitElems k n (bs.drop k)

/-! ## Loads and stores of a word -/

/-- Bytes of memory read by the current agent: superblocks pinned, owned lines waited for (R129), poison raised (R197), a frozen
slice refused (R195), and the lines entered in the read set (R106). -/
def loadSegs (segs : List (Nat × Nat)) (p : Word) : M (List Byte) := do
  let ls := segLines segs
  needM (!(← getM (·.frozenSegs segs))) (.trap .peerdead p)
  needM (!(← getM (·.ownedAny ls))) .stall
  pinM segs
  needM (!(← getM fun s => meets ls s.mem.poison)) (.trap .soft p)
  let bs ← getM (·.viewBytes segs)
  modM fun s => if s.unit.own then s else s.noteReads ls
  pure bs

/-- Lines about to be written by the current agent: a frozen slice refused (R195), owned lines waited for (R129), superblocks
pinned, and the lines entered in the write set; a chunk that would pass 128 written lines ends first (R105). A word that forms a
chunk of its own squashes every conflicting open chunk instead, or waits for a reservation (R107, R109, R110). -/
def claimM (segs : List (Nat × Nat)) (p : Word) : M Unit := do
  let ls := segLines segs
  needM (!(← getM (·.frozenSegs segs))) (.trap .peerdead p)
  needM (!(← getM (·.ownedAny ls))) .stall
  pinM segs
  if ← getM (·.unit.own) then
    needM (!(← getM (·.reserved ls))) .stall
    modM (·.squashOthers ls)
  else
    needM (!(← getM fun s => decide (128 < (s.noteWrites ls).me.chunk.writes.length) && s.me.chunk.count != 0)) .again
    modM (·.noteWrites ls)

/-- Bytes in place: held in the chunk, or in committed memory for a word that forms a chunk of its own (R106, R110). -/
def State.putSegs (s : State) (segs : List (Nat × Nat)) (bs : List Byte) : State :=
  if s.unit.own then
    let t := s.softPoke segs bs
    if t.mem.poison.isEmpty then t else t.clearPoison (holdSegs segs bs [])
  else s.modChunk fun c => { c with held := holdSegs segs bs c.held }

/-- A full tag in place: with the chunk, or committed. -/
def State.putTag (s : State) (a : Nat) (full : Bool) : State :=
  if s.unit.own then s.setTag a full else s.modChunk fun c => { c with tagw := tabSet a full c.tagw }

/-- Bytes of memory written by the current agent. -/
def storeSegs (segs : List (Nat × Nat)) (bs : List Byte) (p : Word) : M Unit := do
  claimM segs p
  modM (·.putSegs segs bs)

/-- The word becomes a chunk of its own (R110): it issues only after the agent's earlier chunk has committed. -/
def ownM : M Unit := fun s =>
  if s.me.chunk.count != 0 then .error .again
  else .ok ((), { s with unit := { s.unit with own := true } })

/-- An outside access that brings `n` bytes: what its reply brought, or sleep until it comes (R110, R117, R196), after the outside writes that
the agent's acquires have met (R119). -/
def awaitM (host : Bool) (dev pod addr n : Nat) (op : OutOp) (p : Word) (cov : List Nat) : M (List Byte) := fun s =>
  match s.me.got.find? fun x => x.1 == p && x.2.1 == op with
  | some (_, _, .ok bs) => .ok (bs, s)
  | some (_, _, .error c) => .error (.trap c p)
  | none =>
    if s.unit.tried then .ok (List.replicate n 0, s)
    else .error (.outside host dev pod addr op p (s.acquired.foldl (fun m i => setAdd i m) cov))

/-- An outside load (R110, R117, R196). -/
def outsideLoad (host : Bool) (dev pod addr n : Nat) (p : Word) : M (List Byte) := do
  ownM
  awaitM host dev pod addr n (.read n) p []

/-- A posted outside access recorded (R117, R196): it is sent at once, or after its covered set. -/
def State.postOutside (s : State) (host : Bool) (dev pod addr : Nat) (op : OutOp) (p : Word) (cov : List Nat) : State :=
  let x : ExtOp := ⟨s.fab.nextExt, some s.cur, s.me.asid, s.myJob, s.me.task, host, dev, pod, addr, op, p, true, cov.isEmpty, cov, s.now⟩
  { s with fab := { s.fab with exts := s.fab.exts ++ [x], nextExt := s.fab.nextExt + 1 } }

/-- A read of the table window (R69): an entry waits for a preset that the agent's earlier word asked for, `TABBAD` for a running re-check (R71). -/
def tableLoad (o n : Nat) : M (List Byte) := fun s =>
  if o < 0x400 then
    if s.me.ctx.preset.isSome then .error .stall
    else .ok (s.viewBytes [(tableAddr s.cur.core o, n)], if s.unit.own then s else s.noteReads [lineOf (tableAddr s.cur.core o)])
  else if o = 0x400 then
    if s.rechecking then .error .stall else .ok (leBytes n (bitNat s.tabBad), s.noteTable)
  else .ok (leBytes n 0, s)

/-- The access of a pointer checked for the current agent; a failing check traps with the pointer (R87). -/
def accessM (p : Word) (a : Acc) : M (List Word × Place) := fun s =>
  match s.check s.who p a with
  | .ok pl => .ok ((s.handle s.me.asid (handleOf p), pl), s)
  | .error c => .error (.trap c p)

/-- The current core's decode table is about to be read: a running re-check is waited for (R71). -/
def tableReadyM : M Unit := fun s => if s.rechecking then .error .stall else .ok ((), s.noteTable)

/-- A load of `a.n` bytes through a pointer: the bytes as the window shows them (R74). -/
def loadM (p : Word) (a : Acc) : M (List Byte) := do
  let (e, pl) ← accessM p a
  match pl with
  | .mem segs =>
    let bs ← loadSegs segs p
    if hWin e = 0 then pure bs
    else
      if hWin e = 1 then
        tableReadyM
      let s ← get
      let k := winWidth (hWin e)
      pure ((splitElems k (bs.length / k) bs).flatMap fun x => leBytes 4 (s.windowLoad (hWin e) x))
  | .table o => tableLoad o a.n
  | .capBlock o => fun s => .ok (s.capBytes o a.n, s)
  | .outside host dev pod addr => outsideLoad host dev pod addr a.n p

/-- The statistics of a window store, held with the chunk (R82); one that raises none of the three events counts 0 all the same (the model's
choice, log entry 91). A chunk of its own counts at once, after a reservation or an owned line
that a flush would meet (R109, R129). -/
def countWindow (e : List Word) (win : Nat) (xs ys : List Nat) : M Unit := fun s =>
  if !hThdr e then .ok ((), s)
  else
    let t := s.table
    let c := (xs.zip ys).foldl (fun (k : Nat × Nat × Nat) xy =>
      let d := windowCount t win xy.1 xy.2
      (k.1 + d.1, k.2.1 + d.2.1, k.2.2 + d.2.2)) (0, 0, 0)
    let x : Stat := ⟨s.me.asid, s.myJob, hThp e, 0, c.1, c.2.1, c.2.2⟩
    if s.unit.own then
      let ls := s.statLines s.who (s.fallsOut s.who s.cur.core [x])
      if s.reserved ls || s.ownedAny ls then .error .stall else .ok ((), s.countStats s.who s.cur.core [x])
    else .ok ((), s.modChunk fun k => { k with stats := k.stats ++ [x] })

/-- A store of bytes through a pointer made ready: checked, its lines claimed (those of the whole table for a preset, R105), FP32 image
elements encoded in the window's format (R74) and counted, with the waits and the trap of the decode table (R71, R72). A write of the table
window keeps no reserved bit (R2, R69). `rel`
marks a release at system scope, which outside the package is sent only after its covered set has been performed (R118). -/
def stageM (p : Word) (a : Acc) (bs : List Byte) (rel : Bool) : M Put := do
  let (e, pl) ← accessM p a
  match pl with
  | .mem segs =>
    if hWin e = 0 then
      claimM segs p
      pure (.bytes segs bs)
    else
      if hWin e = 1 then
        tableReadyM
        needM (!(← getM (·.tabBad))) (.trap .fpe 1)
      let t ← getM (·.table)
      let xs := splitElems 4 (bs.length / 4) bs
      let ys := xs.map (windowStore t (hWin e))
      claimM segs p
      countWindow e (hWin e) xs ys
      pure (.bytes segs (ys.flatMap fun y => leBytes (winWidth (hWin e)) y))
  | .table o =>
    if o < 0x400 then
      needM (← getM (·.me.ctx.preset.isNone)) .stall
      let segs := [(tableAddr (← getM (·.cur.core)) o, a.n)]
      claimM segs p
      pure (.table segs ((splitElems 4 (a.n / 4) bs).flatMap fun x => leBytes 4 (x % 2 ^ 21)))
    else
      let k := if o = 0x400 then leNat bs / 2 ^ 8 % 4 else 0
      if k = 1 || k = 2 then
        claimM [(tableAddr (← getM (·.cur.core)) 0, 1024)] p
        pure (.preset k)
      else pure .nothing
  | .capBlock _ => trapM .handle p
  | .outside host dev pod addr =>
    ownM
    let cov ← getM fun s => if rel then s.covered s.cur else []
    pure (.outside host dev pod addr bs p cov)

/-- A store that was made ready takes effect. -/
def State.applyPut (s : State) : Put → State
  | .bytes segs bs => s.putSegs segs bs
  | .table segs bs => (s.putSegs segs bs).modCtx fun c => { c with recheck := true, dirty := c.dirty ||| 2 ^ 64 }
  | .preset k => s.modCtx fun c => { c with preset := some k, dirty := c.dirty ||| 2 ^ 64 }
  | .nothing => s
  | .outside host dev pod addr bs p cov => s.postOutside host dev pod addr (.write bs) p cov

/-- The lines in package memory that a store wrote carry release (R118, R120). -/
def State.carryRelease (s : State) : Put → State
  | .bytes segs _ =>
    if s.unit.own then s.release s.cur (segLines segs)
    else s.modChunk fun c => { c with rel := (segLines segs).foldl (fun m l => setAdd l m) c.rel }
  | .table _ _ | .preset _ | .nothing | .outside _ _ _ _ _ _ _ => s

/-- A store of bytes through a pointer. `rel` marks a release at system scope (R118, R120). -/
def storeM (p : Word) (a : Acc) (bs : List Byte) (rel : Bool) : M Unit := do
  let x ← stageM p a bs rel
  modM (·.applyPut x)
  if rel then modM (·.carryRelease x)

/-! ## Late results (R99) and register writes -/

/-- A scalar register written in a context; `s0` discards (R47); the dirty bit is set (R57). -/
def Ctx.setReg (c : Ctx) (r : Reg) (v : Word) : Ctx :=
  if r = 0 then c else { c with regs := c.regs.set r.toNat v r.isLt, dirty := c.dirty ||| 2 ^ r.toNat }

/-- A scalar register of a context; `s0` reads 0 (R47). -/
def Ctx.reg (c : Ctx) (r : Reg) : Word := if r = 0 then 0 else c.regs[r.toNat]'r.isLt

/-- A tile row written in a context. -/
def Ctx.setRow (c : Ctx) (i : Nat) (v : Row) : Ctx :=
  if h : i < 128 then { c with tiles := c.tiles.set i v h, dirty := c.dirty ||| 2 ^ (32 + i / 8) } else c

/-- A tile row of a context. -/
def Ctx.row (c : Ctx) (i : Nat) : Row := if h : i < 128 then c.tiles[i] else 0

/-- The binding of a register code (R52, R57). -/
def Ctx.bindOf (c : Ctx) (code : Nat) : Option (Fin 4 × Binding) :=
  let at_ (i : Fin 4) (rest : Option (Fin 4 × Binding)) : Option (Fin 4 × Binding) :=
    match c.binds[i] with
    | some b => if b.code = code then some (i, b) else rest
    | none => rest
  at_ 0 (at_ 1 (at_ 2 (at_ 3 none)))

/-- A generator's position moved. -/
def Ctx.advance (c : Ctx) (i : Fin 4) (n : Nat) : Ctx :=
  { c with
    binds := c.binds.set i ((c.binds[i]).map fun b => { b with pos := b.pos + n })
    dirty := c.dirty ||| 2 ^ (48 + i.val) }

/-- Pointer of element `k` of a stream (R361). -/
def Binding.ptr (b : Binding) (k : Nat) : Word :=
  let e : Int := (offsetOf b.base : Int) + ((k / b.run : Nat) : Int) * b.str2.toInt + ((k % b.run : Nat) : Int) * b.str1.toInt
  BitVec.ofNat 64 (handleOf b.base * 2 ^ 52 + (e % (2 ^ 52 : Int)).toNat)

/-- The late destinations that a result's landing touches: scalar codes, tile rows, `RPART`. -/
def LateVal.dests : LateVal → List Nat
  | .scalar r _ => [r.toNat]
  | .rows rs => rs.map (32 + ·.1)
  | .lanes rs => rs.map (32 + ·.1)
  | .rpart _ => [1000]
  | .append code _ => if code < 32 then [code] else (List.range 8).map (32 + 8 * (code - 32) + ·)

/-- The operand view of a paired bundle kept in step with a landing or a pop (R47, R99). -/
def State.viewReg (s : State) (r : Reg) (v : Word) : State :=
  match s.unit.view with
  | some (rs, ts) => { s with unit := { s.unit with view := some (if r = 0 then rs else rs.set r.toNat v r.isLt, ts) } }
  | none => s

/-- The same for a tile row. -/
def State.viewRow (s : State) (i : Nat) (v : Row) : State :=
  match s.unit.view with
  | some (rs, ts) => { s with unit := { s.unit with view := some (rs, if h : i < 128 then ts.set i v h else ts) } }
  | none => s

/-- The bits of a row that a mask names, from `v`; the others from `old`. -/
def maskRow (old v mask : Row) : Row := (old &&& ~~~mask) ||| (v &&& mask)

/-- A late result lands (R99, rule 5): in its register, in the place of its stream that it took at issue, or in `RPART`, where it
joins what stands there (R165). -/
def State.land (s : State) (v : LateVal) : State :=
  match v with
  | .scalar r x => (s.modCtx (·.setReg r x)).viewReg r x
  | .rows rs => rs.foldl (fun s ix => (s.modCtx (·.setRow ix.1 ix.2)).viewRow ix.1 ix.2) s
  | .lanes rs => rs.foldl (fun s x =>
      let v := maskRow (s.me.ctx.row x.1) x.2.1 x.2.2
      (s.modCtx (·.setRow x.1 v)).viewRow x.1 v) s
  | .rpart x => s.modCtx fun c => { c with rpart := some (match c.rpart with
      | some r => BitVec.ofNat 32 (fAdd .fp32 .rne r.toNat x.toNat)
      | none => x) }
  | .append _ xs => xs.foldl State.applyPut s

/-- Whether a result must land now: its window has closed, or that of a younger result of the same destination has (R99,
rule 7; log entry 9). -/
def dueNow : List Late → List (Bool × Late)
  | [] => []
  | l :: ls =>
    let rest := dueNow ls
    (l.left = 0 || rest.any (fun x => x.1 && meets l.val.dests x.2.val.dests), l) :: rest

/-- Every late result that is due lands, in program order. -/
def State.landDue (s : State) : State :=
  let ds := dueNow s.me.ctx.lates
  let s := s.modCtx fun c => { c with lates := (ds.filter (!·.1)).map (·.2) }
  (ds.filter (·.1)).foldl (fun s d => s.land d.2.val) s

/-- One word completes: every window is one word shorter, and what is due lands. -/
def State.ageLates (s : State) : State :=
  if s.me.ctx.lates.isEmpty then s
  else (s.modCtx fun c => { c with lates := c.lates.map fun l => { l with left := l.left - 1 } }).landDue

/-- The late results in flight that share a destination with a result that has no window land before it, in program order (R99,
rule 7). -/
def State.landOlder (s : State) (v : LateVal) : State :=
  let old := s.me.ctx.lates.filter fun l => meets l.val.dests v.dests
  if old.isEmpty then s
  else
    old.foldl (fun s l => s.land l.val)
      (s.modCtx fun c => { c with lates := c.lates.filter fun l => !meets l.val.dests v.dests })

/-- Every late result lands (R99, rule 6). -/
def State.landAll (s : State) : State :=
  if s.me.ctx.lates.isEmpty then s
  else
    let ls := s.me.ctx.lates
    ls.foldl (fun s l => s.land l.val) (s.modCtx fun c => { c with lates := [] })

/-! ## Scalar operands -/

/-- STREAM with a register code (R52). -/
def streamM {α : Type} (code : Nat) : M α := trapM .stream (BitVec.ofNat 64 code)

/-- Element bytes of a pop: the next element loaded at this place (R362). -/
def popBytes (b : Binding) (k n : Nat) : M (List Byte) :=
  if b.cnt ≤ k then streamM b.code
  else loadM (b.ptr k) { rd := true, wr := false, n := n, align := n }

/-- A value of `n` bytes extended to 64 bits. -/
def extend (n : Nat) (sgn : Bool) (x : Nat) : Word := if sgn then BitVec.ofInt 64 (toSigned (8 * n) x) else BitVec.ofNat 64 x

/-- The scalar registers as a source sees them: the view of the pair, or the registers. -/
def State.srcReg (s : State) (r : Reg) : Word :=
  match s.unit.view with
  | some (rs, _) => if r = 0 then 0 else rs[r.toNat]'r.isLt
  | none => s.me.ctx.reg r

/-- The tile rows as a source sees them. -/
def State.srcRow (s : State) (i : Nat) : Row :=
  match s.unit.view with
  | some (_, ts) => if h : i < 128 then ts[i] else 0
  | none => s.me.ctx.row i

/-- A scalar source: an input-bound register pops once per word (R52). -/
def readS (r : Reg) : M Word := do
  let c ← getM (·.me.ctx)
  match c.bindOf r.toNat with
  | none => getM (·.srcReg r)
  | some (i, b) =>
    if b.out then streamM b.code
    else if (← getM (·.unit.popped)).contains b.code then getM (·.srcReg r)
    else
      let bs ← popBytes b b.pos b.esz
      let v := extend b.esz b.sgn (leNat bs)
      modM fun s =>
        let s := ((s.modCtx (·.setReg r v)).modCtx (·.advance i 1)).viewReg r v
        { s with unit := { s.unit with popped := b.code :: s.unit.popped } }
      pure v

/-- The place that an element of `n` bytes takes in an output stream (R52, R362): STREAM on an input binding and past the end. -/
def appendM (i : Fin 4) (b : Binding) (n : Nat) (bs : List Byte) : M Put := do
  if !b.out || b.cnt ≤ b.pos then streamM b.code
  else
    let x ← stageM (b.ptr b.pos) { rd := false, wr := true, n := n, align := n } bs false
    modM (·.modCtx (·.advance i 1))
    pure x

/-- A scalar result in place for the next instruction: a bound register appends (R52). -/
def writeS (r : Reg) (v : Word) : M Unit := do
  let c ← getM (·.me.ctx)
  match c.bindOf r.toNat with
  | none => modM (·.modCtx (·.setReg r v))
  | some (i, b) =>
    let x ← appendM i b b.esz (wordBytes b.esz v)
    modM (·.applyPut x)

/-- A result of a long-latency instruction: held for its window of LA words, or in place for the next instruction with LA = 0, after the
older results of its destination (R99, rules 5 and 7). -/
def lateM (la : Nat) (v : LateVal) : M Unit :=
  modM fun s =>
    if la = 0 then { (s.landOlder v).land v with unit := s.unit }
    else s.modCtx fun c => { c with lates := c.lates ++ [⟨v, la + 1⟩] }

/-- A scalar result with lookahead. A late append takes its place in its stream at issue, where every trap of its instruction is taken
(R99 rule 8; log entry 71). -/
def writeLate (la : BitVec 4) (r : Reg) (v : Word) : M Unit := do
  match (← getM (·.me.ctx)).bindOf r.toNat with
  | none => if r = 0 then pure () else lateM la.toNat (.scalar r v)
  | some (i, b) =>
    let x ← appendM i b b.esz (wordBytes b.esz v)
    lateM la.toNat (.append b.code [x])

/-! ## Tile operands -/

/-- Row index of row `q` of tile `t`. -/
def rowIx (t : TReg) (q : Nat) : Nat := 8 * t.toNat + q

/-- Rows popped into a tile, one element each (R52). -/
def popRows (t : TReg) (i : Fin 4) : Nat → Nat → M Unit
  | _, 0 => pure ()
  | q, n + 1 => do
    let c ← getM (·.me.ctx)
    match c.binds[i] with
    | none => pure ()
    | some b =>
      let bs ← popBytes b b.pos 16
      let v : Row := BitVec.ofNat 128 (leNat bs)
      modM fun s => ((s.modCtx (·.setRow (rowIx t q) v)).modCtx (·.advance i 1)).viewRow (rowIx t q) v
      popRows t i (q + 1) n

/-- Tile source rows f to f + n − 1. -/
def readRows (t : TReg) (f n : Nat) : M (List Row) := do
  let c ← getM (·.me.ctx)
  let rows : M (List Row) := getM fun s => (List.range n).map fun k => s.srcRow (rowIx t (f + k))
  match c.bindOf (32 + t.toNat) with
  | none => rows
  | some (i, b) =>
    if b.out then streamM b.code
    else if (← getM (·.unit.popped)).contains b.code then rows
    else
      popRows t i f n
      modM fun s => { s with unit := { s.unit with popped := b.code :: s.unit.popped } }
      rows

/-- Consecutive rows of a tile with their indices. -/
def indexRows (t : TReg) (f : Nat) (vs : List Row) : List (Nat × Row) := vs.mapIdx fun k v => (rowIx t (f + k), v)

/-- The places that rows take in an output stream, one after another. -/
def appendRowsM (i : Fin 4) : List Row → M (List Put)
  | [] => pure []
  | v :: vs => do
    match (← getM (·.me.ctx)).binds[i] with
    | none => pure []
    | some b =>
      let x ← appendM i b 16 (leBytes 16 v.toNat)
      let xs ← appendRowsM i vs
      pure (x :: xs)

/-- Tile result rows from row `f`, in place for the next instruction. -/
def writeRows (t : TReg) (f : Nat) (vs : List Row) : M Unit := do
  let c ← getM (·.me.ctx)
  match c.bindOf (32 + t.toNat) with
  | none => modM fun s => s.modCtx fun c => (indexRows t f vs).foldl (fun c x => c.setRow x.1 x.2) c
  | some (i, _) =>
    let xs ← appendRowsM i vs
    modM fun s => xs.foldl State.applyPut s

/-- Tile result rows with lookahead; late appends take their places in the stream at issue. -/
def writeRowsLate (la : BitVec 4) (t : TReg) (f : Nat) (vs : List Row) : M Unit := do
  match (← getM (·.me.ctx)).bindOf (32 + t.toNat) with
  | none => lateM la.toNat (.rows (indexRows t f vs))
  | some (i, b) =>
    let xs ← appendRowsM i vs
    lateM la.toNat (.append b.code xs)

end Sys2Proof.Machine
end

