-- ==== Sys2Proof/Machine/Jobs.lean ====
section
/-! DEFINITION. Jobs and what hangs on them, shared by many meanings: user interrupts (R59), the accesses that the device makes on behalf of
a job, the ends of engine and copy jobs (R137–R140), the matrix licence (R145–R147), capabilities (R134), records (R422) and the
completion word (R42, R43). -/

namespace Sys2Proof.Machine

/-- The cores of a span's gangs, ascending (R154). -/
def Job.cores (j : Job) : List Nat := j.gangs.flatMap fun c => (List.range j.nstr).map (8 * c + ·)

/-! ## User interrupts (R59, R60) -/

/-- A source raised on an agent: its pending bit, kept over a squash, and for sources 0 and 1 the id of the completed job. -/
def Agent.raise (g : Agent) (src : Nat) (v : Word) : Agent :=
  { g with
    ctx := { g.ctx with uip := g.ctx.uip ||| BitVec.ofNat 4 (2 ^ src), dirty := g.ctx.dirty ||| srDirty 0x15 }
    raised := g.raised ||| BitVec.ofNat 4 (2 ^ src)
    src0 := if src = 0 then v else g.src0
    src1 := if src = 1 then v else g.src1 }

/-- A source raised on the strand of a job on a core, in its image while the job is off. -/
def State.raiseStrand (s : State) (core job src : Nat) (v : Word) : State :=
  let a : AgentId := ⟨core, .main⟩
  let g := s.agent a
  if g.act != .idle && g.task.isNone && jobKey g.asid g.job = job then s.setAgent a (g.raise src v)
  else
    s.modCore core fun c => { c with images := c.images.map fun i =>
      if i.job = job then { i with agents := i.agents.map fun x =>
        if x.1 = .main then (x.1, x.2.raise src v) else x } else i }

/-- A source raised on a task of a job, wherever it stands: on a core, or stopped in its image (R202). -/
def State.raiseTask (s : State) (p : Word) (job src : Nat) (v : Word) : State :=
  match s.agents.find? fun x => x.2.act != .idle && x.2.task == some p && jobKey x.2.asid x.2.job == job with
  | some x => s.setAgent x.1 (x.2.raise src v)
  | none =>
    { s with clusters := s.clusters.map fun kc => (kc.1, { kc.2 with
        tasks := kc.2.tasks.map fun t =>
          if t.ptr = p && jobKey t.asid t.job = job then { t with image := t.image.map fun x => (x.1.raise src v, x.2) } else t }) }

/-- A source raised on the strand of a job on a core, or on a task of it (R59). Where that is gone, or is suspended into its record, nothing
is raised (the model's choice, log entry 89). -/
def State.raiseUI (s : State) (core job : Nat) (task : Option Word) (src : Nat) (v : Word) : State :=
  match task with
  | some p => s.raiseTask p job src v
  | none => s.raiseStrand core job src v

/-- An MSI-X vector raised. -/
def State.msix (s : State) (v : Nat) : State := { s with host := { s.host with msix := s.host.msix ++ [v] } }

/-! ## What the device does in one step

An operation of the device may have to wait: for a line that an engine or copy job owns (R129), for a reserved line (R109), or for what a
read outside brings (R117). It then changes nothing, and is tried again by a later event (log entry 79). -/

/-- Why an operation of the device is not done: it waits, it waits for an outside read, or an access fails, with the replies that the
failure uses up. -/
inductive DevStop where
  | wait
  | ask (x : DevAsk)
  | fails (c : Cause) (used : List DevReply)
  deriving DecidableEq, Repr

/-- An operation of the device on the state. What stops it leaves the state as it was. -/
abbrev D (α : Type) := StateT State (Except DevStop) α

/-- An access of the operation fails. -/
def devFail {α : Type} (c : Cause) : D α := fun _ => .error (.fails c [])
/-- Read something of the state. -/
def devGet {α : Type} (f : State → α) : D α := fun s => .ok (f s, s)
/-- Change the state. -/
def devMod (f : State → State) : D Unit := fun s => .ok ((), f s)
/-- Go on only when a condition holds; otherwise wait. -/
def devNeed (b : Bool) : D Unit := fun s => if b then .ok ((), s) else .error .wait
/-- What an access answers, or the status of one that fails. -/
def devTry {α : Type} (m : D α) : D (Except Cause α) := fun s =>
  match m s with
  | .ok (a, t) => .ok (.ok a, t)
  | .error (.fails c used) =>
    .ok (.error c, { s with fab := { s.fab with replies := s.fab.replies.filter fun r => !used.contains r } })
  | .error x => .error x

/-- A read that the device sends outside for a job, once (R117). -/
def State.askOutside (s : State) (x : DevAsk) : State :=
  if s.fab.exts.any fun y => y.agent.isNone && !y.store && y.job == x.job && y.ptr == x.ptr && y.op == .read x.n then s
  else
    let y : ExtOp :=
      ⟨s.fab.nextExt, none, x.asid, x.job, none, x.host, x.dev, x.pod, x.addr, .read x.n, x.ptr, false, true, [], s.now⟩
    { s with fab := { s.fab with exts := s.fab.exts ++ [y], nextExt := s.fab.nextExt + 1 } }

/-- The state after an operation of the device: done, or as it was while it waits. -/
def State.attempt (s : State) (m : D Unit) : State :=
  match m s with
  | .ok (_, t) => t
  | .error (.ask x) => s.askOutside x
  | .error .wait | .error (.fails _ _) => s

/-- An operation of the device as part of a word: while it waits, the word waits. -/
def devM {α : Type} (m : D α) : M (Except Cause α) := fun s =>
  match devTry m s with
  | .ok r => .ok r
  | .error (.ask x) => .error (.ask x)
  | .error .wait | .error (.fails _ _) => .error .stall

/-! ## Accesses of the device on behalf of a job -/

/-- The accessor for the main strand or a task of a job on a core. -/
def State.whoOf (s : State) (asid job : Nat) (a : AgentId) : Who :=
  let j := s.job job
  ⟨asid, a, job, j.det, j.span.wgen.toNat % 2 ^ 16⟩

/-- The committed decode table of a core. -/
def State.tableOf (s : State) (core : Nat) : List W32 :=
  (List.range 256).map fun c => BitVec.ofNat 32 (s.peek (tableAddr core (4 * c)) 4)

/-- Whether an agent of a core waits for a preset or a re-check of the core's table (R71). -/
def State.rechecks (s : State) (core : Nat) : Bool :=
  [AgentKind.main, .loader, .storer].any fun k =>
    let g := s.agent ⟨core, k⟩
    g.ctx.recheck || g.ctx.preset.isSome

/-- The image of stored bytes in a window (R74), with the decode table of a core. -/
def State.imageOf (s : State) (core win : Nat) (bs : List Byte) : List Byte :=
  if win = 0 then bs
  else
    let k := winWidth win
    (splitElems k (bs.length / k) bs).flatMap fun x => leBytes 4 (match win with
      | 1 => decode8 (s.peek (tableAddr core (4 * (x % 256))) 4)
      | 2 => x * 2 ^ 16
      | _ => fConv .fp16 .fp32 .rne x)

/-- The bytes of a preset (R69): 1 for E4M3, otherwise E5M2. -/
def presetBytes (k : Nat) : List Byte :=
  (List.range 256).flatMap fun c => leBytes 4 (if k = 1 then presetE4M3 c else presetE5M2 c)

/-- Whether some line is owned by an engine or copy job other than the one an access is made for (R128, R129). -/
def State.ownedNot (s : State) (own : Option Nat) (ls : List Nat) : Bool :=
  ls.any fun l => match tabGet l s.mem.owned with
    | some k => own != some k
    | none => false

/-- Superblocks pinned for a job by an access of the device, no agent's open chunk holding on to contents that give way (R201). -/
def State.pinDev (s : State) (job : Nat) (segs : List (Nat × Nat)) : State := (s.squashAll (s.swapLines job segs)).pinSegs job segs

/-- Bytes of memory read: superblocks pinned (R89), owned lines waited for (R129), poison (R197) and a frozen slice (R195) refused. -/
def devLoad (own : Option Nat) (w : Who) (segs : List (Nat × Nat)) : D (List Byte) := fun s =>
  let ls := segLines segs
  if s.frozenSegs segs then .error (.fails .peerdead [])
  else if s.ownedNot own ls || s.reservedAny (s.swapLines w.job segs) then .error .wait
  else
    let s := s.pinDev w.job segs
    if meets ls s.mem.poison then .error (.fails .soft []) else .ok (segs.flatMap fun g => bytesAt s.mem.bytes g.1 g.2, s)

/-- Bytes of memory written at a grant of the device's own: owned and reserved lines waited for (R109, R129), superblocks pinned, conflicting
open chunks squashed, poison cleared on whole lines. `soft` says that software directs the write (R31). -/
def devStore (own : Option Nat) (w : Who) (soft : Bool) (segs : List (Nat × Nat)) (bs : List Byte) : D Unit := fun s =>
  let ls := segLines segs
  if s.frozenSegs segs then .error (.fails .peerdead [])
  else if s.ownedNot own ls || s.reservedAny (ls ++ s.swapLines w.job segs) then .error .wait
  else
    let s := (s.pinDev w.job segs).squashAll ls
    let t := if soft then s.softPoke segs bs else s.pokeSegs segs bs
    .ok ((), if t.mem.poison.isEmpty then t else t.clearPoison (holdSegs segs bs []))

/-- The table window of a core read (R69), entries first and then the control word: `TABBAD` waits for a running re-check. -/
def devTable (core o n : Nat) : D (List Byte) := fun s =>
  let k := min n (0x400 - o)
  let entries := bytesAt s.mem.bytes (tableAddr core o) k
  if k = n then .ok (entries, s)
  else if o + k = 0x400 && s.rechecks core then .error .wait
  else .ok (entries ++ ((leBytes 8 (bitNat (!tableGood (s.tableOf core)))).drop (o + k - 0x400)).take (n - k), s)

/-- The main agent of a core has a table that changed: a re-check runs (R71). -/
def State.tableChanged (s : State) (core : Nat) : State :=
  s.modAgent ⟨core, .main⟩ fun g => { g with ctx := { g.ctx with recheck := true, dirty := g.ctx.dirty ||| 2 ^ 64 } }

/-- The table window of a core written (R69): entries, and then a preset where the control word is written. -/
def devTablePut (own : Option Nat) (w : Who) (o n : Nat) (bs : List Byte) : D Unit := do
  let core := w.aid.core
  let m := min n (0x400 - o)
  if m != 0 then
    devStore own w false [(tableAddr core o, m)] ((splitElems 4 (m / 4) bs).flatMap fun x => leBytes 4 (x % 2 ^ 21))
    devMod (·.tableChanged core)
  if o + m = 0x400 then
    let k := leNat (bs.drop m) / 2 ^ 8 % 4
    if k = 1 || k = 2 then
      devStore own w false [(tableAddr core 0, 1024)] (presetBytes k)
      devMod (·.tableChanged core)

/-- What an outside read brought; until then the read is on its way (R117). -/
def devOutside (x : DevAsk) : D (List Byte) := fun s =>
  match s.fab.replies.find? fun r => r.asid == x.asid && r.job == x.job && r.ptr == x.ptr && r.n == x.n with
  | none => .error (.ask x)
  | some r =>
    match r.data with
    | .ok bs => .ok (bs, { s with fab := { s.fab with replies := s.fab.replies.erase r } })
    | .error c => .error (.fails c [r])

/-- A read of `n` bytes at a place that passed its checks, as the window of its entry shows them (R74). -/
def readPlace (own : Option Nat) (w : Who) (e : List Word) (p : Word) (n : Nat) : Place → D (List Byte)
  | .mem segs => do
    let bs ← devLoad own w segs
    if hWin e = 1 then devNeed (!(← devGet (·.rechecks w.aid.core)))
    devGet (·.imageOf w.aid.core (hWin e) bs)
  | .table o => devTable w.aid.core o n
  | .capBlock o => devGet (·.capBytes o n)
  | .outside host dev pod addr => devOutside ⟨w.asid, w.job, host, dev, pod, addr, n, p⟩

/-- The counts of elements stored through a window. -/
def windowCounts (t : List W32) (win : Nat) (xs ys : List Nat) : Nat × Nat × Nat :=
  (xs.zip ys).foldl (fun (k : Nat × Nat × Nat) xy =>
    let d := windowCount t win xy.1 xy.2
    (k.1 + d.1, k.2.1 + d.2.1, k.2.2 + d.2.2)) (0, 0, 0)

/-- An FP32 image encoded for a window (R72, R74) and counted for the accessor's core (R82). -/
def devEncode (w : Who) (e : List Word) (bs : List Byte) : D (List Byte) := do
  let core := w.aid.core
  if hWin e = 1 then
    devNeed (!(← devGet (·.rechecks core)))
    if !tableGood (← devGet (·.tableOf core)) then devFail .fpe
  let t ← devGet (·.tableOf core)
  let xs := splitElems 4 (bs.length / 4) bs
  let ys := xs.map (windowStore t (hWin e))
  if hThdr e then
    let c := windowCounts t (hWin e) xs ys
    let x : Stat := ⟨w.asid, w.job, hThp e, 0, c.1, c.2.1, c.2.2⟩
    let ls ← devGet fun s => s.statLines w (s.fallsOut w core [x])
    devNeed (!(← devGet fun s => s.ownedNot none ls || s.reservedAny ls))
    devMod (·.countStats w core [x])
  pure (ys.flatMap fun y => leBytes (winWidth (hWin e)) y)

/-- A write outside on behalf of a job, posted (R117) after the writes `cov` that it covers. -/
def State.postFor (s : State) (w : Who) (host : Bool) (dev pod addr : Nat) (bs : List Byte) (p : Word) (cov : List Nat) : State :=
  let x : ExtOp := ⟨s.fab.nextExt, none, w.asid, w.job, none, host, dev, pod, addr, .write bs, p, true, true, cov, s.now⟩
  { s with fab := { s.fab with exts := s.fab.exts ++ [x], nextExt := s.fab.nextExt + 1 } }

/-- A write of bytes at a place that passed its checks. -/
def writePlace (own : Option Nat) (w : Who) (e : List Word) (soft : Bool) (p : Word) (bs : List Byte) : Place → D Unit
  | .mem segs => do
    let xs ← if hWin e = 0 then pure bs else devEncode w e bs
    devStore own w soft segs xs
  | .table o => devTablePut own w o bs.length bs
  | .capBlock _ => devFail .handle
  | .outside host dev pod addr => devMod (·.postFor w host dev pod addr bs p [])

/-- A read through a pointer for an accessor: the checks, then the bytes. -/
def readAt (w : Who) (p : Word) (a : Acc) : D (List Byte) := do
  match ← devGet (·.check w p a) with
  | .error c => devFail c
  | .ok pl => readPlace none w (← devGet (·.handle w.asid (handleOf p))) p a.n pl

/-- A write through a pointer for an accessor at a grant of the device's own. -/
def writeAt (w : Who) (soft : Bool) (p : Word) (a : Acc) (bs : List Byte) : D Unit := do
  match ← devGet (·.check w p a) with
  | .error c => devFail c
  | .ok pl => writePlace none w (← devGet (·.handle w.asid (handleOf p))) soft p bs pl

/-- The bytes of a completion word (R42). -/
def doneBytes (status : Nat) : List Byte := leBytes 8 (1 + status % 256 * 2 ^ 8)

/-- A completion word written at its place with its full tag (R42). Through an alias window it is stored as its FP32 image; there, in a table and
outside the package it has no tag (log entry 70). -/
def putDone (w : Who) (p : Word) (status : Nat) (pl : Place) : D Unit := do
  let e ← devGet (·.handle w.asid (handleOf p))
  writePlace none w e false p (doneBytes status) pl
  match pl with
  | .mem segs => if hWin e = 0 then devMod (·.setTag ((segs.headD (0, 0)).1) true)
  | .table _ | .capBlock _ | .outside _ _ _ _ => pure ()

/-- The completion word of an engine or copy job written (R42, R140): steps 1–3 and 6 of R87. -/
def writeDone (w : Who) (p : Word) (status : Nat) : D Unit := do
  match ← devGet (·.check w p { rd := false, wr := true, n := 8, align := 8, cap := false, gen := false }) with
  | .error c => devFail c
  | .ok pl => putDone w p status pl

/-! ## Statistics flushed by the device (R83) -/

/-- Entries flushed to their headers; a line that is owned or reserved is waited for. -/
def flushAll (w : Who) (xs : List Stat) : D Unit := fun s =>
  let ls := s.statLines w xs
  if s.ownedNot none ls || s.reservedAny ls then .error .wait
  else .ok ((), xs.foldl (fun s x => s.flushStat w x) (s.squashAll ls))

/-- Every entry of a core flushed. -/
def flushCore (w : Who) (c : Nat) : D Unit := do
  flushAll w (← devGet fun s => (s.core c).stats)
  devMod fun s => s.modCore c fun k => { k with stats := [] }

/-- Every entry that counts for a job flushed, on whatever core it is held. -/
def flushJob (asid job : Nat) : D Unit := do
  (← devGet (·.cores)).forM fun kc =>
    if kc.2.stats.any (·.job == job) then do
      flushAll (← devGet (·.whoOf asid job ⟨kc.1, .main⟩)) (kc.2.stats.filter (·.job == job))
      devMod fun s => s.modCore kc.1 fun k => { k with stats := k.stats.filter (·.job != job) }
    else pure ()

/-! ## Job queues (R137–R140) -/

/-- The cluster that published a job id (R138). -/
def idCluster (id : Nat) : Nat := id / 2 ^ 20 % 2 ^ 9

/-- Word `i` of a queue entry's record. -/
def QJob.word (q : QJob) (i : Nat) : Word := wordAt q.words i

/-- `NOTE` of a queue entry. -/
def QJob.note (q : QJob) : Bool := if q.copy then wbit (q.word 0) 2 else wbit (q.word 0) 13

/-- `DONEW` of a queue entry. -/
def QJob.donew (q : QJob) : Word := if q.copy then q.word 9 else q.word 10

/-- Key of the job that a queue entry belongs to. -/
def QJob.owner (q : QJob) : Nat := jobKey q.asid q.job

/-- The accessor of a queue entry: the agent that published it. One published by a task is checked against its span's `WGEN` all the same (R171;
the model's choice, log entry 100). -/
def State.whoQ (s : State) (q : QJob) : Who := s.whoOf q.asid q.owner q.pub

/-- The entries of a cluster: those in its queue, and those that wait for room in it. -/
def Cluster.entries (c : Cluster) : List QJob := c.queue ++ c.incoming

/-- Every queue entry of the package with the place that holds it: queues, moves and images (R139). -/
def State.allQ (s : State) : List QJob :=
  s.clusters.flatMap (fun kc => kc.2.entries) ++ s.jobs.flatMap (fun kj => kj.2.images.flatMap (·.queue))

/-- The newest incomplete engine or copy job of an id in an address space (R139). -/
def State.findQ (s : State) (asid id : Nat) : Option QJob :=
  (s.allQ.filter fun q => q.asid == asid && q.id == id).foldl (fun m q => match m with
    | some x => if x.key < q.key then some q else some x
    | none => some q) none

/-- The job that an id names, while it is not complete (R139): the newest one that carries it, which a newer complete one hides. -/
def State.liveQ (s : State) (asid id : Nat) : Option QJob :=
  (s.findQ asid id).filter fun q =>
    !((s.cluster (idCluster id)).hist.any fun h => h.id == id && h.sts.isSome && q.key < h.key)

/-- A queue entry changed. -/
def State.modQ (s : State) (k key : Nat) (f : QJob → QJob) : State :=
  s.modCluster k fun c =>
    let g (q : QJob) : QJob := if q.key = key then f q else q
    { c with queue := c.queue.map g, incoming := c.incoming.map g }

/-- A queue with an entry in its order (R147, R203). -/
def insertQ (q : QJob) : List QJob → List QJob
  | [] => [q]
  | x :: xs => if q.seq < x.seq then q :: x :: xs else x :: insertQ q xs

/-- The entries of a cluster's queue in use: its own, and those that jobs on the move, to the twin or back again, still hold (R147). -/
def State.queueUsed (s : State) (k : Nat) : Nat :=
  (s.cluster k).queue.length +
    (((s.cluster (twinCluster k)).incoming ++ (s.cluster k).incoming).filter fun q => q.from_ == some k).length

/-- The first job that waits for room enters the queue, where an entry is free or it holds one there (R147, R203). -/
def State.letIn (s : State) (k : Nat) : State :=
  match (s.cluster k).incoming with
  | [] => s
  | q :: qs =>
    if s.queueUsed k < 64 || q.from_ == some k then
      s.modCluster k fun c => { c with queue := insertQ { q with from_ := none } c.queue, incoming := qs }
    else s

/-- As many jobs as find room enter the queue, in order. -/
def State.letInAll (s : State) (k : Nat) : State :=
  (List.range (s.cluster k).incoming.length).foldl (fun s _ => s.letIn k) s

/-- The statistics of an engine job flushed to the header of its C handle (R82, R83). -/
def flushQ (q : QJob) : D Unit := do
  match q.handles.find? fun h => h.1 == q.word 4 with
  | some h =>
    if q.sat = 0 && q.ftz = 0 && q.nan = 0 then pure ()
    else flushAll (← devGet (·.whoQ q)) [⟨q.asid, q.owner, hThp h.2, 0, q.sat, q.ftz, q.nan⟩]
  | none => pure ()

/-! ## The matrix licence (R145–R147) -/

/-- Whether a cluster has a READY or PARKED engine job, or one running. -/
def State.engineWork (s : State) (k : Nat) : Bool :=
  (s.cluster k).entries.any fun q => !q.copy && (q.st == .ready || q.st == .parked || q.st == .running)

/-- A request is met: the licence is held by its cluster with a pin of its job (R146, R328). -/
def State.grantLic (s : State) (p : Nat) (u : Bool) (r : LicReq) : State :=
  let s := s.modPair p fun x => { x with
    holder := some u, moving := none, pins := (r.job :: r.also).foldl (fun m j => setAdd j m) x.pins
    reqL := if u then x.reqL else none, reqU := if u then none else x.reqU }
  if r.note then s.raiseUI r.core r.job none 3 0 else s

/-- A licence that became free passes to a request, or is taken for engine work, die L first (R146). -/
def State.licFree (s : State) (p : Nat) : State :=
  let x := s.pair p
  match x.reqL, x.reqU with
  | some r, _ => s.grantLic p false r
  | none, some r => s.grantLic p true r
  | none, none =>
    let h := if s.engineWork p then some false else if s.engineWork (p + 256) then some true else none
    s.modPair p fun x => { x with holder := h, moving := none, pins := [] }

/-- The automatic changes of R146: a FREE licence is taken; an unpinned one without engine work at its holder becomes FREE. -/
def State.licSettle (s : State) (p : Nat) : State :=
  let x := s.pair p
  if x.moving.isSome then s
  else
    match x.holder with
    | none => s.licFree p
    | some u => if x.pins.isEmpty && !s.engineWork (p + 256 * bitNat u) then s.licFree p else s

/-- Whether a cluster holds the licence of its pair. -/
def State.holdsLic (s : State) (k : Nat) : Bool :=
  let x := s.pair (pairOf k)
  x.moving.isNone && x.holder == some (onDieU k)

/-- The mark of the job parked last taken from every entry of a cluster: the job that is parked now, or comes parked, bears it (R147). -/
def Cluster.noFirst (c : Cluster) : Cluster :=
  { c with queue := c.queue.map fun q => { q with first := false }, incoming := c.incoming.map fun q => { q with first := false } }

/-- Engine jobs that move with a licence, in the order in which they go (R147): the parked job first, which is the one parked last, and the
rest in their original queue order. -/
def movingOrder (qs : List QJob) : List QJob :=
  let ps := qs.filter (·.st == .parked)
  let rest (p : QJob) := qs.filter fun q => q.key != p.key
  match (ps.find? (·.first)).or ps.head? with
  | some p => { p with first := true } :: (rest p).map fun q => { q with first := false }
  | none => qs

/-- The entries of a cluster that a job parked elsewhere comes to: it unparks before any parked one of theirs (R147). -/
def Cluster.yields (c : Cluster) (qs : List QJob) : Cluster := if qs.any (·.first) then c.noFirst else c

/-- An entry that comes to a cluster's queue after its own entries (R147), with its place in the order there. -/
def QJob.comes (q : QJob) (seq : Nat) : QJob := { q with seq := seq }

/-- An entry that moves from one cluster to another holds its old entry until it finds room (R147). -/
def QJob.moving (q : QJob) (src seq : Nat) : QJob := { q.comes seq with from_ := some (q.from_.getD src) }

/-- Engine jobs of the releasing cluster move to the twin's queue after the twin's own entries, the parked job first (R147); what
finds no room waits. -/
def State.moveEngineJobs (s : State) (src dst : Nat) : State :=
  let c := s.cluster src
  let mv := movingOrder (c.entries.filter (!·.copy))
  let s := s.modCluster src fun c => { c with queue := c.queue.filter (·.copy), incoming := c.incoming.filter (·.copy) }
  let s := s.modCluster dst fun d => { d.yields mv with
    incoming := (d.yields mv).incoming ++ mv.mapIdx fun i q => q.moving src (d.entered + i), entered := d.entered + mv.length }
  s.letInAll dst

/-- The end of a move of the licence, once no engine of the holder runs (R146, R147). -/
def State.licMoved (s : State) (p : Nat) : State :=
  let x := s.pair p
  match x.moving, x.holder with
  | some .release, some u =>
    match (if u then x.reqL else x.reqU) with
    | some r => (s.modPair p fun x => { x with pins := [] }).grantLic p (!u) r
    | none => (s.modPair p fun x => { x with pins := [], holder := none, moving := none }).licFree p
  | some .transfer, some u =>
    let s := s.modPair p fun x => { x with holder := some (!u), moving := none, lmov := min 255 (x.lmov + 1) }
    s.moveEngineJobs (p + 256 * bitNat u) (p + 256 * bitNat (!u))
  | some _, none | none, _ => s

/-- A release or hardware transfer begins: MOVING while the holder's engine has a job to park, done at once otherwise. -/
def State.licMove (s : State) (p : Nat) (m : LicMove) : State :=
  match (s.pair p).holder with
  | none => s
  | some u =>
    let s := s.modPair p fun x => { x with moving := some m }
    if (s.cluster (p + 256 * bitNat u)).eng.isSome then s else s.licMoved p

/-- A job's pin removed from a pair; `LPIN` and the holder follow R146. -/
def State.dropPin (s : State) (p job : Nat) : State :=
  if (s.pair p).pins.contains job then (s.modPair p fun x => { x with pins := setDel job x.pins }).licSettle p else s

/-- A request without a job's part in it. -/
def LicReq.without (r : LicReq) (job : Nat) : Option LicReq :=
  if r.job != job then some { r with also := r.also.filter (· != job) }
  else match r.also.filter (· != job) with
    | [] => none
    | j :: js => some ⟨j, r.core, false, js⟩

/-- Every pin and request of a job removed. -/
def State.dropPins (s : State) (job : Nat) : State :=
  s.pairs.foldl (fun s kp =>
    let s := s.modPair kp.1 fun x => { x with
      reqL := x.reqL.bind (·.without job), reqU := x.reqU.bind (·.without job) }
    s.dropPin kp.1 job) s

/-! ## The end of an engine or copy job -/

/-- A queue entry gone from its cluster, with its ownership. -/
def State.takeOutQ (s : State) (k : Nat) (q : QJob) : State :=
  let s := s.modCluster k fun c => { c with
    queue := c.queue.filter (·.key != q.key), incoming := c.incoming.filter (·.key != q.key)
    eng := if c.eng = some q.key then none else c.eng
    cpy := if c.cpy = some q.key then none else c.cpy }
  { s with mem := { s.mem with owned := s.mem.owned.filter (·.2 != q.key) } }

/-- The status of a completed job kept for `JOBQ` (R139). -/
def State.noteDone (s : State) (q : QJob) (sts : Nat) : State :=
  s.modCluster (q.key % 512) fun c => { c with
    hist := c.hist.map fun h => if h.key = q.key then { h with sts := some sts } else h }

/-- An engine or copy job ends with a status, in one grant (R140): statistics flushed, ownership released, the completion word
written when `word` says so, the job COMPLETE for `JOBQ`, and the user interrupt raised on a `NOTE` or an unwritten word. The licence then
follows the engine work left (R146). -/
def endQ (k : Nat) (q : QJob) (sts : Nat) (word : Bool) : D Unit := do
  devMod (·.takeOutQ k q)
  flushQ q
  let r ← if word then devTry (writeDone (← devGet (·.whoQ q)) q.donew sts) else pure (.ok ())
  let code := match r with
    | .ok () => sts
    | .error c => c.code
  let written := word && match r with
    | .ok () => true
    | .error _ => false
  devMod fun s =>
    let s := s.noteDone q code
    let s := if q.note || !written then s.raiseUI q.pub.core q.owner q.task (bitNat q.copy) (BitVec.ofNat 64 q.id) else s
    if q.copy then s else s.licSettle (pairOf k)

/-! ## Capabilities and pins -/

/-- The agents of a job. -/
def State.jobAgents (s : State) (job : Nat) : List AgentId :=
  (s.agents.filter fun ag => ag.2.act != .idle && jobKey ag.2.asid ag.2.job = job).map (·.1)

/-- The agents of a job in its images while it is off. -/
def State.imageAgents (s : State) (job : Nat) : List AgentId :=
  s.cores.flatMap fun kc => kc.2.images.flatMap fun i => if i.job = job then i.agents.map fun x => ⟨kc.1, x.1⟩ else []

/-- The cores of a job's agents, in ascending order: those they stand on, and those whose images hold them. -/
def State.jobCores (s : State) (job : Nat) : List Nat :=
  (s.jobAgents job ++ s.imageAgents job).foldl (fun m a => setAdd a.core m) []

/-- Every capability held by or offered to an agent of a completed job becomes FREE (R134). -/
def State.freeCaps (s : State) (job : Nat) : State :=
  { s with caps := s.caps.map fun kc => match kc.2 with
      | .held _ j | .offered _ j => if j = job then (kc.1, .free) else kc
      | .free => kc }

/-- A completed job's superblocks are unpinned and its spilled ones forgotten (R89, R201); those of a frozen slice stay (R195). -/
def State.unpinJob (s : State) (job : Nat) : State :=
  { s with mem := { s.mem with
      pins := s.mem.pins.filter fun x => x.2 != job || s.mem.frozen.contains (x.1 / 1024)
      spills := s.mem.spills.filter (·.job != job) } }

/-- Image slots bound to a job are unbound (R199). -/
def State.unbindImages (s : State) (job : Nat) : State :=
  { s with cores := s.cores.map fun kc => (kc.1, { kc.2 with images := kc.2.images.filter (·.job != job) }) }

/-! ## Records (R27, R422) -/

/-- A read of a record for its job: a load under R87 with step 5 left out. -/
def recRead (w : Who) (ptr : Word) (o n : Nat) : D (List Byte) :=
  readAt w (ptrAdd ptr o) { rd := true, wr := false, n := n, align := 1, cap := false }

/-- A write of a record for its job. -/
def recWrite (w : Who) (ptr : Word) (o : Nat) (bs : List Byte) : D Unit :=
  writeAt w false (ptrAdd ptr o) { rd := false, wr := true, n := bs.length, align := 1, cap := false } bs

/-- Word +0x08 of a record with a `STATE`: its other fields kept, its reserved fields 0 (R2, R27). -/
def recHead (v st : Nat) : Nat := v % 2 ^ 35 + v / 2 ^ 36 % 8 * 2 ^ 36 + v / 2 ^ 40 % 2 * 2 ^ 40 + st * 2 ^ 41

/-- `STATE` of a record written as one store, every other field of its word kept (R31, R422). -/
def recState (w : Who) (ptr : Word) (st : Nat) : D Unit := do
  let p := ptrAdd ptr 8
  match ← devGet (·.check w p { rd := false, wr := true, n := 8, align := 1, cap := false }) with
  | .error c => devFail c
  | .ok pl =>
    let e ← devGet (·.handle w.asid (handleOf p))
    let v := leNat (← readPlace none w e p 8 pl)
    writePlace none w e false p (leBytes 8 (recHead v st)) pl

/-! ## Completion words and stream errors (R42, R43) -/

/-- A stream error: slot index and code recorded, `JERR` set, vector 2 raised (R43). -/
def State.streamError (s : State) (st slot code : Nat) : State :=
  (match tabGet st s.streams with
    | some x => { s with streams := tabSet st { x with eslot := slot, ecause := code, jerr := true } s.streams }
    | none => s).msix 2

/-- Where `n` bytes at a `DONEP` lie (R43): its alignment first, then steps 1–3 and 6 of R87 as a store. -/
def State.donepPlace (s : State) (w : Who) (p : Word) (n : Nat) : Except Cause Place :=
  if p.toNat % 8 != 0 then .error .align
  else s.check w p { rd := false, wr := true, n := n, align := 8, cap := false, gen := false }

/-- The dispatcher's completion word of a job written at its place as a release of the writes `cov` (R42, R132). -/
def finishAt (w : Who) (p : Word) (status : Nat) (cov : List Nat) : Place → D Unit
  | .outside host dev pod addr => devMod (·.postFor w host dev pod addr (doneBytes status) p cov)
  | .mem segs => do
    putDone w p status (.mem segs)
    if !cov.isEmpty then devMod fun s => { s with fab := { s.fab with rels := s.fab.rels ++ [⟨segLines segs, cov⟩] } }
  | .table o => putDone w p status (.table o)
  | .capBlock o => putDone w p status (.capBlock o)

/-- The dispatcher's completion word of a job (R42): a release at system scope whose covered set has every outside write of the
job (R132); a failing check is reported in `JSREG` (R43). -/
def finishWord (j : Job) (status : Nat) (cov : List Nat) : D Unit := do
  let w : Who := { (← devGet fun s => s.whoOf j.asid (jobKey j.asid j.id) ⟨0, .main⟩) with det := false }
  match ← devGet (·.donepPlace w j.donep 8) with
  | .error c => devMod (·.streamError j.stream j.slotIx c.code)
  | .ok pl =>
    match ← devTry (finishAt w j.donep status cov pl) with
    | .ok () => pure ()
    | .error c => devMod (·.streamError j.stream j.slotIx c.code)

/-- The outside writes that a job's completion word covers (R132): every one of the job not yet performed, and what the releases pending
outside wait for. -/
def State.jobOutside (s : State) (job : Nat) : List Nat :=
  (s.fab.rels.flatMap (·.cov)).foldl (fun m i => setAdd i m)
    ((s.fab.exts.filter fun x => x.store && x.job == job).map (·.id))

/-- The preset that an agent's store has asked for and that is not loaded yet stands in the table of its core (R69). -/
def State.presetNow (s : State) (a : AgentId) : State :=
  match (s.agent a).ctx.preset with
  | none => s
  | some k =>
    let segs := [(tableAddr a.core 0, 1024)]
    (((s.squashAll (segLines segs)).pokeSegs segs (presetBytes k)).modAgent a fun g =>
      { g with ctx := { g.ctx with preset := none, recheck := true } })

/-- An agent leaves its core; the core keeps its micro-program store (R403), and its table with a preset that was still to be loaded. -/
def State.leaveCore (s : State) (a : AgentId) : State :=
  let c := (s.agent a).ctx
  ((s.presetNow a).setAgent a {}).modCore a.core fun k => { k with
    idle := s.now, deq := none
    mp := if a.kind = .main then c.mp else k.mp, mplk := if a.kind = .main then c.mplk else k.mplk }

/-- What every end of a job does beside its completion word: capabilities (R134), licence pins (R146), pins (R89), images (R199),
pipelines, and the agents leave their cores. -/
def State.clearJob (s : State) (job : Nat) : State :=
  let agents := s.jobAgents job
  let s := (((s.freeCaps job).dropPins job).unpinJob job).unbindImages job
  let s := agents.foldl (fun s a => s.leaveCore a) s
  { s with
    pipes := s.pipes.filter (·.2.job != job)
    clusters := s.clusters.map fun kc => (kc.1, { kc.2 with
      tasks := kc.2.tasks.filter fun t => jobKey t.asid t.job != job })
    fab := { s.fab with replies := s.fab.replies.filter (·.job != job) }
    jobs := tabDel job s.jobs }

/-- A grant on behalf of another agent: its open chunk commits up to where it stands. -/
def State.grantOf (s : State) (a : AgentId) : State := s.asAgent a fun s => s.landAll.grant

/-- Whether a job of an address space is not complete (R34). -/
def State.jobLive (s : State) (asid id : Nat) : Bool := (tabGet (jobKey asid id) s.jobs).isSome

end Sys2Proof.Machine
end

