-- ==== Sys2Proof/Machine/Flags.lean ====
section
/-! DEFINITION. Conditions and status words: the conditions of R240 on scalars and lanes, and the state registers whose bits the
machine computes: `TCAUSE` (R188), `UIMASK` (R59) and the view `LICST` of the licence (R145). -/

namespace Sys2Proof.Machine

/-- A condition of R240 on two 64-bit values. -/
def condHolds (c : Cond) (a b : Word) : Bool :=
  match c with
  | .eq => a == b
  | .ne => a != b
  | .lt => a.slt b
  | .ge => !a.slt b
  | .ltu => a.ult b
  | .geu => !a.ult b
  | .bit => (a &&& b) != 0
  | .nbit => (a &&& b) == 0

/-- A condition of R240 as a result: 1 or 0. -/
def boolWord (b : Bool) : Word := if b then 1 else 0

/-- A condition of R240 on two integer lanes of `w` bits (R387). -/
def laneCond (w : Nat) (c : Cond) (x y : Nat) : Bool :=
  match c with
  | .eq => x == y
  | .ne => x != y
  | .lt => toSigned w x < toSigned w y
  | .ge => toSigned w y ≤ toSigned w x
  | .ltu => x < y
  | .geu => y ≤ x
  | .bit => x &&& y != 0
  | .nbit => x &&& y == 0

/-- A condition of R387 on two floating lanes; codes 4 to 7 do not occur. -/
def floatCond (f : Fmt) (c : Cond) (x y : Nat) : Bool :=
  match c with
  | .eq => fRel f .eq x y
  | .ne => !fRel f .eq x y
  | .lt => fRel f .lt x y
  | .ge => fRel f .le y x
  | .ltu | .geu | .bit | .nbit => false

/-- `TCAUSE` of a context (R188). -/
def Ctx.tcause (c : Ctx) : Word := BitVec.ofNat 64 (c.cause.toNat + 2 ^ 8 * bitNat c.dbl + 2 ^ 11 * bitNat c.tin)

/-- `TCAUSE` written: `CAUSE` and `DBL`, with `TIN` left alone (R364). -/
def Ctx.setTcause (c : Ctx) (v : Word) : Ctx :=
  { c with cause := BitVec.ofNat 8 v.toNat, dbl := wbit v 8, dirty := c.dirty ||| 2 ^ (128 + 0x010) }

/-- `UIMASK` of a context (R59). -/
def Ctx.uimask (c : Ctx) : Word := BitVec.ofNat 64 (c.uien.toNat + 2 ^ 16 * c.uip.toNat + 2 ^ 31 * bitNat c.uiin)

/-- `UIMASK` written: `UIEN` set, `UIP` bits written as 1 cleared, `UIIN` left alone (R364). -/
def Ctx.setUimask (c : Ctx) (v : Word) : Ctx :=
  { c with
    uien := BitVec.ofNat 4 v.toNat
    uip := c.uip &&& ~~~(BitVec.ofNat 4 (v.toNat / 2 ^ 16))
    dirty := c.dirty ||| 2 ^ (128 + 0x015) }

/-- `LICST` of a cluster (R145). -/
def State.licst (s : State) (k : Nat) : Word :=
  let x := s.pair (pairOf k)
  let u := onDieU k
  let lst := if x.moving.isSome then 3 else match x.holder with
    | none => 0
    | some h => if h = u then 1 else 2
  let mine := if u then x.reqU else x.reqL
  let twin := if u then x.reqL else x.reqU
  BitVec.ofNat 64 (lst + 4 * bitNat (!x.pins.isEmpty) + 8 * bitNat mine.isSome + 16 * bitNat twin.isSome + 2 ^ 8 * x.lmov)

/-- Whether a user interrupt is pending and enabled (R34, R59). -/
def Ctx.uiPending (c : Ctx) : Bool := (c.uien &&& c.uip) != 0

/-- Privilege (R191): system inside the trap handler, user elsewhere. -/
def Ctx.system (c : Ctx) : Bool := c.tin

/-- Whether either handler runs. -/
def Ctx.inHandler (c : Ctx) : Bool := c.tin || c.uiin

end Sys2Proof.Machine
end

