-- ==== Sys2Proof/Machine/Units.lean ====
section
/-! DEFINITION. The matrix engines and copy units at work (R75, R76, R79, R130, R141–R144, R146, R423), and the end of a job by a fatal fault,
which stops them (R194, R195). -/

namespace Sys2Proof.Machine

/-! ## What a unit reaches (R142, R144) -/

/-- A handle entry as the job found it at issue (R319), or as it stands. -/
def State.jobHandle (s : State) (q : QJob) (p : Word) : List Word :=
  match q.handles.find? fun h => handleOf h.1 == handleOf p with
  | some h => h.2
  | none => s.handle q.asid (handleOf p)

/-- Where `n` bytes at a pointer of an issued job lie. -/
def State.jobPlace (s : State) (q : QJob) (p : Word) (n : Nat) (wr : Bool) : Except Cause Place :=
  s.placeOf (s.whoQ q) (s.jobHandle q p) p { rd := !wr, wr := wr, n := n, align := 1 }

/-- A unit's read of `n` bytes at a pointer (R130, R197). -/
def unitRead (q : QJob) (n : Nat) (p : Word) : D (List Byte) := do
  match ← devGet fun s => s.jobPlace q p n false with
  | .error c => devFail c
  | .ok pl => readPlace (some q.key) (← devGet (·.whoQ q)) (← devGet fun s => s.jobHandle q p) p n pl

/-- Reads of a list of pointers, `n` bytes each. -/
def unitReads (q : QJob) (n : Nat) : List Word → D (List (List Byte))
  | [] => pure []
  | p :: ps => do
    let b ← unitRead q n p
    let bs ← unitReads q n ps
    pure (b :: bs)

/-- A unit's write at a place. -/
def unitWrite (q : QJob) (p : Word) (bs : List Byte) (pl : Place) : D Unit := do
  writePlace (some q.key) (← devGet (·.whoQ q)) (← devGet fun s => s.jobHandle q p) true p bs pl

/-- Writes of a list of pointers and bytes. Where one of them has no place, none is made (log entry 80). -/
def unitWrites (q : QJob) (xs : List (Word × List Byte)) : D Unit := do
  let places ← devGet fun s => xs.map fun x => s.jobPlace q x.1 x.2.length true
  match places.findSome? fun x => match x with
      | .ok _ => none
      | .error c => some c with
  | some c => devFail c
  | none => (xs.zip places).forM fun x => match x.2 with
    | .ok pl => unitWrite q x.1.1 x.1.2 pl
    | .error _ => pure ()

/-- A report written into the record in memory (R423); one that fails a check is skipped. -/
def report (q : QJob) (o : Nat) (v : Word) : D Unit := do
  let p := ptrAdd q.atRecord o
  let w ← devGet (·.whoQ q)
  match ← devGet (·.check w p { rd := false, wr := true, n := 8, align := 8, gen := false, cap := false }) with
  | .error _ => pure ()
  | .ok pl =>
    let _ ← devTry (writePlace (some q.key) w (← devGet (·.handle w.asid (handleOf p))) false p (wordBytes 8 v) pl)

/-! ## The tile-task (R141–R143) -/

/-- `OTYP`. -/
def QJob.otyp (q : QJob) : Nat := wbits (q.word 0) 4 2
/-- `CTYP`. -/
def QJob.ctyp (q : QJob) : Nat := wbits (q.word 0) 7 2
/-- `HSZ`. -/
def QJob.hsz (q : QJob) : Nat := wbits (q.word 0) 9 2
/-- `HOP`. -/
def QJob.hop (q : QJob) : Nat := wbits (q.word 0) 11 2
/-- M ÷ 32. -/
def QJob.mBlocks (q : QJob) : Nat := wbits (q.word 1) 0 16 + 1
/-- N ÷ 32. -/
def QJob.nBlocks (q : QJob) : Nat := wbits (q.word 1) 16 16 + 1
/-- K in bytes ÷ 128. -/
def QJob.kSteps (q : QJob) : Nat := wbits (q.word 1) 32 16 + 1
/-- `LDA`. -/
def QJob.lda (q : QJob) : Nat := wbits (q.word 5) 0 21
/-- `LDB`. -/
def QJob.ldb (q : QJob) : Nat := wbits (q.word 5) 21 21
/-- `LDC`. -/
def QJob.ldc (q : QJob) : Nat := wbits (q.word 5) 42 21
/-- Bytes of an element of C. -/
def QJob.cWidth (q : QJob) : Nat := if q.ctyp = 0 then 4 else 2
/-- The format of C. -/
def QJob.cFmt (q : QJob) : Fmt := if q.ctyp = 0 then .fp32 else if q.ctyp = 1 then .bf16 else .fp16

/-- An 8-bit code's entry as e8m10 (R64, R68). -/
def entryE8m10 (e : Nat) : Nat :=
  if tNan e then Fmt.canonNan .e8m10
  else if tInf e then withSign .e8m10 (tVal e / 2 ^ 18 == 1) (Fmt.infBits .e8m10)
  else tVal e

/-- The elements of 128 operand bytes decoded to e8m10 (R143). -/
def QJob.decodeRow (q : QJob) (bs : List Byte) : List Nat :=
  match q.otyp with
  | 0 => bs.map fun b => entryE8m10 (q.table.getD b.toNat 0).toNat
  | 1 => (splitElems 2 64 bs).map fun x => fConv .bf16 .e8m10 .rne x
  | _ => (splitElems 2 64 bs).map fun x => fConv .fp16 .e8m10 .rne x

/-- The transform size of `HSZ`. -/
def hadSize : Nat → HadN
  | 1 => .p16
  | 2 => .p32
  | _ => .p64

/-- Runs of `n` elements transformed one after another (R79); `col` is the tensor column of the first. -/
def hadRuns (pts : HadN) (n : Nat) (seed row : Nat) : Nat → Nat → List Nat → List Nat
  | 0, _, _ => []
  | fuel + 1, col, xs =>
    hadamard pts .e8m10 (seed, row, col) (xs.take n) ++ hadRuns pts n seed row fuel (col + n) (xs.drop n)

/-- Whether the job transforms A, or B (R141). -/
def QJob.transforms (q : QJob) (isB : Bool) : Bool := q.hsz != 0 && (q.hop == 2 || (q.hop == 1) == isB)

/-- One operand row as the engine multiplies it. -/
def QJob.operandRow (q : QJob) (isB : Bool) (seed row : Nat) (bs : List Byte) : List Nat :=
  let es := q.decodeRow bs
  if q.transforms isB then
    let n := 2 ^ (3 + q.hsz)
    hadRuns (hadSize q.hsz) n seed row (es.length / n) (q.ki * es.length) es
  else es

/-- The seed of a transformed operand's handle: `SEED` of its tensor header, or 0 (R143). -/
def seedOf (q : QJob) (isB : Bool) : D Nat := do
  let e ← devGet fun s => s.jobHandle q (q.word (if isB then 3 else 2))
  if q.transforms isB && hThdr e then
    let bs ← readAt (← devGet (·.whoQ q)) (hThp e) { rd := true, wr := false, n := 8, align := 64 }
    pure (leNat bs)
  else pure 0

/-- One accumulator of an engine step (R75, R76). -/
def stepAcc (acc : W32) (a b : List Nat) : W32 :=
  let ps := List.zipWith (fun x y => fMul .fp32 .rne (x * 2 ^ 13) (y * 2 ^ 13)) a b
  BitVec.ofNat 32 (fAdd .fp32 .rne acc.toNat (pairTree (fAdd .fp32 .rne) 8 ps))

/-- A whole engine step on 32 rows and 32 columns. -/
def stepBlock (acc : List W32) (as bs : List (List Nat)) : List W32 :=
  (List.range 32).flatMap fun i => (List.range 32).map fun j =>
    stepAcc (acc.getD (32 * i + j) 0) (as.getD i []) (bs.getD j [])

/-- The pointers of the rows of a block of C. -/
def QJob.cRows (q : QJob) : List Word :=
  (List.range 32).map fun i => ptrAdd (q.word 4) ((32 * q.mi + i) * q.ldc + 32 * q.ni * q.cWidth)

/-- The pointers of the 32 operand rows of a step: of A, or of B by column. -/
def QJob.stepRows (q : QJob) (isB : Bool) : List Word :=
  (List.range 32).map fun i =>
    if isB then ptrAdd (q.word 3) ((32 * q.ni + i) * q.ldb + 128 * q.ki)
    else ptrAdd (q.word 2) ((32 * q.mi + i) * q.lda + 128 * q.ki)

/-- The accumulators a step starts from: what the block has, or at its first step +0 or C (R143). -/
def startAcc (q : QJob) : D (List W32) := do
  if q.ki != 0 then pure q.acc
  else if !wbit (q.word 0) 6 then pure (List.replicate 1024 0)
  else
    let rows ← unitReads q (32 * q.cWidth) q.cRows
    pure (rows.flatMap fun bs => (splitElems q.cWidth 32 bs).map fun x => BitVec.ofNat 32 (fConv q.cFmt .fp32 .rne x))

/-- The accumulators after the step in progress. -/
def stepResult (q : QJob) : D (List W32) := do
  let acc ← startAcc q
  let as ← unitReads q 128 (q.stepRows false)
  let bs ← unitReads q 128 (q.stepRows true)
  let sa ← seedOf q false
  let sb ← seedOf q true
  pure (stepBlock acc (as.mapIdx fun i r => q.operandRow false sa (32 * q.mi + i) r)
    (bs.mapIdx fun j r => q.operandRow true sb (32 * q.ni + j) r))

/-- The counts of an element of C (R82). -/
def QJob.countElem (q : QJob) (x y : Nat) : Nat × Nat × Nat :=
  if q.ctyp = 0 then (0, 0, bitNat (isNan .fp32 x)) else windowCount [] (q.ctyp + 1) x y

/-- Row `i` of the accumulators of a block. -/
def accRow (acc : List W32) (i : Nat) : List Nat := (List.range 32).map fun j => (acc.getD (32 * i + j) 0).toNat

/-- Row `i` of a block as C stores it, rounded (R143). -/
def QJob.outRow (q : QJob) (acc : List W32) (i : Nat) : List Nat := (accRow acc i).map (fConv .fp32 q.cFmt .rne)

/-- The statistics of a finished block, counted with the entry. -/
def QJob.countBlock (q : QJob) (acc : List W32) : QJob :=
  let cs := (List.range 32).flatMap fun i => List.zipWith q.countElem (accRow acc i) (q.outRow acc i)
  { q with
    sat := q.sat + (cs.map (·.1)).foldl (· + ·) 0
    ftz := q.ftz + (cs.map (·.2.1)).foldl (· + ·) 0
    nan := q.nan + (cs.map (·.2.2)).foldl (· + ·) 0 }

/-- A finished block written to C (R143); its statistics count where the C handle names a header. -/
def writeBlock (q : QJob) (acc : List W32) : D QJob := do
  unitWrites q (q.cRows.mapIdx fun i p => (p, (q.outRow acc i).flatMap fun y => leBytes q.cWidth y))
  pure (if hThdr (← devGet fun s => s.jobHandle q (q.word 4)) then q.countBlock acc else q)

/-- The next block of a tile-task: ni, then mi ascending. The accumulators stay as the last step left them. -/
def QJob.nextBlock (q : QJob) : QJob :=
  if q.ni + 1 < q.nBlocks then { q with ki := 0, ni := q.ni + 1 } else { q with ki := 0, ni := 0, mi := q.mi + 1 }

/-- An engine step counted for the cores of its cluster (R213). -/
def State.countSteps (s : State) (k : Nat) : State :=
  (List.range 8).foldl (fun s i =>
    let a : AgentId := ⟨8 * k + i, .main⟩
    if (s.agent a).act == .idle then s else s.modAgent a fun g => g.countEvent 0x0B 1) s

/-- The step in progress completes (R143): the entry after it. -/
def kStep (k : Nat) (q : QJob) : D QJob := do
  let acc ← stepResult q
  let q' : QJob := { q with ki := q.ki + 1, acc := acc }
  devMod fun s => (s.modQ k q.key fun _ => q').countSteps k
  pure q'

/-- The block whose last step has run written to C (R143): the entry at its next block. -/
def blockDone (k : Nat) (q : QJob) : D QJob := do
  let q' := (← writeBlock q q.acc).nextBlock
  devMod fun s => s.modQ k q.key fun _ => q'
  pure q'

/-- The step in progress completes, and the block with it where it was the last one (R143). A job that parked between the two has only its block
left to write (R146, R250). -/
def engineStep (k : Nat) (q : QJob) : D QJob := do
  let q ← if q.ki < q.kSteps then kStep k q else pure q
  if q.kSteps ≤ q.ki then blockDone k q else pure q

/-- Part of a running job carried out: the entry after it, or none where it failed and ended the job. -/
def orEndQ (k : Nat) (q : QJob) (m : D QJob) : D (Option QJob) := do
  match ← devTry m with
  | .ok q' => pure (some q')
  | .error c =>
    endQ k q c.code true
    pure none

/-- The next event of a running job that has steps or a block left. -/
def runStep (k : Nat) (q : QJob) : D (Option QJob) := if q.mBlocks ≤ q.mi then pure (some q) else orEndQ k q (engineStep k q)

/-- The step that a stopped engine still completes (R146, R194): a block whose last step it was is not written. -/
def stopStep (k : Nat) (q : QJob) : D (Option QJob) :=
  if q.mBlocks ≤ q.mi || q.kSteps ≤ q.ki then pure (some q) else orEndQ k q (kStep k q)

/-- The running engine job of a cluster. -/
def State.engineJob (s : State) (k : Nat) : Option QJob :=
  (s.cluster k).queue.find? fun q => (s.cluster k).eng == some q.key

/-! ## Parking (R146, R423) -/

/-- The word at +0x60 of a tile-task record: `PMI`, `PNI`, `PKI` and `PRKD`. -/
def QJob.parkWord (q : QJob) : Word := BitVec.ofNat 64 (q.mi + q.ni * 2 ^ 16 + q.ki % 2 ^ 16 * 2 ^ 32 + 2 ^ 63)

/-- The job of an engine parked between two steps: accumulators to the buffer, row by row, and the next step reported. -/
def parkJob (k : Nat) (q : QJob) : D Unit := do
  let bs := (List.range 1024).flatMap fun i => leBytes 4 (q.acc.getD i 0).toNat
  match ← devTry (unitWrites q [(q.word 11, bs)]) with
  | .error c => endQ k q c.code true
  | .ok () =>
    report q 0x60 q.parkWord
    devMod fun s => ((s.modCluster k Cluster.noFirst).modQ k q.key fun q =>
      { q with st := .parked, prkd := true, first := true }).modCluster k fun c => { c with eng := none }

/-- The engine of a cluster stops for a park (R146): it completes the step it is running; a job with a block of C left to write is parked, any
other completes. -/
def parkEngine (k : Nat) : D Unit := do
  match ← devGet (·.engineJob k) with
  | none => pure ()
  | some q =>
    match ← stopStep k q with
    | none => pure ()
    | some q => if q.mBlocks ≤ q.mi then endQ k q 0 true else parkJob k q

/-! ## Copy jobs (R144) -/

/-- Whether the job is a fill. -/
def QJob.fill (q : QJob) : Bool := wbits (q.word 0) 0 2 == 1
/-- `LEN`. -/
def QJob.len (q : QJob) : Nat := wbits (q.word 3) 0 32
/-- `ROWS`. -/
def QJob.nRows (q : QJob) : Nat := wbits (q.word 3) 32 32
/-- The pointer of row `r` of the source. -/
def QJob.fromRow (q : QJob) (r : Nat) : Word := ptrAdd (q.word 1) (r * wbits (q.word 4) 0 32)
/-- The pointer of row `r` of the destination. -/
def QJob.toRow (q : QJob) (r : Nat) : Word := ptrAdd (q.word 2) (r * wbits (q.word 4) 32 32)

/-- The addresses of segments, one by one. -/
def segAddrs (segs : List (Nat × Nat)) : List Nat := segs.flatMap fun g => (List.range g.2).map (g.1 + ·)

/-- A row moved byte by byte, addresses ascending (R144). -/
def copyBytes (m : List Host.Cell) (src dst : List Nat) : List Host.Cell :=
  (src.zip dst).foldl (fun m (x : Nat × Nat) => setByte x.2 (byteAt m x.1) m) m

/-- The bytes of a fill row. -/
def QJob.fillRow (q : QJob) : List Byte := (List.range (q.len / 8)).flatMap fun _ => wordBytes 8 (q.word 1)

/-- What the destination of a row holds once the row has moved: where source and destination overlap, what an ascending copy leaves (R144). -/
def State.rowBytes (s : State) (src dst : Place) (bs : List Byte) : List Byte :=
  match src, dst with
  | .mem xs, .mem ys =>
    let m := copyBytes s.mem.bytes (segAddrs xs) (segAddrs ys)
    ys.flatMap fun g => bytesAt m g.1 g.2
  | _, _ => bs

/-- The next row moved, and `CPROG` reported: the entry after it (R144). -/
def copyRow (k : Nat) (q : QJob) : D QJob := do
  match ← devGet fun s => s.jobPlace q (q.toRow q.rows) q.len true with
  | .error c => devFail c
  | .ok dst =>
    if q.fill then unitWrite q (q.toRow q.rows) q.fillRow dst
    else
      match ← devGet fun s => s.jobPlace q (q.fromRow q.rows) q.len false with
      | .error c => devFail c
      | .ok src =>
        let bs ← unitRead q q.len (q.fromRow q.rows)
        unitWrite q (q.toRow q.rows) (← devGet fun s => s.rowBytes src dst bs) dst
    let q' := { q with rows := q.rows + 1 }
    report q 0x50 (BitVec.ofNat 64 q'.rows)
    devMod fun s => s.modQ k q.key fun _ => q'
    pure q'

/-- The row in progress, where one is: the entry after it, or none where it failed and ended the job. -/
def runRow (k : Nat) (q : QJob) : D (Option QJob) := if q.nRows ≤ q.rows then pure (some q) else orEndQ k q (copyRow k q)

/-- The running copy job of a cluster. -/
def State.copyJob (s : State) (k : Nat) : Option QJob :=
  (s.cluster k).queue.find? fun q => (s.cluster k).cpy == some q.key

/-! ## The end of a job by a fatal fault (R194, R195) -/

/-- A copy job that pre-emption stopped after a row as its unit finds it: it runs on no unit (R200, R203). -/
def QJob.atRest (q : QJob) : QJob := if q.st = .running then { q with st := .ready } else q

/-- The engine and copy jobs of a job with the cluster that holds each: in queues, on their way, and in its images. -/
def State.jobQ (s : State) (job : Nat) : List (Nat × QJob) :=
  (s.clusters.flatMap fun kc => kc.2.entries.map fun q => (kc.1, q)).filter (fun kq => kq.2.owner == job) ++
    (s.job job).images.flatMap fun i => i.queue.map fun q => (i.cluster, q.atRest)

/-- One engine or copy job of an ended job (R194): what runs completes its current step or row and stops; it ends with PEERDEAD and writes
its completion word. -/
def killOne (k : Nat) (q : QJob) : D Unit := do
  let x ← if q.st == .running then (if q.copy then runRow k q else stopStep k q) else pure (some q)
  match x with
  | some q => endQ k q (Cause.peerdead).code true
  | none => pure ()

/-- The engine and copy jobs of an ended job stop. Their ownership is given up first, since one may wait for another's lines. -/
def killQ (job : Nat) : D Unit := do
  let xs ← devGet (·.jobQ job)
  devMod fun s => { s with mem := { s.mem with owned := s.mem.owned.filter fun o => !(xs.any fun kq => kq.2.key == o.2) } }
  xs.forM fun kq => killOne kq.1 kq.2

/-- Every group slot of some cores, and of a job, DEAD (R184, R194). -/
def State.deadGroups (s : State) (job : Nat) (cores : List Nat) : State :=
  { s with groups := s.groups.map fun (kg : Nat × GSlot) =>
      if kg.2.job == job || cores.contains (kg.1 / 64) then (kg.1, { kg.2 with dead := true }) else kg }

/-- The end of a job by a fatal fault (R194, R195): every agent stops and its chunk commits up to there, engine and copy jobs end
with PEERDEAD, group slots become DEAD, inboxes are cleared (R336), statistics are flushed (R83), capabilities pass, slices are frozen unless
`freeze` is false (R219), and last of all the completion word is written. -/
def endJob (job code : Nat) (freeze : Bool) : D Unit := do
  match ← devGet fun s => tabGet job s.jobs with
  | none => pure ()
  | some j =>
    let agents ← devGet (·.jobAgents job)
    let cores ← devGet (·.jobCores job)
    devNeed (← devGet fun s => agents.all fun a => !(s.focus a).grantWaits)
    devMod fun s => agents.foldl State.grantOf s
    killQ job
    (agents.foldl (fun m a => setAdd a.core m) []).forM fun c => do
      flushCore (← devGet fun s => s.whoOf j.asid job ⟨c, .main⟩) c
    flushJob j.asid job
    let cov ← devGet (·.jobOutside job)
    devMod fun s =>
      let s := s.deadGroups job cores
      let s := cores.foldl (fun s c => s.modCore c fun k => { k with inbox := [] }) s
      let s := if freeze then s.freeze cores else s
      s.clearJob job
    finishWord j code cov

end Sys2Proof.Machine
end

