-- ==== Sys2Proof/Machine/Ops.lean ====
section
/-! DEFINITION. How a word acts on the state: taking a trap and returning from it (R190–R194), user interrupt entry and return (R60,
R103), branches and loops (R265, R330–R332), the end of a word and of a chunk (R105, R110), and `runWord`, which turns the
computation of a word into an outcome. -/

namespace Sys2Proof.Machine

/-! ## Chunks -/

/-- The chunk ends: windows close, and it waits for its grant (R99 rule 6, R105). -/
def State.endChunk (s : State) : State :=
  if s.me.chunk.count = 0 then s.landAll else s.landAll.modChunk fun c => { c with ended := true }

/-! ## Pointers of bundles -/

/-- A bundle pointer as the current agent keeps it: a loader or storer keeps bits 13:3, its store address (R55). -/
def State.bundlePtr (s : State) (p : Word) : Word :=
  if s.cur.kind = .main then BitVec.ofNat 64 (p.toNat / 8 * 8) else BitVec.ofNat 64 (p.toNat % 2 ^ 14 / 8 * 8)

/-- The bundle `n` bundles on, with the wrap of R265 and R55. -/
def State.bundleAt (s : State) (own : Word) (n : Int) : Word :=
  let o : Int := ((offsetOf own : Int) + 8 * n) % (2 ^ 52 : Int)
  s.bundlePtr (BitVec.ofNat 64 (handleOf own * 2 ^ 52 + o.toNat))

/-- The unit in progress as `TPC` lays it out (R190). -/
def State.unitPtr (s : State) : Word := BitVec.ofNat 64 (s.me.ctx.pc.toNat / 8 * 8 + 4 * bitNat s.unit.second)

/-! ## The banks of `s24`–`s31` (R60, R191) -/

/-- `s24`–`s31`. -/
def Ctx.upper (c : Ctx) : Vector Word 8 := Vector.ofFn fun i : Fin 8 => c.regs[24 + i.val]

/-- `s24`–`s31` replaced. -/
def Ctx.setUpper (c : Ctx) (v : Vector Word 8) : Ctx :=
  { c with
    regs := Vector.ofFn fun i : Fin 32 => if h : 24 ≤ i.val then v[i.val - 24] else c.regs[i]
    dirty := c.dirty ||| 0xFF000000 }

/-- A handler's bank: its two defined registers, and six undefined ones (R5, R60, R191). -/
def State.handlerBank (s : State) (a b : Word) : Vector Word 8 :=
  Vector.ofFn fun i : Fin 8 => if i.val = 0 then a else if i.val = 1 then b else Config.freeWord s.me.asid (s.drawn s.me.asid + i.val)

/-- The loop levels set aside (R332). -/
def Ctx.setAside (c : Ctx) : Ctx := { c with loops := [], loopReq := [], aside := (c.loops, c.loopReq) :: c.aside }

/-- The loop levels restored (R332). -/
def Ctx.takeBack (c : Ctx) : Ctx :=
  match c.aside with
  | x :: xs => { c with loops := x.1, loopReq := x.2, aside := xs }
  | [] => c

/-! ## Taking a trap -/

/-- `CAUSE`, `DBL`, `TPC` and `TVAL` of a trap (R188, R190, R192). -/
def Ctx.recordTrap (c : Ctx) (k : Cause) (v tpc : Word) : Ctx :=
  { c with
    cause := BitVec.ofNat 8 k.code, dbl := c.tin, tpc := tpc, tval := v
    dirty := c.dirty ||| srDirty 0x10 ||| srDirty 0x11 ||| srDirty 0x12 }

/-- Whether a trap ends the job: PARITY and HANG always (R189), any trap with `TVEC` = 0 (R191) or inside the trap handler (R192). -/
def Ctx.fatal (c : Ctx) (k : Cause) : Bool := k == .parity || k == .hang || c.tvec == 0 || c.tin

/-- Entry of the trap handler (R191). -/
def State.enterTrap (s : State) (k : Cause) (v tpc : Word) : State :=
  let bank := s.handlerBank v tpc
  let vec := s.bundlePtr s.me.ctx.tvec
  let s := s.modCtx fun c =>
    { ((c.recordTrap k v tpc).setUpper bank).setAside with trapSave := c.upper, tin := true, pc := vec, slot := false }
  s.draw s.me.asid 8

/-- The records of the tasks of a hung job that take HANG beside agent `a`, RETIRED (R31, R38). -/
def retireHung (a : AgentId) (job : Nat) : D Unit := do
  let ps ← devGet fun s => s.agents.filterMap fun ag =>
    match ag.2.task, ag.2.mark with
    | some p, .trap .hang _ => if ag.1 != a && jobKey ag.2.asid ag.2.job = job then some (ag.1, p) else none
    | _, _ => none
  ps.forM fun x => do
    let _ ← devTry (recState (← devGet fun s => (s.focus x.1).who) x.2 3)

/-- A fatal trap: the registers describe it, a task's record is RETIRED (R31), and the job ends (R194). Every listed agent of a hung job takes
its trap with the first (R38). -/
def fatalTrap (k : Cause) (v tpc : Word) : D Unit := do
  devMod fun s => { (s.modCtx fun c => c.recordTrap k v tpc) with me.act := .retired }
  match ← devGet (·.me.task) with
  | some p =>
    let _ ← devTry (recState (← devGet (·.who)) p 3)
  | none => pure ()
  if k = .hang then retireHung (← devGet (·.cur)) (← devGet (·.myJob))
  endJob (← devGet (·.myJob)) k.code true

/-- Whether an instruction makes a release at system scope, or waits as one (R118, R303). -/
def releases : Instr → Bool
  | .fence _ | .hcall _ _ _ | .osend _ _ _ => true
  | .st _ o _ _ _ _ | .stfe _ o _ _ _ | .stt _ o _ _ _ _ _ => o == .rel
  | .aadd _ o _ _ _ _ | .aagg _ o _ _ _ _ | .amin _ o _ _ _ _ | .amax _ o _ _ _ _ | .abit _ o _ _ _ _ | .aswap _ o _ _ _ _ | .acas _ o _ _ _ _ | .afadd _ o _ _ _ _ =>
    o == 6 || o == 7
  | _ => false

/-- Whether PEERDEAD with a pointer is the release of the word in progress that finds that write failed (R196), and not an access of its own. -/
def State.releaseFails (s : State) (v : Word) : Bool :=
  s.me.err == some v && !(s.me.got.any fun x => x.1 == v && x.2.2 == .error .peerdead) &&
    match decodeWord s.unit.word.toNat with
    | .ok i => releases i
    | .error _ => false

/-- The chunk before a trap commits, older late results land, and what an event left is used up (R190); a failed write that a release has met is
reported once (R196). -/
def State.beforeTrap (s : State) (k : Cause) (v : Word) : State :=
  let err := if k == .peerdead && s.releaseFails v then none else s.me.err
  let s := s.landAll.grant
  { s with me := { s.me with mark := .none, got := [], act := .running, err := err } }

/-- A unit has ended as `r`. -/
def State.endAs (s : State) (r : UnitRes) : State := { s with unit := { s.unit with res := r } }

/-- A trap at the unit in progress, on the state in which that unit began (R190): the chunk's prefix commits, and the handler is entered or
the job ends. While the commit (R109, R129) or the end of the job must wait, the unit waits. -/
def State.takeTrap (s : State) (k : Cause) (v : Word) : State :=
  let t := s.beforeTrap k v
  if s.grantWaits then s.endAs (.blocked k v)
  else if t.me.ctx.fatal k then
    match fatalTrap k v s.unitPtr t with
    | .ok (_, u) => u.endAs (.trapped k v)
    | .error (.ask x) => (s.askOutside x).endAs (.blocked k v)
    | .error .wait | .error (.fails _ _) => s.endAs (.blocked k v)
  else (t.enterTrap k v s.unitPtr).endAs (.trapped k v)

/-- Control sent to a unit laid out as `TPC`, and the chunk ended after this word; a `LOOP` of an unfinished bundle waits on only
when its bundle is the one that resumes. -/
def State.returnTo (s : State) (p : Word) : State :=
  let target := s.bundlePtr p
  let s := s.modCtx fun c => { c with
    loopReq := c.loopReq.filter fun r => wbit p 2 && r.level.first == s.bundleAt target 1 }
  { s with unit := { s.unit with taken := some (target, wbit p 2), ends := true } }

/-- Return from the trap handler (R192): to the unit `TPC` names. -/
def State.trapReturn (s : State) : State :=
  (s.modCtx fun c => { (c.setUpper c.trapSave).takeBack with
    tin := false, dirty := c.dirty ||| 0xFF000000 ||| srDirty 0x10 }).returnTo s.me.ctx.tpc

/-! ## User interrupts (R60) -/

/-- The lowest group slot of a core that holds a result for its node, in the current agent's address space (R60, R174, R179). -/
def State.resultSlot (s : State) (core : Nat) : Option Nat :=
  (List.range 64).find? fun n => match tabGet (core * 64 + n) s.groups with
    | some g => g.job / 2 ^ 32 == s.me.asid && !g.present.isEmpty
    | none => false

/-- What `s25` of the handler holds for a source (R60). -/
def State.sourceInfo (s : State) (src : Nat) : Word :=
  match src with
  | 0 => s.me.src0
  | 1 => s.me.src1
  | 2 => BitVec.ofNat 64 ((s.resultSlot s.cur.core).getD 0)
  | _ => s.licst (clusterOf s.cur.core)

/-- The lowest source of a mask. -/
def lowestSource (m : BitVec 4) : Nat := if m[0] then 0 else if m[1] then 1 else if m[2] then 2 else 3

/-- Entry of the user interrupt handler between two units (R60, R103): the chunk has ended and committed, windows are closed. -/
def State.enterInterrupt (s : State) : State :=
  let c := s.me.ctx
  let bank := s.handlerBank (c.uip.zeroExtend 64) (s.sourceInfo (lowestSource c.uip))
  let vec := s.bundlePtr c.uivec
  let s := s.modCtx fun c =>
    { (c.setUpper bank).setAside with
      uiSave := c.upper, uiin := true, pc := vec, slot := false
      uiPc := BitVec.ofNat 64 (c.pc.toNat / 8 * 8 + 4 * bitNat c.slot)
      dirty := c.dirty ||| 0xFF000000 ||| srDirty 0x15 }
  s.draw s.me.asid 8

/-- Return from the user interrupt handler (R60, R382). -/
def State.interruptReturn (s : State) : State :=
  (s.modCtx fun c => { (c.setUpper c.uiSave).takeBack with
    uiin := false, dirty := c.dirty ||| 0xFF000000 ||| srDirty 0x15 }).returnTo s.me.ctx.uiPc

/-! ## Branches and loops -/

/-- Whether a bundle lies in a level's body. -/
def LoopLevel.covers (l : LoopLevel) (p : Word) : Bool := l.first.toNat ≤ p.toNat && p.toNat ≤ l.last.toNat

/-- Levels after a taken branch, innermost first: a level that the branch leaves is popped with every level inside it (R331). -/
def popLoops (own target : Word) : List LoopLevel → List LoopLevel
  | [] => []
  | l :: ls =>
    let rest := popLoops own target ls
    if rest.length < ls.length then rest
    else if l.covers own && !l.covers target then ls
    else l :: rest

/-- A taken branch to word 0 of a bundle; `pops` says that it may leave loop levels (R265, R331). A `LOOP` of the same bundle makes
no level (R330). -/
def branchM (target : Word) (pops : Bool) : M Unit := modM fun s =>
  let s := s.modCtx fun c => { c with loops := if pops then popLoops c.pc target c.loops else c.loops, loopReq := [] }
  { s with unit := { s.unit with taken := some (target, false) } }

/-- The end action of R331 on the levels that end at bundle `pc`: the context after it, and where it sends control. -/
def endLoops (pc : Word) : List LoopLevel → Ctx → Ctx × Option Word
  | [], c => ({ c with loops := [] }, none)
  | l :: ls, c =>
    if l.last != pc then ({ c with loops := l :: ls }, none)
    else if (c.reg l.cnt).toNat ≤ 1 then endLoops pc ls (c.setReg l.cnt 0)
    else ({ c.setReg l.cnt (c.reg l.cnt - 1) with loops := l :: ls }, some l.first)

/-- The `LOOP`s of a bundle take effect at its end (R330): a zero count skips the body, any other pushes its level. -/
def pushLoops (s : State) : List LoopReq → Ctx × Word → Ctx × Word
  | [], x => x
  | r :: rs, x =>
    let n := r.count.getD (x.1.reg r.level.cnt)
    if n = 0 then pushLoops s rs (x.1, s.bundleAt r.level.last 1)
    else pushLoops s rs ({ x.1 with loops := r.level :: x.1.loops }, r.level.first)

/-- The end of a bundle without a taken branch (R330, R331). -/
def State.endBundle (s : State) : State :=
  let c := s.me.ctx
  let r := endLoops c.pc c.loops c
  let x := pushLoops s r.1.loopReq (r.1, r.2.getD (s.bundleAt c.pc 1))
  s.modCtx fun _ => { x.1 with loopReq := [], pc := x.2, slot := false }

/-- The next unit (R224). -/
def State.advancePc (s : State) : State :=
  match s.unit.taken with
  | some t => s.modCtx fun c => { c with pc := t.1, slot := t.2 }
  | none =>
    if !s.unit.paired && !s.unit.second then s.modCtx fun c => { c with slot := true } else s.endBundle

/-- The unit has taken effect: late results age, control moves on, `n` words count, and the chunk ends where R105, R110 and the
limit say so. A chunk of the unit's own is granted here. -/
def State.finishUnit (s : State) (n : Nat) : State :=
  let s := s.ageLates.advancePc
  let s := s.modChunk fun c => { c with count := c.count + n }
  let s := { s with me := { s.me.countEvent 0x02 n with mark := .none, got := [] } }
  if s.unit.own then s.landAll.grant
  else if s.unit.ends || s.me.chunk.limit ≤ s.me.chunk.count then s.endChunk
  else s

/-! ## A word's outcome -/

/-- An access of the current agent to peer-device or host space on its way (R117). -/
def State.sendExt (s : State) (host : Bool) (dev pod addr : Nat) (op : OutOp) (p : Word) (cov : List Nat) : State :=
  let store := match op with
    | .read _ => false
    | .write _ | .add _ _ | .swap _ _ | .cas _ _ _ | .minmax _ _ _ | .bit _ _ => true
  let x : ExtOp := ⟨s.fab.nextExt, some s.cur, s.me.asid, s.myJob, s.me.task, host, dev, pod, addr, op, p, store, cov.isEmpty, cov, s.now⟩
  { s with fab := { s.fab with exts := s.fab.exts ++ [x], nextExt := s.fab.nextExt + 1 } }

/-- An access to peer-device or host space that its agent sleeps in (R110, R117). -/
def State.sendOutside (s : State) (host : Bool) (dev pod addr : Nat) (op : OutOp) (p : Word) (cov : List Nat) : State :=
  let t := s.sendExt host dev pod addr op p cov
  { t with me := { t.me with act := .asleep (.ext s.fab.nextExt) s.now } }

/-- Whether an agent sleeps in an access, or in a `WAIT` that has sent this read since it fell asleep. -/
def Agent.awaits (g : Agent) (x : ExtOp) : Bool :=
  match g.act with
  | .asleep (.ext i) _ => i == x.id
  | .asleep (.wait _ _ _ _) since => !x.store && decide (since < x.since)
  | .asleep _ _ | .idle | .running | .stopped | .retired => false

/-- A strand that goes to sleep in `BAR` or `VOTE` has arrived there, once (R278, R406). -/
def State.arrive (s : State) : Sleep → State
  | .bar => s.modJob s.myJob fun j =>
      let g := s.me.gang % 512
      let at_ := (tabGet g j.bars).getD []
      if at_.contains s.cur then j else { j with bars := tabSet g (s.cur :: at_) j.bars }
  | .vote => s.modJob s.myJob fun j => if j.votes.contains s.cur then j else { j with votes := s.cur :: j.votes }
  | .wait _ _ _ _ | .pdeq | .orecv | .penq _ | .pdone _ | .hold _ _ _ _ _ _ | .ext _ => s

/-- What the evaluation of a condition of a `WAIT` reads, if it reads memory (R34): a word as a full/empty instruction does (R74, R304), or a
counter pair as a load does (R87). -/
def condAcc (k : Nat) : Option Acc :=
  if k = 1 || k = 2 then some { rd := true, wr := false, n := 8, align := 8, raw := true, spaces := [0, 1, 2] }
  else if k = 3 then some { rd := true, wr := false, n := 16, align := 16 }
  else none

/-- The stored bytes of the package that a condition of a `WAIT` reads. -/
def State.condSegs (s : State) (c : Word × Word) : List (Nat × Nat) :=
  match condAcc (wbits c.1 0 4) with
  | some a =>
    match s.check s.who c.2 a with
    | .ok (.mem segs) => segs
    | .ok (.table _) | .ok (.capBlock _) | .ok (.outside _ _ _ _) | .error _ => []
  | none => []

/-- Every evaluation of a `WAIT` reads anew: what outside reads brought for one is used up. -/
def Agent.forget (g : Agent) (cs : List (Word × Word)) : Agent :=
  { g with got := g.got.filter fun x => !(x.2.1 == .read 16 && cs.any fun c => wbits c.1 0 4 == 3 && c.2 == x.1) }

/-- The superblocks that an evaluation of a `WAIT` has accessed stay pinned (R89). -/
def State.pinConds (s : State) (cs : List (Word × Word)) : State := cs.foldl (fun s c => s.pinSegs s.myJob (s.condSegs c)) s

/-- What stays of the accesses of a word that its agent sleeps in: the pins of a `WAIT`. -/
def State.pinSleep (s : State) : Sleep → State
  | .wait cs _ _ _ => let s := s.pinConds cs; { s with me := s.me.forget cs }
  | .bar | .vote | .pdeq | .orecv | .penq _ | .pdone _ | .hold _ _ _ _ _ _ | .ext _ => s

/-- What stopped a word, applied to the state in which its unit began. -/
def State.applyRes (s : State) (r : UnitRes) : State :=
  match r with
  | .done | .gone | .stalled => s.endAs r
  | .trapped c v | .blocked c v => s.takeTrap c v
  | .again => { s.endChunk with unit := { s.unit with res := r } }
  | .keeping v => { s.endChunk with unit := { s.unit with res := r }, me := { s.endChunk.me with mark := .value v } }
  | .slept k =>
    let s := s.pinSleep k
    ({ s with unit := { s.unit with res := r }, me := { s.me with act := .asleep k s.now, word := s.unit.word } }).arrive k
  | .outside host dev pod addr op p cov =>
    (({ s with unit := { s.unit with res := r } }).sendOutside host dev pod addr op p cov)

/-- The outcome of a word that does not complete. -/
def State.stopAt (s : State) : Stop → Host.Outcome State Fault Refusal
  | .trap c v => .next (s.applyRes (.trapped c v))
  | .stall => .next (s.applyRes .stalled)
  | .ask x => .next ((s.askOutside x).applyRes .stalled)
  | .again => .next (s.applyRes .again)
  | .keep v => .next (s.applyRes (.keeping v))
  | .sleep k => .next (s.applyRes (.slept k))
  | .outside host dev pod addr op p cov => .next (s.applyRes (.outside host dev pod addr op p cov))

/-- Whether the current agent may run a word at all (R101, R231, R244). -/
def State.mayRun (s : State) (i : Instr) : Bool := i.wf && (s.cur.kind == .main || i.inScalarSubset)

/-- The trap that an event left for the sleeping word (R38, R113, R127), if any. -/
def State.leftTrap (s : State) : Option (Cause × Word) :=
  match s.me.mark with
  | .trap c v => if s.unit.second && s.unit.paired then none else some (c, v)
  | .none | .done | .value _ | .left _ | .again => none

/-- A word runs, by the conventions that hold for every entry (R260, R293, R333, R377): ILLEGAL where decoding or the agent forbids it (R244), the trap an event left for it, and otherwise its
computation, whose effects stand only if it completes (R190). -/
def runWord (i : Instr) (m : M Unit) (s : State) : Host.Outcome State Fault Refusal :=
  if s.mayRun i then
    match s.leftTrap with
    | some t => .next (s.applyRes (.trapped t.1 t.2))
    | none =>
      match m s with
      | .ok (_, t) => .next t
      | .error x => s.stopAt x
  else .next (s.applyRes (.trapped .illegal (s.unit.word.zeroExtend 64)))

/-! ## Operand helpers of many families -/

/-- PRIV at user privilege (R189). -/
def systemM : M Unit := fun s => if s.me.ctx.system then .ok ((), s) else .error (.trap .priv (s.unit.word.zeroExtend 64))

/-- A release at system scope whose agent has a failed outside store raises PEERDEAD with that store's pointer (R196). -/
def releaseM (rel : Bool) : M Unit := fun s =>
  match s.me.err with
  | some p => if rel then .error (.trap .peerdead p) else .ok ((), s)
  | none => .ok ((), s)

/-- The agent goes to sleep in this word; where the word is only tried, `m` is what it would do once it is woken. -/
def restM (k : Sleep) (m : M Unit) : M Unit := fun s => if s.unit.tried then m s else .error (.sleep k)

/-- An acquire at system scope on the bytes that a pointer names in package memory (R119). -/
def acquireM (acq : Bool) (p : Word) (a : Acc) : M Unit := modM fun s =>
  if !acq then s
  else
    match s.check s.who p a with
    | .ok (.mem segs) => s.acquire (segLines segs)
    | .ok (.table _) | .ok (.capBlock _) | .ok (.outside _ _ _ _) | .error _ => s

/-- STREAM on a bound register that an instruction both reads and writes (R280, R327). -/
def unboundM (r : Reg) : M Unit := do
  match (← getM (·.me.ctx)).bindOf r.toNat with
  | some (_, b) => streamM b.code
  | none => pure ()

/-- The word of `n` = 8 bytes at a pointer in global, stash or peer-stash space through the raw window: its address (R304). The capability block has no
words with full tags there: a pointer into it is HANDLE (the model's choice, log entry 98). -/
def wordPlaceM (p : Word) (rd wr : Bool) : M Nat := do
  let (_, pl) ← accessM p { rd := rd, wr := wr, n := 8, align := 8, raw := true, spaces := [0, 1, 2] }
  match pl with
  | .mem segs => pure ((segs.headD (0, 0)).1)
  | .table _ | .capBlock _ | .outside _ _ _ _ => trapM .handle p

end Sys2Proof.Machine
end

