-- ==== Sys2Proof/Machine/Atomics.lean ====
section
/-! DEFINITION. The atomics, C-class majors 0x17–0x1E (R112, R113, R261–R263, R266–R276). Each forms a chunk of its own. -/

namespace Sys2Proof.Machine

/-! ## Shared forms -/

/-- Bytes of an atomic's width (R241). -/
def AWidthBytes : AWidth → Nat
  | .d => 8
  | .w => 4

/-- Bytes of a variant of `AMIN` and `AMAX`. -/
def MMVarBytes : MMVar → Nat
  | .ds | .du => 8
  | .ws | .wu => 4

/-- Whether an ordering-and-scope code makes a release at system scope (R263). -/
def codeReleases (o : BitVec 3) : Bool := o == 6 || o == 7

/-- An old value widened into d (R241). -/
def widenOld (n : Nat) (signed : Bool) (old : Nat) : Word := if signed then BitVec.ofInt 64 (toSigned (8 * n) old) else BitVec.ofNat 64 old

/-- The combining function of `AMIN` and `AMAX` (R272). -/
def minMaxOld (v2 : MMVar) (wantMax : Bool) (old : Nat) (x : Word) : Nat :=
  let n := MMVarBytes v2
  let x := x.toNat % 2 ^ (8 * n)
  let less (a b : Nat) : Bool := match v2 with
    | .ds | .ws => toSigned (8 * n) a < toSigned (8 * n) b
    | .du | .wu => a < b
  if wantMax then (if less old x then x else old) else (if less x old then x else old)

/-- The combining function of `ABIT` (R268). -/
def bitOld (op : BitOp) (old : Nat) (x : Word) : Nat :=
  match op with
  | .and => old &&& x.toNat
  | .or => old ||| x.toNat
  | .xor => old ^^^ x.toNat

/-- Whether an ordering-and-scope code makes an acquire at system scope (R119, R263). -/
def codeAcquires (o : BitVec 3) : Bool := o == 5 || o == 7

/-- Whether a computation would trap or wait, with nothing of it done. -/
def probeM (m : M Unit) : M Unit := fun s =>
  match m s with
  | .ok _ => .ok ((), s)
  | .error x => .error x

/-- An atomic that is still to be performed: in the package, or sent to the home outside. -/
def homeAtomicM (la : BitVec 4) (o : BitVec 3) (d : Reg) (p : Word) (n : Nat) (f : Nat → Option Nat) (op : OutOp) : M Nat := do
  releaseM (codeReleases o)
  let (_, pl) ← accessM p { rd := true, wr := true, n := n, align := n, raw := true, spaces := [0, 1, 2, 4] }
  match pl with
  | .mem segs =>
    let bs ← loadSegs segs p
    if codeAcquires o then modM (·.acquire (segLines segs))
    match f (leNat bs) with
    | some v =>
      storeSegs segs (leBytes n v) p
      if codeReleases o then modM fun s => s.release s.cur (segLines segs)
    | none => pure ()
    pure (leNat bs)
  | .outside host dev pod addr =>
    probeM (writeLate la d 0)
    let cov ← getM fun s => if codeReleases o then s.covered s.cur else []
    let bs ← awaitM host dev pod addr n op p cov
    pure (leNat bs)
  | .table _ | .capBlock _ => trapM .handle p

/-- An atomic of `n` bytes (R262): `f` gives the value to write from the old one, or none where nothing is written; `op` is the
same access for a peer device's home. The old value comes back. An atomic that traps writes nothing (R263), so what the write of d would
raise is tested before the access is sent, and one that has been performed outside is not checked again. Codes 5 and 7 acquire (R119). -/
def atomicM (la : BitVec 4) (o : BitVec 3) (d : Reg) (p : Word) (n : Nat) (f : Nat → Option Nat) (op : OutOp) : M Nat := do
  match ← getM fun s => s.me.got.find? fun x => x.1 == p && x.2.1 == op with
  | some (_, _, .ok bs) => pure (leNat bs)
  | some (_, _, .error c) => trapM c p
  | none => homeAtomicM la o d p n f op

/-- `AADD` and `AAGG` (R266, R267): both have the same effect on memory and on d. -/
def addM (la : BitVec 4) (o : BitVec 3) (d a v : Reg) (wd : AWidth) : M Unit := do
  ownM
  let p ← readS a
  let x ← readS v
  let n := AWidthBytes wd
  let old ← atomicM la o d p n (fun old => some ((old + x.toNat) % 2 ^ (8 * n))) (.add n x)
  writeLate la d (widenOld n false old)

/-- `AMIN` and `AMAX` (R272, R273). -/
def minMaxM (wantMax : Bool) (la : BitVec 4) (o : BitVec 3) (d a v : Reg) (v2 : MMVar) : M Unit := do
  ownM
  let p ← readS a
  let x ← readS v
  let n := MMVarBytes v2
  let old ← atomicM la o d p n (fun old => some (minMaxOld v2 wantMax old x)) (.minmax v2 wantMax x)
  writeLate la d (widenOld n (v2 == .ws) old)

/-! ## The instructions -/

/-- `AADD` (R266). -/
def execAadd (la : BitVec 4) (o : BitVec 3) (d a v : Reg) (wd : AWidth) (s : State) : Host.Outcome State Fault Refusal :=
  runWord (.aadd la o d a v wd) (addM la o d a v wd) s

/-- `AAGG` (R267). -/
def execAagg (la : BitVec 4) (o : BitVec 3) (d a v : Reg) (wd : AWidth) (s : State) : Host.Outcome State Fault Refusal :=
  runWord (.aagg la o d a v wd) (addM la o d a v wd) s

/-- `AMIN` (R273). -/
def execAmin (la : BitVec 4) (o : BitVec 3) (d a v : Reg) (v2 : MMVar) (s : State) : Host.Outcome State Fault Refusal :=
  runWord (.amin la o d a v v2) (minMaxM false la o d a v v2) s

/-- `AMAX` (R272). -/
def execAmax (la : BitVec 4) (o : BitVec 3) (d a v : Reg) (v2 : MMVar) (s : State) : Host.Outcome State Fault Refusal :=
  runWord (.amax la o d a v v2) (minMaxM true la o d a v v2) s

/-- `ABIT` (R268). -/
def execAbit (la : BitVec 4) (o : BitVec 3) (d a v : Reg) (op : BitOp) (s : State) : Host.Outcome State Fault Refusal :=
  runWord (.abit la o d a v op) (do
    ownM
    let p ← readS a
    let x ← readS v
    let old ← atomicM la o d p 8 (fun old => some (bitOld op old x)) (.bit op x)
    writeLate la d (widenOld 8 false old)) s

/-- `ASWAP` (R276). -/
def execAswap (la : BitVec 4) (o : BitVec 3) (d a v : Reg) (wd : AWidth) (s : State) : Host.Outcome State Fault Refusal :=
  runWord (.aswap la o d a v wd) (do
    ownM
    let p ← readS a
    let x ← readS v
    let n := AWidthBytes wd
    let old ← atomicM la o d p n (fun _ => some (x.toNat % 2 ^ (8 * n))) (.swap n x)
    writeLate la d (widenOld n false old)) s

/-- `ACAS` (R269): d holds the expected value at issue; a compare that fails writes nothing. -/
def execAcas (la : BitVec 4) (o : BitVec 3) (d a v : Reg) (wd : AWidth) (s : State) : Host.Outcome State Fault Refusal :=
  runWord (.acas la o d a v wd) (do
    ownM
    let p ← readS a
    let x ← readS v
    let y ← readS d
    let n := AWidthBytes wd
    let old ← atomicM la o d p n (fun old => if old = y.toNat % 2 ^ (8 * n) then some (x.toNat % 2 ^ (8 * n)) else none) (.cas n y x)
    writeLate la d (widenOld n false old)) s

/-! ## `AFADD` (R113, R271) -/

/-- The format of an `AFADD` variant. -/
def ffmtOf : FFmt → Fmt
  | .fp32 => .fp32
  | .bf16 => .bf16
  | .fp16 => .fp16
  | .fp64 => .fp64

/-- The home core of a physical address (R95). -/
def State.homeOf (s : State) (pa : Nat) : Nat :=
  let h := pa / 256 % s.ncore
  if h < 8 * s.dev.pairs then h else h - 8 * s.dev.pairs + 2048

/-- An add that waits at its home for its turn (R113). -/
structure HeldAdd where
  addr : Nat
  fmt  : FFmt
  v    : Word
  q    : Nat
  ptr  : Word
  o    : BitVec 3
  since : Nat
  deriving DecidableEq, Repr

/-- Whether a held add has been held for 1 ms (R113). -/
def HeldAdd.expired (x : HeldAdd) (now : Nat) : Bool := x.since + 1000000 ≤ now

/-- The add held by a sleeping agent. -/
def Agent.heldAdd (g : Agent) : Option HeldAdd :=
  match g.act with
  | .asleep (.hold addr fmt v q ptr o) t => some ⟨addr, fmt, v, q, ptr, o, t⟩
  | .asleep _ _ | .idle | .running | .stopped | .retired => none

/-- An agent whose held add is discarded after 1 ms: it takes SEQGAP (R113). -/
def Agent.dropAdd (g : Agent) (x : HeldAdd) : Agent := { g with act := .running, mark := .trap .seqgap x.ptr }

/-- Adds held at a home core. -/
def State.heldAt (s : State) (home : Nat) : Nat :=
  (s.others.filter fun kg => match kg.2.heldAdd with
    | some x => s.homeOf x.addr == home && !x.expired s.now
    | none => false).length

/-- One add applied to the pair at `pa`: the accumulator after it, which is also what d receives. -/
def State.applyAdd (s : State) (pa : Nat) (fmt : FFmt) (v : Word) : State × Word :=
  let f := ffmtOf fmt
  let k := f.width / 8
  let acc := fAdd f .rne (s.peek pa k) (v.toNat % 2 ^ f.width)
  (s.softPoke [(pa, k), (pa + 8, 8)] (leBytes k acc ++ leBytes 8 (s.peek (pa + 8) 8 + 1)), BitVec.ofNat 64 acc)

/-- The lines of a sequenced pair. -/
def pairLines (pa : Nat) : List Nat := segLines [(pa, 16)]

/-- The held adds whose turn has come are applied, one after another, each an acquire and a release where its code says so (R118, R119, R263); one
held for 1 ms is discarded instead (R113). Of two with one number, which R113 does not tell apart, the agent with the lower key goes first (the
model's choice, log entry 95). `fuel` bounds them. -/
def State.releaseAdds (pa : Nat) : Nat → State → State
  | 0, s => s
  | fuel + 1, s =>
    let due := s.others.findSome? fun kg => kg.2.heldAdd.bind fun x =>
      if x.addr == pa && x.q == s.peek (pa + 8) 8 then some (kg.1, kg.2, x) else none
    match due with
    | none => s
    | some (k, g, x) =>
      if x.expired s.now then State.releaseAdds pa fuel { s with others := tabSet k (g.dropAdd x) s.others }
      else
        let r := s.applyAdd pa x.fmt x.v
        let g := if codeAcquires x.o then g.acquires (r.1.releasedBy (pairLines pa)) else g
        let s := { r.1 with others := tabSet k { g with act := .running, mark := .value r.2 } r.1.others }
        State.releaseAdds pa fuel (if codeReleases x.o then s.release (agentOfKey k) (pairLines pa) else s)

/-- An add at its home (R113): a stale number is SEQGAP, an early one is held, one in turn is applied and releases what waited for it. -/
def homeAddM (la : BitVec 4) (o : BitVec 3) (d : Reg) (p x q : Word) (fm : FFmt) (segs : List (Nat × Nat)) : M Unit := do
  let pa := (segs.headD (0, 0)).1
  let bs ← loadSegs segs p
  let next := leNat (bs.drop 8)
  if codeAcquires o then modM (·.acquire (segLines segs))
  if q.toNat < next then trapM .seqgap p
  else if next < q.toNat then
    probeM (writeLate la d 0)
    if 64 ≤ (← getM fun s => s.heldAt (s.homeOf pa)) then stallM
    else restM (.hold pa fm x q.toNat p o) (writeLate la d 0)
  else
    claimM segs p
    let r ← getM fun s => s.applyAdd pa fm x
    modM fun _ => r.1
    if codeReleases o then modM fun s => s.release s.cur (pairLines pa)
    modM (·.releaseAdds pa 65536)
    writeLate la d r.2

/-- `AFADD` (R271). An add that was held and has been applied only writes d. -/
def execAfadd (la : BitVec 4) (o : BitVec 3) (d a v : Reg) (fm : FFmt) (s : State) : Host.Outcome State Fault Refusal :=
  runWord (.afadd la o d a v fm) (do
    ownM
    let p ← readS a
    let x ← readS v
    let q ← readS d
    match ← getM (·.me.mark) with
    | .value r => writeLate la d r
    | .none | .done | .left _ | .again | .trap _ _ =>
      releaseM (codeReleases o)
      let (_, pl) ← accessM p { rd := true, wr := true, n := 16, align := 16, raw := true, cap := false, spaces := [0] }
      match pl with
      | .mem segs => homeAddM la o d p x q fm segs
      | .table _ | .capBlock _ | .outside _ _ _ _ => trapM .handle p) s

/-- Event `AFADD_HOLD_TIMEOUT` (R113): the add that the agent of key `i` holds is discarded after 1 ms and it takes SEQGAP. -/
def execAfaddHoldTimeout (i : Nat) (s : State) : Host.Outcome State Fault Refusal :=
  let a := agentOfKey i
  let g := s.agent a
  match g.heldAdd with
  | some x => .next (if x.expired s.now then s.setAgent a (g.dropAdd x) else s)
  | none => .next s

end Sys2Proof.Machine
end

