-- ==== Sys2Proof/Machine/Control.lean ====
section
/-! DEFINITION. Control flow, traps and fences (R265, R277, R279, R282, R286, R303, R317, R322, R330, R345, R358, R381, R382). -/

namespace Sys2Proof.Machine

/-! ## Branches -/

/-- `NOP` (R345). -/
def execNop (la : BitVec 4) (s : State) : Host.Outcome State Fault Refusal := runWord (.nop la) (pure ()) s

/-- `B` (R277). -/
def execBranch (o : BitVec 24) (s : State) : Host.Outcome State Fault Refusal :=
  runWord (.branch o) (do
    let t ← getM fun s => s.bundleAt s.me.ctx.pc o.toInt
    branchM t true) s

/-- `CALL` (R282): the return pointer in `s31`, then the branch; it pops no loop level (R331). -/
def execCall (o : BitVec 24) (s : State) : Host.Outcome State Fault Refusal :=
  runWord (.call o) (do
    let t ← getM fun s => s.bundleAt s.me.ctx.pc o.toInt
    let r ← getM fun s => s.bundleAt s.me.ctx.pc 1
    writeS 31 r
    branchM t false) s

/-- `BCC` (R279). -/
def execBcc (c : Cond) (a b : Reg) (o : BitVec 11) (s : State) : Host.Outcome State Fault Refusal :=
  runWord (.bcc c a b o) (do
    let x ← readS a
    let y ← readS b
    let t ← getM fun s => s.bundleAt s.me.ctx.pc o.toInt
    if condHolds c x y then branchM t true else pure ()) s

/-- A jump to the bundle that a register names (R322): ALIGN on non-zero low bits. -/
def jumpM (a : Reg) : M Unit := do
  let p ← readS a
  needM (p.toNat % 8 == 0) (.trap .align p)
  let t ← getM (·.bundlePtr p)
  branchM t true

/-- `JR` (R322). -/
def execJr (la : BitVec 4) (a : Reg) (s : State) : Host.Outcome State Fault Refusal := runWord (.jr la a) (jumpM a) s

/-- `RET` (R358): `JR s31`. -/
def execRet (la : BitVec 4) (s : State) : Host.Outcome State Fault Refusal := runWord (.ret la) (jumpM 31) s

/-- Levels and pending `LOOP`s of an agent, innermost first. -/
def Ctx.levels (c : Ctx) : List LoopLevel := (c.loopReq.map (·.level)).reverse ++ c.loops

/-- Whether a new level may stand inside the active ones (R330). -/
def levelFits (l : LoopLevel) (ls : List LoopLevel) : Bool :=
  match ls with
  | [] => true
  | [x] => x.cnt != l.cnt && l.last.toNat ≤ x.last.toNat
  | _ => false

/-- `LOOP` (R330): the level is made at the end of its bundle; in a paired bundle the count is the one read at issue (log entry 8). -/
def execLoop (la : BitVec 4) (a : Reg) (n : BitVec 10) (s : State) : Host.Outcome State Fault Refusal :=
  runWord (.loop la a n) (do
    unboundM a
    let v ← readS a
    let l ← getM fun s => LoopLevel.mk (s.bundleAt s.me.ctx.pc 1) (s.bundleAt s.me.ctx.pc n.toNat) a
    legalM (levelFits l (← getM (·.me.ctx.levels)))
    modM fun s => s.modCtx fun c =>
      { c with loopReq := c.loopReq ++ [⟨l, if s.unit.paired then some v else none⟩] }) s

/-! ## Traps -/

/-- `TRAP` (R381). -/
def execTrap (la : BitVec 4) (a : Reg) (c : BitVec 8) (s : State) : Host.Outcome State Fault Refusal :=
  runWord (.trap la a c) (do
    let v ← readS a
    match Cause.ofCode c.toNat with
    | some k => trapM k v
    | none => illegalM) s

/-- `TRET` (R382): out of the trap handler, else out of the user interrupt handler. -/
def execTret (la : BitVec 4) (s : State) : Host.Outcome State Fault Refusal :=
  runWord (.tret la) (do
    let c ← getM (·.me.ctx)
    if c.tin then modM (·.trapReturn)
    else if c.uiin then modM (·.interruptReturn)
    else illegalM) s

/-! ## Fences and the host notice -/

/-- Whether every earlier outside access of the agent, and all it covers, has been performed (R303). -/
def State.allPerformed (s : State) : Bool :=
  (s.covered s.cur).isEmpty && !(s.fab.exts.any (s.madeBy s.cur))

/-- The wait of a `FENCE` (R303): a failed store raises PEERDEAD; while something is not performed, the chunk commits and the word
waits. -/
def fenceM : M Unit := do
  releaseM true
  if ← getM (·.allPerformed) then pure ()
  else if (← getM (·.me.chunk.count)) != 0 then againM
  else stallM

/-- `FENCE` (R303): its chunk ends after it. -/
def execFence (la : BitVec 4) (s : State) : Host.Outcome State Fault Refusal :=
  runWord (.fence la) (do
    fenceM
    modM fun s => { s with unit := { s.unit with ends := true } }) s

/-- `CHUNK` (R286). -/
def execChunk (la : BitVec 4) (s : State) : Host.Outcome State Fault Refusal :=
  runWord (.chunk la) (modM fun s => { s with unit := { s.unit with ends := true } }) s

/-- The operand that a word kept when it ended the chunk it was issued in, or else the one it reads now. -/
def Mark.kept (m : Mark) (v : Word) : Word :=
  match m with
  | .value x => x
  | .none | .done | .left _ | .again | .trap _ _ => v

/-- `HCALL` (R317): PRIV at user privilege; a fence, which ends the chunk that `HCALL` was issued and read its operand in, then the
notice once the core's cell is free. -/
def execHcall (la : BitVec 4) (a : Reg) (c : BitVec 10) (s : State) : Host.Outcome State Fault Refusal :=
  runWord (.hcall la a c) (do
    systemM
    let x ← readS a
    let v ← getM (·.me.mark.kept x)
    releaseM true
    needM (!(← getM (·.me.chunk.count != 0))) (.keep v)
    ownM
    fenceM
    needM (!(← getM fun s => (s.core s.cur.core).hpend)) .stall
    modM fun s => (s.modCore s.cur.core fun k => { k with hcode := c, harg := v, hpend := true }).msix 1) s

end Sys2Proof.Machine
end

