-- ==== Sys2Proof/Machine/Cycle.lean ====
section
/-! DEFINITION. The cycle unit Yarrow: its instructions, and what it does at a `VOTE` (R39, R40, R159–R173, R290–R292, R357, R420). -/

namespace Sys2Proof.Machine

/-! ## Register words (R159–R163) -/

/-- `RESID` as a strand reads it. -/
def Span.resid (p : Span) (rpart : Option W32) : Word :=
  BitVec.ofNat 64 (p.rspan.toNat + 2 ^ 32 * (rpart.getD 0).toNat)

/-- `CYCPH`. -/
def Span.cycph (p : Span) : Word := BitVec.ofNat 64 (p.ph.toNat + 4 * bitNat p.dir)

/-- The word of `CYCSTAT` (R167). -/
def Span.stat (p : Span) : Word :=
  BitVec.ofNat 64 (p.ph.toNat + 4 * bitNat p.dir + 16 * (p.mgstat.toNat % 4) + 2 ^ 16 * p.cycn.toNat + 2 ^ 32 * p.rspan.toNat)

/-! ## The tally (R168, R169) -/

/-- The end of a run with outcome `how`. -/
def Span.finish (p : Span) (how : Nat) : Span :=
  { p with
    ph := 0
    mgstat := BitVec.ofNat 64 (how + 4 * bitNat (isNan .fp32 p.rspan.toNat) + 8 * bitNat p.dir + 2 ^ 16 * p.cycn.toNat +
      2 ^ 32 * p.rspan.toNat) }

/-- The left fold of the partials present, in ascending core order; +0 when none is (R169). -/
def foldPartials : List W32 → W32
  | [] => 0
  | r :: rs => BitVec.ofNat 32 (rs.foldl (fun acc x => fAdd .fp32 .rne acc x.toNat) r.toNat)

/-- The values staged for one `VOTE` over the strands in ascending core order; the lowest core's wins (R40). -/
def mergeStaged : List Staged → Staged
  | [] => {}
  | x :: xs =>
    let y := mergeStaged xs
    { swpol := x.swpol.or y.swpol, resTol := x.resTol.or y.resTol, cycMax := x.cycMax.or y.cycMax, cycPh := x.cycPh.or y.cycPh
      cycBeg := x.cycBeg.or y.cycBeg, cycEnd := x.cycEnd || y.cycEnd, wgFence := x.wgFence || y.wgFence, gcfg := [] }

/-- Registers committed at a `VOTE` before Yarrow acts (R40). -/
def Span.commit (p : Span) (x : Staged) : Span :=
  { p with
    fixo := match x.swpol with
      | some v => BitVec.ofNat 16 v.toNat
      | none => p.fixo
    tol := match x.resTol with
      | some v => BitVec.ofNat 32 v.toNat
      | none => p.tol
    lim := match x.cycMax with
      | some v => BitVec.ofNat 16 v.toNat
      | none => p.lim
    wgen := if x.wgFence then p.wgen + 1 else p.wgen }

/-- What Yarrow does at a `VOTE` (R168), from the registers committed, the merged staging and the partials present. -/
def Span.tally (p : Span) (x : Staged) (parts : List W32) : Span :=
  let lim := if p.lim = 0 then 65535 else p.lim.toNat
  let staged := x.cycPh.map fun v => BitVec.ofNat 2 v.toNat
  let stop := x.cycEnd || staged == some 0
  if p.ph = 0 then
    match x.cycBeg with
    | some d => { p with cycn := 0, rspan := 0, dir := d, ph := 1 }
    | none => p
  else if p.ph = 3 then
    let p := { p with rspan := foldPartials parts, cycn := p.cycn + 1 }
    if fRel .fp32 .le p.rspan.toNat p.tol.toNat then p.finish 1
    else if lim ≤ p.cycn.toNat then p.finish 2
    else if stop then p.finish 3
    else { p with ph := staged.getD 1 }
  else if stop then p.finish 3
  else { p with ph := staged.getD (p.ph + 1) }

/-! ## A `VOTE` of a span -/

/-- The strands placed for a job, in ascending core order, the retired ones among them. -/
def State.placed (s : State) (job : Nat) : List (AgentId × Agent) :=
  s.agents.filter fun ag => ag.1.kind == .main && ag.2.task.isNone && ag.2.act != .idle && jobKey ag.2.asid ag.2.job == job

/-- The strands of a job that have not retired, in ascending core order. -/
def State.strands (s : State) (job : Nat) : List (AgentId × Agent) := (s.placed job).filter fun ag => ag.2.act != .retired

/-- Whether the engine and copy jobs of a job are all complete (R168). -/
def State.noQ (s : State) (job : Nat) : Bool := s.allQ.all fun q => jobKey q.asid q.job != job

/-- The loaders and storers of a span that have a chunk open or not yet granted (R100). -/
def State.openHelpers (s : State) (job : Nat) : List AgentId :=
  (s.agents.filter fun ag => ag.1.kind != .main && ag.2.act != .idle && jobKey ag.2.asid ag.2.job == job && ag.2.chunk.count != 0).map (·.1)

/-- Whether the strands of a span have staged a `WGFENCE`, with which its `VOTE` changes `WGEN` (R168). -/
def State.fenceStaged (s : State) (job : Nat) : Bool := (mergeStaged ((s.strands job).map (·.2.ctx.staged))).wgFence

/-- Whether every strand of the span has arrived at its `VOTE` and a staged `WGFENCE` finds no job outstanding and every open chunk of the span
ready for its grant (R168, R171). -/
def State.voteReady (s : State) (job : Nat) : Bool :=
  let xs := s.strands job
  xs != [] && xs.all (fun ag => (s.job job).votes.contains ag.1) &&
    (!s.fenceStaged job || (s.noQ job && (s.openHelpers job).all fun a => !(s.focus a).grantWaits))

/-- A group descriptor committed into its slot: rounds start at 0 (R177). -/
def freshSlot (job : Nat) (desc : List Word) : GSlot := { desc := desc, job := job }

/-- What a `VOTE` commits (R40, R152, R168): group slots, span registers, discarded windows and Yarrow's action. A strand that retired in
the phase has no pending copy (R359), and its partial is in the fold (R169). Every pending copy and partial is then gone, and every sleeping
strand may complete. -/
def State.commitStaged (s : State) (job : Nat) : State :=
  let xs := s.strands job
  let merged := mergeStaged (xs.map (·.2.ctx.staged))
  let parts := (s.placed job).filterMap (·.2.ctx.rpart)
  let s := { s with groups := xs.foldl (fun gs (ag : AgentId × Agent) => ag.2.ctx.staged.gcfg.foldl (fun gs (x : Nat × List Word) =>
    tabSet (ag.1.core * 64 + x.1) (freshSlot job x.2) gs) gs) s.groups }
  let s := s.modJob job fun j => { j with span := (j.span.commit merged).tally merged parts, votes := [] }
  let fresh := merged.swpol.any fun v => wbit v 16
  let s := { s with pipes := if fresh then s.pipes.map fun (x : Nat × Pipe) =>
    if x.2.job = job then (x.1, { x.2 with windows := [] }) else x else s.pipes }
  (s.placed job).foldl (fun s (ag : AgentId × Agent) => s.modAgent ag.1 fun g =>
    let g := { g with ctx := { g.ctx with staged := {}, rpart := none } }
    match g.act with
    | .retired => g
    | .asleep .vote _ => { g with mark := .done, act := .running }
    | .asleep _ _ | .idle | .running | .stopped => { g with mark := .done }) s

/-! ## The instructions -/

/-- ILLEGAL for a task and inside the user interrupt handler (R166). -/
def strandM : M Unit := do
  let g ← getM (·.me)
  legalM (g.task.isNone && !g.ctx.uiin)

/-- The span registers in force. -/
def State.mySpan (s : State) : Span := (s.job s.myJob).span

/-- A change of the pending copy. -/
def stagedM (f : Staged → Staged) : M Unit := modM fun s => s.modCtx fun c => { c with staged := f c.staged }

/-- `CYCBEG` (R290): legal while the phase is IDLE. -/
def execCycbeg (la : BitVec 4) (bwd : Bool) (s : State) : Host.Outcome State Fault Refusal :=
  runWord (.cycbeg la bwd) (do
    strandM
    legalM ((← getM (·.mySpan.ph)) == 0)
    stagedM fun x => { x with cycBeg := some bwd }) s

/-- `CYCEND` (R291): legal while a run is active. -/
def execCycend (la : BitVec 4) (s : State) : Host.Outcome State Fault Refusal :=
  runWord (.cycend la) (do
    strandM
    legalM ((← getM (·.mySpan.ph)) != 0)
    stagedM fun x => { x with cycEnd := true }) s

/-- `WGFENCE` (R420): legal while the phase is IDLE. -/
def execWgfence (la : BitVec 4) (s : State) : Host.Outcome State Fault Refusal :=
  runWord (.wgfence la) (do
    strandM
    legalM ((← getM (·.mySpan.ph)) == 0)
    stagedM fun x => { x with wgFence := true }) s

/-- `CYCSTAT` (R292): a task receives 0. -/
def execCycstat (la : BitVec 4) (d : Reg) (s : State) : Host.Outcome State Fault Refusal :=
  runWord (.cycstat la d) (do
    let v ← getM fun s => if s.me.task.isSome then 0 else s.mySpan.stat
    writeS d v) s

/-- `RESTST` (R357): the residual against the tolerance in force or bits 31:0 of a register; a task receives 0. -/
def execRestst (la : BitVec 4) (d b : Reg) (tol : Bool) (s : State) : Host.Outcome State Fault Refusal :=
  runWord (.restst la d b tol) (do
    let x ← if tol then getM (·.mySpan.tol.toNat) else do
      let v ← readS b
      pure (v.toNat % 2 ^ 32)
    let v ← getM fun s => s.me.task.isNone && fRel .fp32 .le s.mySpan.rspan.toNat x
    writeS d (boolWord v)) s

end Sys2Proof.Machine
end

