-- ==== Sys2Proof/Machine/Engines.lean ====
section
/-! DEFINITION. The cluster job queue and the matrix licence: `MXPUB`, `CPPUB`, `JOBQ`, `LICACQ`, `LICREL` and the events of the units (R128,
R137–R147, R289, R321, R328, R329, R344). -/

namespace Sys2Proof.Machine

/-! ## Publication (R137, R138) -/

/-- `NCOND` of a queue entry. -/
def QJob.ncond (q : QJob) : Nat := if q.copy then wbits (q.word 0) 3 3 else wbits (q.word 0) 14 3

/-- The record at a pointer read for publication: ALIGN and the checks of a 128-byte load first. -/
def recordM (p : Word) : M (List Word) := do
  let bs ← loadM p { rd := true, wr := false, n := 128, align := 64 }
  pure (leWords 16 bs)

/-- The queue entry that the current agent makes of a record, by the count of its cluster's publications. -/
def State.newQ (s : State) (copy : Bool) (p : Word) (ws : List Word) : QJob :=
  let k := clusterOf s.cur.core
  let c := s.cluster k
  let t := if copy then [] else s.table
  { key := c.pubs * 512 + k, id := 2 ^ 31 + 2 ^ 29 * bitNat copy + k * 2 ^ 20 + c.pubs % 2 ^ 20, copy := copy, words := ws
    pub := s.cur, asid := s.me.asid, job := s.me.job, det := s.who.det, table := t, tabBad := !copy && !tableGood t
    st := .waiting, sts := 0, handles := [], mi := 0, ni := 0, ki := 0, acc := [], rows := 0, prkd := false, atRecord := p
    seq := c.entered, task := s.me.task }

/-- An entry that becomes READY: the licence may be taken for it (R140, R146). -/
def State.readyQ (s : State) (k : Nat) (q : QJob) : State :=
  let s := s.modQ k q.key fun q => { q with st := .ready }
  if q.copy then s else s.licSettle (pairOf k)

/-- Whether an entry is READY at once: without conditions, or with a count of them that is not legal (R32, R140). -/
def QJob.readyAtOnce (q : QJob) : Bool := q.ncond == 0 || 4 < q.ncond

/-- A record entered in the queue of the current core's cluster, with its id; `none` when no entry is free. -/
def State.enqueue (s : State) (copy : Bool) (p : Word) (ws : List Word) : Option (State × Nat) :=
  let k := clusterOf s.cur.core
  if 64 ≤ s.queueUsed k then none
  else
    let q := s.newQ copy p ws
    let s := s.modCluster k fun c => { c with
      queue := c.queue ++ [q], pubs := c.pubs + 1, entered := c.entered + 1, hist := (⟨q.key, q.id, none⟩ :: c.hist).take 256 }
    some (if q.readyAtOnce then s.readyQ k q else s, q.id)

/-- The end of `MXPUB` and `CPPUB`: d receives the id, or 0. -/
def publishM (copy : Bool) (d : Reg) (p : Word) (ws : List Word) : M Unit := do
  match ← getM fun s => s.enqueue copy p ws with
  | none => writeS d 0
  | some x =>
    modM fun _ => x.1
    writeS d (BitVec.ofNat 64 x.2)

/-- `MXPUB` (R137, R344). -/
def execMxpub (la : BitVec 4) (d b : Reg) (s : State) : Host.Outcome State Fault Refusal :=
  runWord (.mxpub la d b) (do
    ownM
    let p ← readS b
    let ws ← recordM p
    tableReadyM
    publishM false d p ws) s

/-- `CPPUB` (R137, R289). -/
def execCppub (la : BitVec 4) (d b : Reg) (s : State) : Host.Outcome State Fault Refusal :=
  runWord (.cppub la d b) (do
    ownM
    let p ← readS b
    let ws ← recordM p
    publishM true d p ws) s

/-- `JST` of a state (R139). -/
def JobSt.code : JobSt → Nat
  | .waiting => 0
  | .ready => 1
  | .running => 2
  | .parked => 3
  | .complete => 4

/-- The word of R139 for an id in an address space. -/
def State.jobWord (s : State) (asid id : Nat) : Word :=
  match s.liveQ asid id with
  | some q => BitVec.ofNat 64 q.st.code
  | none =>
    if id / 2 ^ 31 = 0 || !s.ownsPair asid (pairOf (idCluster id)) then 7
    else
      match (s.cluster (idCluster id)).hist.find? fun h => h.id == id with
      | some h => match h.sts with
        | some sts => BitVec.ofNat 64 (4 + 2 ^ 8 * (sts % 256))
        | none => 7
      | none => 7

/-- `JOBQ` (R139, R321). -/
def execJobq (la : BitVec 4) (d b : Reg) (s : State) : Host.Outcome State Fault Refusal :=
  runWord (.jobq la d b) (do
    let v ← readS b
    let w ← getM fun s => s.jobWord s.me.asid (wbits v 0 32)
    writeS d w) s

/-! ## The matrix licence (R146, R328, R329) -/

/-- LICENCE on the word in progress unless a condition holds (R189). -/
def licenceM (b : Bool) : M Unit := fun s => if b then .ok ((), s) else .error (.trap .licence (s.unit.word.zeroExtend 64))

/-- The pending request of a cluster. -/
def State.licReq (s : State) (k : Nat) : Option LicReq := if onDieU k then (s.pair (pairOf k)).reqU else (s.pair (pairOf k)).reqL

/-- The pending request of a cluster replaced. -/
def State.setLicReq (s : State) (k : Nat) (r : Option LicReq) : State :=
  s.modPair (pairOf k) fun x => if onDieU k then { x with reqU := r } else { x with reqL := r }

/-- Whether a `LICACQ` of a cluster is met at once: FREE, or HELD by it. -/
def State.licOpen (s : State) (k : Nat) : Bool :=
  let x := s.pair (pairOf k)
  x.moving.isNone && (x.holder.isNone || x.holder == some (onDieU k))

/-- `LICACQ` (R146, R328). -/
def execLicacq (la : BitVec 4) (d : Reg) (note : Bool) (s : State) : Host.Outcome State Fault Refusal :=
  runWord (.licacq la d note) (do
    licenceM (← getM (·.me.task.isNone))
    ownM
    let k ← getM fun s => clusterOf s.cur.core
    licenceM (← getM fun s => (s.licReq k).isNone)
    if ← getM fun s => s.licOpen k then
      modM fun s => s.modPair (pairOf k) fun x => { x with holder := some (onDieU k), pins := setAdd s.myJob x.pins }
      writeS d 1
    else
      modM fun s => s.setLicReq k (some ⟨s.myJob, s.cur.core, note, []⟩)
      writeS d 0) s

/-- `LICREL` (R146, R329). -/
def execLicrel (la : BitVec 4) (s : State) : Host.Outcome State Fault Refusal :=
  runWord (.licrel la) (do
    licenceM (← getM (·.me.task.isNone))
    ownM
    let k ← getM fun s => clusterOf s.cur.core
    if !(← getM fun s => s.holdsLic k) then modM fun s => s.setLicReq k none
    else
      let pins ← getM fun s => (s.pair (pairOf k)).pins
      let job ← getM (·.myJob)
      licenceM (pins.isEmpty || pins.contains job)
      let left := setDel job pins
      modM fun s =>
        let s := s.modPair (pairOf k) fun x => { x with pins := left }
        if left.isEmpty then s.licMove (pairOf k) .release else s) s

/-! ## Readiness (R32, R140) -/

/-- The conditions of a queue entry in use. -/
def QJob.conds (q : QJob) : List Word := if 4 < q.ncond then [] else (q.words.drop (if q.copy then 5 else 6)).take q.ncond

/-- A readiness operand tested (R32): the full tag of a word, which is read as `FEQ` reads one (R304), or a counter pair in counter mode.
A word of the capability block has no tag, and is never ready (the model's choice, log entry 98). -/
def condReady (w : Who) (p : Word) : D Bool := do
  if ← devGet (·.rdycnt w.asid) then
    let bs ← readAt w p { rd := true, wr := false, n := 16, align := 16 }
    pure (decide (leNat (bs.drop 8) ≤ leNat (bs.take 8)))
  else
    match ← devGet (·.check w p { rd := true, wr := false, n := 8, align := 8, raw := true, spaces := [0, 1, 2] }) with
    | .error c => devFail c
    | .ok (.mem segs) =>
      let _ ← devLoad none w segs
      devGet (·.fullAt ((segs.headD (0, 0)).1))
    | .ok (.capBlock _) => pure false
    | .ok (.table _) | .ok (.outside _ _ _ _) => devFail .handle

/-- Every operand tested in order. -/
def condsReady (w : Who) : List Word → D Bool
  | [] => pure true
  | p :: ps => do
    let b ← condReady w p
    let bs ← condsReady w ps
    pure (b && bs)

/-- The readiness of one entry tested: a failing operand ends it without a completion word (R140). -/
def testQ (k : Nat) (q : QJob) : D Unit := do
  match ← devTry (condsReady (← devGet (·.whoQ q)) q.conds) with
  | .error c => endQ k q c.code false
  | .ok true => devMod (·.readyQ k q)
  | .ok false => pure ()

/-- Event `JOB_QUEUE_READY` (R140): every waiting entry that carries the id is tested. -/
def execJobQueueReady (k id : Nat) (s : State) : Host.Outcome State Fault Refusal :=
  .next (((s.cluster k).entries.filter fun q => q.id == id && q.st == .waiting).foldl (fun s q => s.attempt (testQ k q)) s)

/-! ## Issue (R128, R140, R142, R144) -/

/-- The pointers of the 64-byte lines of `rows` rows. -/
def rowLines (base : Word) (stride rows bytes : Nat) : List Word :=
  (List.range rows).flatMap fun i => (List.range ((bytes + 63) / 64)).map fun l => ptrAdd base (i * stride + 64 * l)

/-- The first failing check of R87 over a list of accesses. -/
def State.firstFault (s : State) (w : Who) (a : Acc) (ps : List Word) : Option Cause :=
  ps.findSome? fun p => match s.check w p a with
    | .ok _ => none
    | .error c => some c

/-- The check of `DONEW` at issue (R140); R135 names other handles of a deterministic job (log entry 70). -/
def State.donewFault (s : State) (q : QJob) : Option Cause :=
  if q.donew.toNat % 8 != 0 then some .align
  else s.firstFault { s.whoQ q with det := false } { rd := false, wr := true, n := 8, align := 8 } [q.donew]

/-- The lines of A, B, C and the parking buffer. -/
def QJob.aLines (q : QJob) : List Word := rowLines (q.word 2) q.lda (32 * q.mBlocks) (128 * q.kSteps)
/-- The lines of B. -/
def QJob.bLines (q : QJob) : List Word := rowLines (q.word 3) q.ldb (32 * q.nBlocks) (128 * q.kSteps)
/-- The lines of C. -/
def QJob.cLines (q : QJob) : List Word := rowLines (q.word 4) q.ldc (32 * q.mBlocks) (32 * q.nBlocks * q.cWidth)
/-- The lines of the parking buffer. -/
def QJob.parkLines (q : QJob) : List Word := rowLines (q.word 11) 4096 1 4096

/-- The pointers whose handles a unit keeps from issue on. -/
def QJob.operands (q : QJob) : List Word :=
  if q.copy then (if q.fill then [q.word 2] else [q.word 1, q.word 2])
  else [q.word 2, q.word 3, q.word 4, q.word 11]

/-- Whether a handle of a job lies in one of some spaces and in the raw window. -/
def State.rawIn (s : State) (q : QJob) (spaces : List Nat) (p : Word) : Bool :=
  let e := s.handle q.asid (handleOf p)
  spaces.contains (hSpace e) && hWin e == 0

/-- The checks of R142 in their order, then that of `DONEW` (R140). -/
def State.engineFault (s : State) (q : QJob) : Option Cause :=
  let w := s.whoQ q
  if wbits (q.word 0) 0 4 != 0 || q.otyp == 3 || q.ctyp == 3 || q.hop == 3 || 4 < q.ncond ||
      q.lda % 64 != 0 || q.ldb % 64 != 0 || q.ldc % 64 != 0 || q.ldc < 32 * q.nBlocks * q.cWidth then some .illegal
  else if !(s.rawIn q [0, 1, 2] (q.word 2) && s.rawIn q [0, 1, 2] (q.word 3)) ||
      !(s.rawIn q [0, 1] (q.word 4) && s.rawIn q [0, 1] (q.word 11)) then some .handle
  else if q.operands.any fun p => p.toNat % 64 != 0 then some .align
  else
    match s.firstFault w { rd := true, wr := false, n := 64, align := 1 } (q.aLines ++ q.bLines) with
    | some c => some c
    | none =>
      match s.firstFault w { rd := false, wr := true, n := 64, align := 1 } (q.cLines ++ q.parkLines) with
      | some c => some c
      | none => if q.tabBad then some .fpe else s.donewFault q

/-- The lines that a list of pointers names, `n` bytes each. -/
def State.linesAt (s : State) (q : QJob) (n : Nat) (ps : List Word) : List Nat :=
  ps.flatMap fun p => match s.jobPlace q p n true with
    | .ok (.mem segs) => segLines segs
    | .ok (.table _) | .ok (.capBlock _) | .ok (.outside _ _ _ _) | .error _ => []

/-- Ownership of destination lines taken in one grant (R128): it waits for lines that another job owns or that are reserved, and squashes
conflicting open chunks. -/
def takeLines (q : QJob) (ls : List Nat) : D Unit := do
  devNeed (!(← devGet fun s => s.ownedNot (some q.key) ls || s.reservedAny ls))
  devMod fun s =>
    let s := s.squashAll ls
    { s with mem := { s.mem with owned := ls.foldl (fun m l => tabSet l q.key m) s.mem.owned } }

/-- The parked engine job of a cluster that runs next: first the one parked last, here or where it came from (R146, R147). -/
def State.parkedJob (s : State) (k : Nat) : Option QJob :=
  let xs := (s.cluster k).entries.filter fun q => !q.copy && q.st == .parked
  (xs.find? (·.first)).or xs.head?

/-- The oldest READY job of a unit. -/
def State.readyJob (s : State) (k : Nat) (copy : Bool) : Option QJob :=
  (s.cluster k).queue.find? fun q => q.copy == copy && q.st == .ready

/-- A job set running with the entries it keeps; one that pre-emption stopped has them already (R200, R319). -/
def State.startJob (s : State) (k : Nat) (q : QJob) : State :=
  let hs := if q.handles.isEmpty then q.operands.map fun p => (p, s.handle q.asid (handleOf p)) else q.handles
  let s := s.modQ k q.key fun q => { q with st := .running, handles := hs }
  s.modCluster k fun c => if q.copy then { c with cpy := some q.key } else { c with eng := some q.key }

/-- A job issued: it takes its destination and runs, or ends at a failing check and writes nothing. -/
def issueQ (k : Nat) (q : QJob) (fault : Option Cause) (ls : List Nat) : D Unit := do
  match fault with
  | some c => endQ k q c.code false
  | none =>
    takeLines q ls
    devMod (·.startJob k q)

/-- Event `ENGINE_ISSUE` (R140, R142): the cluster holds the licence, its engine is idle and no parked job goes first. -/
def execEngineIssue (k : Nat) (s : State) : Host.Outcome State Fault Refusal :=
  if !s.holdsLic k || (s.cluster k).eng.isSome || (s.parkedJob k).isSome then .next s
  else
    match s.readyJob k false with
    | none => .next s
    | some q => .next (s.attempt (issueQ k q (s.engineFault q) (s.linesAt q 64 q.cLines)))

/-! ## Engine events -/

/-- Event `ENGINE_STEP` (R143): the step in progress of the running job completes. A source line of another job's destination is waited for,
and a poisoned one or a page that is gone ends the job. -/
def execEngineStep (k : Nat) (s : State) : Host.Outcome State Fault Refusal :=
  match s.engineJob k with
  | none => .next s
  | some q =>
    if s.holdsLic k then
      .next (s.attempt (do
        let _ ← runStep k q))
    else .next s

/-- Event `ENGINE_COMPLETE` (R140): every step has run; flush, release, completion word and notice in one grant. A moving licence then
moves (R146). -/
def execEngineComplete (k : Nat) (s : State) : Host.Outcome State Fault Refusal :=
  match s.engineJob k with
  | none => .next s
  | some q =>
    if q.mi < q.mBlocks then .next s
    else
      .next (s.attempt (do
        endQ k q 0 true
        devMod (·.licMoved (pairOf k))))

/-- Event `PARK` (R146, R147): while the licence is to move, the holder's engine stops and the licence moves. -/
def execPark (k : Nat) (s : State) : Host.Outcome State Fault Refusal :=
  let x := s.pair (pairOf k)
  if x.moving.isNone || x.holder != some (onDieU k) then .next s
  else
    .next (s.attempt (do
      parkEngine k
      devMod (·.licMoved (pairOf k))))

/-- A parked job continues at its next step, with the accumulators that its buffer holds. -/
def unparkJob (k : Nat) (q : QJob) : D Unit := do
  match ← devTry (unitRead q 4096 (q.word 11)) with
  | .error c => endQ k q c.code true
  | .ok bs =>
    let acc := (splitElems 4 1024 bs).map fun x => BitVec.ofNat 32 x
    devMod fun s =>
      (s.modQ k q.key fun q => { q with st := .running, acc := acc, first := false }).modCluster k fun c => { c with eng := some q.key }

/-- Event `UNPARK` (R146): the buffer is read back and the parked job continues, before any other READY engine job. -/
def execUnpark (k : Nat) (s : State) : Host.Outcome State Fault Refusal :=
  if !s.holdsLic k || (s.cluster k).eng.isSome then .next s
  else
    match s.parkedJob k with
    | none => .next s
    | some q => if (s.cluster k).queue.contains q then .next (s.attempt (unparkJob k q)) else .next s

/-- Event `JOB_MOVE` (R147): the next moving job enters the queue once an entry is free. -/
def execJobMove (k : Nat) (s : State) : Host.Outcome State Fault Refusal := .next ((s.letIn k).licSettle (pairOf k))

/-! ## Copy events (R144) -/

/-- The line-by-line accesses of `n` bytes at a pointer: pointer and count. -/
def linePieces (p : Word) (n : Nat) : List (Word × Nat) :=
  let first := min n (64 - offsetOf p % 64)
  (p, first) :: (List.range ((n - first + 63) / 64)).map fun i =>
    (ptrAdd p (first + 64 * i), min 64 (n - first - 64 * i))

/-- The first failing check over pieces. -/
def State.pieceFault (s : State) (w : Who) (rd wr : Bool) (ps : List (Word × Nat)) : Option Cause :=
  ps.findSome? fun p => match s.check w p.1 { rd := rd, wr := wr, n := p.2, align := 1 } with
    | .ok _ => none
    | .error c => some c

/-- The checks of a copy job at issue (R144, R140). -/
def State.copyFault (s : State) (q : QJob) : Option Cause :=
  let w := s.whoQ q
  let rows := List.range q.nRows
  let all := [0, 1, 2, 3, 4, 5]
  if 2 ≤ wbits (q.word 0) 0 2 || 4 < q.ncond || q.len == 0 || q.nRows == 0 then some .illegal
  else if q.fill && q.len % 8 != 0 then some .align
  else if !q.operands.all (s.rawIn q all) then some .handle
  else
    match if q.fill then none else s.pieceFault w true false (rows.flatMap fun r => linePieces (q.fromRow r) q.len) with
    | some c => some c
    | none =>
      match s.pieceFault w false true (rows.flatMap fun r => linePieces (q.toRow r) q.len) with
      | some c => some c
      | none => s.donewFault q

/-- The destination lines of a copy job in package memory. -/
def State.copyLines (s : State) (q : QJob) : List Nat :=
  (List.range q.nRows).flatMap fun r => s.linesAt q q.len [q.toRow r]

/-- Event `COPY_ISSUE` (R144): the copy unit is idle; it checks the oldest READY copy job and takes its destination. One that pre-emption
stopped goes on as it was (R203). -/
def execCopyIssue (k : Nat) (s : State) : Host.Outcome State Fault Refusal :=
  if (s.cluster k).cpy.isSome then .next s
  else
    match s.readyJob k true with
    | none => .next s
    | some q => .next (s.attempt (issueQ k q (if q.handles.isEmpty then s.copyFault q else none) (s.copyLines q)))

/-- Event `COPY_ROW` (R144): the next row is moved and `CPROG` reported. -/
def execCopyRow (k : Nat) (s : State) : Host.Outcome State Fault Refusal :=
  match s.copyJob k with
  | none => .next s
  | some q =>
    .next (s.attempt (do
      let _ ← runRow k q))

/-- Event `COPY_COMPLETE` (R140). -/
def execCopyComplete (k : Nat) (s : State) : Host.Outcome State Fault Refusal :=
  match s.copyJob k with
  | none => .next s
  | some q => if q.rows < q.nRows then .next s else .next (s.attempt (endQ k q 0 true))

end Sys2Proof.Machine
end

