-- ==== Sys2Proof/Machine/Vector.lean ====
section
/-! DEFINITION. The tile instructions that are not long-latency, A-class majors 0x20–0x2D, 0x32, 0x34–0x38 (R378–R421). What an
instruction makes of its source rows is a function on rows, which `VCHAIN` also runs (R391). -/

namespace Sys2Proof.Machine

/-! ## Lane arithmetic (R387) -/

/-- An integer lane operation, or the floating one of the lane's format. -/
def laneOp (lt : LaneTy) (fi : Nat → Nat → Nat → Nat) (ff : Fmt → Nat → Nat → Nat) (x y : Nat) : Nat :=
  if lt.isFloat then ff (LaneFmt lt) x y else fi lt.width x y

/-- Lane add. -/
def laneAdd (lt : LaneTy) : Nat → Nat → Nat := laneOp lt (fun w x y => (x + y) % 2 ^ w) (fun f => fAdd f .rne)

/-- Lane subtract. -/
def laneSub (lt : LaneTy) : Nat → Nat → Nat := laneOp lt (fun w x y => (x + 2 ^ w - y) % 2 ^ w) (fun f => fSub f .rne)

/-- Lane multiply. -/
def laneMul (lt : LaneTy) : Nat → Nat → Nat := laneOp lt (fun w x y => x * y % 2 ^ w) (fun f => fMul f .rne)

/-- Lane minimum. -/
def laneMin (lt : LaneTy) : Nat → Nat → Nat :=
  laneOp lt (fun w x y => if toSigned w y < toSigned w x then y else x) (fun f => fMinMax f false)

/-- Lane maximum. -/
def laneMax (lt : LaneTy) : Nat → Nat → Nat :=
  laneOp lt (fun w x y => if toSigned w x < toSigned w y then y else x) (fun f => fMinMax f true)

/-- x × y + z. -/
def laneFma (lt : LaneTy) (x y z : Nat) : Nat :=
  if lt.isFloat then fFma (LaneFmt lt) .rne x y z else (x * y + z) % 2 ^ lt.width

/-- The shifts of `VSHL`. -/
def laneShift (k : ShiftKind) (w x y : Nat) : Nat :=
  let n := y % w
  match k with
  | .l => x * 2 ^ n % 2 ^ w
  | .r => x / 2 ^ n
  | .ra => toBits w (toSigned w x / ((2 ^ n : Nat) : Int))

/-- A lane operation on two rows. -/
def rows2 (lt : LaneTy) (f : Nat → Nat → Nat) (x y : Row) : Row :=
  rowOf lt.width (List.zipWith f (lanesOf lt.width x) (lanesOf lt.width y))

/-- A lane operation on three rows. -/
def rows3 (lt : LaneTy) (f : Nat → Nat → Nat → Nat) (x y z : Row) : Row :=
  rowOf lt.width ((List.range lt.lanes).map fun j => f (laneOf lt.width x j) (laneOf lt.width y j) (laneOf lt.width z j))

/-- The mask of `VCMP`. -/
def laneMask (lt : LaneTy) (c : Cond) (x y : Nat) : Nat :=
  let b := if lt.isFloat then floatCond (LaneFmt lt) c x y else laneCond lt.width c x y
  if b then 2 ^ lt.width - 1 else 0

/-! ## Conversions (R393, R394, R396) -/

/-- One lane converted. -/
def convertLane (src dst : LaneTy) (x : Nat) : Nat :=
  let lo : Int := -((2 ^ (dst.width - 1) : Nat) : Int)
  let hi : Int := ((2 ^ (dst.width - 1) : Nat) : Int) - 1
  if src.isFloat then
    if dst.isFloat then fConv (LaneFmt src) (LaneFmt dst) .rne x
    else toBits dst.width (fToInt (LaneFmt src) .rne lo hi x)
  else
    let v := toSigned src.width x
    if dst.isFloat then intToF (LaneFmt dst) .rne v else toBits dst.width (max lo (min hi v))

/-- A row with lanes `o` onward replaced, every other lane kept. -/
def putLanes (w : Nat) (row : Row) (o : Nat) (xs : List Nat) : Row :=
  rowOf w ((lanesOf w row).mapIdx fun j y => if o ≤ j && j < o + xs.length then xs.getD (j - o) 0 else y)

/-- Part `k` of a conversion of one row (R393). -/
def convertRow (src dst : LaneTy) (k : Nat) (x z : Row) : Row :=
  if src.width ≤ dst.width then
    rowOf dst.width ((List.range dst.lanes).map fun j => convertLane src dst (laneOf src.width x (k * dst.lanes + j)))
  else putLanes dst.width z (k * src.lanes) ((lanesOf src.width x).map (convertLane src dst))

/-! ## Whole rows -/

/-- Rows reduced by R77: a tree within each row, then row results joined in order. -/
def reduceRows (lt : LaneTy) (f : Nat → Nat → Nat) (rows : List Row) : Nat :=
  match rows.map fun r => pairTree f 8 (lanesOf lt.width r) with
  | [] => 0
  | x :: xs => xs.foldl f x

/-- A row with a value in lane 0 and zeros above. -/
def lane0 (lt : LaneTy) (x : Nat) : Row := BitVec.ofNat 128 (x % 2 ^ lt.width)

/-- `TTRANS` (R384). -/
def transpose (lt : LaneTy) (xs : List Row) : List Row :=
  (List.range lt.lanes).map fun i => rowOf lt.width ((List.range lt.lanes).map fun j => laneOf lt.width (xs.getD j 0) i)

/-- `VPERM` of one row (R407). -/
def permuteRow (lt : LaneTy) (x y : Row) : Row :=
  rowOf lt.width ((lanesOf lt.width y).map fun i => if i < lt.lanes then laneOf lt.width x i else 0)

/-- A value in every lane. -/
def spread (lt : LaneTy) (v : Nat) : Row := rowOf lt.width (List.replicate lt.lanes v)

/-- Rows of three operands combined. -/
def zip3 (f : Row → Row → Row → Row) : List Row → List Row → List Row → List Row
  | x :: xs, y :: ys, z :: zs => f x y z :: zip3 f xs ys zs
  | _, _, _ => []

/-- Result rows of the instructions whose result is a function of tile rows alone (R380, R384, R386, R387, R393): `x`, `y` and `z`
are the rows of ta, tb and td. The majors 0x20–0x29 and 0x36, which a micro-program may hold (R403). -/
def tileRows (i : Instr) (x y z : List Row) : List Row :=
  match i with
  | .vadd _ _ _ _ _ lt => List.zipWith (rows2 lt (laneAdd lt)) x y
  | .vsub _ _ _ _ _ lt => List.zipWith (rows2 lt (laneSub lt)) x y
  | .vmul _ _ _ _ _ lt => List.zipWith (rows2 lt (laneMul lt)) x y
  | .vfma _ _ _ _ _ lt => zip3 (rows3 lt (laneFma lt)) x y z
  | .vmin _ _ _ _ _ lt => List.zipWith (rows2 lt (laneMin lt)) x y
  | .vmax _ _ _ _ _ lt => List.zipWith (rows2 lt (laneMax lt)) x y
  | .vand _ _ _ _ _ _ => List.zipWith (fun a b => a &&& b) x y
  | .vor _ _ _ _ _ _ => List.zipWith (fun a b => a ||| b) x y
  | .vxor _ _ _ _ _ _ => List.zipWith (fun a b => a ^^^ b) x y
  | .vshl _ _ _ _ _ lt k => List.zipWith (rows2 lt (laneShift k lt.width)) x y
  | .vcmp _ _ _ _ _ lt c => List.zipWith (rows2 lt (laneMask lt c)) x y
  | .vsel _ _ _ _ _ _ => zip3 (fun a b m => (m &&& a) ||| (~~~m &&& b)) x y z
  | .vcvt _ _ k _ _ lt dst => List.zipWith (convertRow lt dst k.toNat) x z
  | .tzero _ n _ _ => List.replicate (n.toNat + 1) 0
  | .tmov _ _ _ _ _ => x
  | .ttrans _ _ _ _ lt => transpose lt x
  | _ => []

/-! ## Shared forms -/

/-- The row count of a field. -/
def rowCount (n : BitVec 3) : Nat := n.toNat + 1

/-- Rows of a destination whose lanes are kept: the register's own rows, whatever its binding. -/
def keptRows (t : TReg) (f n : Nat) : M (List Row) :=
  getM fun s => (List.range n).map fun k => s.me.ctx.row (rowIx t (f + k))

/-- Two source tiles and one result. -/
def tile2 (i : Instr) (td ta tb : TReg) (n f : BitVec 3) : M Unit := do
  let x ← readRows ta f.toNat (rowCount n)
  let y ← readRows tb f.toNat (rowCount n)
  writeRows td f.toNat (tileRows i x y [])

/-- Two source tiles and a destination that is a source too. -/
def tile3 (i : Instr) (td ta tb : TReg) (n f : BitVec 3) : M Unit := do
  let x ← readRows ta f.toNat (rowCount n)
  let y ← readRows tb f.toNat (rowCount n)
  let z ← readRows td f.toNat (rowCount n)
  writeRows td f.toNat (tileRows i x y z)

/-- One source tile and one result, with lanes of the destination kept. -/
def tile1 (i : Instr) (td ta : TReg) (n f : BitVec 3) : M Unit := do
  let x ← readRows ta f.toNat (rowCount n)
  let z ← keptRows td f.toNat (rowCount n)
  writeRows td f.toNat (tileRows i x [] z)

/-- FPE while `TABBAD` is 1 (R72). -/
def tableGoodM : M Unit := fun s => if s.tabBad then .error (.trap .fpe 1) else .ok ((), s)

/-- The key registers (R379): seed, row and first column, with the seed loaded from the tensor header that `s28` names. -/
def keysM : M (Nat × Nat × Nat) := do
  let p ← readS 28
  let r ← readS 29
  let c ← readS 30
  if p = 0 then pure (0, r.toNat, c.toNat)
  else
    let bs ← loadM p { rd := true, wr := false, n := 8, align := 64 }
    pure (leNat bs, r.toNat, c.toNat)

/-- Elements of rows in order, lane 0 of the first row first. -/
def elemsOf (w : Nat) (rows : List Row) : List Nat := rows.flatMap (lanesOf w)

/-- Rows from elements in order. -/
def rowsFrom (w : Nat) : Nat → List Nat → List Row
  | 0, _ => []
  | n + 1, xs => rowOf w (xs.take (128 / w)) :: rowsFrom w n (xs.drop (128 / w))

/-! ## The instructions -/

/-- `VADD` (R387, R388). -/
def execVadd (td ta tb : TReg) (n f : BitVec 3) (lt : LaneTy) (s : State) : Host.Outcome State Fault Refusal :=
  runWord (.vadd td ta tb n f lt) (tile2 (.vadd td ta tb n f lt) td ta tb n f) s

/-- `VSUB` (R387, R415). -/
def execVsub (td ta tb : TReg) (n f : BitVec 3) (lt : LaneTy) (s : State) : Host.Outcome State Fault Refusal :=
  runWord (.vsub td ta tb n f lt) (tile2 (.vsub td ta tb n f lt) td ta tb n f) s

/-- `VMUL` (R387, R404). -/
def execVmul (td ta tb : TReg) (n f : BitVec 3) (lt : LaneTy) (s : State) : Host.Outcome State Fault Refusal :=
  runWord (.vmul td ta tb n f lt) (tile2 (.vmul td ta tb n f lt) td ta tb n f) s

/-- `VFMA` (R387, R398). -/
def execVfma (td ta tb : TReg) (n f : BitVec 3) (lt : LaneTy) (s : State) : Host.Outcome State Fault Refusal :=
  runWord (.vfma td ta tb n f lt) (tile3 (.vfma td ta tb n f lt) td ta tb n f) s

/-- `VMIN` (R387, R402). -/
def execVmin (td ta tb : TReg) (n f : BitVec 3) (lt : LaneTy) (s : State) : Host.Outcome State Fault Refusal :=
  runWord (.vmin td ta tb n f lt) (tile2 (.vmin td ta tb n f lt) td ta tb n f) s

/-- `VMAX` (R387, R401). -/
def execVmax (td ta tb : TReg) (n f : BitVec 3) (lt : LaneTy) (s : State) : Host.Outcome State Fault Refusal :=
  runWord (.vmax td ta tb n f lt) (tile2 (.vmax td ta tb n f lt) td ta tb n f) s

/-- `VAND` (R387, R389). -/
def execVand (td ta tb : TReg) (n f : BitVec 3) (lt : LaneTy) (s : State) : Host.Outcome State Fault Refusal :=
  runWord (.vand td ta tb n f lt) (tile2 (.vand td ta tb n f lt) td ta tb n f) s

/-- `VOR` (R387, R405). -/
def execVor (td ta tb : TReg) (n f : BitVec 3) (lt : LaneTy) (s : State) : Host.Outcome State Fault Refusal :=
  runWord (.vor td ta tb n f lt) (tile2 (.vor td ta tb n f lt) td ta tb n f) s

/-- `VXOR` (R387, R416). -/
def execVxor (td ta tb : TReg) (n f : BitVec 3) (lt : LaneTy) (s : State) : Host.Outcome State Fault Refusal :=
  runWord (.vxor td ta tb n f lt) (tile2 (.vxor td ta tb n f lt) td ta tb n f) s

/-- `VSHL` (R387, R413). -/
def execVshl (td ta tb : TReg) (n f : BitVec 3) (lt : LaneTy) (k : ShiftKind) (s : State) : Host.Outcome State Fault Refusal :=
  runWord (.vshl td ta tb n f lt k) (tile2 (.vshl td ta tb n f lt k) td ta tb n f) s

/-- `VCMP` (R387, R392). -/
def execVcmp (td ta tb : TReg) (n f : BitVec 3) (lt : LaneTy) (c : Cond) (s : State) : Host.Outcome State Fault Refusal :=
  runWord (.vcmp td ta tb n f lt c) (tile2 (.vcmp td ta tb n f lt c) td ta tb n f) s

/-- `VSEL` (R387, R411): td is the mask. -/
def execVsel (td ta tb : TReg) (n f : BitVec 3) (lt : LaneTy) (s : State) : Host.Outcome State Fault Refusal :=
  runWord (.vsel td ta tb n f lt) (tile3 (.vsel td ta tb n f lt) td ta tb n f) s

/-- `VCVT` (R393). -/
def execVcvt (td ta : TReg) (k : BitVec 4) (n f : BitVec 3) (lt dst : LaneTy) (s : State) : Host.Outcome State Fault Refusal :=
  runWord (.vcvt td ta k n f lt dst) (tile1 (.vcvt td ta k n f lt dst) td ta n f) s

/-- `VDEC` (R394): through the core's own table; it waits for a re-check and never traps on what the table holds. -/
def execVdec (td ta : TReg) (k : BitVec 4) (n f : BitVec 3) (lt : LaneTy) (s : State) : Host.Outcome State Fault Refusal :=
  runWord (.vdec td ta k n f lt) (do
    tableReadyM
    let x ← readRows ta f.toNat (rowCount n)
    let t ← getM (·.tableEntry)
    writeRows td f.toNat (x.map fun r => rowOf lt.width ((List.range lt.lanes).map fun j =>
      fConv .fp32 (LaneFmt lt) .rne (decode8 (t (laneOf 8 r (k.toNat * lt.lanes + j))))))) s

/-- `VENC` (R396): bytes k · Ls onward of each row become codes; the others are kept. -/
def execVenc (td ta : TReg) (k : BitVec 4) (n f : BitVec 3) (lt : LaneTy) (s : State) : Host.Outcome State Fault Refusal :=
  runWord (.venc td ta k n f lt) (do
    tableReadyM
    let x ← readRows ta f.toNat (rowCount n)
    tableGoodM
    let z ← keptRows td f.toNat (rowCount n)
    let t ← getM (·.table)
    writeRows td f.toNat (List.zipWith (fun r old =>
      putLanes 8 old (k.toNat * lt.lanes) ((lanesOf lt.width r).map fun v => encode8 t (unpack (LaneFmt lt) v))) x z)) s

/-- `VBCAST` (R390). -/
def execVbcast (td : TReg) (r : Reg) (n f : BitVec 3) (lt : LaneTy) (s : State) : Host.Outcome State Fault Refusal :=
  runWord (.vbcast td r n f lt) (do
    let v ← readS r
    writeRows td f.toNat (List.replicate (rowCount n) (spread lt v.toNat))) s

/-- `VPERM` (R407). -/
def execVperm (td ta tb : TReg) (n f : BitVec 3) (lt : LaneTy) (s : State) : Host.Outcome State Fault Refusal :=
  runWord (.vperm td ta tb n f lt) (do
    let x ← readRows ta f.toNat (rowCount n)
    let y ← readRows tb f.toNat (rowCount n)
    writeRows td f.toNat (List.zipWith (permuteRow lt) x y)) s

/-- `VREP` (R409). -/
def execVrep (td ta : TReg) (k : BitVec 4) (n f : BitVec 3) (lt : LaneTy) (s : State) : Host.Outcome State Fault Refusal :=
  runWord (.vrep td ta k n f lt) (do
    let x ← readRows ta f.toNat (rowCount n)
    writeRows td f.toNat (x.map fun r => spread lt (laneOf lt.width r k.toNat))) s

/-- `TZERO` (R386). -/
def execTzero (td : TReg) (n f : BitVec 3) (lt : LaneTy) (s : State) : Host.Outcome State Fault Refusal :=
  runWord (.tzero td n f lt) (writeRows td f.toNat (tileRows (.tzero td n f lt) [] [] [])) s

/-- `TMOV` (R380). -/
def execTmov (td ta : TReg) (n f : BitVec 3) (lt : LaneTy) (s : State) : Host.Outcome State Fault Refusal :=
  runWord (.tmov td ta n f lt) (tile1 (.tmov td ta n f lt) td ta n f) s

/-- `TTRANS` (R384). -/
def execTtrans (td ta : TReg) (n f : BitVec 3) (lt : LaneTy) (s : State) : Host.Outcome State Fault Refusal :=
  runWord (.ttrans td ta n f lt) (tile1 (.ttrans td ta n f lt) td ta n f) s

/-- `VINS` (R400): the lane index is in register s + 1. -/
def execVins (td : TReg) (r : Reg) (f : BitVec 3) (lt : LaneTy) (s : State) : Host.Outcome State Fault Refusal :=
  runWord (.vins td r f lt) (do
    let v ← readS r
    let j ← readS (r + 1)
    let z ← keptRows td f.toNat 1
    writeRows td f.toNat (z.map fun row => putLanes lt.width row (j.toNat % lt.lanes) [v.toNat % 2 ^ lt.width])) s

/-- `VEXT` (R397): integer lanes are sign-extended, floating ones zero-extended. -/
def execVext (td : TReg) (r : Reg) (f : BitVec 3) (lt : LaneTy) (s : State) : Host.Outcome State Fault Refusal :=
  runWord (.vext td r f lt) (do
    let j ← readS (r + 1)
    let x ← readRows td f.toNat 1
    let v := laneOf lt.width (x.headD 0) (j.toNat % lt.lanes)
    writeS r (if lt.isFloat then BitVec.ofNat 64 v else BitVec.ofInt 64 (toSigned lt.width v))) s

/-- `VDOT` (R395): products per lane, then R77; the total in lane 0 of the first row, its other lanes 0. -/
def execVdot (td ta tb : TReg) (n f : BitVec 3) (lt : LaneTy) (s : State) : Host.Outcome State Fault Refusal :=
  runWord (.vdot td ta tb n f lt) (do
    let x ← readRows ta f.toNat (rowCount n)
    let y ← readRows tb f.toNat (rowCount n)
    writeRows td f.toNat [lane0 lt (reduceRows lt (laneAdd lt) (List.zipWith (rows2 lt (laneMul lt)) x y))]) s

/-- `VSIGN` (R414): signs inverted where the flip bit is 1; nothing rounds. -/
def execVsign (td ta : TReg) (n f : BitVec 3) (lt : LaneTy) (s : State) : Host.Outcome State Fault Refusal :=
  runWord (.vsign td ta n f lt) (do
    let x ← readRows ta f.toNat (rowCount n)
    let k ← keysM
    let es := (elemsOf lt.width x).mapIdx fun i v => if flipAt k i then fNeg (LaneFmt lt) v else v
    writeRows td f.toNat (rowsFrom lt.width (rowCount n) es)) s

/-- Whether a word may stand in the micro-program store (R403). -/
def microWord (w : W32) : Bool :=
  w = 0 || (w.toNat / 2 ^ 30 = 1 && ((0x20 ≤ w.toNat / 2 ^ 24 % 64 && w.toNat / 2 ^ 24 % 64 ≤ 0x29) ||
    w.toNat / 2 ^ 24 % 64 = 0x36) && (match decodeWord w.toNat with
      | .ok i => i.wf
      | .error _ => false))

/-- `VMPLD` (R403): PRIV under `MPLK` at user privilege; no slot changes unless every word is legal. -/
def execVmpld (first : BitVec 4) (ta : TReg) (n f : BitVec 3) (s : State) : Host.Outcome State Fault Refusal :=
  runWord (.vmpld first ta n f) (do
    let c ← getM (·.me.ctx)
    if c.mplk then systemM
    let x ← readRows ta f.toNat (rowCount n)
    let ws : List W32 := (elemsOf 32 x).map (BitVec.ofNat 32 ·)
    match ws.find? (!microWord ·) with
    | some w => trapM .illegal (w.zeroExtend 64)
    | none => modM fun s => s.modCtx fun c => { c with
        mp := Vector.ofFn fun i : Fin 16 =>
          if first.toNat ≤ i.val && i.val < first.toNat + ws.length then ws.getD (i.val - first.toNat) 0 else c.mp[i]
        dirty := c.dirty ||| 2 ^ 65 }) s

end Sys2Proof.Machine
end

