-- ==== Sys2Proof/Machine/Groups.lean ====
section
/-! DEFINITION. Collectives: group descriptors, `GCFG`, `GSEND`, `GRECV`, `GSTAT`, and what routers do with items, results, acknowledgements,
timeouts and notices (R174–R187, R296, R312, R314–R316). -/

namespace Sys2Proof.Machine

/-! ## Node addresses (R175) -/

/-- `NLC` of a node address. -/
def nodeCore (a : Word) : Nat := wbits a 0 12
/-- `NDEV` of a node address. -/
def nodeDev (a : Word) : Nat := wbits a 12 13
/-- `NPOD` of a node address. -/
def nodePod (a : Word) : Nat := wbits a 25 4
/-- `NV` of a node address. -/
def nodeValid (a : Word) : Bool := wbit a 31

/-- Whether two addresses name one node; reserved bits say nothing (R2, R175). -/
def sameNode (a b : Word) : Bool := wbits a 0 29 == wbits b 0 29

/-- The address of a core of this device. -/
def State.nodeOf (s : State) (core : Nat) : Word :=
  BitVec.ofNat 64 (core + s.dev.devId * 2 ^ 12 + s.dev.podId * 2 ^ 25 + 2 ^ 31)

/-- Whether a node stands on this device. -/
def State.isHere (s : State) (a : Word) : Bool := nodeDev a == s.dev.devId && nodePod a == s.dev.podId

/-- Whether the link toward a node is in service and lives (R18, R20, R184). -/
def State.reaches (s : State) (a : Word) : Bool :=
  let p := Config.hopPort (nodePod a) (nodeDev a) % 16
  s.isHere a || (s.linked p && !s.fab.deadPorts.contains p)

/-! ## Descriptors (R174, R175) -/

/-- `KIND`. -/
def gKind (d : List Word) : Nat := wbits (wordAt d 0) 0 3
/-- `OPR`. -/
def gOpr (d : List Word) : Nat := wbits (wordAt d 0) 3 3
/-- `EFMT`. -/
def gEfmt (d : List Word) : Nat := wbits (wordAt d 0) 6 4
/-- `ROOT`. -/
def gRoot (d : List Word) : Bool := wbit (wordAt d 0) 10
/-- `SELF`. -/
def gSelf (d : List Word) : Bool := wbit (wordAt d 0) 11
/-- `CMASK`. -/
def gCmask (d : List Word) : Nat := wbits (wordAt d 0) 12 8
/-- `TOE`. -/
def gToe (d : List Word) : Nat := wbits (wordAt d 0) 20 4
/-- `SLK`. -/
def gSlk (d : List Word) : Bool := wbit (wordAt d 0) 24
/-- `GV`. -/
def gValid (d : List Word) : Bool := wbit (wordAt d 0) 25
/-- `NCHK` + 1. -/
def gChunks (d : List Word) : Nat := wbits (wordAt d 0) 26 10 + 1
/-- `PARENT`. -/
def gParent (d : List Word) : Word := wordAt d 1
/-- `ALTP`. -/
def gAltp (d : List Word) : Word := wordAt d 2
/-- `RSUCC`. -/
def gRsucc (d : List Word) : Word := wordAt d 3
/-- `CHILD`s. -/
def gChild (d : List Word) (i : Nat) : Word := wordAt d (4 + i)
/-- The child slots in use, ascending. -/
def gChildren (d : List Word) : List Nat := (List.range 8).filter (gCmask d).testBit

/-- A descriptor that breaks no rule of R174 and R175. -/
def groupGood (d : List Word) (det : Bool) : Bool :=
  let kind := gKind d
  let used := (if gRoot d then [] else [gParent d]) ++ (gChildren d).map (gChild d) ++ (if kind = 3 then [gRsucc d] else [])
  used.all nodeValid && kind ≤ 3 && gEfmt d ≤ 5 &&
    !(kind == 3 && (!gSelf d || gCmask d != 0)) && !(kind ≤ 2 && !gSelf d && gCmask d == 0) &&
    !(kind ≤ 1 && (6 ≤ gOpr d || (3 ≤ gOpr d && gEfmt d ≤ 3))) && !(det && gToe d != 0)

/-! ## Slots -/

/-- A group slot in use. -/
def State.slot (s : State) (core n : Nat) : Option GSlot :=
  match tabGet (core * 64 + n) s.groups with
  | some g => if gValid g.desc then some g else none
  | none => none

/-- The slot that the current agent's instructions reach: one of a group of its own address space (R174). -/
def State.mySlot (s : State) (n : Nat) : Option GSlot :=
  (s.slot s.cur.core n).filter fun g => g.job / 2 ^ 32 == s.me.asid

/-- A group slot changed. -/
def State.modGroup (s : State) (key : Nat) (f : GSlot → GSlot) : State :=
  match tabGet key s.groups with
  | some g => { s with groups := tabSet key (f g) s.groups }
  | none => s

/-- `PART` of a round's result: of any of its chunks. -/
def GSlot.roundPart (g : GSlot) (r : Nat) : Bool := g.results.any fun x => x.round == r && x.part

/-- The oldest round whose result is present. -/
def GSlot.oldest (g : GSlot) : Option Nat := g.present.head?

/-- Whether this node takes a result of a round it has contributed to (R178). -/
def GSlot.awaits (g : GSlot) : Bool :=
  let k := gKind g.desc
  k = 0 || k = 3 || (k = 1 && gRoot g.desc)

/-- Whether a contribution of this core is outstanding: SENDING (R180). -/
def GSlot.sending (g : GSlot) : Bool := !g.sends.isEmpty

/-- `GSS` of a slot (R180). -/
def GSlot.gss (g : GSlot) : Nat :=
  if g.dead then 4
  else if g.sending then 1
  else if !g.present.isEmpty then 3
  else if g.awaits && (g.taken.filter (· < g.rnd)).length < g.rnd then 2
  else 0

/-- The word of R180 without bit 63, of a slot or of none in use. -/
def State.gstat (s : State) (x : Option GSlot) : Word :=
  match x with
  | none => BitVec.ofNat 64 (7 + 2 ^ 10 * s.plant.soff)
  | some g =>
    let part := match g.oldest with
      | some r => g.roundPart r
      | none => false
    BitVec.ofNat 64 (g.gss + 2 ^ 8 * bitNat g.late + 2 ^ 9 * bitNat part + 2 ^ 10 * s.plant.soff + 2 ^ 16 * (g.rnd % 2 ^ 32))

/-! ## Sending (R183, R184) -/

/-- An item routed: as it is, or through the relay of its sender's node, where one on its way up names its child slot (R184); `none` when
nothing leads there. -/
def State.routed (s : State) (d : List Word) (it : GItem) : Option GItem :=
  match it.via with
  | some r => if s.reaches r then some it else none
  | none =>
    if s.reaches it.node then some it
    else if it.dir != .down && nodeValid (gAltp d) && s.reaches (gAltp d) then
      some { it with
        via := some (gAltp d)
        slot := if it.dir == .up then some (Config.childSlot it.asid it.group it.src.toNat % 8) else it.slot }
    else none

/-- Whether an item is one block. -/
def isBlock (it : GItem) : Bool :=
  match it.body with
  | .block _ _ => true
  | .head _ _ _ _ => false

/-- Whether an item takes a replay block until it is acknowledged: a block to a parent, to a ring successor or to a relay (R183). -/
def replayed (it : GItem) : Bool := isBlock it && (it.dir != .down || it.via.isSome)

/-- Whether a group has a replay block for one more block: its own one, or one of the 192 that the groups of its router share (R183). -/
def State.replayFree (s : State) (key : Nat) (g : GSlot) : Bool :=
  let used (g : GSlot) : Nat := (g.unacked.filter replayed).length
  used g = 0 ||
    ((s.groups.filter fun kg => kg.1 / 64 == key / 64).map fun kg => used kg.2 - 1).foldl (· + ·) 0 < 192

/-- Key of a round of a group of this device (R187). -/
def roundKey (asid group round : Nat) : Nat := (asid * 64 + group) * 2 ^ 40 + round

/-- An item put on its way. What leaves the package as part of a contribution to a group in slack control is noted (R187). -/
def State.launch (s : State) (slk : Bool) (it : GItem) : State :=
  if s.isHere (it.via.getD it.node) then { s with fab := { s.fab with items := s.fab.items ++ [it] } }
  else
    let s := { s with fab := { s.fab with out := s.fab.out ++ [.item it] } }
    if slk && it.dir != .down then
      { s with plant := { s.plant with sent := tabSet (roundKey it.asid it.group it.round) s.now s.plant.sent } }
    else s

/-! ### A group that cannot complete (R184) -/

/-- DEAD at a node, and at the nodes below it in this package that wait for results through it. The bound is on the depth of the tree. -/
def State.killDown : Nat → Nat → State → State
  | 0, _, s => s
  | k + 1, key, s =>
    match tabGet key s.groups with
    | none => s
    | some g =>
      if g.dead then s
      else
        let s := s.modGroup key fun g => { g with dead := true }
        if gKind g.desc = 0 || gKind g.desc = 2 then
          (gChildren g.desc).foldl (fun s i =>
            if s.isHere (gChild g.desc i) then s.killDown k (nodeCore (gChild g.desc i) * 64 + key % 64) else s) s
        else s

/-- A node and one of its children that never reach each other. A broadcast's root is DEAD, and its other children complete. Of a node that
combines, a timeout lets it complete without that child (R185); otherwise it is DEAD, and the nodes above it in this package miss its own
output in turn. -/
def State.killUp : Nat → Nat → State → State
  | 0, _, s => s
  | k + 1, key, s =>
    match tabGet key s.groups with
    | none => s
    | some g =>
      if gKind g.desc = 2 then (if gRoot g.desc then s.modGroup key fun g => { g with dead := true } else s)
      else if gToe g.desc != 0 then s
      else
        let s := s.killDown 4096 key
        if gKind g.desc ≤ 1 && !gRoot g.desc && s.isHere (gParent g.desc) then
          s.killUp k (nodeCore (gParent g.desc) * 64 + key % 64)
        else s

/-! ### Items on their way -/

/-- The oldest item held back in each direction: one direction never holds the other. -/
def GSlot.fronts (g : GSlot) : List GItem :=
  (g.held.find? fun it => it.dir != .down).toList ++ (g.held.find? fun it => it.dir == .down).toList

/-- Whether an item held back need wait no longer for a replay block (R183). -/
def State.mayLeave (s : State) (key : Nat) (g : GSlot) (it : GItem) : Bool :=
  match s.routed g.desc it with
  | some x => !replayed x || s.replayFree key g
  | none => true

/-- The items that wait for a replay block sent, in order, as long as one is free. An item up or round a ring that nothing leads to makes the
group DEAD here; one down is parked until its child's notice (R184). -/
def State.pump (key : Nat) : Nat → State → State
  | 0, s => s
  | n + 1, s =>
    match tabGet key s.groups with
    | none => s
    | some g =>
      match g.fronts.find? (s.mayLeave key g) with
      | none => s
      | some it =>
        match s.routed g.desc it with
        | some x =>
          pump key n ((s.modGroup key fun g => { g with held := g.held.erase it, unacked := g.unacked ++ [x] }).launch (gSlk g.desc) x)
        | none =>
          if it.dir == .down then
            pump key n (s.modGroup key fun g => { g with held := g.held.erase it, parked := g.parked ++ [it] })
          else s.killDown 4096 key

/-- What every group of a router can send now, sent. -/
def State.pumpRouter (s : State) (core : Nat) : State :=
  s.groups.foldl (fun s kg => if kg.1 / 64 == core && !kg.2.held.isEmpty then s.pump kg.1 kg.2.held.length else s) s

/-- A node sends an item and keeps it until it is acknowledged (R183). One down to a child that nothing leads to waits for the child's notice
(R184). One that may need a replay block waits behind what the group holds back: every item up or round a ring, and one down by a relay. -/
def State.emit (s : State) (key : Nat) (it : GItem) : State :=
  match tabGet key s.groups with
  | none => s
  | some g =>
    if it.dir = .down && it.via.isNone then
      match s.routed g.desc it with
      | some x => (s.modGroup key fun g => { g with unacked := g.unacked ++ [x] }).launch false x
      | none => s.modGroup key fun g => { g with parked := g.parked ++ [it] }
    else (s.modGroup key fun g => { g with held := g.held ++ [it] }).pump key (g.held.length + 1)

/-- The head and the blocks of a chunk, as they are sent. -/
def chunkBodies (bmap : Word) (ncon : Nat) (part : Bool) (rmask : Nat) (blocks : Tab (List Byte)) : List GBody :=
  .head bmap ncon part rmask :: blocks.map fun b => .block b.1 b.2

/-- Bodies sent to a node. -/
def State.sendTo (s : State) (key : Nat) (node : Word) (via : Option Word) (dir : GDir) (round chunk : Nat)
    (bodies : List GBody) : State :=
  match tabGet key s.groups with
  | none => s
  | some g => bodies.foldl (fun s b =>
      s.emit key ⟨node, g.job / 2 ^ 32, key % 64, s.nodeOf (key / 64), via, none, dir, round, chunk, b⟩) s

/-- Bodies sent down to every child. -/
def State.sendDown (s : State) (key round chunk : Nat) (bodies : List GBody) : State :=
  match tabGet key s.groups with
  | none => s
  | some g => (gChildren g.desc).foldl (fun s i =>
      s.sendTo key (gChild g.desc i) (tabGet i g.relays) .down round chunk bodies) s

/-! ## Combining (R181) -/

/-- Lane type of `EFMT`. -/
def efmtLane : Nat → LaneTy
  | 0 => .fp32
  | 1 => .bf16
  | 2 => .fp16
  | 3 => .fp64
  | 4 => .i32
  | _ => .i64

/-- The combining operation on two lanes. -/
def combineLane (opr : Nat) (lt : LaneTy) : Nat → Nat → Nat :=
  match opr with
  | 0 => laneAdd lt
  | 1 => laneMin lt
  | 2 => laneMax lt
  | 3 => fun x y => x &&& y
  | 4 => fun x y => x ||| y
  | _ => fun x y => x ^^^ y

/-- Two blocks combined lane by lane. -/
def combineBlock (opr : Nat) (lt : LaneTy) (a b : List Byte) : List Byte :=
  let k := lt.width / 8
  let n := 128 / k
  (List.zipWith (combineLane opr lt) (splitElems k n a) (splitElems k n b)).flatMap fun x => leBytes k x

/-- The present operands of one block folded left to right; a single one passes unchanged. -/
def foldBlock (opr : Nat) (lt : LaneTy) : List (List Byte) → Option (List Byte)
  | [] => none
  | b :: bs => some (bs.foldl (combineBlock opr lt) b)

/-- The operand of a round, chunk and slot. -/
def GSlot.operand (g : GSlot) (round chunk slot : Nat) : Option GOperand :=
  g.ops.find? fun o => o.round == round && o.chunk == chunk && o.slot == slot

/-- The operands a node combines, in order: its own (slot 8) first. -/
def expected (d : List Word) : List Nat := (if gSelf d then [8] else []) ++ gChildren d

/-- The operands of a chunk whose heads are here, in the order of the fold (R181). -/
def GSlot.operands (g : GSlot) (round chunk : Nat) : List GOperand := (expected g.desc).filterMap (g.operand round chunk)

/-- Whether a chunk has every expected head, or a timeout has flushed it (R181, R185). -/
def GSlot.headed (g : GSlot) (round chunk : Nat) : Bool :=
  g.flushed.contains (round, chunk) || (g.operands round chunk).length = (expected g.desc).length

/-- The operands of a chunk in which a block is present (R181). -/
def presentIn (k : Nat) (os : List GOperand) : List GOperand := os.filter fun o => wbit o.bmap k

/-- The combined block, once every operand in which it is present has brought it (R181). -/
def foldOperands (d : List Word) (k : Nat) (os : List GOperand) : Option (List Byte) :=
  if (presentIn k os).all fun o => (tabGet k o.blocks).isSome then
    foldBlock (gOpr d) (efmtLane (gEfmt d)) ((presentIn k os).filterMap fun o => tabGet k o.blocks)
  else none

/-- The combined head: bitmap, contributions and `PART` (R181). -/
def foldHeads (os : List GOperand) : Word × Nat × Bool :=
  (os.foldl (fun m o => m ||| o.bmap) 0, (os.map (·.ncon)).foldl (· + ·) 0, os.any (·.part))

/-- `RMASK` of a root's fold (R176). -/
def rmaskOf (os : List GOperand) : Nat :=
  (os.map fun o => if o.slot = 8 then 1 else 2 ^ (1 + o.slot)).foldl (· + ·) 0

/-- A head or block put into a result; one that is there already stays. -/
def GSlot.putResult (g : GSlot) (round chunk : Nat) (body : GBody) : GSlot :=
  match body with
  | .head bmap ncon part rmask =>
    if g.results.any fun x => x.round == round && x.chunk == chunk then g
    else { g with results := g.results ++ [⟨round, chunk, bmap, ncon, part, rmask, []⟩] }
  | .block k data =>
    { g with results := g.results.map fun x =>
        if x.round == round && x.chunk == chunk && (tabGet k x.blocks).isNone then
          { x with blocks := tabSet k data x.blocks } else x }

/-- What a node has combined goes up to its parent, or becomes the root's result, which an all-reduce sends down (R177, R181). -/
def State.output (s : State) (key round chunk : Nat) (body : GBody) : State :=
  match tabGet key s.groups with
  | none => s
  | some g =>
    if gRoot g.desc then
      let s := s.modGroup key fun g => g.putResult round chunk body
      if gKind g.desc = 0 then s.sendDown key round chunk [body] else s
    else s.sendTo key (gParent g.desc) none .up round chunk [body]

/-- The combined head of a chunk sent on, once. -/
def State.combineHead (s : State) (key round chunk : Nat) (g : GSlot) : State :=
  if g.done.contains (round, chunk) then s
  else
    let f := foldHeads (g.operands round chunk)
    let part := f.2.2 || g.flushed.contains (round, chunk)
    let rm := if gRoot g.desc then rmaskOf (g.operands round chunk) else 0
    (s.modGroup key fun g => { g with
      done := (round, chunk) :: g.done, timers := tabDel (round * 1024 + chunk) g.timers }).output key round chunk (.head f.1 f.2.1 part rm)

/-- A combined block of a chunk sent on, once. -/
def State.combineBlock (s : State) (key round chunk : Nat) (g : GSlot) (k : Nat) : State :=
  if g.outs.contains (round, chunk, k) then s
  else
    match foldOperands g.desc k (g.operands round chunk) with
    | none => s
    | some data =>
      (s.modGroup key fun g => { g with outs := (round, chunk, k) :: g.outs }).output key round chunk (.block k data)

/-- What can be combined of a chunk, combined and sent on: its head when every expected head is here, then each block whose operands are
all here. -/
def State.combine (s : State) (key round chunk : Nat) : State :=
  match tabGet key s.groups with
  | none => s
  | some g =>
    if g.dead || !g.headed round chunk then s
    else (List.range 64).foldl (fun s k => s.combineBlock key round chunk g k) (s.combineHead key round chunk g)

/-- The timer of a chunk started with its first head (R185). -/
def GSlot.startTimer (g : GSlot) (round chunk tick : Nat) : GSlot :=
  let k := round * 1024 + chunk
  if gToe g.desc = 0 || (tabGet k g.timers).isSome then g else { g with timers := tabSet k tick g.timers }

/-! ## The instructions -/

/-- Bytes of the images of a round. -/
def imageBytes (d : List Word) : Nat := 8320 * gChunks d

/-- The part of some segments that holds `n` bytes from `o` on. -/
def subSegs : List (Nat × Nat) → Nat → Nat → List (Nat × Nat)
  | [], _, _ => []
  | g :: gs, o, n =>
    if n = 0 then [] else if g.2 ≤ o then subSegs gs (o - g.2) n
    else (g.1 + o, min n (g.2 - o)) :: subSegs gs 0 (n - min n (g.2 - o))

/-- The present blocks of the image at `o`, read one after another. -/
def readBlocks (segs : List (Nat × Nat)) (o : Nat) (p : Word) : List Nat → M (Tab (List Byte))
  | [] => pure []
  | k :: ks => do
    let b ← loadSegs (subSegs segs (o + 128 + 128 * k) 128) p
    let bs ← readBlocks segs o p ks
    pure ((k, b) :: bs)

/-- Images read from memory, from the image at `o` on: only `BMAP` and the present blocks (R176). -/
def readImages (segs : List (Nat × Nat)) (p : Word) : Nat → Nat → M (List (Word × Tab (List Byte)))
  | 0, _ => pure []
  | n + 1, o => do
    let bmap := leWord (← loadSegs (subSegs segs o 8) p)
    let blocks ← readBlocks segs o p ((List.range 64).filter (wbit bmap))
    let xs ← readImages segs p n (o + 8320)
    pure ((bmap, blocks) :: xs)

/-- Whether an item carries a contribution of this node (R180). -/
def GSlot.mine (g : GSlot) (it : GItem) : Bool :=
  it.round < g.rnd && it.dir == (match gKind g.desc with
    | 2 => .down
    | 3 => .ring
    | _ => .up)

/-- A contribution is outstanding while part of it is held back or not acknowledged (R180). -/
def GSlot.settle (g : GSlot) : GSlot :=
  { g with sends := g.sends.filter fun x => (g.unacked ++ g.held ++ g.parked).any fun it => it.round == x.1 && g.mine it }

/-- The own operand of a chunk. After a flush it is discarded, and `LATE` is set (R180, R185). -/
def State.contributeOwn (s : State) (key round chunk : Nat) (bmap : Word) (blocks : Tab (List Byte)) : State :=
  match tabGet key s.groups with
  | none => s
  | some g =>
    if g.flushed.contains (round, chunk) then s.modGroup key fun g => { g with late := true }
    else (s.modGroup key fun g =>
      ({ g with ops := g.ops ++ [GOperand.mk round chunk 8 bmap 1 false blocks] } : GSlot).startTimer round chunk s.tick).combine
        key round chunk

/-- One chunk of a contribution. -/
def State.contributeChunk (s : State) (key kind round : Nat) (succ : Word) (x : Nat × Word × Tab (List Byte)) : State :=
  match kind with
  | 2 => s.sendDown key round x.1 (chunkBodies x.2.1 1 false 1 x.2.2)
  | 3 => s.sendTo key succ none .ring round x.1 (chunkBodies x.2.1 1 false 0 x.2.2)
  | _ => s.contributeOwn key round x.1 x.2.1 x.2.2

/-- A contribution at its grant (R178): one operand or send for each chunk. -/
def State.contribute (s : State) (key : Nat) (images : List (Word × Tab (List Byte))) : State :=
  match tabGet key s.groups with
  | none => s
  | some g =>
    let job := s.myJob
    let s := s.modGroup key fun g => { g with late := false, rnd := g.rnd + 1, sends := g.sends ++ [(g.rnd, job)] }
    let s := (images.mapIdx fun q x => (q, x)).foldl (fun s x => s.contributeChunk key (gKind g.desc) g.rnd (gRsucc g.desc) x) s
    s.modGroup key GSlot.settle

/-- The slot that a group instruction of a member uses: HANDLE with the number where it is not in use. -/
def memberM (n : BitVec 6) : M GSlot := do
  match ← getM fun s => s.mySlot n.toNat with
  | some g => if gSelf g.desc then pure g else trapM .handle (n.zeroExtend 64)
  | none => trapM .handle (n.zeroExtend 64)

/-- `GSEND` (R178, R315). Every image is read here, so no block holds a byte stored later; what a contribution before it still holds back counts as
not yet read (the model's choices, log entry 87). -/
def execGsend (la : BitVec 4) (b : Reg) (n : BitVec 6) (s : State) : Host.Outcome State Fault Refusal :=
  runWord (.gsend la b n) (do
    ownM
    let p ← readS b
    let g ← memberM n
    needM (!(gKind g.desc == 2 && !gRoot g.desc)) (.trap .handle (n.zeroExtend 64))
    needM (!(g.awaits && g.rnd != 0 && g.present.contains (g.rnd - 1))) (.trap .handle (0x100 + n.zeroExtend 64))
    needM (p.toNat % 128 == 0) (.trap .align p)
    let (_, pl) ← accessM p { rd := true, wr := false, n := imageBytes g.desc, align := 128, raw := true, spaces := [0, 1] }
    needM (!g.held.any g.mine || g.dead) .stall
    match pl with
    | .mem segs =>
      let xs ← readImages segs p (gChunks g.desc) 0
      modM fun s => s.contribute (s.cur.core * 64 + n.toNat) xs
    | .table _ | .capBlock _ | .outside _ _ _ _ => trapM .handle p) s

/-- The image of a result chunk (R176, R179): absent blocks are zeros. -/
def resultImage (x : GResult) : List Byte :=
  wordBytes 8 x.bmap ++ leBytes 8 (x.ncon % 2 ^ 32 + 2 ^ 32 * bitNat x.part + 2 ^ 40 * x.rmask) ++ List.replicate 112 0 ++
    (List.range 64).flatMap fun k => (tabGet k x.blocks).getD (List.replicate 128 0)

/-- The images of a round's result, chunks ascending. -/
def GSlot.images (g : GSlot) (r : Nat) : List Byte :=
  (List.range (gChunks g.desc)).flatMap fun q =>
    match g.results.find? fun x => x.round == r && x.chunk == q with
    | some x => resultImage x
    | none => []

/-- A slot whose round's result `GRECV` has taken. A broadcast's member has then reached the round after it (R177). -/
def GSlot.take (g : GSlot) (r : Nat) : GSlot :=
  { g with
    present := g.present.drop 1, taken := r :: g.taken
    rnd := if gKind g.desc = 2 && !gRoot g.desc then max g.rnd (r + 1) else g.rnd }

/-- The status word of a successful `GRECV` (R179): the slot after the result was taken, with `PART` of that result and bit 63. -/
def State.gstatTaken (s : State) (g : GSlot) (r : Nat) : Word :=
  let v := s.gstat (some (g.take r))
  BitVec.ofNat 64 (v.toNat - wbits v 9 1 * 2 ^ 9 + bitNat (g.roundPart r) * 2 ^ 9 + 2 ^ 63)

/-- `GRECV` (R179, R314). -/
def execGrecv (la : BitVec 4) (d b : Reg) (n : BitVec 6) (s : State) : Host.Outcome State Fault Refusal :=
  runWord (.grecv la d b n) (do
    ownM
    let p ← readS b
    let g ← memberM n
    needM (!g.dead) (.trap .peerdead (n.zeroExtend 64))
    needM (p.toNat % 128 == 0) (.trap .align p)
    let (_, pl) ← accessM p { rd := false, wr := true, n := imageBytes g.desc, align := 128, raw := true, spaces := [0, 1] }
    match g.oldest with
    | none => writeS d 0
    | some r =>
      match pl with
      | .mem segs => storeSegs segs (g.images r) p
      | .table _ | .capBlock _ | .outside _ _ _ _ => trapM .handle p
      modM fun s => s.modGroup (s.cur.core * 64 + n.toNat) (·.take r)
      let v ← getM (·.gstatTaken g r)
      writeS d v) s

/-- `GSTAT` (R180, R316). -/
def execGstat (la : BitVec 4) (d : Reg) (n : BitVec 6) (s : State) : Host.Outcome State Fault Refusal :=
  runWord (.gstat la d n) (do
    let v ← getM fun s => s.gstat (s.mySlot n.toNat)
    writeS d v) s

/-- `GCFG` (R174, R312): the descriptor is read now and staged for the next `VOTE`. -/
def execGcfg (la : BitVec 4) (b : Reg) (n : BitVec 6) (s : State) : Host.Outcome State Fault Refusal :=
  runWord (.gcfg la b n) (do
    legalM (← getM (·.me.task.isNone))
    let p ← readS b
    let bs ← loadM p { rd := true, wr := false, n := 128, align := 128, raw := true }
    let d := leWords 16 bs
    needM (groupGood d (← getM (·.who.det))) (.trap .illegal p)
    stagedM fun x => { x with gcfg := tabSet n.toNat d x.gcfg }) s

/-! ## What arrives at a node -/

/-- An acknowledgement sent to the node an item came from. -/
def State.ackItem (s : State) (it : GItem) : State :=
  if s.isHere it.src then { s with fab := { s.fab with acks := s.fab.acks ++ [it] } }
  else { s with fab := { s.fab with out := s.fab.out ++ [.ack it.src it] } }

/-- A LATE notice sent toward a node; with `deep`, for all its subtree (R175, R185). -/
def State.sendLate (s : State) (node : Word) (group asid : Nat) (deep : Bool) : State :=
  if s.isHere node then { s with fab := { s.fab with lates := s.fab.lates ++ [(nodeCore node, group, asid, deep)] } }
  else { s with fab := { s.fab with out := s.fab.out ++ [.late node group deep] } }

/-- The child slot an item came from: the one it names, if that lists its sender (R175), or the one that lists its sender. -/
def childSlot (d : List Word) (it : GItem) : Option Nat :=
  match it.slot with
  | some i => if (gChildren d).contains i && sameNode (gChild d i) it.src then some i else none
  | none => (gChildren d).find? fun i => sameNode (gChild d i) it.src

/-- A head or block added to an operand. -/
def GSlot.addUp (g : GSlot) (it : GItem) (slot : Nat) : GSlot :=
  match it.body with
  | .head bmap ncon part _ =>
    if (g.operand it.round it.chunk slot).isSome then g
    else { g with ops := g.ops ++ [⟨it.round, it.chunk, slot, bmap, ncon, part, []⟩] }
  | .block k data =>
    { g with ops := g.ops.map fun o =>
        if o.round == it.round && o.chunk == it.chunk && o.slot == slot && (tabGet k o.blocks).isNone then
          { o with blocks := tabSet k data o.blocks } else o }

/-- Whether a node already holds what an item brings to an operand. -/
def GSlot.knowsUp (g : GSlot) (it : GItem) (slot : Nat) : Bool :=
  match g.operand it.round it.chunk slot with
  | none => false
  | some o => match it.body with
    | .head _ _ _ _ => true
    | .block k _ => (tabGet k o.blocks).isSome

/-- Whether a node already holds what an item brings to a result. -/
def GSlot.knowsResult (g : GSlot) (it : GItem) : Bool :=
  match g.results.find? fun x => x.round == it.round && x.chunk == it.chunk with
  | none => false
  | some x => match it.body with
    | .head _ _ _ _ => true
    | .block k _ => (tabGet k x.blocks).isSome

/-- Whether every chunk of a round's result has arrived. -/
def GSlot.complete (g : GSlot) (r : Nat) : Bool :=
  (List.range (gChunks g.desc)).all fun q => g.results.any fun x =>
    x.round == r && x.chunk == q && (List.range 64).all fun k => !wbit x.bmap k || (tabGet k x.blocks).isSome

/-- The child slot that takes an item up, in a tree that combines (R175). -/
def GSlot.upSlot (g : GSlot) (it : GItem) : Option Nat := if gKind g.desc ≤ 1 then childSlot g.desc it else none

/-- Whether a node's entry lists the sender of an item (R175). A ring's entry names its successor only. -/
def GSlot.lists (g : GSlot) (it : GItem) : Bool :=
  match it.dir with
  | .up => (g.upSlot it).isSome
  | .down => !gRoot g.desc && sameNode (gParent g.desc) it.src && (gKind g.desc == 0 || gKind g.desc == 2)
  | .ring => gKind g.desc == 3

/-- A packet addressed to an address space has entered the package: none of its jobs is taken for hung yet (R38). -/
def State.notHung (s : State) (asid : Nat) : State := { s with hung := s.hung.filter fun j => j / 2 ^ 32 != asid }

/-- The slack of a round noted when its result has reached this device whole (R187). -/
def State.noteSlack (s : State) (g : GSlot) (it : GItem) : State :=
  let k := roundKey it.asid it.group it.round
  match tabGet k s.plant.sent with
  | some t =>
    if s.isHere it.src || !g.complete it.round then s
    else { s with plant := { s.plant with slacks := ((s.now - t) :: s.plant.slacks).take 8, sent := tabDel k s.plant.sent } }
  | none => s

/-- An item up from a child: kept and combined, known already, or discarded after a flush (R181, R184, R185). -/
def State.takeUp (s : State) (key slot : Nat) (g : GSlot) (it : GItem) : State :=
  let s := match it.via with
    | some r => s.modGroup key fun g => { g with relays := tabSet slot r g.relays }
    | none => s
  if g.knowsUp it slot then s.ackItem it
  else if g.flushed.contains (it.round, it.chunk) then
    (s.sendLate (gChild g.desc slot) it.group it.asid true).ackItem it
  else
    let s := s.modGroup key fun g => (g.addUp it slot).startTimer it.round it.chunk s.tick
    (s.ackItem it).combine key it.round it.chunk

/-- An item of a result: kept, and sent on down a tree (R177, R182). -/
def State.takeResult (s : State) (key : Nat) (g : GSlot) (it : GItem) : State :=
  if g.knowsResult it then s.ackItem it
  else
    let g' := g.putResult it.round it.chunk it.body
    let s := ((s.modGroup key fun _ => g').ackItem it).noteSlack g' it
    if it.dir = .down then s.sendDown key it.round it.chunk [it.body] else s

/-- An item at the node it is for. One whose sender the entry does not list is discarded (R175); a DEAD node acknowledges and drops what still
reaches it (the model's choice, log entry 97). -/
def State.takeItem (s : State) (it : GItem) : State :=
  let key := nodeCore it.node * 64 + it.group
  let stray := (s.sendLate it.src it.group it.asid (it.dir == .up)).ackItem it
  match s.slot (nodeCore it.node) it.group with
  | none => stray
  | some g =>
    if g.job / 2 ^ 32 != it.asid then stray
    else if g.dead then s.ackItem it
    else if !g.lists it then stray
    else
      match g.upSlot it, it.dir with
      | some i, .up => s.takeUp key i g it
      | _, _ => s.takeResult key g it

/-- Whether the group that an item or a notice is for stands saved with a span of its address space that is off, and no group in use here
lists the sender (R186). -/
def State.nodeOff (s : State) (key : Nat) (it : GItem) : Bool :=
  s.jobs.any (fun kj => kj.2.asid == it.asid && ((tabGet key kj.2.router).any fun g => g.lists it)) &&
    !(s.slot (key / 64) (key % 64)).any fun g => g.job / 2 ^ 32 == it.asid && g.lists it

/-- The blocks of children that a node holds and has not sent on: round, chunk, block. Its staging slot has room for one (R183). -/
def GSlot.staged (g : GSlot) : List (Nat × Nat × Nat) :=
  g.ops.flatMap fun o => if o.slot = 8 then [] else
    (o.blocks.map fun b => (o.round, o.chunk, b.1)).filter fun x => !g.outs.contains x

/-- How many blocks the staging slot must hold for block `k` of a chunk once child `i` has brought it: the fold of those that come first takes
one, with this node's own operand for none, and every other one that is here takes one more. -/
def GSlot.stagingNeed (g : GSlot) (round chunk k i : Nat) : Nat :=
  let here (o : GOperand) : Bool := o.slot == 8 || o.slot == i || (tabGet k o.blocks).isSome
  let inTurn := (expected g.desc).takeWhile fun e => match g.operand round chunk e with
    | some o => !wbit o.bmap k || here o
    | none => false
  let held := ((expected g.desc).filterMap (g.operand round chunk)).filter fun o => wbit o.bmap k && o.slot != 8 && here o
  bitNat (held.any fun o => inTurn.contains o.slot) + (held.filter fun o => !inTurn.contains o.slot).length

/-- The blocks of children that have come to a node and are not yet acknowledged. -/
def State.atDoor (s : State) (key : Nat) : List GItem :=
  s.fab.items.filter fun it => s.isHere it.node && nodeCore it.node * 64 + it.group == key && it.dir == .up && isBlock it

/-- Whether a block completes, with what the node holds and what has come to it, so that nothing of it need be staged. -/
def State.completes (s : State) (key : Nat) (g : GSlot) (round chunk k i : Nat) : Bool :=
  g.headed round chunk && !g.held.any isBlock &&
    (presentIn k (g.operands round chunk)).all fun o => o.slot == 8 || o.slot == i || (tabGet k o.blocks).isSome ||
      (s.atDoor key).any fun it => it.round == round && it.chunk == chunk && g.upSlot it == some o.slot && (match it.body with
        | .block n _ => n == k
        | .head _ _ _ _ => false)

/-- Whether a node takes block `k` of a chunk from child `i`: into its staging slot, which holds one block (R183), or because the block
completes (log entry 84). -/
def State.stages (s : State) (key : Nat) (g : GSlot) (round chunk i k : Nat) : Bool :=
  s.completes key g round chunk k i ||
    (g.staged.all (· == (round, chunk, k)) && g.stagingNeed round chunk k i ≤ 1 &&
      (!g.held.any isBlock || !(g.headed round chunk &&
        (presentIn k (g.operands round chunk)).all fun o => o.slot == 8 || o.slot == i || (tabGet k o.blocks).isSome)))

/-- Whether a block comes before the head of its chunk (R181), or before the staging slot of its group can take it (R183): it is not taken
yet. A chunk that a timeout flushed takes nothing more, and discards it. -/
def State.tooEarly (s : State) (it : GItem) : Bool :=
  let key := nodeCore it.node * 64 + it.group
  (s.slot (nodeCore it.node) it.group).any fun g =>
    g.job / 2 ^ 32 == it.asid && !g.dead && g.lists it && match it.body, g.upSlot it, it.dir with
      | .head _ _ _ _, _, _ => false
      | .block k _, some i, .up => !g.flushed.contains (it.round, it.chunk) && !g.knowsUp it i &&
          ((g.operand it.round it.chunk i).isNone || !s.stages key g it.round it.chunk i k)
      | .block _ _, _, _ => !(g.results.any fun x => x.round == it.round && x.chunk == it.chunk) ||
          (it.dir == .down && !g.knowsResult it && g.held.any fun x => isBlock x && x.dir == .down)

/-- Event `GROUP_ITEM_ARRIVE` (R181–R186): an item from this device must be on its way; one for another device is relayed; a node whose
span is off refuses it; and a block that the node cannot take yet waits there, not acknowledged. -/
def execGroupItemArrive (it : GItem) (s : State) : Host.Outcome State Fault Refusal :=
  let key := nodeCore it.node * 64 + it.group
  if s.isHere it.src && !s.fab.items.contains it then .next s
  else if !s.isHere it.node then
    if s.reaches it.node then
      .next { s with fab := { s.fab with items := s.fab.items.erase it, out := s.fab.out ++ [.item it] } }
    else .next s
  else if s.nodeOff key it then .next s
  else if s.tooEarly it then
    .next (if s.fab.items.contains it then s else { s with fab := { s.fab with items := s.fab.items ++ [it] } }.notHung it.asid)
  else .next (({ s with fab := { s.fab with items := s.fab.items.erase it } }.notHung it.asid).takeItem it)

/-- The next round whose result becomes present. -/
def GSlot.arriving (g : GSlot) : Option Nat :=
  (g.results.map (·.round)).find? fun r => !g.taken.contains r && !g.present.contains r && g.complete r

/-- Event `GROUP_RESULT_ARRIVE` (R179): a round's result becomes present, and source 2 is raised where an agent of the group's address space
has it enabled. -/
def execGroupResultArrive (core n : Nat) (s : State) : Host.Outcome State Fault Refusal :=
  match s.slot core n with
  | none => .next s
  | some g =>
    match g.arriving with
    | none => .next s
    | some r =>
      if !gSelf g.desc || g.dead then .next s
      else
        let s := s.modGroup (core * 64 + n) fun g => { g with present := setAdd r g.present }
        let a := s.agent ⟨core, .main⟩
        .next (if a.asid == g.job / 2 ^ 32 && a.ctx.uien[2] then s.modAgent ⟨core, .main⟩ (·.raise 2 0) else s)

/-- Whether a node of another device may have acknowledged an item: it has been sent there and its way still stands. -/
def State.farAcks (s : State) (it : GItem) : Bool := !s.isHere it.node && s.reaches (it.via.getD it.node)

/-- The nodes of other devices that may acknowledge something of a group. -/
def State.ackers (s : State) (g : GSlot) : List Word := ((g.unacked.filter s.farAcks).map (·.node)).eraseDups

/-- An acknowledged item is done with, and what its replay block was held back for goes out (R183). -/
def State.ackDone (s : State) (core n : Nat) (it : GItem) : State :=
  let key := core * 64 + n
  let s := { s with fab := { s.fab with acks := s.fab.acks.erase it } }
  ((s.modGroup key fun g => { g with unacked := g.unacked.erase it }).pumpRouter core).modGroup key GSlot.settle

/-- Event `GROUP_ACK` (R183): the oldest item whose acknowledgement is here is done with; with none here, the oldest of a node of another device.
The event names no node: of several which one it is is a free value (log entry 75). -/
def execGroupAck (core n : Nat) (s : State) : Host.Outcome State Fault Refusal :=
  match tabGet (core * 64 + n) s.groups with
  | none => .next s
  | some g =>
    match g.unacked.find? s.fab.acks.contains, s.ackers g with
    | some it, _ => .next (s.ackDone core n it)
    | none, xs =>
      let asid := g.job / 2 ^ 32
      let i := if xs.length ≤ 1 then 0 else (Config.freeWord asid (s.drawn asid)).toNat % xs.length
      let t := if xs.length ≤ 1 then s else s.draw asid 1
      match g.unacked.find? fun it => s.farAcks it && xs[i]? == some it.node with
      | some it => .next (t.ackDone core n it)
      | none => .next s

/-- The operands of a flushed chunk: of an operand whose head is here, the blocks that are not are absent (R185). -/
def GOperand.trim (o : GOperand) : GOperand :=
  { o with bmap := BitVec.ofNat 64 (((List.range 64).filter fun k => wbit o.bmap k && (tabGet k o.blocks).isSome).map (2 ^ ·)).sum }

/-- The chunk flushed: what arrives of it from now on is discarded (R185). -/
def GSlot.flush (g : GSlot) (round chunk : Nat) : GSlot :=
  { g with
    flushed := (round, chunk) :: g.flushed
    ops := g.ops.map fun o => if o.round == round && o.chunk == chunk then o.trim else o
    timers := tabDel (round * 1024 + chunk) g.timers }

/-- The blocks of a chunk that have come to a node before its flush, of children whose heads are here, are taken (R185). -/
def State.takeDoor (s : State) (key round chunk : Nat) : State :=
  (s.atDoor key).foldl (fun s it =>
    match (tabGet key s.groups).bind fun g => (g.upSlot it).map fun i => (g, i) with
    | some (g, i) =>
      if it.round == round && it.chunk == chunk && g.job / 2 ^ 32 == it.asid && (g.operand round chunk i).isSome then
        (({ s with fab := { s.fab with items := s.fab.items.erase it } }).modGroup key fun g => g.addUp it i).ackItem it
      else s
    | none => s) s

/-- Event `GROUP_TIMEOUT` (R185): the timer of chunk `q` of a round expires with an expected head missing. -/
def execGroupTimeout (core n q : Nat) (s : State) : Host.Outcome State Fault Refusal :=
  let key := core * 64 + n
  match s.slot core n with
  | none => .next s
  | some g =>
    let due := g.timers.find? fun t =>
      t.1 % 1024 == q && t.2 + 2 ^ (gToe g.desc + 9) ≤ s.tick &&
        (expected g.desc).any fun i => (g.operand (t.1 / 1024) q i).isNone
    match due with
    | none => .next s
    | some t =>
      .next (((s.takeDoor key (t.1 / 1024) q).modGroup key (·.flush (t.1 / 1024) q)).combine key (t.1 / 1024) q)

/-- Whether a group slot of an address space stands saved with a span that is off (R186). -/
def State.savedGroup (s : State) (core n asid : Nat) : Bool :=
  s.jobs.any fun kj => kj.2.asid == asid && (tabGet (core * 64 + n) kj.2.router).isSome

/-- A LATE notice at a node: `LATE` at a member, and on down its subtree (R185). -/
def State.takeLate (s : State) (core n asid : Nat) (deep : Bool) (g : GSlot) : State :=
  let s := s.modGroup (core * 64 + n) fun g => { g with late := g.late || gSelf g.desc }
  if deep then (gChildren g.desc).foldl (fun s i => s.sendLate (gChild g.desc i) n asid true) s else s

/-- Whom a LATE notice from another device can come from: the parent, whose notices are for the whole subtree, and a node that had something
down or round the ring from this one, whose notices are for it alone (R175, R185). -/
def State.latesFrom (s : State) (d : List Word) : Bool × Bool :=
  (gKind d ≤ 1 && !gRoot d && !s.isHere (gParent d),
    ((gKind d == 0 || gKind d == 2) && (gChildren d).any fun i => !s.isHere (gChild d i)) || (gKind d == 3 && !s.isHere (gRsucc d)))

/-- A LATE notice of another device taken at a group of this one. Where it can come from the parent and from a child, which of the two it is
is a free value (log entry 75). -/
def State.takeFarLate (s : State) (core n : Nat) (g : GSlot) : State :=
  let asid := g.job / 2 ^ 32
  match s.latesFrom g.desc with
  | (true, true) => (s.draw asid 1).takeLate core n asid (wbit (Config.freeWord asid (s.drawn asid)) 0) g
  | (true, false) => s.takeLate core n asid true g
  | (false, true) => s.takeLate core n asid false g
  | (false, false) => s

/-- Event `LATE_NOTICE_ARRIVE` (R185): a notice of this device that is on its way, else one of another device, at a group that spans more than
one. A notice for a group that stands saved with a span that is off waits (R186). -/
def execLateNoticeArrive (core n : Nat) (s : State) : Host.Outcome State Fault Refusal :=
  match s.fab.lates.find? fun x => x.1 == core && x.2.1 == n with
  | some x =>
    let asid := x.2.2.1
    let t := { s with fab := { s.fab with lates := s.fab.lates.erase x } }
    match s.slot core n with
    | some g =>
      if g.job / 2 ^ 32 == asid then .next (t.takeLate core n asid x.2.2.2 g)
      else if s.savedGroup core n asid then .next s else .next t
    | none => if s.savedGroup core n asid then .next s else .next t
  | none =>
    match s.slot core n with
    | some g => .next (s.takeFarLate core n g)
    | none => .next s

/-- Event `ROUTE_NOTICE_ARRIVE` (R184): later results go to the child through the relay it names, and what it has not
acknowledged is sent again that way, as replay blocks allow. -/
def execRouteNoticeArrive (core n slot : Nat) (relay : Word) (s : State) : Host.Outcome State Fault Refusal :=
  let key := core * 64 + n
  match s.slot core n with
  | none => .next s
  | some g =>
    if !(gChildren g.desc).contains slot then .next s
    else
      let child := gChild g.desc slot
      let its (it : GItem) : Bool := it.dir == .down && it.node == child
      let re (it : GItem) : GItem := if its it then { it with via := some relay } else it
      let s := s.modGroup key fun g => { g with
        relays := tabSet slot relay g.relays, unacked := g.unacked.filter fun it => !its it, parked := g.parked.filter fun it => !its it
        held := (g.unacked.filter its ++ g.parked.filter its ++ g.held).map re }
      .next (s.pump key (g.unacked.length + g.parked.length + g.held.length))

/-! ## Death of a link (R184) -/

/-- Whether a ring's node has its predecessor, on another device, beyond a dead link and without a relay: no chunk of it comes any more. A node of this
device that names it as its successor reaches it. -/
def State.ringCut (s : State) (key : Nat) (g : GSlot) : Bool :=
  let asid := g.job / 2 ^ 32
  let me := s.nodeOf (key / 64)
  let pred := Config.ringPred asid (key % 64) (wbits me 0 29) % 2 ^ 29
  !(s.groups.any fun kg => kg.1 % 64 == key % 64 && kg.2.job / 2 ^ 32 == asid && gKind kg.2.desc == 3 && sameNode (gRsucc kg.2.desc) me) &&
    !s.reaches (BitVec.ofNat 64 (pred + 2 ^ 31)) && !Config.relayed asid (key % 64) pred

/-- A group at the death of a link. Items up and round the ring that crossed it go again, in order, through the relay; a child whose parent lies
beyond it sends a route notice; and a group that can use no relay is DEAD at every node that cannot complete. -/
def State.groupDeath (s : State) (key : Nat) (g : GSlot) : State :=
  let lost (it : GItem) : Bool := it.dir != .down && !s.reaches (it.via.getD it.node)
  let relay := nodeValid (gAltp g.desc) && s.reaches (gAltp g.desc)
  let s := s.modGroup key fun g => { g with unacked := g.unacked.filter fun it => !lost it, held := g.unacked.filter lost ++ g.held }
  let s := s.pump key ((g.unacked.filter lost).length + g.held.length)
  let s :=
    if gKind g.desc = 3 then
      if (s.reaches (gRsucc g.desc) || relay) && !s.ringCut key g then s else s.killDown 4096 key
    else if gRoot g.desc || s.reaches (gParent g.desc) then s
    else if relay then
      { s with fab := { s.fab with out := s.fab.out ++ [.route (gParent g.desc) (key % 64) (s.nodeOf (key / 64)) (gAltp g.desc)] } }
    else s.killDown 4096 key
  let cut := (gChildren g.desc).any fun i =>
    let c := gChild g.desc i
    !s.reaches c && !Config.relayed (g.job / 2 ^ 32) (key % 64) (wbits c 0 29)
  if cut then s.killUp 4096 key else s

/-- The groups of some routers at links that have died. -/
def State.groupsDeath (s : State) (gs : Tab GSlot) : State :=
  gs.foldl (fun s kg => if gValid kg.2.desc then s.groupDeath kg.1 kg.2 else s) s

/-- Event `SLACK_WINDOW` (R187): once per 50 µs the slack offset follows the average of the last 8 slacks; a core held below its
divider by heat keeps it at 0. Of fewer than 8 the average is taken all the same, and with none nothing changes (the model's choice, log
entry 101). -/
def execSlackWindow (s : State) : Host.Outcome State Fault Refusal :=
  if s.now < s.plant.slackAt + 50000 then .next s
  else
    let xs := s.plant.slacks
    let sum := xs.foldl (· + ·) 0
    let off :=
      if s.pairs.any fun p => p.2.tthr != 0 then 0
      else if xs.isEmpty then s.plant.soff
      else if 2000 * xs.length < sum then min 3 (s.plant.soff + 1)
      else if sum < 500 * xs.length then s.plant.soff - 1
      else s.plant.soff
    .next { s with plant := { s.plant with soff := off, slackAt := s.now } }

end Sys2Proof.Machine
end

