-- ==== Sys2Proof/Machine/OrderedClass.lean ====
section
/-! DEFINITION. The ordered class (R121–R127, R205, R218, R347, R348): channel tables, sending and receiving, watermarks, delivery, and the
death of a Felril link (R126, R184). -/

namespace Sys2Proof.Machine

/-! ## Channel tables (R218) -/

/-- A channel as its entry in the channel table describes it: none where the entry registers nothing. -/
def State.readChannel (s : State) (entry : Nat) : Option Channel :=
  let ml := s.physNat entry 8 % 2 ^ 52
  let rt := s.physNat (entry + 8) 8 % 2 ^ 52
  if ml = 0 then none
  else
    some ⟨(List.range 8192).filter fun d => (s.physNat (ml + d / 8) 1).testBit (d % 8),
      ((List.range 8192).map fun d => (d, s.physNat (rt + 2 * d) 2)).filter fun x => x.2 != 0⟩

/-- The channels of an address space as its partition's tables stand, by ASID × 16 + number: what the device reads when `PV` is written
to 1. -/
def State.readChannels (s : State) (asid : Nat) : Tab Channel :=
  let t := (s.pdWord asid 6).toNat
  if t = 0 then [] else (List.range 16).filterMap fun c => (s.readChannel (t + 16 * c)).map fun ch => (asid * 16 + c, ch)

/-- A channel, where it is registered. -/
def State.channel (s : State) (asid c : Nat) : Option Channel :=
  if s.live asid && c < 16 then tabGet (asid * 16 + c) s.host.chans else none

/-- An output port. -/
def State.outPort (s : State) (p : Nat) : OutPort := (tabGet p s.ord.outp).getD {}

/-- An output port changed. -/
def State.modOut (s : State) (p : Nat) (f : OutPort → OutPort) : State :=
  { s with ord := { s.ord with outp := tabMod p {} f s.ord.outp } }

/-- An input port changed. -/
def State.modIn (s : State) (p : Nat) (f : InPort → InPort) : State :=
  { s with ord := { s.ord with inp := tabMod p {} f s.ord.inp } }

/-- Whether packets can be sent on a port: it has a link (R18), which lives. -/
def State.sends (s : State) (p : Nat) : Bool := s.linked p && !(s.outPort p).dead

/-- The next hop toward a device: `RPORT`, or `APORT` once that link has died; none where the needed valid bit is clear. A port without a
link counts as one that has died (log entry 33). -/
def State.hop (s : State) (ch : Channel) (d : Nat) : Option Nat :=
  let e := (tabGet d ch.routes).getD 0
  if !e.testBit 8 then none
  else if s.sends (e % 16) then some (e % 16)
  else if e.testBit 9 && s.sends (e / 16 % 16) then some (e / 16 % 16)
  else none

/-- Every registered channel of the device, with its address space and number. -/
def State.numbered (s : State) : List ((Nat × Nat) × Channel) :=
  (s.host.chans.filter fun kc => s.live (kc.1 / 16)).map fun kc => ((kc.1 / 16, kc.1 % 16), kc.2)

/-- Every registered channel of the device. -/
def State.channels (s : State) : List Channel := s.numbered.map (·.2)

/-- Whether the device injects onto a port: it is a member of a channel whose route to another member leaves there. -/
def State.injectsOn (s : State) (p : Nat) : Bool :=
  s.channels.any fun ch => ch.members.contains s.dev.devId &&
    ch.members.any fun d => d != s.dev.devId && s.hop ch d == some p

/-- Whether traffic of input port `q` is forwarded onto port `p`: a channel carries packets from the one to the other, and a
member lies beyond `p` (log entry 33). -/
def State.feeds (s : State) (q p : Nat) : Bool :=
  q != p && s.numbered.any fun nc => Config.carries nc.1.1 nc.1.2 q p &&
    nc.2.members.any fun d => d != s.dev.devId && s.hop nc.2 d == some p

/-! ## Keys, bounds and watermarks (R122, R123) -/

/-- Whether the key of a packet comes before another's; copies of one packet by their member. -/
def keyBefore (a b : OPacket) : Bool :=
  if a.stamp != b.stamp then a.stamp < b.stamp
  else if a.src != b.src then a.src < b.src
  else if a.seq != b.seq then a.seq < b.seq
  else a.dst ≤ b.dst

/-- The input ports that stand in the minima: those with a link that have not been removed (R18, R124, R126). -/
def State.inPorts (s : State) : List (Nat × InPort) :=
  ((List.range 16).filter s.linked).filterMap fun p =>
    let x := (tabGet p s.ord.inp).getD {}
    if x.removed then none else some (p, x)

/-- The least watermark of the inputs that feed an output, where there is one. -/
def State.fedBound (s : State) (p : Nat) : Option Nat :=
  (s.inPorts.filter fun q => s.feeds q.1 p).foldl (fun m q => match m with
    | none => some q.2.wm
    | some b => some (min b q.2.wm)) none

/-- What the device's own packets put into the bound of a link it injects onto: `PODT`, or the stamp of an own packet that was discarded, which
stalls the watermarks behind it (R123, R218; log entry 33). -/
def State.ownBound (s : State) : Nat :=
  match s.ord.lost with
  | some x => min s.podt x
  | none => s.podt

/-- The bound of a link (R123). One with nothing in its minimum carries `PODT`, the model's choice (log entry 33). -/
def State.bound (s : State) (p : Nat) : Nat :=
  let own := if s.injectsOn p then [s.ownBound] else []
  let fed := match s.fedBound p with
    | some b => [b]
    | none => []
  match own ++ (s.outPort p).queue.map (·.stamp) ++ fed with
  | [] => s.podt
  | b :: bs => bs.foldl min b

/-- Whether a packet may be sent on a link now: the link has credit (R125), the packet's stamp lies below the watermarks that feed it, and no
packet of the device's own can still come before it. -/
def State.maySend (s : State) (p : Nat) (x : OPacket) : Bool :=
  Config.credit p s.now && (match s.fedBound p with
    | some b => x.stamp < b
    | none => true) && (x.src == s.dev.devId || !s.injectsOn p || x.stamp < s.ownBound)

/-- An ordered packet sent on a port, which holds it until it is acknowledged (R126). -/
def State.sendOn (s : State) (p : Nat) (x : OPacket) : State :=
  let t : State := s.modOut p fun o => { o with unacked := o.unacked ++ [x], sentAt := s.now }
  { t with fab := { t.fab with out := t.fab.out ++ [.packet p x] } }

/-- The eligible packets of a queue, in key order, sent. -/
def State.sendOrdered (s : State) (p : Nat) : List OPacket → State
  | [] => s
  | x :: xs =>
    if s.maySend p x then
      ((s.modOut p fun o => { o with queue := o.queue.erase x }).sendOn p x).sendOrdered p xs
    else s

/-- Every output queue looked at. -/
def State.flushPorts (s : State) : State :=
  s.ord.outp.foldl (fun s po =>
    if po.2.dead then s else s.sendOrdered po.1 (po.2.queue.mergeSort keyBefore)) s

/-- A packet is discarded (R218): the watermark of the port it came from stalls, or the bound of the device's own packets. -/
def State.discard (s : State) (from_ : Option Nat) (x : OPacket) : State :=
  match from_ with
  | some p => s.modIn p fun i => { i with stuck := true }
  | none => { s with ord := { s.ord with lost := some (match s.ord.lost with
      | some y => min y x.stamp
      | none => x.stamp) } }

/-- A packet toward its member, from an input port or of the device's own: kept for local delivery, queued for its next hop, or
discarded (R218). -/
def State.forward (s : State) (from_ : Option Nat) (x : OPacket) : State :=
  match s.channel x.asid x.chan with
  | none => s.discard from_ x
  | some ch =>
    if x.dst = s.dev.devId then { s with ord := { s.ord with local_ := s.ord.local_ ++ [x] } }
    else
      match s.hop ch x.dst with
      | some p => s.modOut p fun o => { o with queue := o.queue ++ [x] }
      | none => s.discard from_ x

/-! ## `OSEND` and `ORECV` -/

/-- The channel of the current agent's address space of which this device is a member; HANDLE otherwise (R121). -/
def channelM (c : BitVec 4) : M Channel := do
  match ← getM fun s => s.channel s.me.asid c.toNat with
  | none => trapM .handle (c.zeroExtend 64)
  | some ch =>
    needM (← getM fun s => ch.members.contains s.dev.devId) (.trap .handle (c.zeroExtend 64))
    pure ch

/-- `OSEND` (R348): a release at system scope; the packet waits for its covered set. -/
def execOsend (la : BitVec 4) (b : Reg) (c : BitVec 4) (s : State) : Host.Outcome State Fault Refusal :=
  runWord (.osend la b c) (do
    ownM
    let v ← readS b
    let _ ← channelM c
    releaseM true
    modM fun s =>
      let x : OPacket := ⟨s.me.asid, c.toNat, 0, 0, s.dev.devId, 0, v, none⟩
      { s with ord := { s.ord with inject := s.ord.inject ++ [⟨x, s.covered s.cur⟩] } }) s

/-- `ORECV` (R347). -/
def execOrecv (la : BitVec 4) (d : Reg) (key : Bool) (c : BitVec 4) (s : State) : Host.Outcome State Fault Refusal :=
  runWord (.orecv la d key c) (do
    legalM (!(← getM (·.me.ctx.inHandler)))
    ownM
    let _ ← channelM c
    match ← getM fun s => tabGet s.me.asid s.ord.halted with
    | some w => trapM .watermark (BitVec.ofNat 64 w)
    | none => pure ()
    let k ← getM fun s => s.me.asid * 16 + c.toNat
    match ← getM fun s => (tabGet k s.ord.queues).getD [] with
    | [] => restM .orecv (do
      writeS d 0
      if key then
        writeS (d + 1) 0
        writeS (d + 2) 0
        writeS (d + 3) 0)
    | x :: xs =>
      modM fun s => { s with ord := { s.ord with queues := tabSet k xs s.ord.queues } }
      writeS d x.payload
      if key then
        writeS (d + 1) (BitVec.ofNat 64 x.stamp)
        writeS (d + 2) (BitVec.ofNat 64 x.seq)
        writeS (d + 3) (BitVec.ofNat 64 (x.src % 2 ^ 13))) s

/-! ## Injection, arrival and beacons -/

/-- Whether outside writes are performed. -/
def State.performed (s : State) (cov : List Nat) : Bool := cov.all fun i => s.fab.exts.all fun x => x.id != i

/-- A packet injected (R122): stamped, numbered, and sent toward every member. -/
def State.inject (s : State) (x : OPacket) : State :=
  let stamp := max s.podt s.ord.prevStamp
  let seq := (s.ord.prevSeq + 1) % 2 ^ 64
  let s := { s with ord := { s.ord with prevStamp := stamp, prevSeq := seq } }
  match s.channel x.asid x.chan with
  | none => s
  | some ch => (ch.members.foldl (fun s d => s.forward none { x with dst := d, stamp := stamp, seq := seq }) s).flushPorts

/-- Event `ORDERED_INJECT` (R122): the oldest packet whose covered set has been performed. -/
def execOrderedInject (s : State) : Host.Outcome State Fault Refusal :=
  match s.ord.inject.find? fun x => s.performed x.cov with
  | none => .next s
  | some x => .next (({ s with ord := { s.ord with inject := s.ord.inject.erase x } }).inject x.packet)

/-- A packet received from a port, and sent on toward its member. -/
def State.takePacket (s : State) (port : Nat) (x : OPacket) : State :=
  let y := { x with tag := none }
  let s := { s with ord := { s.ord with seen := y :: s.ord.seen } }
  (s.notHung x.asid).forward (some port) y

/-- The watermark of a port raised to a bound. -/
def InPort.raise (i : InPort) (b now : Nat) : InPort := if i.stuck || b ≤ i.wm then i else { i with wm := b, advAt := now }

/-- The watermark of an input port raised to a bound. -/
def State.advance (s : State) (p b : Nat) : State := s.modIn p fun i => i.raise b s.now

/-- Key of the tag of a dead link: the receiving device and its port. -/
def tagKey (tag : Nat × Nat) : Nat := tag.1 * 16 + tag.2

/-- The port on which the close beacon with a tag leaves: the one toward which the last packet with that tag goes, by its channel; where no such
packet was sent on from here, or its channel has no hop left, by the first channel that has one (log entry 33). -/
def State.closeHop (s : State) (tag : Nat × Nat) : Option Nat :=
  let last := (tabGet (tagKey tag) s.ord.via).bind fun c => (s.channel (c / 16) (c % 16)).bind fun ch => s.hop ch tag.1
  last.or (s.channels.findSome? fun ch => s.hop ch tag.1)

/-- A tagged packet on its way to the receiving end `tag` of a dead link (R126): sent to the next hop of its channel, or discarded, after
which the close beacon with that tag goes no further either and so the watermark at the receiving end stalls (R218). -/
def State.sendTagged (s : State) (from_ : Option Nat) (x : OPacket) (tag : Nat × Nat) : State :=
  match (s.channel x.asid x.chan).bind fun ch => s.hop ch tag.1 with
  | some p =>
    let t := s.sendOn p { x with tag := some tag }
    { t with ord := { t.ord with via := tabSet (tagKey tag) (x.asid * 16 + x.chan) t.ord.via } }
  | none =>
    let t := s.discard from_ x
    { t with ord := { t.ord with cut := tag :: t.ord.cut.erase tag } }

/-- The close beacon with a tag, sent after the packets with that tag unless a packet with that tag was discarded here (R126, R218). -/
def State.sendClose (s : State) (tag : Nat × Nat) : State :=
  if s.ord.cut.contains tag then s
  else match s.closeHop tag with
  | some p =>
    let t := s.modOut p fun o => { o with closes := o.closes ++ [tag] }
    { t with fab := { t.fab with out := t.fab.out ++ [.closeBeacon p tag] } }
  | none => s

/-- A tagged packet (R126): passed on at once toward its receiving end; there taken as from the dead port, unless it is known. -/
def State.takeTagged (s : State) (port : Nat) (x : OPacket) (tag : Nat × Nat) : State :=
  if tag.1 != s.dev.devId then s.sendTagged (some port) x tag
  else if ((tabGet tag.2 s.ord.inp).getD {}).removed || s.ord.seen.contains { x with tag := none } then s
  else s.takePacket tag.2 x

/-- Event `ORDERED_PACKET_ARRIVE` (R123, R126, R205). -/
def execOrderedPacketArrive (port : Nat) (a : OArrival) (s : State) : Host.Outcome State Fault Refusal :=
  let i := (tabGet port s.ord.inp).getD {}
  match a with
  | .packet x =>
    match x.tag with
    | some t => if !s.linked port then .next s else .next (s.takeTagged port x t).flushPorts
    | none =>
      if !s.linked port || i.frozen || i.removed then .next s
      else .next ((s.advance port x.stamp).takePacket port x).flushPorts
  | .beacon b => if !s.linked port || i.frozen || i.removed then .next s else .next (s.advance port b).flushPorts

/-- Event `ORDERED_BEACON` (R123): what has credit now is sent; a link without an ordered packet for 256 ns sends a beacon. -/
def execOrderedBeacon (port : Nat) (s : State) : Host.Outcome State Fault Refusal :=
  let t := s.flushPorts
  if !t.sends port || t.now < (t.outPort port).sentAt + 256 then .next t
  else .next { t.modOut port fun o => { o with sentAt := t.now } with
    fab := { t.fab with out := t.fab.out ++ [.beacon port (t.bound port)] } }

/-! ## Delivery (R124, R125, R127) -/

/-- The delivery watermark (R124): the least watermark of the live input ports and the device's own injection bound. -/
def State.deliveryMark (s : State) : Nat :=
  s.inPorts.foldl (fun m q => min m q.2.wm) s.podt

/-- Key of a delivery queue. -/
def queueKey (x : OPacket) : Nat := x.asid * 16 + x.chan

/-- Local packets in key order: those of the address space are delivered until one of any address space meets a full queue, which holds back
every later packet (R125). A halted address space takes none (R127). -/
def State.deliver (s : State) (asid mark : Nat) : List OPacket → State
  | [] => s
  | x :: xs =>
    if mark ≤ x.stamp then s
    else
      let k := queueKey x
      let q := (tabGet k s.ord.queues).getD []
      if 64 ≤ q.length then
        { s with ord := { s.ord with fullAt := tabSet k ((tabGet k s.ord.fullAt).getD s.now) s.ord.fullAt } }
      else if x.asid != asid || (tabGet asid s.ord.halted).isSome then s.deliver asid mark xs
      else
        ({ s with ord := { s.ord with
          local_ := s.ord.local_.erase x, queues := tabSet k (q ++ [x]) s.ord.queues
          fullAt := tabDel k s.ord.fullAt } }).deliver asid mark xs

/-- Event `ORDERED_DELIVER`. -/
def execOrderedDeliver (asid : Nat) (s : State) : Host.Outcome State Fault Refusal :=
  .next (s.deliver asid s.deliveryMark (s.ord.local_.mergeSort keyBefore))

/-- Event `CLOSE_BEACON_ARRIVE` (R126): at the receiving end the dead port leaves the minima, unless a packet of that port was discarded, since
the watermark then stalls (R218); elsewhere the beacon is passed on. -/
def execCloseBeaconArrive (dev port : Nat) (s : State) : Host.Outcome State Fault Refusal :=
  if dev != s.dev.devId then .next (s.sendClose (dev, port))
  else if ((tabGet port s.ord.inp).getD {}).frozen && !((tabGet port s.ord.inp).getD {}).stuck then
    .next (s.modIn port fun i => { i with removed := true }).flushPorts
  else .next s

/-- The stall limit of an address space in ns (R127, R217). -/
def State.stallLimit (s : State) (asid : Nat) : Nat :=
  let v := wbits (s.pdWord asid 7) 0 32
  1000 * (if v = 0 then 64 else min v 1000000)

/-- The watermark that has stalled for the limit: that of the lowest-numbered port where several have (the model's choice, log entry 33), or the
stamp that a full queue holds back (R127). -/
def State.stalledMark (s : State) (asid : Nat) : Option Nat :=
  let lim := s.stallLimit asid
  match s.inPorts.find? fun q => q.2.advAt + lim ≤ s.now with
  | some q => some q.2.wm
  | none =>
    match s.ord.fullAt.find? fun f => f.1 / 16 == asid && f.2 + lim ≤ s.now &&
        64 ≤ ((tabGet f.1 s.ord.queues).getD []).length with
    | none => none
    | some f => ((s.ord.local_.filter fun x => queueKey x == f.1).mergeSort keyBefore).head?.map (·.stamp)

/-- A sleeper in `ORECV` left with WATERMARK. -/
def Agent.watermark (g : Agent) (v : Word) : Agent :=
  match g.act with
  | .asleep .orecv _ => { g with act := .running, mark := .trap .watermark v }
  | .asleep _ _ | .idle | .running | .stopped | .retired => g

/-- Event `WATERMARK_STALL` (R127): delivery halts for the address space, and its agents asleep in `ORECV` take WATERMARK. -/
def execWatermarkStall (asid : Nat) (s : State) : Host.Outcome State Fault Refusal :=
  if !s.live asid || (tabGet asid s.ord.halted).isSome then .next s
  else
    match s.stalledMark asid with
    | none => .next s
    | some w =>
      let s := { s with ord := { s.ord with halted := tabSet asid w s.ord.halted } }
      .next ((s.agents.filter fun ag => ag.2.asid == asid).foldl (fun s ag =>
        s.modAgent ag.1 (·.watermark (BitVec.ofNat 64 w))) s)

/-! ## Death of a link (R126, R184) -/

/-- The ordered packets of a dead port sent again by another route, in key order, and the close beacon after them. A packet that was resent for
another dead link already keeps its tag, and the close beacons of such links that left by the dead port follow again (log entry 33). -/
def State.resendOrdered (s : State) (port : Nat) (xs : List OPacket) (closes : List (Nat × Nat)) : State :=
  let tag := Config.farEnd port
  let s := (xs.mergeSort keyBefore).foldl (fun s x => s.sendTagged none { x with tag := none } (x.tag.getD tag)) s
  (closes ++ [tag]).foldl (fun s t => s.sendClose t) s

/-- The ordered class at the death of a link: the input's watermark frozen, what was sent and not acknowledged resent, and what
was queued moved to its other route. How much the neighbour had acknowledged is a free value (log entry 33). -/
def State.orderedDeath (s : State) (port : Nat) : State :=
  let o := s.outPort port
  let s := s.modIn port fun i => { i with frozen := true }
  let s := s.modOut port fun o => { o with dead := true, queue := [], unacked := [], closes := [] }
  let left := o.unacked.drop (Config.acked port o.unacked.length)
  ((o.queue.foldl (fun s x => s.forward none x) s).resendOrdered port left o.closes).flushPorts

/-- Event `FELRIL_LINK_DEATH` (R126, R184). -/
def execFelrilLinkDeath (port : Nat) (s : State) : Host.Outcome State Fault Refusal :=
  if !s.linked port || s.fab.deadPorts.contains port then .next s
  else
    let s := { s with fab := { s.fab with deadPorts := setAdd port s.fab.deadPorts } }
    let s := s.orderedDeath port
    .next (s.groupsDeath s.groups)

end Sys2Proof.Machine
end

