-- ==== Sys2Proof/Machine/Pipelines.lean ====
section
/-! DEFINITION. Stage pipelines: descriptors, the four instructions, Speedwell routing, deferred effects and the pipeline scheduler
(R148–R155, R218, R335, R349–R351, R354). -/

namespace Sys2Proof.Machine

/-! ## Descriptors (R148) -/

/-- `NSTG`. -/
def pStages (d : List Word) : Nat := wbits (wordAt d 0) 0 5
/-- Bytes of a record. -/
def pRecord (d : List Word) : Nat := 64 * (wbits (wordAt d 0) 8 4 + 1)
/-- Slots of the record pool. -/
def pSlots (d : List Word) : Nat := 2 ^ (wbits (wordAt d 0) 12 4 + 4)
/-- `SEED`. -/
def pSeed (d : List Word) : Nat := wbits (wordAt d 0) 16 16
/-- Words of the log ring. -/
def pRing (d : List Word) : Nat := 2 ^ (wbits (wordAt d 0) 32 4 + 4)
/-- `POOL`. -/
def pPool (d : List Word) : Word := wordAt d 1
/-- `LOGP`. -/
def pLog (d : List Word) : Word := wordAt d 2
/-- The descriptor word of a stage. -/
def pStage (d : List Word) (i : Nat) : Word := wordAt d (8 + 2 * i)
/-- Queue capacity of a stage. -/
def pCap (d : List Word) (i : Nat) : Nat := 2 ^ (wbits (pStage d i) 0 4 + 2)
/-- `CSET` of a stage. -/
def pSet (d : List Word) (i : Nat) : Nat := wbits (pStage d i) 4 4
/-- `MINC` of a stage. -/
def pMin (d : List Word) (i : Nat) : Nat := wbits (pStage d i) 8 8
/-- `MAXC` of a stage. -/
def pMax (d : List Word) (i : Nat) : Nat := wbits (pStage d i) 16 8
/-- The stages of a commuting set, ascending. -/
def pMembers (d : List Word) (c : Nat) : List Nat := (List.range (pStages d)).filter fun i => pSet d i == c

/-- Whether numbers are consecutive. -/
def consecutive : List Nat → Bool
  | a :: b :: m => b == a + 1 && consecutive (b :: m)
  | [_] => true
  | [] => true

/-- A descriptor that breaks no rule of R148; `space` is the space of the pool's handle. -/
def pipeGood (d : List Word) (space : Nat) : Bool :=
  1 ≤ pStages d && pStages d ≤ 16 && (pPool d).toNat % 64 == 0 && space == 0 &&
    ((List.range (pStages d)).all fun i => 1 ≤ pMin d i && pMin d i ≤ pMax d i) &&
    (List.range 15).all fun c => consecutive (pMembers d (c + 1)) && (pMembers d (c + 1)).length ≤ 8

/-! ## The pipeline at work -/

/-- Key of a pipeline. -/
def pipeKey (asid p : Nat) : Nat := asid * 16 + p

/-- A pipeline of the current agent's address space. -/
def State.pipe (s : State) (key : Nat) : Pipe := (tabGet key s.pipes).getD {}

/-- A pipeline changed, where it is at work. -/
def State.modPipe (s : State) (key : Nat) (f : Pipe → Pipe) : State :=
  match tabGet key s.pipes with
  | some x => { s with pipes := tabSet key (f x) s.pipes }
  | none => s

/-- `MINC` cores for each stage in turn: the assignment and the cores left (R154). -/
def assignMin (d : List Word) : Nat → Nat → List Nat → Tab Nat × List Nat
  | _, 0, cores => ([], cores)
  | i, n + 1, cores =>
    let rest := assignMin d (i + 1) n (cores.drop (pMin d i))
    ((cores.take (pMin d i)).foldl (fun m c => tabSet c i m) rest.1, rest.2)

/-- Cores assigned to a stage. -/
def coresAt (a : Tab Nat) (i : Nat) : Nat := (a.filter fun x => x.2 == i).length

/-- The next stage in turn, from `i` on, that may have another core. -/
def nextOpen (d : List Word) (a : Tab Nat) (i : Nat) : Option Nat :=
  let n := pStages d
  ((List.range n).map fun k => (i + k) % n).find? fun j => coresAt a j < pMax d j

/-- The cores left shared out one at a time (R154). -/
def shareOut (d : List Word) : Nat → List Nat → Tab Nat → Tab Nat
  | _, [], a => a
  | i, c :: cs, a =>
    match nextOpen d a i with
    | none => a
    | some j => shareOut d (j + 1) cs (tabSet c j a)

/-- The initial assignment of cores to stages (R154). -/
def initialAssign (d : List Word) (cores : List Nat) : Tab Nat :=
  let x := assignMin d 0 (pStages d) cores
  shareOut d 0 x.2 x.1

/-- The pipeline with the descriptor just read; its first naming starts it for the issuer's job (log entry 23). -/
def State.namePipe (s : State) (key : Nat) (d : List Word) : State :=
  match tabGet key s.pipes with
  | some x => { s with pipes := tabSet key { x with desc := d } s.pipes }
  | none =>
    let x : Pipe := { desc := d, job := s.myJob, assign := initialAssign d (s.job s.myJob).cores, movedAt := s.now }
    { s with pipes := tabSet key x s.pipes }

/-- The descriptor of pipeline `p` read (R218, R335). -/
def pipeDescM (p : BitVec 4) : M (List Word) := do
  let asid ← getM (·.me.asid)
  let t ← getM fun s => (s.pdWord asid 5).toNat
  let q ← getM fun s => BitVec.ofNat 64 (s.physNat (t + 8 * p.toNat) 8)
  needM (t != 0 && q != 0) (.trap .handle (p.zeroExtend 64))
  let a : Acc := { rd := true, wr := false, n := 64, align := 1, raw := true, spaces := [0] }
  let head ← loadM q a
  let n := pStages (leWords 8 head)
  legalM (1 ≤ n && n ≤ 16)
  let rest ← loadM (ptrAdd q 64) { a with n := 16 * n }
  let d := leWords (8 + 2 * n) (head ++ rest)
  legalM (pipeGood d (← getM fun s => hSpace (s.handle asid (handleOf (pPool d)))))
  pure d

/-- Pipeline `p` named by an instruction that uses it: its key, with the descriptor read. -/
def pipeM (p : BitVec 4) : M Nat := do
  let d ← pipeDescM p
  let key := pipeKey (← getM (·.me.asid)) p.toNat
  modM fun s => s.namePipe key d
  pure key

/-- Records in the queue of a stage. -/
def Pipe.depth (x : Pipe) (i : Nat) : Nat := (x.recs.filter fun r => r.at_ == .queue i).length

/-- Whether a stage's queue has room. -/
def Pipe.room (x : Pipe) (i : Nat) : Bool := x.depth i < pCap x.desc i

/-- A record changed. -/
def Pipe.modRec (x : Pipe) (slot : Nat) (f : PRec → PRec) : Pipe :=
  { x with recs := x.recs.map fun r => if r.slot = slot then f r else r }

/-- The pointer of a pool slot. -/
def Pipe.slotPtr (x : Pipe) (slot : Nat) : Word := ptrAdd (pPool x.desc) (slot * pRecord x.desc)

/-- Who writes a record's header and performs its effects: its pipeline's job, as the core of its latest `PENQ` or `PDONE` (log entry 23). -/
def State.whoPipe (s : State) (key : Nat) (r : PRec) : Who := s.whoOf (key / 16) (s.pipe key).job ⟨r.core, .main⟩

/-- `DONE`, `DROP` and `STG` of a record's header (R149). -/
def PRec.headBytes (r : PRec) : List Byte := leBytes 2 (r.mask % 256 + 2 ^ 8 * bitNat r.drop + 2 ^ 9 * (r.stage % 16))

/-- `DONE`, `DROP` and `STG` of a record's header written; the rest of the word stays. One that fails a check is skipped (log entry 23). -/
def stamp (key : Nat) (r : PRec) : D Unit := do
  let w ← devGet (·.whoPipe key r)
  let p ← devGet fun s => ptrAdd ((s.pipe key).slotPtr r.slot) 8
  let _ ← devTry (writeAt w false p { rd := false, wr := true, n := 2, align := 2, gen := false, cap := false } r.headBytes)

/-- The header of the record in a pool slot written. -/
def stampSlot (key slot : Nat) : D Unit := do
  match ← devGet fun s => (s.pipe key).recs.find? fun r => r.slot == slot with
  | some r => stamp key r
  | none => pure ()

/-- A record put into a stage's queue. -/
def Pipe.toQueue (x : Pipe) (slot stage : Nat) : Pipe :=
  { x.modRec slot fun r => { r with at_ := .queue stage, stage := stage, arr := x.arr } with arr := x.arr + 1 }

/-- A record at stage `i`, by a core: at its cluster's router when the stage opens a commuting set, else in its queue (R150, R151). -/
def Pipe.toStage (x : Pipe) (slot i core : Nat) : Pipe :=
  let y := x.modRec slot fun r => { r with mask := 0, stage := i, core := core }
  if pSet x.desc i = 0 then y.toQueue slot i
  else { y.modRec slot fun r => { r with at_ := .router (clusterOf core), arr := x.arr } with arr := x.arr + 1 }

/-- A record comes to stage `i`. -/
def comeTo (key slot i core : Nat) : D Unit := do
  devMod fun s => s.modPipe key fun x => x.toStage slot i core
  stampSlot key slot

/-- Whether a record may come to stage `i` now. -/
def Pipe.admits (x : Pipe) (i : Nat) : Bool := pSet x.desc i != 0 || x.room i

/-! ## `PENQ` (R150, R351) -/

/-- The lowest free pool slot. -/
def Pipe.freeSlot (x : Pipe) : Option Nat := (List.range (pSlots x.desc)).find? fun i => !x.recs.any fun r => r.slot == i

/-- The current agent as the one that enqueues: a task is its record, on whatever core it runs. -/
def State.doer (s : State) : Option Word × AgentId :=
  match s.me.task with
  | some p => (some p, ⟨0, .main⟩)
  | none => (none, s.cur)

/-- ILLEGAL in a deterministic job for a second agent that enqueues (R351). -/
def soleM (key : Nat) : M Unit := do
  if ← getM (·.who.det) then
    let me ← getM (·.doer)
    match (← getM fun s => (s.pipe key).owner) with
    | some a => legalM (a == me)
    | none => modM fun s => s.modPipe key fun x => { x with owner := some me }
  else pure ()

/-- What `PENQ` keeps of word +0x08 of an image: `NDEF` and the kinds; reserved bits read 0 (R2, R149). -/
def keptBits (v : Word) : Nat := wbits v 16 2 * 2 ^ 16 + wbits v 24 6 * 2 ^ 24

/-- `PENQ` (R351). The write of the slot is checked as a store of the issuing agent (R150; the model's choice, log entry 92). -/
def execPenq (la : BitVec 4) (d b : Reg) (p : BitVec 4) (s : State) : Host.Outcome State Fault Refusal :=
  runWord (.penq la d b p) (do
    ownM
    let q ← readS b
    let key ← pipeM p
    let x ← getM fun s => s.pipe key
    let n := pRecord x.desc
    let image : Acc := { rd := true, wr := false, n := n, align := 64 }
    let _ ← accessM q image
    soleM key
    match x.freeSlot with
    | none => writeS d 0
    | some slot =>
      if !x.admits 0 then restM (.penq p.toNat) (writeS d 0)
      else
        let bs ← loadM q image
        let head := leBytes 8 (x.seq % 2 ^ 64) ++ leBytes 8 (keptBits (leWord ((bs.drop 8).take 8)))
        let ptr := x.slotPtr slot
        let (_, pl) ← accessM ptr { rd := false, wr := true, n := n, align := 64, raw := true, gen := false, cap := false, spaces := [0] }
        match pl with
        | .mem segs => storeSegs segs (head ++ bs.drop 16) ptr
        | .table _ | .capBlock _ | .outside _ _ _ _ => trapM .handle ptr
        let k ← getM (·.cur.core)
        modM fun s => s.modPipe key fun x =>
          ({ x with
            seq := x.seq + 1
            recs := x.recs ++ [⟨slot, x.seq, 0, 0, false, .router (clusterOf k), 0, [], k⟩] } : Pipe).toStage slot 0 k
        writeS d ptr) s

/-! ## `PDEQ` (R150, R349) -/

/-- Whether a record that is not in the queue of stage `i` may still come to it. -/
def Pipe.before (x : Pipe) (i : Nat) (r : PRec) : Bool :=
  let c := pSet x.desc i
  let open_ := if c != 0 && pSet x.desc r.stage == c then !r.mask.testBit (i - (pMembers x.desc c).headD 0) else r.stage < i
  match r.at_ with
  | .queue j => j != i && open_
  | .core _ => r.stage != i && open_
  | .router _ | .settling _ => open_

/-- The next record of a stage's queue: first come; in a deterministic job the lowest `SEQ`, while no lower one may still come, so that records
leave in ascending `SEQ` (R155, R349; log entry 92). -/
def Pipe.nextRec (x : Pipe) (det : Bool) (i : Nat) : Option PRec :=
  ((x.recs.filter fun r => r.at_ == .queue i).foldl (fun m r => match m with
    | none => some r
    | some b => if (if det then r.seq < b.seq else r.arr < b.arr) then some r else some b) none).filter fun r =>
      !(det && x.recs.any fun y => y.seq < r.seq && x.before i y)

/-- A core's pending change of stage made, for its next `PDEQ` (R154). -/
def Pipe.settleCore (x : Pipe) (c : Nat) : Pipe :=
  match tabGet c x.moves with
  | some i => { x with assign := tabSet c i x.assign, moves := tabDel c x.moves }
  | none => x

/-- `PDEQ`. -/
def execPdeq (la : BitVec 4) (d : Reg) (p : BitVec 4) (s : State) : Host.Outcome State Fault Refusal :=
  runWord (.pdeq la d p) (do
    let g ← getM (·.me)
    legalM (g.task.isNone && !g.ctx.inHandler)
    ownM
    let key ← pipeM p
    let x ← getM fun s => s.pipe key
    let core ← getM (·.cur.core)
    match tabGet core x.assign with
    | none => illegalM
    | some i =>
      match x.nextRec (← getM (·.who.det)) i with
      | none => restM .pdeq (do
        writeS d 0
        writeS (d + 1) 0)
      | some r =>
        let ptr := x.slotPtr r.slot
        modM fun s => s.modPipe key fun x => (x.modRec r.slot fun r => { r with at_ := .core core }).settleCore core
        modM fun s => s.modCore core fun k => { k with deq := some ⟨p.toNat, ptr⟩ }
        writeS d ptr
        writeS (d + 1) (BitVec.ofNat 64 i)) s

/-! ## `PDONE` (R150, R350) -/

/-- The kinds of the listed effects (R149). -/
def effectKinds (w : Word) : List Nat := (List.range (wbits w 16 2)).map fun n => wbits w (24 + 2 * n) 2

/-- The store checks of a write effect, as the issuing agent (R350). -/
def effectChecksM (ws : List Word) : List (Nat × Nat) → M Unit
  | [] => pure ()
  | (n, k) :: xs => do
    if k = 0 then
      let _ ← accessM (wordAt ws (2 + 2 * n)) { rd := false, wr := true, n := 8, align := 8 }
      effectChecksM ws xs
    else effectChecksM ws xs

/-- A finished record counted in the window of its stage at the issuing cluster's router (R151). -/
def PWindow.count (w : PWindow) (pass : Bool) : PWindow :=
  let w := { w with seen := w.seen + 1, passes := w.passes + bitNat pass }
  if w.seen = 4096 then ⟨w.passes, 0, 0⟩ else w

/-- Where a record goes after a pass at its stage: to the router for further members, or out of its set or stage. -/
inductive After where
  | members
  | settle (next : Option Nat)
  | stage (i : Nat)
  deriving DecidableEq, Repr

/-- What follows stage `i` with the set's done mask (R150, R151, R153). -/
def afterStage (d : List Word) (i mask : Nat) : After :=
  let c := pSet d i
  let after (k : Nat) : Option Nat := if k < pStages d then some k else none
  if c = 0 then
    match after (i + 1) with
    | some k => .stage k
    | none => .settle none
  else if (List.range (pMembers d c).length).all fun m => mask.testBit m then
    .settle (after ((pMembers d c).getLastD i + 1))
  else .members

/-- The done mask with a stage's member bit. -/
def withMember (d : List Word) (i mask : Nat) : Nat :=
  if pSet d i = 0 then mask else mask ||| 2 ^ (i - (pMembers d (pSet d i)).headD 0)

/-- The stage whose room a record's `PDONE` needs, if any. -/
def Pipe.needs (x : Pipe) (r : PRec) (drop : Bool) : Option Nat :=
  if drop then none
  else match afterStage x.desc r.stage (withMember x.desc r.stage r.mask) with
    | .members => none
    | .settle n => n
    | .stage i => some i

/-- The count of a record finished at stage `i` by a core of cluster `k` (R151). -/
def Pipe.countPass (x : Pipe) (k i : Nat) (pass : Bool) : Pipe :=
  let w := k * 16 + i
  { x with windows := tabSet w (((tabGet w x.windows).getD {}).count pass) x.windows }

/-- A record that passed its stage on core `c`: on to its next stage, or waiting at its router or for its effects. -/
def Pipe.pass (x : Pipe) (r : PRec) (c : Nat) : Pipe :=
  let mask := withMember x.desc r.stage r.mask
  let y := x.modRec r.slot fun r => { r with mask := mask, core := c }
  match afterStage x.desc r.stage mask with
  | .stage i => y.toStage r.slot i c
  | .settle n => y.modRec r.slot fun r => { r with at_ := .settling n }
  | .members => { y.modRec r.slot fun r => { r with at_ := .router (clusterOf c), arr := x.arr } with arr := x.arr + 1 }

/-- The pipeline without the record of a slot. -/
def Pipe.free (x : Pipe) (slot : Nat) : Pipe := { x with recs := x.recs.filter fun y => y.slot != slot }

/-- A record finished at its stage by core `c`; a dropped one is retired (R153). -/
def finishStage (key c : Nat) (r : PRec) (drop : Bool) : D Unit := do
  devMod fun s => s.modPipe key (·.countPass (clusterOf c) r.stage (!drop))
  if drop then
    stamp key { r with drop := true }
    devMod fun s => s.modPipe key (·.free r.slot)
  else
    devMod fun s => s.modPipe key (·.pass r c)
    stampSlot key r.slot

/-- `PDONE` (R350). The header is read by a checked load (the model's choice, log entry 92). -/
def execPdone (la : BitVec 4) (b : Reg) (p : BitVec 4) (drop : Bool) (s : State) : Host.Outcome State Fault Refusal :=
  runWord (.pdone la b p drop) (do
    legalM (← getM (·.me.task.isNone))
    ownM
    let q ← readS b
    let key ← pipeM p
    let core ← getM (·.cur.core)
    legalM ((← getM fun s => (s.core core).deq) == some ⟨p.toNat, q⟩)
    let x ← getM fun s => s.pipe key
    match x.recs.find? fun r => r.at_ == .core core && x.slotPtr r.slot == q with
    | none => illegalM
    | some r =>
      let bs ← loadM q { rd := true, wr := false, n := 64, align := 64, raw := true }
      let ws := leWords 8 bs
      let kinds := effectKinds (wordAt ws 1)
      legalM (kinds.all (· < 2))
      effectChecksM ws (kinds.mapIdx fun n k => (n, k))
      let open_ := match x.needs r drop with
        | some i => x.admits i
        | none => true
      if !open_ then restM (.pdone p.toNat) (pure ())
      else
        let _ ← devM (finishStage key core r drop)
        modM fun s => s.modCore core fun k => { k with deq := none }) s

/-! ## `PSTAT` (R150, R354) -/

/-- Cores given to a stage by the scheduler. -/
def Pipe.coresOf (x : Pipe) (i : Nat) : Nat :=
  (x.assign.filter fun a => (tabGet a.1 x.moves).getD a.2 == i).length

/-- `PSTAT`: it changes no state, so that it starts no pipeline either; one that is not at work has no records and no cores. -/
def execPstat (la : BitVec 4) (d : Reg) (p st : BitVec 4) (s : State) : Host.Outcome State Fault Refusal :=
  runWord (.pstat la d p st) (do
    legalM (st.toNat < pStages (← pipeDescM p))
    let x ← getM fun s => s.pipe (pipeKey s.me.asid p.toNat)
    let k ← getM fun s => clusterOf s.cur.core
    let w := ((tabGet (k * 16 + st.toNat) x.windows).getD {}).last
    writeS d (BitVec.ofNat 64 (x.depth st.toNat + 2 ^ 32 * x.coresOf st.toNat + 2 ^ 48 * w))) s

/-! ## Events -/

/-- Whether the queue that a stalled `PENQ` or `PDONE` of an agent needs admits its record. -/
def State.queueOpen (s : State) (a : AgentId) (asid : Nat) : Sleep → Bool
  | .penq p => (s.pipe (pipeKey asid p)).admits 0
  | .pdone p =>
    let x := s.pipe (pipeKey asid p)
    match x.recs.find? fun r => r.at_ == .core a.core && (s.core a.core).deq == some ⟨p, x.slotPtr r.slot⟩ with
    | some r => match x.needs r false with
      | some i => x.admits i
      | none => true
    | none => true
  | .wait _ _ _ _ | .bar | .vote | .pdeq | .orecv | .hold _ _ _ _ _ _ | .ext _ => false

/-- Event `STAGE_QUEUE_ROOM` (R150): a `PENQ` or `PDONE` that stalls on a full queue is tried again once there is room. -/
def execStageQueueRoom (a : AgentId) (s : State) : Host.Outcome State Fault Refusal :=
  let g := s.agent a
  match g.act with
  | .asleep k _ => .next (if s.queueOpen a g.asid k then s.setAgent a { g with act := .running } else s)
  | .idle | .running | .stopped | .retired => .next s

/-- One step of the 16-bit LFSR (R151). -/
def lfsrStep (l : Nat) : Nat :=
  let bit := (l + l / 4 + l / 8 + l / 32) % 2
  l / 2 + bit * 2 ^ 15

/-- The LFSR of a router. -/
def Pipe.lfsrOf (x : Pipe) (k : Nat) : Nat :=
  (tabGet k x.lfsr).getD (let l := (pSeed x.desc ^^^ k) % 2 ^ 16; if l = 0 then 1 else l)

/-- Weights of the members of a set for a record at a router (R151): member index and weight, undone members only. -/
def Pipe.weights (x : Pipe) (k : Nat) (r : PRec) : List (Nat × Nat) :=
  (pMembers x.desc (pSet x.desc r.stage)).mapIdx fun m i =>
    (i, if r.mask.testBit m then 0
      else (4097 - ((tabGet (k * 16 + i) x.windows).getD {}).last) * (pCap x.desc i - x.depth i))

/-- The lowest stage whose running sum of weights exceeds `r`. -/
def pickWeight (r : Nat) : Nat → List (Nat × Nat) → Option Nat
  | _, [] => none
  | acc, (i, w) :: ws => if r < acc + w then some i else pickWeight r (acc + w) ws

/-- The lowest-numbered undone member of a record's set. -/
def Pipe.firstUndone (x : Pipe) (r : PRec) : Option Nat :=
  (((pMembers x.desc (pSet x.desc r.stage)).mapIdx fun m i => (m, i)).find? fun mi => !r.mask.testBit mi.1).map (·.2)

/-- Whether a job's pipelines run in fixed order (R152, R155). -/
def State.fixedOrder (s : State) (key : Nat) : Bool :=
  let j := s.job (s.pipe key).job
  j.det || j.span.fixo.toNat.testBit (key % 16)

/-- What a router does with one waiting record: the stage it goes to and the LFSR after the draw. -/
def Pipe.route (x : Pipe) (fixed : Bool) (k : Nat) (r : PRec) : Option (Nat × Nat) :=
  if fixed then
    match x.firstUndone r with
    | some i => if x.room i then some (i, x.lfsrOf k) else none
    | none => none
  else
    let ws := x.weights k r
    let total := (ws.map (·.2)).foldl (· + ·) 0
    if total = 0 then none
    else
      let l := lfsrStep (x.lfsrOf k)
      (pickWeight (l * total / 2 ^ 16) 0 ws).map fun i => (i, l)

/-- The first record at a router, in order of arrival, that can be routed. -/
def Pipe.routable (x : Pipe) (fixed : Bool) (k : Nat) : Option (PRec × Nat × Nat) :=
  ((x.recs.filter fun r => r.at_ == .router k).mergeSort fun a b => a.arr ≤ b.arr).findSome? fun r =>
    (x.route fixed k r).map fun il => (r, il)

/-- Event `SPEEDWELL_ROUTE` (R151, R152). -/
def execSpeedwellRoute (asid p k : Nat) (s : State) : Host.Outcome State Fault Refusal :=
  let key := pipeKey asid p
  let x := s.pipe key
  if s.isOff x.job then .next s
  else
    match x.routable (s.fixedOrder key) k with
    | none => .next s
    | some (r, i, l) =>
      .next (s.attempt (do
        if !(← devGet (·.fixedOrder key)) then devMod fun s => s.modPipe key fun x => { x with lfsr := tabSet k l x.lfsr }
        devMod fun s => s.modPipe key (·.toQueue r.slot i)
        stampSlot key r.slot))

/-- One deferred effect performed (R153): a write, or an append to the log, each under steps 1–4 and 6 of R87. The effects are
those that the header lists then, and a kind 2 or 3 stored there after `PDONE` appends as kind 1 does (the model's choice, log entry 99). -/
def perform (key : Nat) (r : PRec) (k : Nat) (addr v : Word) : D Unit := do
  let w ← devGet (·.whoPipe key r)
  let a : Acc := { rd := false, wr := true, n := 8, align := 8, cap := false }
  if k = 0 then writeAt w true addr a (wordBytes 8 v)
  else
    let d ← devGet fun s => (s.pipe key).desc
    let n := leNat (← readAt w (pLog d) { a with rd := true, wr := false })
    writeAt w true (ptrAdd (pLog d) (8 + 8 * (n % pRing d))) a (wordBytes 8 v)
    writeAt w true (pLog d) a (leBytes 8 (n + 1))

/-- The effects of a header in order, up to one that fails a check: its status. -/
def performAll (key : Nat) (r : PRec) (ws : List Word) : List (Nat × Nat) → D (Option Cause)
  | [] => pure none
  | (n, k) :: xs => do
    match ← devTry (perform key r k (wordAt ws (2 + 2 * n)) (wordAt ws (3 + 2 * n))) with
    | .ok () => performAll key r ws xs
    | .error c => pure (some c)

/-- The effects of a record performed from its header; the status of one that fails. -/
def settleEffects (key : Nat) (r : PRec) : D (Option Cause) := do
  let a : Acc := { rd := true, wr := false, n := 64, align := 64, cap := false, gen := false }
  let p ← devGet fun s => (s.pipe key).slotPtr r.slot
  match ← devTry (readAt (← devGet (·.whoPipe key r)) p a) with
  | .error c => pure (some c)
  | .ok bs =>
    let ws := leWords 8 bs
    performAll key r ws ((effectKinds (wordAt ws 1)).mapIdx fun n k => (n, k))

/-- A record whose effects are settled moves on: out of the pipeline, or to its next stage when that admits it. -/
def moveOn (key : Nat) (r : PRec) (next : Option Nat) : D Unit := do
  match next with
  | none => devMod fun s => s.modPipe key (·.free r.slot)
  | some i => if ← devGet fun s => (s.pipe key).admits i then comeTo key r.slot i r.core

/-- Whether a record has left set `c`, its effects there performed. -/
def PRec.hasLeft (r : PRec) (c : Nat) : Bool := c != 0 && r.left.contains c

/-- Whether the effects of a record that leaves may be performed now: every lower `SEQ` has retired or left that set (R153). -/
def Pipe.due (x : Pipe) (r : PRec) : Bool :=
  let c := pSet x.desc r.stage
  !r.hasLeft c && !x.recs.any fun y => y.seq < r.seq && !y.hasLeft c

/-- Whether a record with its effects performed has its next place open; one that waits for room there is at rest (R38). -/
def Pipe.movesOn (x : Pipe) (r : PRec) (next : Option Nat) : Bool :=
  r.hasLeft (pSet x.desc r.stage) && next.all x.admits

/-- The record of lowest `SEQ` whose effects may be performed, or that may move on with its effects performed, and its next place. -/
def Pipe.settles (x : Pipe) : Option (PRec × Option Nat) :=
  (x.recs.filterMap fun r => match r.at_ with
    | .settling n => if x.due r || x.movesOn r n then some (r, n) else none
    | .queue _ | .router _ | .core _ => none).foldl (fun m y => match m with
      | none => some y
      | some b => if y.1.seq < b.1.seq then some y else some b) none

/-- Whether a deferred effect may be performed now. -/
def Pipe.effectsDue (x : Pipe) : Bool :=
  x.recs.any fun r => match r.at_ with
    | .settling _ => x.due r
    | .queue _ | .router _ | .core _ => false

/-- Event `DEFERRED_EFFECTS` (R153): a leaving record's effects once every lower `SEQ` has retired or left its set; one that fails a
check ends the pipeline's job, with the effects before it performed. -/
def execDeferredEffects (asid p : Nat) (s : State) : Host.Outcome State Fault Refusal :=
  let key := pipeKey asid p
  let x := s.pipe key
  if s.isOff x.job then .next s
  else
    match x.settles with
    | none => .next s
    | some (r, n) =>
      let c := pSet x.desc r.stage
      .next (s.attempt (do
        if c != 0 && r.left.contains c then moveOn key r n
        else
          match ← settleEffects key r with
          | some e => endJob x.job e.code true
          | none =>
            devMod fun s => s.modPipe key fun x => x.modRec r.slot fun r => { r with left := c :: r.left }
            moveOn key r n))

/-- Whether fraction a/b is below c/d. -/
def fracBelow (a b c d : Nat) : Bool := a * d < c * b

/-- The move the scheduler makes, if any (R154): from stage and to stage, of equal fractions the lowest-numbered (the model's choice, log
entry 92). -/
def Pipe.coreMove (x : Pipe) : Option (Nat × Nat) :=
  let stages := List.range (pStages x.desc)
  let low := stages.foldl (fun m i => if fracBelow (x.depth i) (pCap x.desc i) (x.depth m) (pCap x.desc m) then i else m) 0
  let high := stages.foldl (fun m i => if fracBelow (x.depth m) (pCap x.desc m) (x.depth i) (pCap x.desc i) then i else m) 0
  let gap := 4 * (x.depth high * pCap x.desc low - x.depth low * pCap x.desc high) ≥ pCap x.desc low * pCap x.desc high
  if gap && pMin x.desc low < x.coresOf low && x.coresOf high < pMax x.desc high then some (low, high) else none

/-- Event `PIPELINE_CORE_MOVE` (R154): at most once in 10 µs; the core with the highest id moves (log entry 23). A core asleep in
`PDEQ` changes stage at the one after it. -/
def execPipelineCoreMove (asid p : Nat) (s : State) : Host.Outcome State Fault Refusal :=
  let key := pipeKey asid p
  let x := s.pipe key
  if s.isOff x.job || (s.job x.job).det || s.now < x.movedAt + 10000 then .next s
  else
    match x.coreMove with
    | none => .next s
    | some (low, high) =>
      match ((x.assign.filter fun a => (tabGet a.1 x.moves).getD a.2 == low).map (·.1)).getLast? with
      | none => .next s
      | some c =>
        let waits := match (s.agent ⟨c, .main⟩).act with
          | .asleep .pdeq _ => true
          | .asleep _ _ | .idle | .running | .stopped | .retired => false
        .next (s.modPipe key fun x =>
          let x := { x with moves := tabSet c high x.moves, movedAt := s.now }
          if waits then x else x.settleCore c)

end Sys2Proof.Machine
end

