-- ==== Sys2Proof/Machine/Sha.lean ====
section
/-! DEFINITION. SHA-384, by which the manual names the digest of a deterministic job (R136) and the message of an attestation (R222). The
algorithm is that of the Secure Hash Standard; its constants are computed from the roots of primes that define them. -/

namespace Sys2Proof.Machine

/-- The largest r below 2^k, found from bit k − 1 down and above the bits in `acc`, with r^e ≤ x. -/
def rootBits (e x : Nat) : Nat → Nat → Nat
  | 0, acc => acc
  | k + 1, acc => if (acc + 2 ^ k) ^ e ≤ x then rootBits e x k (acc + 2 ^ k) else rootBits e x k acc

/-- The first 64 bits of the fractional part of the e-th root of p. -/
def rootFraction (e p : Nat) : Word := BitVec.ofNat 64 (rootBits e (p * 2 ^ (64 * e)) 70 0)

/-- The first 80 primes. -/
def shaPrimes : List Nat :=
  [2, 3, 5, 7, 11, 13, 17, 19, 23, 29, 31, 37, 41, 43, 47, 53, 59, 61, 67, 71, 73, 79, 83, 89, 97, 101, 103, 107, 109, 113] ++
  [127, 131, 137, 139, 149, 151, 157, 163, 167, 173, 179, 181, 191, 193, 197, 199, 211, 223, 227, 229, 233, 239, 241, 251] ++
  [257, 263, 269, 271, 277, 281, 283, 293, 307, 311, 313, 317, 331, 337, 347, 349, 353, 359, 367, 373, 379, 383, 389, 397] ++
  [401, 409]

/-- The round constants. -/
def shaK : List Word := shaPrimes.map (rootFraction 3)

/-- The initial hash value. -/
def sha384Init : List Word := ((shaPrimes.drop 8).take 8).map (rootFraction 2)

/-- A big-endian word of 8 bytes. -/
def beWord (bs : List Byte) : Word := BitVec.ofNat 64 (bs.foldl (fun a b => a * 256 + b.toNat) 0)

/-- The bytes of a word, most significant first. -/
def beBytes (v : Word) : List Byte := (leBytes 8 v.toNat).reverse

/-- The message schedule, newest word first. -/
def shaSchedule : Nat → List Word → List Word
  | 0, w => w
  | n + 1, w =>
    let x := w.getD 14 0
    let y := w.getD 1 0
    let s0 := x.rotateRight 1 ^^^ x.rotateRight 8 ^^^ (x >>> 7)
    let s1 := y.rotateRight 19 ^^^ y.rotateRight 61 ^^^ (y >>> 6)
    shaSchedule n ((s1 + w.getD 6 0 + s0 + w.getD 15 0) :: w)

/-- One round on the eight working variables. -/
def shaRound (v : List Word) (kw : Word × Word) : List Word :=
  match v with
  | [a, b, c, d, e, f, g, h] =>
    let s1 := e.rotateRight 14 ^^^ e.rotateRight 18 ^^^ e.rotateRight 41
    let t1 := h + s1 + ((e &&& f) ^^^ (~~~e &&& g)) + kw.1 + kw.2
    let s0 := a.rotateRight 28 ^^^ a.rotateRight 34 ^^^ a.rotateRight 39
    let t2 := s0 + ((a &&& b) ^^^ (a &&& c) ^^^ (b &&& c))
    [t1 + t2, a, b, c, d + t1, e, f, g]
  | _ => v

/-- `n` big-endian words of a block. -/
def beWords : Nat → List Byte → List Word
  | 0, _ => []
  | n + 1, bs => beWord (bs.take 8) :: beWords n (bs.drop 8)

/-- One block of 128 bytes. -/
def shaBlock (h : List Word) (block : List Byte) : List Word :=
  let w := (shaSchedule 64 (beWords 16 block).reverse).reverse
  List.zipWith (· + ·) h ((shaK.zip w).foldl shaRound h)

/-- `n` blocks. -/
def shaBlocks : Nat → List Byte → List Word → List Word
  | 0, _, h => h
  | n + 1, bs, h => shaBlocks n (bs.drop 128) (shaBlock h (bs.take 128))

/-- The SHA-384 digest of bytes. -/
def sha384 (m : List Byte) : List Byte :=
  let n := m.length
  let zeros := (239 - n % 128) % 128
  let padded := m ++ [(0x80 : Byte)] ++ List.replicate zeros 0 ++ (leBytes 16 (8 * n)).reverse
  ((shaBlocks (padded.length / 128) padded sha384Init).take 6).flatMap beBytes

end Sys2Proof.Machine
end

