-- ==== Sys2Proof/Machine/MemoryOps.lean ====
section
/-! DEFINITION. Loads, stores, full/empty tags, cache hints, streams, handle entries and statistics (R295, R304, R305, R318–R320, R323–R325,
R334, R353, R361–R365, R370–R373, R383, R419). -/

namespace Sys2Proof.Machine

/-! ## Shared forms -/

/-- Bytes of a size code (R227). -/
def MSizeBytes : MSize → Nat
  | .b => 1
  | .h => 2
  | .w => 4
  | .d => 8

/-- The pointer of a CM word: base plus a natural distance (R295). -/
def pointerM (b : Reg) (disp : Nat) : M Word := do
  let p ← readS b
  pure (ptrAdd p disp)

/-- Rows of an `LDT` or `STT` (R325). -/
def tileRowsOf (n : BitVec 2) : Nat := 2 ^ n.toNat

/-- Rows from bytes. -/
def bytesToRows : Nat → List Byte → List Row
  | 0, _ => []
  | n + 1, bs => BitVec.ofNat 128 (leNat (bs.take 16)) :: bytesToRows n (bs.drop 16)

/-- The word at an address read and its line entered as read and written, tag and word in one access (R111). -/
def wordAccessM (pa : Nat) (p : Word) : M Nat := do
  let bs ← loadSegs [(pa, 8)] p
  claimM [(pa, 8)] p
  pure (leNat bs)

/-- Checks 1, 3 and 6 of R87 as for a 1-byte load (R320, R419). -/
def hintCheckM (p : Word) : M Unit := do
  let _ ← accessM p { rd := true, wr := false, n := 1, align := 1, ali := false, gen := false, cap := false }
  pure ()

/-! ## Loads and stores -/

/-- `LD` (R323). -/
def execLd (la : BitVec 4) (o : CmOrd) (d b : Reg) (sz : MSize) (x : BitVec 6) (s : State) :
    Host.Outcome State Fault Refusal :=
  runWord (.ld la o d b sz x) (do
    let n := MSizeBytes sz
    let p ← pointerM b (x.toNat * n)
    let a : Acc := { rd := true, wr := false, n := n, align := n }
    let bs ← loadM p a
    acquireM (o == .acq) p a
    writeLate la d (leWord bs)) s

/-- `ST` (R371). -/
def execSt (la : BitVec 4) (o : CmOrd) (d b : Reg) (sz : MSize) (x : BitVec 6) (s : State) :
    Host.Outcome State Fault Refusal :=
  runWord (.st la o d b sz x) (do
    releaseM (o == .rel)
    let n := MSizeBytes sz
    let v ← readS d
    let p ← pointerM b (x.toNat * n)
    storeM p { rd := false, wr := true, n := n, align := n } (wordBytes n v) (o == .rel)) s

/-- `LDT` (R325). -/
def execLdt (la : BitVec 4) (o : CmOrd) (t : TReg) (b : Reg) (n : BitVec 2) (f e : BitVec 3) (s : State) :
    Host.Outcome State Fault Refusal :=
  runWord (.ldt la o t b n f e) (do
    let p ← pointerM b (16 * e.toNat)
    let a : Acc := { rd := true, wr := false, n := 16 * tileRowsOf n, align := 16 }
    let bs ← loadM p a
    acquireM (o == .acq) p a
    writeRowsLate la t f.toNat (bytesToRows (tileRowsOf n) bs)) s

/-- `STT` (R373). -/
def execStt (la : BitVec 4) (o : CmOrd) (t : TReg) (b : Reg) (n : BitVec 2) (f e : BitVec 3) (s : State) :
    Host.Outcome State Fault Refusal :=
  runWord (.stt la o t b n f e) (do
    releaseM (o == .rel)
    let rows ← readRows t f.toNat (tileRowsOf n)
    let p ← pointerM b (16 * e.toNat)
    storeM p { rd := false, wr := true, n := 16 * tileRowsOf n, align := 16 }
      (rows.flatMap fun r => leBytes 16 r.toNat) (o == .rel)) s

/-! ## Full/empty tags -/

/-- `LDFE` (R324): the word read and its tag cleared in one access. -/
def execLdfe (la : BitVec 4) (o : CmOrd) (d b : Reg) (x : BitVec 6) (s : State) : Host.Outcome State Fault Refusal :=
  runWord (.ldfe la o d b x) (do
    let p ← pointerM b (x.toNat * 8)
    let pa ← wordPlaceM p true true
    let v ← wordAccessM pa p
    if o == .acq then modM (·.acquire [lineOf pa])
    modM (·.putTag pa false)
    writeLate la d (BitVec.ofNat 64 v)) s

/-- `STFE` (R372): the word written and its tag set in one write. -/
def execStfe (la : BitVec 4) (o : CmOrd) (d b : Reg) (x : BitVec 6) (s : State) : Host.Outcome State Fault Refusal :=
  runWord (.stfe la o d b x) (do
    releaseM (o == .rel)
    let v ← readS d
    let p ← pointerM b (x.toNat * 8)
    let pa ← wordPlaceM p false true
    storeSegs [(pa, 8)] (wordBytes 8 v) p
    modM (·.putTag pa true)
    if o == .rel then modM (·.carryRelease (.bytes [(pa, 8)] []))) s

/-- `FESET` (R305): the tag set or cleared, the data unchanged. -/
def execFeset (la : BitVec 4) (a : Reg) (full : Bool) (s : State) : Host.Outcome State Fault Refusal :=
  runWord (.feset la a full) (do
    let p ← readS a
    let pa ← wordPlaceM p false true
    claimM [(pa, 8)] p
    modM (·.putTag pa full)) s

/-- `FEQ` (R304). -/
def execFeq (la : BitVec 4) (d b : Reg) (s : State) : Host.Outcome State Fault Refusal :=
  runWord (.feq la d b) (do
    let p ← readS b
    let pa ← wordPlaceM p true false
    let _ ← loadSegs [(pa, 8)] p
    let full ← getM (·.viewTag pa)
    writeS d (boolWord full)) s

/-! ## Cache hints: they change no value that any agent can read (R94; log entry 13) -/

/-- `PREF` (R353): it never traps on its address. -/
def execPref (la : BitVec 4) (a : Reg) (s : State) : Host.Outcome State Fault Refusal :=
  runWord (.pref la a) (do
    let _ ← readS a
    pure ()) s

/-- `WBACK` (R419). -/
def execWback (la : BitVec 4) (a : Reg) (s : State) : Host.Outcome State Fault Refusal :=
  runWord (.wback la a) (do
    let p ← readS a
    hintCheckM p) s

/-- `INVAL` (R320). -/
def execInval (la : BitVec 4) (a : Reg) (s : State) : Host.Outcome State Fault Refusal :=
  runWord (.inval la a) (do
    let p ← readS a
    hintCheckM p) s

/-! ## Streams -/

/-- The binding a stream descriptor asks for (R361); none where a rule of R362 forbids it. -/
def bindingOf (ws : List Word) (code : Nat) (tile out : Bool) : Option Binding :=
  let esz := wbits (wordAt ws 1) 32 2
  if wbits (wordAt ws 1) 35 29 != 0 || wbits (wordAt ws 3) 32 32 != 0 || wordAt ws 5 != 0 || wordAt ws 6 != 0 ||
      wordAt ws 7 != 0 || wbits (wordAt ws 1) 0 32 == 0 || wbits (wordAt ws 3) 0 32 == 0 || (tile && esz != 0) then none
  else
    some ⟨code, out, 0, wordAt ws 0, wbits (wordAt ws 1) 0 32, if tile then 16 else 2 ^ esz, wbit (wordAt ws 1) 34,
      wordAt ws 2, wbits (wordAt ws 3) 0 32, wordAt ws 4⟩

/-- `SBIND` (R361, R362). -/
def execSbind (la : BitVec 4) (a : Reg) (r : BitVec 5) (n : BitVec 2) (tile out : Bool) (s : State) :
    Host.Outcome State Fault Refusal :=
  runWord (.sbind la a r n tile out) (do
    let code := if tile then 32 + r.toNat else r.toNat
    let p ← readS a
    let c ← getM (·.me.ctx)
    legalM ((c.binds[n.toNat]).isNone && (c.bindOf code).isNone)
    let bs ← loadM p { rd := true, wr := false, n := 64, align := 64 }
    match bindingOf (leWords 8 bs) code tile out with
    | none => illegalM
    | some b => modM fun s => s.modCtx fun c =>
        { c with binds := c.binds.set n.toNat (some b) n.isLt, dirty := c.dirty ||| 2 ^ (48 + n.toNat) }) s

/-- `SFREE` (R365): an unbound generator is left as it is. -/
def execSfree (la : BitVec 4) (n : BitVec 2) (s : State) : Host.Outcome State Fault Refusal :=
  runWord (.sfree la n) (modM fun s => s.modCtx fun c =>
    if (c.binds[n.toNat]).isNone then c
    else { c with binds := c.binds.set n.toNat none n.isLt, dirty := c.dirty ||| 2 ^ (48 + n.toNat) }) s

/-- `SSYNC` (R370): the generator's position, all ones when unbound. -/
def execSsync (la : BitVec 4) (d : Reg) (n : BitVec 2) (s : State) : Host.Outcome State Fault Refusal :=
  runWord (.ssync la d n) (do
    let c ← getM (·.me.ctx)
    writeS d (match c.binds[n.toNat] with
      | some b => BitVec.ofNat 64 b.pos
      | none => BitVec.allOnes 64)) s

/-! ## Handle entries -/

/-- `HTLD` (R318): the entry in force, as an ordinary store. -/
def execHtld (la : BitVec 4) (a b : Reg) (s : State) : Host.Outcome State Fault Refusal :=
  runWord (.htld la a b) (do
    let h ← readS a
    let p ← readS b
    let e ← getM fun s => s.handle s.me.asid (handleOf h)
    storeM p { rd := false, wr := true, n := 32, align := 32, raw := true } (e.flatMap fun w => wordBytes 8 w) false) s

/-- The bytes of a table entry that exist: none lies at or above HBMSZ, where a write is dropped (log entry 29). -/
def State.entrySegs (s : State) (asid h : Nat) : List (Nat × Nat) :=
  let pa := s.entryAddr asid h
  [(pa, min 32 (s.hbmsz - pa))]

/-- The entry of an address space written in one step: the table in memory, every cached copy dropped, and the capability state of
R133. Its reserved bits are not kept (R2, R85). -/
def State.setHandle (s : State) (asid h : Nat) (e : List Word) : State :=
  let e := maskEntry e
  let s := s.softPoke (s.entrySegs asid h) (e.flatMap fun w => wordBytes 8 w)
  let s := { s with mem := { s.mem with hcopies := s.mem.hcopies.filter fun c => !(c.asid == asid && c.h == h) } }
  { s with caps := if hCapt e then tabSet (asid * 4096 + h) .free s.caps else tabDel (asid * 4096 + h) s.caps }

/-- `HTWR` (R86, R319): a chunk of its own, whose entry's lines are waited for where they are owned or reserved (R109, R129). -/
def execHtwr (la : BitVec 4) (a b : Reg) (s : State) : Host.Outcome State Fault Refusal :=
  runWord (.htwr la a b) (do
    ownM
    let hp ← readS a
    let h := handleOf hp
    if h < 0x800 then systemM
    let p ← readS b
    needM (h != 0xFFF) (.trap .handle hp)
    let bs ← loadM p { rd := true, wr := false, n := 32, align := 32, raw := true }
    let ls ← getM fun s => segLines (s.entrySegs s.me.asid h)
    needM (!(← getM fun s => s.ownedAny ls || s.reserved ls)) .stall
    modM fun s => (s.squashOthers ls).setHandle s.me.asid h (leWords 4 bs)) s

/-! ## Statistics -/

/-- The trap of the first held entry whose header fails its checks (R383), if any. -/
def State.statTrap (s : State) (w : Who) : List Stat → Option (Cause × Word)
  | [] => none
  | x :: xs =>
    match [0x10, 0x18, 0x20].findSome? fun o => match s.statPlace w x o with
      | .ok _ => none
      | .error c => some c with
    | some c => some (c, x.thp)
    | none => s.statTrap w xs

/-- `TSFLUSH` (R383): a chunk of its own; a header that fails its checks traps and nothing is flushed. -/
def execTsflush (la : BitVec 4) (s : State) : Host.Outcome State Fault Refusal :=
  runWord (.tsflush la) (do
    ownM
    match ← getM fun s => s.statTrap s.who (s.core s.cur.core).stats with
    | some t => trapM t.1 t.2
    | none =>
      let _ ← devM (flushCore (← getM (·.who)) (← getM (·.cur.core)))) s

end Sys2Proof.Machine
end

