-- ==== Sys2Proof/Machine/Waiting.lean ====
section
/-! DEFINITION. Waiting, barriers, tasks and the ends of streams (R25–R40, R59, R60, R69, R71, R99, R107, R208, R278, R359, R368, R375, R376,
R406, R417, R418, R422), and the events of an agent: evaluation and timeout of a `WAIT`, completion of `BAR` and `VOTE`, grants, late
results, interrupt entry, wake-up, gating and the decode table. -/

namespace Sys2Proof.Machine

/-! ## Conditions of `WAIT` (R34, R35) -/

/-- Kind of a kind word. -/
def kindOf (k : Word) : Nat := wbits k 0 4

/-- Whether a kind is assigned. -/
def kindGood (k : Word) : Bool := 1 ≤ kindOf k && kindOf k ≤ 7

/-- Whether the reserved bits of a kind word are 0. -/
def kindReserved (k : Word) : Bool := wbits k 10 54 == 0 && (kindOf k == 5 || wbits k 4 6 == 0)

/-- Whether a result is present for the current agent's `GRECV` on a group register. -/
def State.hasResult (s : State) (n : Nat) : Bool := (s.mySlot n).any fun g => !g.present.isEmpty

/-- Whether a `JOBDONE` operand names no incomplete job (R34). -/
def State.jobDone (s : State) (asid : Nat) (v : Word) : Bool :=
  let id := wbits v 0 32
  if id / 2 ^ 31 = 1 then (s.liveQ asid id).isNone else !s.jobLive asid id

/-- Whether a condition holds, as the current agent finds it in committed state. -/
def condM (k v : Word) : M Bool := do
  match kindOf k with
  | 1 => do
    let pa ← wordPlaceM v true false
    let _ ← loadSegs [(pa, 8)] v
    getM (·.fullAt pa)
  | 2 => do
    let pa ← wordPlaceM v true false
    let _ ← loadSegs [(pa, 8)] v
    getM fun s => !s.fullAt pa
  | 3 => do
    let bs ← loadM v { rd := true, wr := false, n := 16, align := 16 }
    pure (decide (leNat (bs.drop 8) ≤ leNat (bs.take 8)))
  | 4 => getM fun s => s.jobDone s.me.asid v
  | 5 => getM fun s => s.hasResult (wbits k 4 6)
  | 6 => getM (·.me.ctx.uiPending)
  | _ => getM fun s => s.holdsLic (clusterOf s.cur.core)

/-- Every condition in ascending order. -/
def condsM : List (Word × Word) → M (List Bool)
  | [] => pure []
  | c :: cs => do
    let b ← condM c.1 c.2
    let bs ← condsM cs
    pure (b :: bs)

/-- The mask of true conditions. -/
def maskOf : List Bool → Nat
  | [] => 0
  | b :: bs => bitNat b + 2 * maskOf bs

/-- Whether the mode is met. -/
def modeMet (any : Bool) (bs : List Bool) : Bool := if any then bs.any id else bs.all id

/-- The kind word of the lowest-numbered false condition (R38). -/
def firstFalse (cs : List (Word × Word)) (bs : List Bool) : Word :=
  match (cs.zip bs).find? fun x => !x.2 with
  | some x => x.1.1
  | none => 0

/-- The result word of a `WAIT` (R36). -/
def waitResult (bs : List Bool) (expired : Bool) : Word := BitVec.ofNat 64 (maskOf bs + 2 ^ 63 * bitNat expired)

/-! ## A task's record written back (R30, R375, R376, R422) -/

/-- The suspend word's own tests (R375): the cases of R29, reserved bits, and the range of conditions from register `b`. -/
def suspendGood (v : Word) (b : Nat) : Bool :=
  let nc := wbits v 36 3
  !wbit v 0 && (((List.range 32).filter (wbit v)).length ≤ 16) && nc ≤ 4 && !wbit v 35 && wbits v 39 25 == 0 &&
    (nc == 0 || b + nc - 1 ≤ 31)

/-- Word +0x08 of a record as a write-back makes it: the suspend word with its count, `TAIL`, and `STATE` = WAITING. -/
def suspendHead (v : Word) (ncond : Nat) : Word :=
  let live := wbits v 0 32
  BitVec.ofNat 64 (live + wbits v 32 3 * 2 ^ 32 + ncond * 2 ^ 36 + bitNat (live != 0) * 2 ^ 40)

/-- The live registers of a mask in ascending order. -/
def Ctx.liveRegs (c : Ctx) (v : Word) : List Word :=
  ((List.range 32).filter (wbit v)).map fun i => c.reg (BitVec.ofNat 5 i)

/-- A core whose agent is gone. -/
def State.freeCore (s : State) : State := (s.leaveCore s.cur).endAs .gone

/-- The current agent's job ends with a status, and its word with it (R422). -/
def endMyJob (c : Cause) : D Unit := do
  endJob (← devGet (·.myJob)) c.code true
  devMod (·.endAs .gone)

/-- A record of the current job moved to a place, with what the agent leaves behind for the task. -/
def State.placeRec (s : State) (p : Word) (at_ : RecAt) (cluster : Nat) : State :=
  s.modJob s.myJob fun j => { j with recs := j.recs.map fun r => if r.ptr = p then ⟨p, at_, cluster, false, s.me.err, s.me.acq⟩ else r }

/-- Where a suspended task resumes: word 1 of the bundle after word 0 of a bundle with L = 1, else the next bundle, or the one behind the body
that a `LOOP` of the same bundle skips (R330). -/
def State.resumeAt (s : State) : Word :=
  let c := s.me.ctx
  if !s.unit.paired && !s.unit.second then BitVec.ofNat 64 (c.pc.toNat / 8 * 8 + 4)
  else (pushLoops s c.loopReq (c, s.bundleAt c.pc 1)).2

/-- What a write-back writes (R30, R376): offsets in the record, with `PC`, `SLOT` and word +0x08, the conditions, and the tail. -/
def State.writeBack (s : State) (v : Word) (ncond : Nat) (conds : List Word) : List (Nat × List Byte) :=
  let tail := (s.me.ctx.liveRegs v).flatMap fun x => wordBytes 8 x
  [(0, wordBytes 8 s.resumeAt ++ wordBytes 8 (suspendHead v ncond))] ++
    (if ncond = 0 then [] else [(0x18, (conds.take ncond).flatMap fun x => wordBytes 8 x)]) ++
    (if tail.isEmpty then [] else [(0x40, tail)])

/-- The task is suspended into its record `p` with a suspend word and conditions (R376); a failing access ends its job (R422). -/
def suspendInto (p v : Word) (ncond : Nat) (conds : List Word) : D Unit := do
  devMod State.landAll
  let w ← devGet (·.who)
  flushCore w w.aid.core
  let xs ← devGet fun s => s.writeBack v ncond conds
  match ← devTry (xs.forM fun x => recWrite w p x.1 x.2) with
  | .ok () => devMod fun s => (s.placeRec p .waiting (clusterOf s.cur.core)).freeCore
  | .error c => endMyJob c

/-- What forbids a suspension with `TVAL` = the word (R375): a gang strand, a handler, an active loop level, a bound generator. A `LOOP` of the
same bundle has made no level yet (R330). -/
def State.maySuspend (s : State) : Bool :=
  let c := s.me.ctx
  s.me.task.isSome && !c.inHandler && c.loops.isEmpty && c.binds.toList.all Option.isNone

/-- The suspension of the task that the current agent runs. -/
def suspendM (v : Word) (b ncond : Nat) (conds : List Word) : M Unit := do
  needM (suspendGood v b) (.trap .illegal v)
  match ← getM (·.me.task) with
  | some p =>
    let _ ← devM (suspendInto p v ncond conds)
  | none => illegalM

/-- Registers from `b` on. -/
def readFrom (b : Nat) : Nat → M (List Word)
  | 0 => pure []
  | n + 1 => do
    let v ← readS (BitVec.ofNat 5 b)
    let vs ← readFrom (b + 1) n
    pure (v :: vs)

/-! ## `WAIT` (R34–R36, R417, R418) -/

/-- Kind words and operands of a descriptor list. -/
def descriptors : List Word → List (Word × Word)
  | k :: v :: ws => (k, v) :: descriptors ws
  | [_] => []
  | [] => []

/-- The tests of R34 on the kind words: every unassigned kind before any reserved bit (log entry 10). -/
def kindsM (cs : List (Word × Word)) : M Unit := do
  match cs.find? fun c => !kindGood c.1 with
  | some c => trapM .illegal c.1
  | none =>
    match cs.find? fun c => !kindReserved c.1 with
    | some c => trapM .illegal c.1
    | none => pure ()

/-- A yielding `WAIT` of a task (R418): the suspend word is S[T], and each operand a condition; every broken condition is ILLEGAL with
the word (log entry 50). -/
def yieldM (any : Bool) (cs : List (Word × Word)) (v : Word) : M Unit := do
  legalM (← getM (·.maySuspend))
  let want ← getM fun s => if s.rdycnt s.me.asid then 3 else 1
  legalM (suspendGood v 0 && wbits v 36 3 == 0 && !any && cs.all fun c => kindOf c.1 == want)
  suspendM v 0 cs.length (cs.map (·.2))

/-- The first evaluation of a `WAIT`, on committed state: it ends, or its agent sleeps (R35, R36). -/
def firstLookM (any : Bool) (cs : List (Word × Word)) (limit : Word) (t : Reg) : M Unit := do
  let bs ← condsM cs
  if modeMet any bs then writeS t (waitResult bs false)
  else if limit = 0 then writeS t (waitResult bs true)
  else
    let now ← getM (·.tick)
    let ticks : Option Nat := match ← getM (·.me.mark) with
      | .left n => some n
      | .none | .done | .value _ | .again | .trap _ _ => if limit = BitVec.allOnes 64 then none else some limit.toNat
    restM (.wait cs any (ticks.map (now + ·)) (firstFalse cs bs)) (writeS t 0)

/-- `WAIT` (R34, R417, R418). -/
def execWait (yld any : Bool) (n : BitVec 2) (f t : Reg) (s : State) : Host.Outcome State Fault Refusal :=
  runWord (.wait yld any n f t) (do
    let count := n.toNat + 1
    let past := f.toNat + 2 * count
    legalM (decide (past ≤ 32))
    legalM (!(decide (f.toNat ≤ t.toNat) && decide (t.toNat < past)))
    ownM
    let cs := descriptors (← readFrom f.toNat (2 * count))
    kindsM cs
    let v ← readS t
    legalM (!((← getM (·.me.ctx.inHandler)) && v != 0))
    legalM ((← getM (·.cur.kind)) == .main || cs.all fun c => decide (kindOf c.1 ≤ 4))
    if yld && (← getM (·.me.task)).isSome then yieldM any cs v
    else
      match ← getM (·.me.mark) with
      | .value r => writeS t r
      | .none | .done | .left _ | .again | .trap _ _ => firstLookM any cs v t) s

/-- The conditions of a sleeping `WAIT` looked at as its own agent, in committed state. -/
def State.lookAt (s : State) (a : AgentId) (cs : List (Word × Word)) : Except Stop (List Bool) :=
  let t := s.focus a
  match condsM cs { t with unit := { own := true } } with
  | .ok x => .ok x.1
  | .error e => .error e

/-- Whether a tick lies past a deadline: in the deadline's own tick the mode still wins (R36). -/
def pastDeadline (d : Option Nat) (tick : Nat) : Bool := d.any fun t => t < tick

/-- Whether an outside read of an agent's sleeping `WAIT` is on its way. -/
def State.reading (s : State) (a : AgentId) : Bool := s.fab.exts.any fun x => x.agent == some a && (s.agent a).awaits x

/-- A sleeping `WAIT` evaluates again: it ends when its mode is met or, at its timeout, in any case; past its deadline it has expired with its
mode unmet, whatever it finds now (log entry 81). A failing pointer leaves its trap, an access that must wait is made later, and a counter pair
outside the package is read anew for each evaluation (log entry 94). -/
def State.reevaluate (s : State) (a : AgentId) (expired : Bool) : State :=
  let g := s.agent a
  match g.act with
  | .asleep (.wait cs any d _) since =>
    match s.lookAt a cs with
    | .ok bs =>
      let s := s.asAgent a (·.pinConds cs)
      let g := g.forget cs
      let late := pastDeadline d s.tick
      if modeMet any bs && !late then s.setAgent a { g with act := .running, mark := .value (waitResult bs false) }
      else if expired || late then s.setAgent a { g with act := .running, mark := .value (waitResult bs true) }
      else s.setAgent a { g with act := .asleep (.wait cs any d (firstFalse cs bs)) since }
    | .error (.trap c v) => s.setAgent a { g with act := .running, mark := .trap c v }
    | .error (.outside host dev pod addr op p cov) =>
      if s.reading a then s else s.asAgent a (·.sendExt host dev pod addr op p cov)
    | .error _ => s
  | .asleep _ _ | .idle | .running | .stopped | .retired => s

/-- Event `WAIT_EVALUATE` (R35). -/
def execWaitEvaluate (a : AgentId) (s : State) : Host.Outcome State Fault Refusal := .next (s.reevaluate a false)

/-- Event `WAIT_TIMEOUT` (R36): at or after its deadline a `WAIT` evaluates for the last time. -/
def execWaitTimeout (a : AgentId) (s : State) : Host.Outcome State Fault Refusal :=
  match (s.agent a).act with
  | .asleep (.wait _ _ (some d) _) _ => .next (if d ≤ s.tick then s.reevaluate a true else s)
  | _ => .next s

/-! ## `BAR` and `VOTE` (R278, R406) -/

/-- The strands of a gang that have not retired. -/
def State.gangStrands (s : State) (job gang : Nat) : List (AgentId × Agent) :=
  (s.strands job).filter fun ag => ag.2.gang % 512 == gang

/-- Whether every strand of a gang has arrived at its barrier. -/
def State.barReady (s : State) (job gang : Nat) : Bool :=
  let xs := s.gangStrands job gang
  xs != [] && xs.all fun ag => ((tabGet gang (s.job job).bars).getD []).contains ag.1

/-- A strand that has arrived may complete. -/
def Agent.released (g : Agent) : Agent :=
  match g.act with
  | .asleep .bar _ | .asleep .vote _ => { g with act := .running, mark := .done }
  | .asleep _ _ | .idle | .running | .stopped | .retired => { g with mark := .done }

/-- The barrier completes on every strand of the gang. -/
def State.completeBar (s : State) (job gang : Nat) : State :=
  let at_ := (tabGet gang (s.job job).bars).getD []
  let s := s.modJob job fun j => { j with bars := tabDel gang j.bars }
  at_.foldl (fun s a => s.modAgent a Agent.released) s

/-- The commit of a `VOTE` (R40). Where it changes `WGEN` it has ended and committed every open chunk of the span first, so that none runs across the
change (R171). A group whose link is dead already when it is configured is rerouted or DEAD from the start (R184). -/
def State.commitVote (s : State) (job : Nat) : State :=
  let s := if s.fenceStaged job then (s.openHelpers job).foldl (fun s a => s.grantOf a) s else s
  let keys := (s.strands job).flatMap fun ag => ag.2.ctx.staged.gcfg.map fun x => ag.1.core * 64 + x.1
  let t := s.commitStaged job
  t.groupsDeath (t.groups.filter fun kg => keys.contains kg.1)

/-- An arrival at `BAR` or `VOTE`: complete at once when it is the last, else asleep. -/
def meetM (k : Sleep) (ready : State → Bool) (complete : State → State) : M Unit := do
  let g ← getM (·.me)
  legalM (g.task.isNone && !g.ctx.inHandler)
  ownM
  if g.mark == .done then pure ()
  else
    let s ← getM (·.arrive k)
    if ready s then modM fun _ => complete s else restM k (pure ())

/-- `BAR` (R278). -/
def execBar (la : BitVec 4) (s : State) : Host.Outcome State Fault Refusal :=
  runWord (.bar la) (meetM .bar (fun s => s.barReady s.myJob (s.me.gang % 512))
    (fun s => s.completeBar s.myJob (s.me.gang % 512))) s

/-- `VOTE` (R406). -/
def execVote (la : BitVec 4) (s : State) : Host.Outcome State Fault Refusal :=
  runWord (.vote la) (meetM .vote (fun s => s.voteReady s.myJob) (fun s => s.commitVote s.myJob)) s

/-- Event `BAR_COMPLETE` (R278). -/
def execBarComplete (asid job gang : Nat) (s : State) : Host.Outcome State Fault Refusal :=
  let k := jobKey asid job
  .next (if s.barReady k gang then s.completeBar k gang else s)

/-- Event `VOTE_COMMIT` (R40, R168). -/
def execVoteCommit (asid job : Nat) (s : State) : Host.Outcome State Fault Refusal :=
  let k := jobKey asid job
  .next (if s.voteReady k then s.commitVote k else s)

/-! ## Tasks and the ends of streams -/

/-- The record at `p` becomes a new WAITING record of the issuer's job (R368, R422). -/
def spawnRec (p : Word) : D Unit := do
  let w ← devGet (·.who)
  recWrite w p 0x38 (leBytes 8 (← devGet (·.me.job)))
  recState w p 0
  devMod fun s => s.modJob s.myJob fun j =>
    { j with recs := j.recs.filter (fun r => r.ptr != p) ++ [({ ptr := p, at_ := .waiting, cluster := clusterOf s.cur.core } : Rec)] }

/-- `SPAWN` (R368). -/
def execSpawn (la : BitVec 4) (a : Reg) (s : State) : Host.Outcome State Fault Refusal :=
  runWord (.spawn la a) (do
    legalM (!(← getM (·.me.ctx.inHandler)))
    ownM
    let p ← readS a
    let (_, pl) ← accessM p { rd := false, wr := true, n := 64, align := 64, raw := true, spaces := [0] }
    match pl with
    | .mem segs => claimM segs p
    | .table _ | .capBlock _ | .outside _ _ _ _ => trapM .handle p
    match ← devM (spawnRec p) with
    | .ok () => pure ()
    | .error c =>
      let _ ← devM (endMyJob c)) s

/-- `SUSPEND` (R375, R376). -/
def execSuspend (la : BitVec 4) (a b : Reg) (s : State) : Host.Outcome State Fault Refusal :=
  runWord (.suspend la a b) (do
    legalM (← getM (·.maySuspend))
    ownM
    let v ← readS a
    let n := wbits v 36 3
    needM (suspendGood v b.toNat) (.trap .illegal v)
    let conds ← readFrom b.toNat n
    suspendM v b.toNat n conds) s

/-- The end of the current agent's stream (R359): windows close, statistics are flushed, bindings, levels and staged values are
dropped; a strand's partial stays for the phase's `VOTE` (R169); a task's record becomes RETIRED and its core is free. -/
def retireAgent : D Unit := do
  devMod State.landAll
  let w ← devGet (·.who)
  flushCore w w.aid.core
  devMod fun s => s.modCtx fun c => { c with binds := Vector.replicate 4 none, loops := [], loopReq := [], staged := {} }
  match ← devGet (·.me.task) with
  | none => devMod fun s =>
      (({ s with me := { s.me with act := .retired } }).modCore s.cur.core fun k => { k with idle := s.now }).endAs .gone
  | some p =>
    match ← devTry (recState w p 3) with
    | .ok () => devMod fun s => (s.placeRec p .retired (clusterOf s.cur.core)).freeCore
    | .error c => endMyJob c

/-- `RETIRE` (R359). -/
def execRetire (la : BitVec 4) (s : State) : Host.Outcome State Fault Refusal :=
  runWord (.retire la) (do
    legalM (!(← getM (·.me.ctx.inHandler)))
    ownM
    let _ ← devM retireAgent) s

/-! ## Events of one agent -/

/-- Event `LATE_RESULT_LAND` (R99): results whose windows have closed land. -/
def execLateResultLand (a : AgentId) (s : State) : Host.Outcome State Fault Refusal := .next (s.asAgent a (·.landDue))

/-- Event `COMMIT_GRANT` (R107): a chunk that waits for its grant commits, unless a reservation of another agent or an owned line forbids
it (R109, R129). -/
def execCommitGrant (a : AgentId) (s : State) : Host.Outcome State Fault Refusal :=
  .next (s.asAgent a fun s => if s.me.chunk.ended && !s.grantWaits then s.grant else s)

/-- Event `USER_INTERRUPT_ENTRY` (R59, R60): between two units, with the chunk ended and committed first. -/
def execUserInterruptEntry (core : Nat) (s : State) : Host.Outcome State Fault Refusal :=
  .next (s.asAgent ⟨core, .main⟩ fun s =>
    let c := s.me.ctx
    if s.me.act == .running && s.me.mark == .none && s.me.got.isEmpty && c.uiPending && !c.inHandler then
      (if s.me.chunk.count = 0 then s.enterInterrupt else s.endChunk)
    else s)

/-- The state registers that have a dirty bit: those a core has for itself and software writes (R57, R61). -/
def dirtySrs : List Nat := [0x10, 0x11, 0x12, 0x13, 0x14, 0x15, 0x1A, 0x50, 0x51, 0x52, 0x53, 0x54, 0x60]

/-- Whether a register code names one of the 64 registers that have a dirty bit, set or not (R57): what a parity sweep covers (R58). -/
def hasDirtyBit (code : Nat) : Bool := (code != 0 && code < 52) || (0x400 ≤ code && dirtySrs.contains (code - 0x400))

/-- Whether a register code has a dirty bit that is set (R57). -/
def Ctx.dirtyCode (c : Ctx) (code : Nat) : Bool :=
  if code < 52 then c.dirty.testBit code else 0x400 ≤ code && c.dirty.testBit (code - 0x400 + 128)

/-- Whether a register code lies in the volatile range of a job's kernel header (R54, R56). -/
def Job.volatile (j : Job) (code : Nat) : Bool :=
  let h := wordAt j.hdr 3
  if code < 32 then wbits h 8 5 ≤ code && code < wbits h 8 5 + wbits h 13 6
  else code < 48 && wbits h 24 4 ≤ code - 32 && code - 32 < wbits h 24 4 + wbits h 28 5

/-- A scalar or tile register given free values of an address space, from number `free` on (R5, R56, R58). -/
def Ctx.forget (c : Ctx) (code asid free : Nat) : Ctx :=
  if code = 0 then c
  else if h : code < 32 then { c with regs := c.regs.set code (Config.freeWord asid free) h }
  else if code < 48 then
    { c with tiles := Vector.ofFn fun i : Fin 128 =>
        if i.val / 8 = code - 32 then Config.freeRow asid (free + i.val % 8) else c.tiles[i] }
  else c

/-- One register found bad by the parity sweep (R58). A job's volatile range has no effect on its tasks (R56). In a handler a code of `s24`–`s31` names
the register of the handler's bank (the model's choice, log entry 26). -/
def State.parityAt (s : State) (a : AgentId) (code : Nat) : State :=
  let g := s.agent a
  if !hasDirtyBit code then s
  else if g.task.isNone && (s.job (jobKey g.asid g.job)).volatile code then
    (s.setAgent a { g with ctx := g.ctx.forget code g.asid (s.drawn g.asid) }).draw g.asid 8
  else s.setAgent a { g with parity := some (match g.parity with
    | some c => min c code
    | none => code) }

/-- Event `CORE_WAKE` (R58, R208): a gated or sleeping core wakes, and the sweep finds the registers `bad`. -/
def execCoreWake (core : Nat) (bad : List Nat) (s : State) : Host.Outcome State Fault Refusal :=
  let a : AgentId := ⟨core, .main⟩
  let sleeping := match (s.agent a).act with
    | .asleep _ _ => true
    | .idle | .running | .stopped | .retired => false
  if !(s.core core).gated && !sleeping then .next s
  else .next (bad.foldl (fun s c => s.parityAt a c) (s.modCore core fun k => { k with gated := false }))

/-- Whether no agent runs on a core. -/
def State.coreEmpty (s : State) (core : Nat) : Bool :=
  [AgentKind.main, .loader, .storer].all fun k =>
    let x := (s.agent ⟨core, k⟩).act
    x == .idle || x == .retired

/-- Event `CORE_GATE` (R208): a core without an agent for 20 µs is gated. -/
def execCoreGate (core : Nat) (s : State) : Host.Outcome State Fault Refusal :=
  .next (if s.coreExists core && s.coreEmpty core && (s.core core).idle + 20000 ≤ s.now then
    s.modCore core fun k => { k with gated := true } else s)

/-- Event `TABLE_RECHECK_DONE` (R71): a running re-check ends; `TABBAD` is read from the table itself. -/
def execTableRecheckDone (a : AgentId) (s : State) : Host.Outcome State Fault Refusal :=
  .next (s.modAgent a fun g => { g with ctx := { g.ctx with recheck := false } })

/-- The table of the current core loaded with a preset, in its agent's chunk where one is open. -/
def State.loadPreset (s : State) (k : Nat) (inChunk : Bool) : State :=
  let segs := [(tableAddr s.cur.core 0, 1024)]
  let s := s.modCtx fun c => { c with preset := none, recheck := true, dirty := c.dirty ||| 2 ^ 64 }
  if !inChunk then (s.squashOthers (segLines segs)).pokeSegs segs (presetBytes k)
  else (s.noteWrites (segLines segs)).modChunk fun c => { c with held := holdSegs segs (presetBytes k) c.held }

/-- Event `PRESET_LOAD` (R69): the preset is loaded, once no reservation forbids it (R109), and a re-check starts. -/
def execPresetLoad (a : AgentId) (s : State) : Host.Outcome State Fault Refusal :=
  .next (s.asAgent a fun s => match s.me.ctx.preset with
    | some k => if s.me.chunk.count = 0 && s.reserved (tableLines s.cur.core) then s else s.loadPreset k (s.me.chunk.count != 0)
    | none => s)

end Sys2Proof.Machine
end

