-- ==== Sys2Proof/Machine/Dispatcher.lean ====
section
/-! DEFINITION. The dispatcher: job streams, placement of spans, records and tasks, completion, and the hang summaries (R23–R46, R54, R55,
R136, R202, R422). -/

namespace Sys2Proof.Machine

/-! ## Free clusters and stopping agents (R24, R198, R202) -/

/-- Whether a job holds its clusters: a span placed, about to start, being stopped or resumed, or stopped for migration. -/
def Job.occupies (j : Job) : Bool :=
  !j.bag && (match j.stage with
    | .waiting | .running | .stopping | .resuming => true
    | .off => j.why == .thermal)

/-- Whether a cluster holds a frozen slice (R195). -/
def State.frozenCluster (s : State) (k : Nat) : Bool := s.mem.frozen.any fun c => clusterOf c == k

/-- Whether a cluster belongs to the pair that is being moved (R211). -/
def State.onMove (s : State) (k : Nat) : Bool := s.plant.moving.any fun x => x.1 == pairOf k

/-- Whether a cluster is free for a gang (R24). -/
def State.freeCluster (s : State) (k : Nat) : Bool :=
  !s.frozenCluster k && !s.onMove k && !(s.jobs.any fun kj => kj.2.occupies && kj.2.gangs.contains k)

/-- The free clusters of a partition, ascending. -/
def State.freeClusters (s : State) (asid : Nat) : List Nat := (s.clustersOf asid).filter s.freeCluster

/-- An agent told to stop (R198): a sleeper of a listed kind stops without completing, a `WAIT` with the ticks it has left; an agent
that runs, or sleeps in an access of its own, stops at its next boundary. -/
def Agent.halt (g : Agent) (tick : Nat) : Agent :=
  match g.act with
  | .running => { g with stopReq := true }
  | .asleep k _ =>
    match k with
    | .wait _ _ d _ => { g with act := .stopped, mark := match d with
        | some t => .left (t - tick)
        | none => .again }
    | .bar | .vote | .pdeq | .orecv | .penq _ | .pdone _ => { g with act := .stopped, mark := .again }
    | .hold _ _ _ _ _ _ | .ext _ => { g with stopReq := true }
  | .idle | .stopped | .retired => g

/-- A job's record given another place. -/
def State.moveRec (s : State) (job : Nat) (p : Word) (at_ : RecAt) : State :=
  s.modJob job fun j => { j with recs := j.recs.map fun r => if r.ptr = p then { r with at_ := at_ } else r }

/-- The bytes of a core's decode table. -/
def State.tableBytes (s : State) (core : Nat) : List Byte := bytesAt s.mem.bytes (tableAddr core 0) 1024

/-- Whether a core can bind an image slot for a job (R199). -/
def State.slotFor (s : State) (core job : Nat) : Bool :=
  let xs := (s.core core).images
  xs.length < 2 || xs.any (·.job == job)

/-- A stopped task as its image holds it: every register is stored, so no dirty bit stays set (R57). -/
def Agent.saved (g : Agent) : Agent := { g with ctx := { g.ctx with dirty := 0 } }

/-- The image slot that a job binds on a core whose stopped task goes into the image of its record (R199, R202). -/
def State.bindSlot (s : State) (core key : Nat) (g : Agent) : State :=
  let keep (i : Image) : Image := if i.job = key then { i with kept := some g } else i
  s.modCore core fun c =>
    let xs := if c.images.any fun i => i.job == key then c.images else c.images ++ [⟨key, [], [], none, none⟩]
    { c with images := xs.map keep }

/-- A stopped task saved into an image bound to its record, at the head of its cluster's queue (R202); its job binds an image slot of the core
(R199). -/
def State.requeue (s : State) (core : Nat) (p : Word) : State :=
  let s := s.presetNow ⟨core, .main⟩
  let g := s.agent ⟨core, .main⟩
  let k := clusterOf core
  let e : TaskEnt := ⟨p, g.asid, g.job, 7, s.now, some (g.saved, s.tableBytes core), false⟩
  let s := (s.modCluster k fun c => { c with tasks := e :: c.tasks }).moveRec (jobKey g.asid g.job) p (.queued k)
  (s.bindSlot core (jobKey g.asid g.job) g.saved).leaveCore ⟨core, .main⟩

/-- A core cleared of the task it runs (R202): the task is told to stop; once stopped its core's statistics are flushed (R83) and it is
saved. -/
def evict (core : Nat) : D Unit := do
  let a : AgentId := ⟨core, .main⟩
  let g ← devGet (·.agent a)
  match g.task with
  | none => pure ()
  | some p =>
    let job := jobKey g.asid g.job
    if g.act == .stopped then
      flushCore (← devGet (·.whoOf g.asid job a)) core
      devMod (·.requeue core p)
    else if ← devGet (·.slotFor core job) then devMod fun s => s.modAgent a (·.halt s.tick)

/-- Whether every agent of a core is gone. -/
def State.vacant (s : State) (core : Nat) : Bool :=
  [AgentKind.main, .loader, .storer].all fun k => (s.agent ⟨core, k⟩).act == .idle

/-! ## Job streams (R41–R44) -/

/-- The virtual address of a stream's head slot. -/
def Stream.slotVa (x : Stream) : Nat := (x.base.toNat + 64 * x.head) % 2 ^ 64

/-- What the dispatcher finds at the head of a stream. -/
inductive HeadSlot where
  | nothing
  | failed
  | slot (pa : Nat) (words : List Word)
  deriving DecidableEq, Repr

/-- Whether a job of a stream has been taken and not started (R42). -/
def State.starting (s : State) (st : Nat) : Bool := s.jobs.any fun kj => !kj.2.bag && kj.2.stage == .waiting && kj.2.stream == st

/-- The head slot of a stream: nothing while the stream is not watched, a job of an earlier slot has not started, the slot is not full, or its
line is owned or reserved (R42, R109, R129). -/
def State.headSlot (s : State) (st : Nat) : HeadSlot :=
  match tabGet st s.streams with
  | none => .nothing
  | some x =>
    if 64 ≤ st || !x.sv || x.skip || !s.live x.asid || s.starting st then .nothing
    else
      match s.translate hubCaches x.asid x.slotVa false false with
      | none => .failed
      | some pa =>
        if !s.fullAt pa || s.ownedAny [lineOf pa] || s.reservedAny [lineOf pa] then .nothing
        else if (s.translate hubCaches x.asid x.slotVa true false).isNone then .failed
        else .slot pa (leWords 8 (bytesAt s.mem.bytes pa 64))

/-- `JKIND`, `JPRIO`, `JDET`, `NGANG` + 1 and `NSTR` + 1 of a slot. -/
def jKind (ws : List Word) : Nat := wbits (wordAt ws 0) 0 2
/-- `JPRIO`. -/
def jPrio (ws : List Word) : Nat := wbits (wordAt ws 0) 2 3
/-- `JDET`. -/
def jDet (ws : List Word) : Bool := wbit (wordAt ws 0) 5
/-- `NGANG` + 1. -/
def jGangs (ws : List Word) : Nat := wbits (wordAt ws 0) 8 9 + 1
/-- `NSTR` + 1. -/
def jStrands (ws : List Word) : Nat := wbits (wordAt ws 0) 17 3 + 1

/-- The check of `DONEP` as the slot is taken (R43): 8 bytes, or 56 in deterministic mode. -/
def State.donepCheck (s : State) (asid : Nat) (ws : List Word) : Except Cause Place :=
  s.donepPlace ⟨asid, ⟨0, .main⟩, 0, false, 0⟩ (wordAt ws 3) (if jDet ws then 56 else 8)

/-- Whether a span of the partition that had waited 1 ms has its clusters and is not placed yet, with this priority or a higher one (R44). -/
def State.unplaced (s : State) (asid prio : Nat) : Bool :=
  s.jobs.any fun kj => kj.2.asid == asid && kj.2.stage == .waiting && kj.2.blocks && prio ≤ kj.2.prio

/-- Whether another span of the partition has waited 1 ms and is not placed yet: it has a higher priority, or the same one and has its
clusters already or waits longer at its head (R44). -/
def State.blocked (s : State) (st asid prio : Nat) (since : Option Nat) : Bool :=
  s.unplaced asid prio || s.streams.any fun x => x.1 != st && x.2.asid == asid && x.2.blocks &&
    (match s.headSlot x.1 with
      | .slot _ ws => prio < jPrio ws || (prio == jPrio ws && match x.2.waitAt, since with
          | some t, some u => t < u || (t == u && x.1 < st)
          | some _, none | none, some _ | none, none => true)
      | .nothing | .failed => false)

/-- Whether a span at a head must wait there for clusters (R44). -/
def State.mustWait (s : State) (st : Nat) (x : Stream) (ws : List Word) : Bool :=
  match s.donepCheck x.asid ws with
  | .error _ => false
  | .ok _ => jKind ws == 0 && jGangs ws ≤ (s.clustersOf x.asid).length &&
      ((s.freeClusters x.asid).length < jGangs ws || s.blocked st x.asid (jPrio ws) x.waitAt)

/-- The streams whose head slot may be taken, with its priority. -/
def State.takeables (s : State) : List (Nat × Nat) :=
  s.streams.filterMap fun x => match s.headSlot x.1 with
    | .slot _ ws => if s.mustWait x.1 x.2 ws then none else some (x.1, jPrio ws)
    | .nothing | .failed => none

/-- The stream taken next: highest priority, then round-robin by number (R44). -/
def State.nextStream (s : State) : Option Nat :=
  let xs := s.takeables
  let top := xs.foldl (fun m x => max m x.2) 0
  let dist (st : Nat) : Nat := (st + 63 - s.lastTaken) % 64
  (xs.filter fun x => x.2 == top).foldl (fun m x => match m with
    | none => some x.1
    | some b => if dist x.1 < dist b then some x.1 else some b) none

/-- The next job number of an address space (R42). -/
def State.nextJob (s : State) (asid : Nat) : Nat :=
  let n := (tabGet asid s.jobCount).getD 0
  if n = 2 ^ 31 - 1 then 1 else n + 1

/-- A job made of a slot. -/
def State.makeJob (s : State) (st : Nat) (x : Stream) (ws : List Word) : Job :=
  { asid := x.asid, id := s.nextJob x.asid, bag := jKind ws != 0, prio := jPrio ws, det := jDet ws, donep := wordAt ws 3, stream := st
    slotIx := x.head, entry := wordAt ws 1, arg := wordAt ws 2, ngang := jGangs ws, nstr := jStrands ws
    next := if jKind ws = 1 then some (wordAt ws 1) else none
    stage := if jKind ws = 0 then .waiting else .running, blocks := x.blocks }

/-- A slot freed for its producer, and its stream on to the next (R42). -/
def State.freeSlot (s : State) (st : Nat) (x : Stream) (pa : Nat) : State :=
  let s := (s.squashAll [lineOf pa]).setTag pa false
  { s with
    lastTaken := st
    streams := tabSet st { x with head := (x.head + 1) % 2 ^ x.logn, waitAt := none, blocks := false } s.streams }

/-- A job that no partition of its size can hold, or of no kind (R41, R44). -/
def State.jobBad (s : State) (x : Stream) (ws : List Word) : Bool :=
  2 ≤ jKind ws || (jKind ws == 0 && (s.clustersOf x.asid).length < jGangs ws)

/-- A job entered, with the clusters its gangs take (R24). -/
def State.enterJob (s : State) (j : Job) : State :=
  let j := if j.bag then j else { j with gangs := (s.freeClusters j.asid).take j.ngang }
  { s with jobs := tabSet (jobKey j.asid j.id) j s.jobs }

/-- The head slot of a stream taken (R42–R44). -/
def takeHead (st : Nat) (x : Stream) (pa : Nat) (ws : List Word) : D Unit := do
  devMod (·.freeSlot st x pa)
  match ← devGet (·.donepCheck x.asid ws) with
  | .error c => devMod (·.streamError st x.head c.code)
  | .ok _ =>
    let j ← devGet (·.makeJob st x ws)
    devMod fun s => { s with jobCount := tabSet x.asid j.id s.jobCount }
    if ← devGet (·.jobBad x ws) then finishWord j (Cause.illegal).code []
    else devMod (·.enterJob j)

/-- Event `TAKE_SLOT` (R42–R44): the stream whose turn it is; a span that finds too few free clusters waits at its head. -/
def execTakeSlot (st : Nat) (s : State) : Host.Outcome State Fault Refusal :=
  match tabGet st s.streams with
  | none => .next s
  | some x =>
    match s.headSlot st with
    | .nothing => .next s
    | .failed =>
      let s := s.streamError st x.head (Cause.page).code
      .next (match tabGet st s.streams with
        | some y => { s with streams := tabSet st { y with skip := true } s.streams }
        | none => s)
    | .slot pa ws =>
      if s.mustWait st x ws then
        .next { s with streams := tabSet st { x with waitAt := some (x.waitAt.getD s.now) } s.streams }
      else if s.nextStream = some st then .next (s.attempt (takeHead st x pa ws))
      else .next s

/-- Event `SPAN_WAIT_1MS` (R44). -/
def execSpanWait1ms (st : Nat) (s : State) : Host.Outcome State Fault Refusal :=
  match tabGet st s.streams with
  | none => .next s
  | some x =>
    match x.waitAt with
    | none => .next s
    | some t => .next (if t + 1000000 ≤ s.now then { s with streams := tabSet st { x with blocks := true } s.streams } else s)

/-! ## Placement of a span (R24, R54, R55) -/

/-- `VSF`, `VSN`, `VTF`, `VTN`, `HVER`, `MAINPC`, `LLEN`, `LOADPC`, `SLEN` and `STORPC` break no rule of R54. -/
def headerGood (h : List Word) : Bool :=
  let v := wordAt h 3
  let ll := wbits (wordAt h 7) 0 32
  let sl := wbits (wordAt h 7) 32 32
  let start (pc : Word) (len : Nat) : Bool := len == 0 || (pc.toNat % 8 == 0 && pc.toNat < len)
  wbits v 0 8 == 1 && wbits v 8 5 + wbits v 13 6 ≤ 32 && wbits v 24 4 + wbits v 28 5 ≤ 16 && (wordAt h 0).toNat % 8 == 0 &&
    ll ≤ 16384 && ll % 8 == 0 && sl ≤ 16384 && sl % 8 == 0 && start (wordAt h 1) ll && start (wordAt h 2) sl

/-- `LLEN` and `SLEN`. -/
def imageLen (h : List Word) (storer : Bool) : Nat := wbits (wordAt h 7) (if storer then 32 else 0) 32

/-- The accessor of a span's kernel header and code images: the main strand of its first gang (R55). -/
def State.whoMain (s : State) (j : Job) : Who := s.whoOf j.asid (jobKey j.asid j.id) ⟨8 * j.gangs.headD 0, .main⟩

/-- 8-byte loads one after another from a pointer on. -/
def readRun (w : Who) (p : Word) : Nat → D (List Byte)
  | 0 => pure []
  | n + 1 => do
    let b ← readAt w p { rd := true, wr := false, n := 8, align := 8 }
    let bs ← readRun w (ptrAdd p 8) n
    pure (b ++ bs)

/-- A code image read as 8-byte loads through the main strand's handle table (R55). -/
def codeImage (w : Who) (h : List Word) (storer : Bool) : D (List Byte) :=
  readRun w (wordAt h (if storer then 6 else 5)) (imageLen h storer / 8)

/-- The kernel header and the two code images of a span; a failure ends it before any strand starts (R54). A header whose own read fails
R87, for which the manual names no status, ends it with that trap's (log entry 76). -/
def readKernel (j : Job) : D (List Word × List Byte × List Byte) := do
  let w ← devGet (·.whoMain j)
  if j.entry.toNat % 64 != 0 then devFail .align
  let h := leWords 8 (← readAt w j.entry { rd := true, wr := false, n := 64, align := 64 })
  if !headerGood h then devFail .illegal
  if (imageLen h false != 0 && (wordAt h 5).toNat % 8 != 0) || (imageLen h true != 0 && (wordAt h 6).toNat % 8 != 0) then
    devFail .align
  let l ← codeImage w h false
  let t ← codeImage w h true
  pure (h, l, t)

/-- The instruction stores of a core filled: the code from offset 0 on, and zeros after it (R55). -/
def State.fillStores (s : State) (l t : List Byte) (core : Nat) : State :=
  let fill (s : State) (storer : Bool) (bs : List Byte) : State :=
    s.poke (istoreAddr core storer 0) (bs ++ List.replicate (16384 - bs.length) 0)
  fill (fill s false l) true t

/-- Tiles with free values of an address space, from number `n` on (R5, R28). -/
def freeTiles (asid n : Nat) : Vector Row 128 := Vector.ofFn fun i : Fin 128 => Config.freeRow asid (n + i.val)

/-- Every dirty bit (R57): `s1`–`s31`, the tiles, the bindings, the decode table, the micro-program store and the state registers. -/
def allDirty : Nat := (dirtySrs.map srDirty).foldl (· ||| ·) (2 ^ 52 - 2 + 2 ^ 64 + 2 ^ 65)

/-- The main strand of a span as it starts (R41, R54, R61, R217). -/
def State.freshStrand (s : State) (j : Job) (h : List Word) (gang slot : Nat) : Agent :=
  { act := .running, asid := j.asid, job := j.id, gang := gang + 512 * slot
    ctx := { regs := (Vector.replicate 32 (0 : Word)).set 1 j.arg, tiles := freeTiles j.asid (s.drawn j.asid), pc := wordAt h 0
             uivec := wordAt h 4, tvec := s.pdWord j.asid 4, dirty := allDirty } }

/-- A loader or storer as it starts (R54, R55). -/
def freshHelper (j : Job) (h : List Word) (gang slot : Nat) (storer : Bool) : Agent :=
  let v := wordAt h 3
  let te := if storer then wbit v 45 else wbit v 33
  let tv := if storer then wbits v 46 11 else wbits v 34 11
  { act := .running, asid := j.asid, job := j.id, gang := gang + 512 * slot
    ctx := { pc := wordAt h (if storer then 2 else 1), tvec := BitVec.ofNat 64 (if te then 8 * tv else 0), dirty := allDirty } }

/-- The agents of one core of a span start. -/
def State.startCore (s : State) (j : Job) (h : List Word) (gang slot core : Nat) : State :=
  let s := (s.setAgent ⟨core, .main⟩ (s.freshStrand j h gang slot)).draw j.asid 128
  let s := if imageLen h false = 0 then s else s.setAgent ⟨core, .loader⟩ (freshHelper j h gang slot false)
  let s := if imageLen h true = 0 then s else s.setAgent ⟨core, .storer⟩ (freshHelper j h gang slot true)
  let s := s.poke (tableAddr core 0) (presetBytes 1)
  s.modCore core fun k => { k with deq := none }

/-- A job whose counts are flushed ends: everything it held is given back, and last its completion word is written. -/
def endWord (key : Nat) (j : Job) (status : Nat) : D Unit := do
  let cov ← devGet (·.jobOutside key)
  devMod (·.clearJob key)
  finishWord j status cov

/-- A job ends with a status: first what it still counts is flushed (R83). -/
def completeWith (key : Nat) (j : Job) (status : Nat) : D Unit := do
  flushJob j.asid key
  endWord key j status

/-- Every gang of a span started with its header and code. -/
def State.startSpan (s : State) (j : Job) (h : List Word) (l t : List Byte) : State :=
  let cores := j.cores
  let s := cores.foldl (fun s c => s.fillStores l t c) s
  let s := { s with groups := s.groups.filter fun kg => !cores.contains (kg.1 / 64) }
  let s := s.modJob (jobKey j.asid j.id) fun j => { j with stage := .running, hdr := h }
  (j.gangs.mapIdx fun g k => (g, k)).foldl (fun s gk =>
    (List.range j.nstr).foldl (fun s i => s.startCore j h gk.1 i (8 * gk.2 + i)) s) s

/-- Every gang of a span placed at once. -/
def placeNow (j : Job) : D Unit := do
  match ← devTry (readKernel j) with
  | .error c => completeWith (jobKey j.asid j.id) j c.code
  | .ok (h, l, t) => devMod (·.startSpan j h l t)

/-- A task that was told to stop, on a core that is not needed any more, goes on. -/
def Agent.unstop (g : Agent) : Agent :=
  if g.task.isNone then g else { g with stopReq := false, act := if g.act = .stopped then .running else g.act }

/-- Whether a cluster may take a gang that is about to be placed: it has no frozen slice and is not on the move (R195, R211). -/
def State.usable (s : State) (k : Nat) : Bool := !s.frozenCluster k && !s.onMove k

/-- Other clusters for a span that waits for its cores, as soon as enough are free: one of those it took has become unusable. -/
def State.regang (s : State) (key : Nat) (j : Job) : State :=
  let t := s.modJob key fun j => { j with gangs := [] }
  let ks := t.freeClusters j.asid
  if ks.length < j.ngang then s
  else
    let t := j.cores.foldl (fun t c => t.modAgent ⟨c, .main⟩ Agent.unstop) t
    t.modJob key fun j => { j with gangs := ks.take j.ngang }

/-- A span that waits for its cores: their tasks are cleared away, and once they are vacant it is placed. -/
def placeSpan (key : Nat) (j : Job) : D Unit := do
  if !(← devGet fun s => j.gangs.all s.usable) then devMod (·.regang key j)
  else
    j.cores.forM evict
    if ← devGet fun s => j.cores.all s.vacant then placeNow j

/-- Event `SPAN_PLACE` (R24): once the cores of its slots are clear of tasks, a span is placed. -/
def execSpanPlace (asid job : Nat) (s : State) : Host.Outcome State Fault Refusal :=
  match tabGet (jobKey asid job) s.jobs with
  | none => .next s
  | some j =>
    if j.bag || j.stage != .waiting then .next s
    else
      .next (s.attempt (placeSpan (jobKey asid job) j))

/-! ## Records and tasks (R27–R33, R44, R45) -/

/-- The accessor by which the dispatcher and the readiness test read and write the records of a job. The manual names no core for them, so a
record, a condition or a `LINK` through a stash handle names the slice of core 0: the model's choice (R422; log entry 76). Generations are
compared against 0, as a task's are (R171). -/
def State.recWho (s : State) (j : Job) : Who := { s.whoOf j.asid (jobKey j.asid j.id) ⟨0, .main⟩ with wgen := 0 }

/-- Entries of a cluster's task queue: its READY records and stopped tasks, and the records of bags that entered it WAITING (R31, R44). -/
def State.queueLoad (s : State) (k : Nat) : Nat :=
  (s.cluster k).tasks.length + (s.jobs.map fun kj => (kj.2.recs.filter fun r => r.entry && r.cluster == k).length).sum

/-- The cluster that receives the next record of any bag of a partition (R44). -/
def State.nextCluster (s : State) (asid : Nat) : Nat :=
  let ks := s.clustersOf asid
  match tabGet asid s.bagRot with
  | none => ks.headD 0
  | some k => (ks.find? fun x => k < x).getD (ks.headD 0)

/-- A bag's record entered in the queue of a cluster, WAITING, and the chain followed: a `LINK` of 0 or to a record taken before ends it. -/
def State.enterRecord (s : State) (key asid k : Nat) (p link : Word) : State :=
  ({ s with bagRot := tabSet asid k s.bagRot }).modJob key fun j =>
    let taken := p :: j.taken
    { j with
      taken := taken, next := if link = 0 || taken.contains link then none else some link
      recs := j.recs ++ [({ ptr := p, at_ := .waiting, cluster := k, entry := true } : Rec)] }

/-- The next record of a bag taken (R422): its head read, its job and its `STATE` written. -/
def takeRecord (key k : Nat) (j : Job) (p : Word) : D Unit := do
  if p.toNat % 64 != 0 then devFail .align
  let w ← devGet (·.recWho j)
  let link := wordAt (leWords 8 (← recRead w p 0 64)) 2
  recWrite w p 0x38 (leBytes 8 j.id)
  recState w p 0
  devMod (·.enterRecord key j.asid k p link)

/-- An operation on a job's records; one that fails a check ends the job with that trap's status (R422). -/
def orEnd (key : Nat) (m : D Unit) : D Unit := do
  match ← devTry m with
  | .ok () => pure ()
  | .error c => endJob key c.code true

/-- Event `BAG_RECORD_ENTER` (R44, R422): the dispatcher takes the next record of a bag. -/
def execBagRecordEnter (asid job : Nat) (s : State) : Host.Outcome State Fault Refusal :=
  let key := jobKey asid job
  match tabGet key s.jobs with
  | none => .next s
  | some j =>
    match j.next with
    | none => .next s
    | some p =>
      let k := s.nextCluster asid
      if 256 ≤ s.queueLoad k then .next s else .next (s.attempt (orEnd key (takeRecord key k j p)))

/-- The job of an address space that a waiting record belongs to, with the record. -/
def State.waitingRec (s : State) (asid : Nat) (p : Word) : Option (Job × Rec) :=
  (s.jobs.filter fun kj => kj.2.asid == asid).findSome? fun kj =>
    (kj.2.recs.find? fun r => r.ptr == p && r.at_ == .waiting).map fun r => (kj.2, r)

/-- A record that became READY stands in the queue of its cluster. -/
def State.queueRecord (s : State) (key : Nat) (j : Job) (r : Rec) (prio : Nat) : State :=
  let e : TaskEnt := ⟨r.ptr, j.asid, j.id, prio, s.now, none, false⟩
  (s.modCluster r.cluster fun c => { c with tasks := c.tasks ++ [e] }).modJob key fun j => { j with
    recs := j.recs.map fun x => if x.ptr = r.ptr then { x with at_ := .queued r.cluster, entry := false } else x }

/-- The readiness of a record tested (R32); a ready one enters its cluster's queue. -/
def testRecord (key : Nat) (j : Job) (r : Rec) : D Unit := do
  let w ← devGet (·.recWho j)
  let ws := leWords 8 (← recRead w r.ptr 0 64)
  let n := wbits (wordAt ws 1) 36 3
  if ← (if 5 ≤ n then pure true else condsReady w ((ws.drop 3).take n)) then
    recState w r.ptr 1
    devMod (·.queueRecord key j r (wbits (wordAt ws 1) 32 3))

/-- Event `RECORD_READY` (R31–R33, R44, R422): a record that holds no entry of its queue waits at the dispatcher until one is free. -/
def execRecordReady (asid : Nat) (p : Word) (s : State) : Host.Outcome State Fault Refusal :=
  match s.waitingRec asid p with
  | none => .next s
  | some (j, r) =>
    let key := jobKey j.asid j.id
    if !r.entry && 256 ≤ s.queueLoad r.cluster then .next s else .next (s.attempt (orEnd key (testRecord key j r)))

/-- Effective priority (R45); a stopped task goes ahead of every READY record (R202). -/
def TaskEnt.rank (e : TaskEnt) (now : Nat) : Nat :=
  if e.image.isSome then 8 else min 7 (e.prio + (now - e.since) / 1000000)

/-- The best entry of a queue: highest rank, then READY earliest. -/
def bestTask (now : Nat) (es : List TaskEnt) : Option TaskEnt :=
  es.foldl (fun m e => match m with
    | none => some e
    | some b => if b.rank now < e.rank now || (b.rank now == e.rank now && b.image.isNone && e.since < b.since) then some e else some b) none

/-- The distance of two clusters (R45). -/
def State.distance (s : State) (k k' : Nat) : Nat :=
  let p := s.pairPos (pairOf k)
  let q := s.pairPos (pairOf k')
  (p.1 - q.1) + (q.1 - p.1) + (p.2 - q.2) + (q.2 - p.2) + bitNat (onDieU k != onDieU k')

/-- Whether a cluster's queue holds a READY record; the record of a stopped task is RUNNING (R202). -/
def Cluster.offers (c : Cluster) : Bool := c.tasks.any fun e => e.image.isNone

/-- The cluster a core of cluster `k` takes its record from (R45): its own, or the nearest that holds a READY record. -/
def State.sourceCluster (s : State) (asid k : Nat) : Option Nat :=
  if !(s.cluster k).tasks.isEmpty then some k
  else
    ((s.clustersOf asid).filter fun x => (s.cluster x).offers).foldl (fun m x => match m with
      | none => some x
      | some b => if s.distance k x < s.distance k b then some x else some b) none

/-- Registers of a record's tail: the live ones in ascending order, every other 0 (R28). -/
def tailRegs (live : Nat) (tail : List Word) : Vector Word 32 :=
  Vector.ofFn fun i : Fin 32 =>
    if live.testBit i.val && i.val != 0 then wordAt tail ((List.range i.val).filter live.testBit).length else 0

/-- The number of live registers that a head names. -/
def liveCount (ws : List Word) : Nat := ((List.range 32).filter (wbit (wordAt ws 1))).length

/-- Whether a head's `LIVE` and `TAIL` pass the tests of R29. -/
def tailGood (ws : List Word) : Bool :=
  let v := wordAt ws 1
  !wbit v 0 && liveCount ws ≤ 16 && (wbits v 0 32 == 0 || wbit v 40)

/-- The tail words of a head: those of its live registers, no others (R28). A head that fails R29 for its `LIVE` or `TAIL` brings none, and
its registers start at 0: the model's choice (log entry 76). -/
def readTail (w : Who) (p : Word) (ws : List Word) : D (List Word) := do
  if tailGood ws && liveCount ws != 0 then
    let bs ← recRead w p 0x40 (8 * liveCount ws)
    pure (leWords (liveCount ws) bs)
  else pure []

/-- Whether a core's start of a record finds its head at fault (R29). A target bundle that cannot be read is left to the fetch. -/
def headBad (w : Who) (ws : List Word) : D Bool := do
  let rest := !tailGood ws || 4 < wbits (wordAt ws 1) 36 3
  if rest || !wbit (wordAt ws 0) 2 then pure rest
  else
    match ← devTry (readAt w (BitVec.ofNat 64 ((wordAt ws 0).toNat / 8 * 8))
        { rd := true, wr := false, n := 8, align := 8, gen := false, cap := false, fetch := true }) with
    | .ok bs => pure (leNat bs / 2 ^ 31 % 2 == 0)
    | .error _ => pure false

/-- A task that starts on a core from its record (R28, R61, R403), with what it left when it was suspended (R119, R196). Its `UIVEC` is 0, the model's choice (log entry 90). -/
def State.freshTask (s : State) (e : TaskEnt) (core : Nat) (ws tail : List Word) : Agent :=
  let k := s.core core
  let r := (s.job (jobKey e.asid e.job)).recs.find? fun r => r.ptr == e.ptr
  { act := .running, asid := e.asid, job := e.job, gang := 0xFFF, task := some e.ptr, err := r.bind (·.err), acq := (r.map (·.acq)).getD []
    ctx := { regs := tailRegs (if tailGood ws then wbits (wordAt ws 1) 0 32 else 0) tail, tiles := freeTiles e.asid (s.drawn e.asid)
             pc := BitVec.ofNat 64 ((wordAt ws 0).toNat / 8 * 8), slot := wbit (wordAt ws 0) 2
             tvec := s.pdWord e.asid 4, mp := k.mp, mplk := k.mplk, dirty := allDirty } }

/-- A trap taken by an agent of the device's making, at the unit it would begin with. -/
def trapAt (a : AgentId) (c : Cause) (v : Word) : D Unit := fun s =>
  let t := s.focus a
  let t := { t with unit := { second := t.me.ctx.slot } }
  let back (u : State) : State := { u.focus s.cur with unit := s.unit }
  if t.me.ctx.fatal c then
    match fatalTrap c v t.unitPtr t with
    | .ok (_, u) => .ok ((), back u)
    | .error e => .error e
  else .ok ((), back (t.enterTrap c v t.unitPtr))

/-- A READY record starts on a core: `STATE` = RUNNING, head and tail read by the core, and ILLEGAL where R29 says so. -/
def startRecord (e : TaskEnt) (core : Nat) : D Unit := do
  let key := jobKey e.asid e.job
  let a : AgentId := ⟨core, .main⟩
  let w ← devGet fun s => { s.whoOf e.asid key a with wgen := 0 }
  recState w e.ptr 2
  let ws := leWords 8 (← recRead w e.ptr 0 64)
  let bad ← headBad w ws
  let tail ← readTail w e.ptr ws
  devMod fun s => ((s.setAgent a (s.freshTask e core ws tail)).draw e.asid 128).moveRec key e.ptr (.running core)
  if bad then trapAt a .illegal (wordAt ws 1)

/-- A register of the volatile range after a resume (R56). A strand that stands in a handler has its own `s24`–`s31` set aside (R60, R191), under
both handlers where the user interrupt came first. -/
def Ctx.forgetOwn (c : Ctx) (code asid free : Nat) : Ctx :=
  let put (v : Vector Word 8) : Vector Word 8 := Vector.ofFn fun i : Fin 8 => if i.val + 24 = code then Config.freeWord asid free else v[i]
  if 24 ≤ code && code < 32 && c.inHandler then
    (if c.uiin then { c with uiSave := put c.uiSave } else { c with trapSave := put c.trapSave })
  else c.forget code asid free

/-- Registers that a shadow image does not hold take free values of the address space (R56). The range names no register of a loader or storer:
theirs are saved whole (log entry 83). -/
def Agent.forgetVolatile (g : Agent) (j : Job) (free : Nat) : Agent :=
  if g.task.isSome then g
  else { g with ctx := ((List.range 48).filter j.volatile).foldl (fun c code => c.forgetOwn code g.asid (free + 8 * code)) g.ctx }

/-- A stopped agent goes on (R203): it issues its instruction again. -/
def Agent.goOn (g : Agent) : Agent := if g.act = .stopped then { g with act := .running } else g

/-- A stopped task restored on a core with the decode table it left (R202). It keeps its registers of the volatile range too (R56; the model's
choice, log entry 26). -/
def State.restoreTask (s : State) (e : TaskEnt) (core : Nat) (g : Agent) (table : List Byte) : State :=
  let s := (s.setAgent ⟨core, .main⟩ g.goOn).poke (tableAddr core 0) table
  s.moveRec (jobKey e.asid e.job) e.ptr (.running core)

/-- Whether the dispatcher lets a core run tasks: its cluster has no frozen slice and no gang uses the core. -/
def State.mayClaim (s : State) (core : Nat) : Bool :=
  s.coreExists core && s.vacant core && !s.frozenCluster (clusterOf core) && !s.onMove (clusterOf core) &&
    !(s.jobs.any fun kj => kj.2.occupies &&
      (if kj.2.stage == .off then kj.2.gangs.contains (clusterOf core) else kj.2.cores.contains core))

/-- Event `CLAIM_RECORD` (R45, R202). A stopped task whose image is damaged ends its job with SOFT (R197). -/
def execClaimRecord (core : Nat) (s : State) : Host.Outcome State Fault Refusal :=
  match s.asidOfPair (pairOf (clusterOf core)) with
  | none => .next s
  | some asid =>
    if !s.mayClaim core then .next s
    else
      match s.sourceCluster asid (clusterOf core) with
      | none => .next s
      | some k =>
        match bestTask s.now (s.cluster k).tasks with
        | none => .next s
        | some e =>
          let out (s : State) : State := s.modCluster k fun c => { c with tasks := c.tasks.erase e }
          match e.image with
          | some (g, table) =>
            if e.soft then .next (s.attempt (endJob (jobKey e.asid e.job) (Cause.soft).code true))
            else .next ((out s).restoreTask e core g table)
          | none =>
            .next (s.attempt (do
              devMod out
              orEnd (jobKey e.asid e.job) (startRecord e core)))

/-! ## Completion (R26, R42, R136) -/

/-- Whether a deferred effect of a job's pipeline may be performed now (R153). -/
def State.settling (s : State) (key : Nat) : Bool := s.pipes.any fun kx => kx.2.job == key && kx.2.effectsDue

/-- Whether a contribution of a job is outstanding (R26, R180). -/
def State.contributing (s : State) (job : Nat) : Bool := s.groups.any fun kg => !kg.2.dead && kg.2.sends.any (·.2 == job)

/-- Whether a job is complete (R26), with no deferred effect left that its pipelines are about to perform (R153). -/
def State.finished (s : State) (key : Nat) (j : Job) : Bool :=
  let xs := s.agents.filter fun ag => ag.2.act != .idle && jobKey ag.2.asid ag.2.job == key
  j.stage == .running && xs.all (fun ag => ag.2.act == .retired) && j.next.isNone && j.recs.all (fun r => r.at_ == .retired) &&
    s.noQ key && !s.contributing key && !s.settling key

/-- The stored length of a region (R136): `BOUND`, or `BOUND` ÷ 4 × w for an alias window. -/
def regionLength (e : List Word) : Nat := if hWin e = 0 then hBound e else hBound e / 4 * winWidth (hWin e)

/-- One output region's part of the digest's message (R136), read by the dispatcher. -/
def region (w : Who) (h : Nat) : D (List Byte) := do
  let e ← devGet (·.handle w.asid h)
  if hSpace e != 0 || !hCapt e then pure []
  else
    let n := regionLength e
    match ← devGet fun s => s.segsOf hubCaches w.asid (hBase e) n false false with
    | none => devFail .page
    | some segs =>
      let bs ← devLoad none w segs
      pure (leBytes 8 h ++ leBytes 8 n ++ bs)

/-- The message of the digest, regions in ascending handle index. -/
def regions (w : Who) : List Nat → D (List Byte)
  | [] => pure []
  | h :: hs => do
    let x ← region w h
    let xs ← regions w hs
    pure (x ++ xs)

/-- Bytes of the digest written (R43, R136). -/
def putDigest (w : Who) (p : Word) (bs : List Byte) : D Unit :=
  writeAt w false p { rd := false, wr := true, n := bs.length, align := 1, cap := false, gen := false } bs

/-- What a failed digest leaves: 48 undefined bytes, where they can be written at all (R136), in an alias window by whole elements. -/
def spoilDigest (w : Who) (p : Word) : D Unit := do
  let n ← devGet (·.drawn w.asid)
  let k := if hWin (← devGet (·.handle w.asid (handleOf p))) = 0 then 1 else 4
  (List.range (48 / k)).forM fun i => do
    let _ ← devTry (putDigest w (ptrAdd p (8 + k * i)) ((List.range k).map fun b => Config.freeByte w.asid (n + k * i + b)))
  devMod (·.draw w.asid 48)

/-- The digest of a deterministic job written, and the status its completion word then has (R43, R136). -/
def writeDigest (j : Job) : D Nat := do
  if !j.det then pure 0
  else
    let w ← devGet fun s => { s.recWho j with det := false }
    let m : D Unit := do
      let text ← regions w j.held
      putDigest w (ptrAdd j.donep 8) (sha384 text)
    match ← devTry m with
    | .ok () => pure 0
    | .error c =>
      spoilDigest w j.donep
      devMod (·.streamError j.stream j.slotIx c.code)
      pure c.code

/-- Event `JOB_COMPLETE` (R26, R42, R136): the digest follows every write the job still counts. -/
def execJobComplete (asid job : Nat) (s : State) : Host.Outcome State Fault Refusal :=
  let key := jobKey asid job
  match tabGet key s.jobs with
  | none => .next s
  | some j =>
    if !s.finished key j then .next s
    else
      .next (s.attempt (do
        flushJob j.asid key
        let status ← writeDigest j
        endWord key j status))

/-! ## Hang (R37, R38) -/

/-- Whether an agent is listed in a wait table, with nothing there to wake it, and the `TVAL` it would hang with. -/
def State.listed (s : State) (a : AgentId) (g : Agent) : Option Word :=
  let word := g.word.zeroExtend 64
  match g.act with
  | .asleep k _ =>
    match k with
    | .wait cs any none fk =>
      match s.lookAt a cs with
      | .ok bs => if modeMet any bs then none else some fk
      | .error (.outside _ _ _ _ _ _ _) => if s.reading a then none else some fk
      | .error _ => none
    | .bar => if s.barReady (jobKey g.asid g.job) (g.gang % 512) then none else some 0
    | .vote => if s.voteReady (jobKey g.asid g.job) then none else some 0
    | .pdeq =>
      let x := s.pipe (pipeKey g.asid (wbits word 6 4))
      match (tabGet a.core x.assign).bind fun i => x.nextRec (s.job x.job).det i with
      | some _ => none
      | none => some word
    | .orecv => if ((tabGet (g.asid * 16 + word.toNat / 4 % 16) s.ord.queues).getD []).isEmpty then some word else none
    | .penq p => if s.queueOpen a g.asid (.penq p) then none else some word
    | .pdone p => if s.queueOpen a g.asid (.pdone p) then none else some word
    | .wait _ _ (some _) _ | .hold _ _ _ _ _ _ | .ext _ => none
  | .idle | .running | .stopped | .retired => none

/-- Whether a pipeline record of a job is being moved or settled. -/
def State.pipesBusy (s : State) (key : Nat) : Bool :=
  s.pipes.any fun kx => kx.2.job == key &&
    ((kx.2.recs.any fun r => match r.at_ with
      | .router k => (kx.2.routable (s.fixedOrder kx.1) k).isSome
      | .queue _ | .core _ | .settling _ => false) || kx.2.settles.isSome)

/-- Whether a packet for an address space is inside the package. A block of a contribution that waits at a node for the contributions of others is at
rest (R185). -/
def State.inbound (s : State) (asid : Nat) : Bool :=
  (s.fab.items.any fun i => i.asid == asid && !(i.dir == .up && s.tooEarly i)) || (s.ord.local_.any fun x => x.asid == asid) ||
    s.fab.msgs.any fun f => f.msg.asid == asid && f.id.isNone

/-- Whether a job stands still (R38). -/
def State.quiet (s : State) (key : Nat) (j : Job) : Bool :=
  let xs := s.agents.filter fun ag => ag.2.act != .idle && jobKey ag.2.asid ag.2.job == key
  let ls := xs.filter fun ag => ag.2.act != .retired
  j.stage == .running && ls.all (fun ag => (s.listed ag.1 ag.2).isSome) &&
    j.recs.all (fun r => match r.at_ with
      | .queued _ => false
      | .waiting | .running _ | .retired => true) &&
    (j.next.isNone || 256 ≤ s.queueLoad (s.nextCluster j.asid)) &&
    s.noQ key && !s.pipesBusy key && !s.contributing key && !s.inbound j.asid &&
    (!ls.isEmpty || j.recs.any fun r => r.at_ == .waiting)

/-- The agents of a hung job take HANG; with none listed the job completes with that status. -/
def declareHung (key : Nat) (j : Job) : D Unit := do
  let ls ← devGet fun s => s.agents.filterMap fun ag =>
    if jobKey ag.2.asid ag.2.job == key && ag.2.act != .idle then (s.listed ag.1 ag.2).map fun v => (ag.1, v) else none
  if ls.isEmpty then completeWith key j (Cause.hang).code
  else devMod fun s => ls.foldl (fun s (x : AgentId × Word) => s.modAgent x.1 fun g =>
    { g with act := .running, mark := .trap .hang x.2 }) s

/-- Event `WAIT_TABLE_SUMMARY` (R37, R38): at most once in 10 µs; a job that stands still in two summaries in a row is hung. -/
def execWaitTableSummary (s : State) : Host.Outcome State Fault Refusal :=
  if s.now < s.sumAt + 10000 then .next s
  else
    let still := s.jobs.filter fun kj => s.quiet kj.1 kj.2
    let dead := still.filter fun kj => s.hung.contains kj.1
    let s := { s with sumAt := s.now, hung := still.map (·.1) }
    .next (dead.foldl (fun s kj => s.attempt (declareHung kj.1 kj.2)) s)

end Sys2Proof.Machine
end

