-- ==== Sys2Proof/Machine/System.lean ====
section
/-! DEFINITION. Messages (R336, R340, R341), the twin window (R49, R50, R385), capabilities (R133, R134, R283–R285) and state registers
(R61, R102, R159–R163, R210, R213, R313, R364). -/

namespace Sys2Proof.Machine

/-! ## Messages -/

/-- Messages that the current agent's stream has sent and that have not entered an inbox. -/
def State.inFlight (s : State) : List Flight :=
  s.fab.msgs.filter fun f => (f.task.isSome || f.sender == some s.cur) && f.job == s.myJob && f.task == s.me.task

/-- Whether two messages have one sender: a task of a job is its record, on whatever core it sent. -/
def Flight.sameSender (f h : Flight) : Bool := f.job == h.job && f.task == h.task && (f.task.isSome || f.sender == h.sender)

/-- A node address with `NV` set and no reserved bit (R175). -/
def nodeGood (a : Word) : Bool := nodeValid a && wbits a 29 2 == 0 && wbits a 32 32 == 0

/-- A message put on its way: inside the package, or to the device that will answer whether it has entered its inbox. -/
def State.sendMsg (s : State) (node v : Word) : State :=
  let m : Msg := ⟨s.me.asid, s.nodeOf s.cur.core, nodeCore node, v⟩
  if s.isHere node then { s with fab := { s.fab with msgs := s.fab.msgs ++ [⟨some s.cur, s.myJob, s.me.task, m, node, none⟩] } }
  else { s with fab := { s.fab with
    msgs := s.fab.msgs ++ [⟨some s.cur, s.myJob, s.me.task, m, node, some s.fab.nextExt⟩], nextExt := s.fab.nextExt + 1
    out := s.fab.out ++ [.message m node] } }

/-- `MSEND` (R341): with 8 messages on their way the agent waits. -/
def execMsend (la : BitVec 4) (a b : Reg) (s : State) : Host.Outcome State Fault Refusal :=
  runWord (.msend la a b) (do
    ownM
    let node ← readS a
    let v ← readS b
    needM (nodeGood node) (.trap .handle node)
    needM (decide ((← getM (·.inFlight.length)) < 8)) .stall
    modM (·.sendMsg node v)) s

/-- `MRECV` (R340). -/
def execMrecv (la : BitVec 4) (d : Reg) (s : State) : Host.Outcome State Fault Refusal :=
  runWord (.mrecv la d) (do
    ownM
    match ← getM fun s => (s.core s.cur.core).inbox with
    | [] =>
      writeS d 0
      writeS (d + 1) 0
    | x :: xs =>
      modM fun s => s.modCore s.cur.core fun k => { k with inbox := xs }
      writeS d x.1
      writeS (d + 1) x.2) s

/-- Whether the inbox of a core is saved with a span that is off, and no span runs on the core that has its own there (R336). -/
def State.boxOff (s : State) (core : Nat) : Bool :=
  (s.jobs.any fun kj => (tabGet core kj.2.boxes).isSome) &&
    !(s.jobs.any fun kj => !kj.2.bag && kj.2.stage == .running && kj.2.cores.contains core)

/-- A sender's pointer or node of its first failed outside write, kept for its next release (R196, R336). -/
def Agent.failed (g : Agent) (v : Word) : Agent := if g.err.isSome then g else { g with err := some v }

/-- The stream of an agent's job, and of a task, marked with a failed outside write, where it stands now: on its core (a task on whatever core
it runs), in a core's image slot, in the image of a stopped task, or suspended in its record. -/
def State.failedAt (s : State) (a : AgentId) (job : Nat) (task : Option Word) (v : Word) : State :=
  let mine (x : AgentId × Agent) : Bool :=
    x.2.act != .idle && jobKey x.2.asid x.2.job == job && x.2.task == task && (task.isSome || x.1 == a)
  match s.agents.find? mine with
  | some x => s.setAgent x.1 (x.2.failed v)
  | none =>
    { s with
      cores := s.cores.map fun kc =>
        if kc.1 = a.core then
          (kc.1, { kc.2 with
            images := kc.2.images.map fun i =>
              if i.job = job then { i with agents := i.agents.map fun x => if x.1 = a.kind then (x.1, x.2.failed v) else x }
              else i })
        else kc
      clusters := s.clusters.map fun kc => (kc.1, { kc.2 with
        tasks := kc.2.tasks.map fun t =>
          if some t.ptr = task && jobKey t.asid t.job = job then
            { t with image := t.image.map fun x => (x.1.failed v, x.2) } else t })
      jobs := s.jobs.map fun kj => if kj.1 = job then
        (kj.1, { kj.2 with recs := kj.2.recs.map fun r => if some r.ptr = task && r.err.isNone then { r with err := some v } else r })
        else kj }

/-- Whether a message has its target here (R336): a core of a live partition of its address space. -/
def State.hasBox (s : State) (m : Msg) : Bool := s.live m.asid && s.ownsCore m.asid m.core

/-- Whether an inbox has room, and does not stand saved with a span that is off (R336). -/
def State.boxOpen (s : State) (core : Nat) : Bool := (s.core core).inbox.length < 32 && !s.boxOff core

/-- A message in its inbox. -/
def State.intoBox (s : State) (m : Msg) : State :=
  s.modCore m.core fun k => { k with inbox := k.inbox ++ [(m.payload, m.src)] }

/-- Something sent to the outside. -/
def State.emitOut (s : State) (x : OutMsg) : State := { s with fab := { s.fab with out := s.fab.out ++ [x] } }

/-- A message of this package at its core: it enters the inbox, waits, or is lost (R336). -/
def State.enterBox (s : State) (f : Flight) : State :=
  let t := { s with fab := { s.fab with msgs := s.fab.msgs.erase f } }
  if !s.hasBox f.msg then
    match f.sender with
    | some a => t.failedAt a f.job f.task f.node
    | none => t
  else if s.boxOpen f.msg.core then t.intoBox f.msg
  else s

/-- A message of another device at its core: it enters and that is reported, waits at its sender, or is lost (R336). -/
def State.enterRemote (s : State) (m : Msg) : State :=
  if !s.hasBox m then s.emitOut (.lost m)
  else if s.boxOpen m.core then (s.intoBox m).emitOut (.reply m.asid [] false)
  else s

/-- Event `MESSAGE_ARRIVE` (R336): a message of this device must be the oldest on its way from its agent to its core. -/
def execMessageArrive (m : Msg) (s : State) : Host.Outcome State Fault Refusal :=
  if s.isHere m.src then
    match s.fab.msgs.find? fun f => f.msg == m && f.id.isNone &&
        (s.fab.msgs.find? fun h => f.sameSender h && h.node == f.node) == some f with
    | none => .next s
    | some f => .next (s.enterBox f)
  else .next ((s.notHung m.asid).enterRemote m)

/-! ## The twin window -/

/-- Key of a cell of the current core's twin pair. -/
def State.twinKey (s : State) (n : BitVec 2) : Nat := s.cur.core % 2048 * 4 + n.toNat

/-- What the current core reads of a cell (R50). -/
def State.twinRead (s : State) (n : BitVec 2) : Word :=
  let x := (tabGet (s.twinKey n) s.twins).getD {}
  if x.asid = s.me.asid then x.val else 0

/-- A cell written (R50). -/
def State.twinWrite (s : State) (n : BitVec 2) (v : Word) : State :=
  { s with twins := tabSet (s.twinKey n) ⟨v, s.me.asid⟩ s.twins }

/-- `TWX` (R385): exchange. -/
def execTwx (la : BitVec 4) (d b : Reg) (n : BitVec 2) (s : State) : Host.Outcome State Fault Refusal :=
  runWord (.twx la d b n) (do
    ownM
    let v ← readS b
    let old ← getM (·.twinRead n)
    modM (·.twinWrite n v)
    writeS d old) s

/-- `TWX.RD` (R385). -/
def execTwxRd (la : BitVec 4) (d : Reg) (n : BitVec 2) (s : State) : Host.Outcome State Fault Refusal :=
  runWord (.twxRd la d n) (do
    ownM
    let old ← getM (·.twinRead n)
    writeS d old) s

/-- `TWX.WR` (R385). -/
def execTwxWr (la : BitVec 4) (b : Reg) (n : BitVec 2) (s : State) : Host.Outcome State Fault Refusal :=
  runWord (.twxWr la b n) (do
    ownM
    let v ← readS b
    modM (·.twinWrite n v)) s

/-! ## Capabilities -/

/-- The capability state of an entry; `none` is UNTRACKED (R133). -/
def State.capState (s : State) (asid h : Nat) : Option CapState :=
  let e := s.handle asid h
  if h = 0xFFF || !hValid e || !hCapt e then none else some ((tabGet (asid * 4096 + h) s.caps).getD .free)

/-- The word of R133. -/
def capWordOf : Option CapState → Word
  | none => 0
  | some .free => 1
  | some (.held a _) => BitVec.ofNat 64 (2 + 4 * a.kind.code + 16 * a.core)
  | some (.offered a _) => BitVec.ofNat 64 (3 + 4 * a.kind.code + 16 * a.core)

/-- A capability state set. -/
def State.setCap (s : State) (asid h : Nat) (c : CapState) : State := { s with caps := tabSet (asid * 4096 + h) c s.caps }

/-- The handles that an engine or copy job writes through (R134). -/
def QJob.writesVia (q : QJob) : List Nat :=
  if q.copy then [handleOf (q.word 2)] else [handleOf (q.word 4), handleOf (q.word 11)]

/-- Whether a job that the current agent published writes through a handle (R134). -/
def State.writingVia (s : State) (h : Nat) : Bool :=
  s.allQ.any fun q => q.pub == s.cur && q.asid == s.me.asid && q.job == s.me.job && q.writesVia.contains h

/-- Whether a core belongs to the giver's span. -/
def State.inMySpan (s : State) (core : Nat) : Bool :=
  let j := s.job s.myJob
  s.me.task.isNone && j.gangs.contains (core / 8) && core % 8 < j.nstr

/-- `CAPGIVE` (R283). The state of the handle is tested before the named agent (the model's choice, log entry 103). -/
def execCapgive (la : BitVec 4) (a b : Reg) (s : State) : Host.Outcome State Fault Refusal :=
  runWord (.capgive la a b) (do
    ownM
    let p ← readS a
    let v ← readS b
    let h := handleOf p
    needM (!(← getM (·.writingVia h))) .stall
    let asid ← getM (·.me.asid)
    let cur ← getM (·.cur)
    let job ← getM (·.myJob)
    needM ((← getM (·.capState asid h)) == some (.held cur job)) (.trap .cap p)
    let core := wbits v 4 12
    match AgentKind.ofCode (wbits v 2 2) with
    | none => trapM .cap (BitVec.ofNat 64 core)
    | some k =>
      needM (← getM (·.inMySpan core)) (.trap .cap (BitVec.ofNat 64 core))
      modM (·.setCap asid h (.offered ⟨core, k⟩ job))) s

/-- `CAPTAKE` (R285): a job remembers every handle its agents held (R136). -/
def execCaptake (la : BitVec 4) (d b : Reg) (s : State) : Host.Outcome State Fault Refusal :=
  runWord (.captake la d b) (do
    legalM (← getM (·.me.task.isNone))
    ownM
    let p ← readS b
    let h := handleOf p
    let asid ← getM (·.me.asid)
    let cur ← getM (·.cur)
    let job ← getM (·.myJob)
    match ← getM (·.capState asid h) with
    | none => trapM .cap p
    | some c =>
      if c == .free || c == .held cur job || c == .offered cur job then
        modM fun s => (s.setCap asid h (.held cur job)).modJob s.myJob fun j => { j with held := setAdd h j.held }
        writeS d 0
      else writeS d 1) s

/-- `CAPQ` (R284). -/
def execCapq (la : BitVec 4) (d b : Reg) (s : State) : Host.Outcome State Fault Refusal :=
  runWord (.capq la d b) (do
    let p ← readS b
    let v ← getM fun s => capWordOf (s.capState s.me.asid (handleOf p))
    writeS d v) s

/-! ## Heat as a core reads it (R209, R210) -/

/-- Key of a thermal domain: a core position or a stack. -/
def domainKey : Domain → Nat
  | .position die x y => die * 4096 + y * 64 + x
  | .stack n => 8192 + n

/-- A thermal domain's state. -/
def State.thermal (s : State) (k : Nat) : Thermal := (tabGet k s.plant.doms).getD {}

/-- Physical position of a logical core (R14). -/
def State.positionOf (s : State) (c : Nat) : Domain :=
  let e := s.lptEntry (c % 2048 / 8)
  .position (c / 2048) (8 * wbits e 0 3 + wbits e (16 + 3 * (c % 8)) 3) (wbits e 3 6)

/-- The cores of a twin cluster pair. -/
def pairCores (k : Nat) : List Nat := (List.range 8).map (8 * k + ·) ++ (List.range 8).map (2048 + 8 * k + ·)

/-- The thermal states of a pair's cores. -/
def State.pairThermals (s : State) (k : Nat) : List Thermal := (pairCores k).map fun c => s.thermal (domainKey (s.positionOf c))

/-- `TAR` of a pair (R210): the margin below 105 °C of its hottest core, the divider offset, `MOVES` and `THOT`. -/
def State.tar (s : State) (k : Nat) : Word :=
  let ts := s.pairThermals k
  let margin := ts.foldl (fun m t => min m ((1680 - t.reading).toNat)) 4095
  BitVec.ofNat 64 (margin + 2 ^ 12 * (s.pair k).tthr + 2 ^ 16 * wbits (s.lptEntry k) 40 8 + 2 ^ 24 * bitNat (ts.any (·.st == 1)))

/-! ## State registers -/

/-- Whether an index names a register (R61). -/
def srExists (i : Nat) : Bool :=
  i ≤ 0x005 || i == 0x008 || i == 0x009 || (0x010 ≤ i && i ≤ 0x015) || (0x018 ≤ i && i ≤ 0x01A) || (0x020 ≤ i && i ≤ 0x027) ||
    i == 0x040 || (0x050 ≤ i && i ≤ 0x054) || i == 0x060

/-- Registers that a loader or storer may read (R102). -/
def srLoader (i : Nat) : Bool := i ≤ 0x005 || i == 0x008 || i == 0x009 || i == 0x040 || (0x010 ≤ i && i ≤ 0x013)

/-- `MPCFG` (R403). -/
def Ctx.mpcfg (c : Ctx) : Word :=
  BitVec.ofNat 64 (bitNat c.mplk + ((List.range 16).map fun i => if h : i < 16 then (if c.mp[i] = 0 then 0 else 2 ^ (16 + i)) else 0).sum)

/-- A register of an agent, with undefined bits 0 (R61, R159–R163, R313). -/
def State.sr (s : State) (a : AgentId) (g : Agent) (i : Nat) : Word :=
  let j := s.job (jobKey g.asid g.job)
  let p := if g.task.isSome then {} else j.span
  match i with
  | 0x000 => BitVec.ofNat 64 a.core
  | 0x001 => BitVec.ofNat 64 (clusterOf a.core)
  | 0x002 => BitVec.ofNat 64 (twinCore a.core)
  | 0x003 => BitVec.ofNat 64 g.job
  | 0x004 => BitVec.ofNat 64 (if g.task.isSome then 0xFFF else g.gang)
  | 0x005 => BitVec.ofNat 64 g.asid
  | 0x008 => BitVec.ofNat 64 s.tick
  | 0x009 => BitVec.ofNat 64 s.podt
  | 0x010 => g.ctx.tcause
  | 0x011 => g.ctx.tpc
  | 0x012 => g.ctx.tval
  | 0x013 => g.ctx.tvec
  | 0x014 => g.ctx.uivec
  | 0x015 => g.ctx.uimask
  | 0x018 => s.licst (clusterOf a.core)
  | 0x019 => s.tar (pairOf (clusterOf a.core))
  | 0x01A => g.ctx.dvd.zeroExtend 64
  | 0x020 => p.resid (if g.task.isSome then none else g.ctx.rpart)
  | 0x021 => p.tol.zeroExtend 64
  | 0x022 => p.cycn.zeroExtend 64
  | 0x023 => p.lim.zeroExtend 64
  | 0x024 => p.cycph
  | 0x025 => p.wgen.zeroExtend 64
  | 0x026 => p.mgstat
  | 0x027 => p.fixo.zeroExtend 64
  | 0x040 => BitVec.ofNat 64 (bitNat j.det)
  | 0x050 => g.pmc[0]
  | 0x051 => g.pmc[1]
  | 0x052 => g.pmc[2]
  | 0x053 => g.pmc[3]
  | 0x054 => g.ctx.pmsel
  | 0x060 => g.ctx.mpcfg
  | _ => 0

/-- Events of R213 whose counts depend on timing, which the manual does not fix (log entry 11). -/
def timedEvent (code : Nat) : Bool :=
  code == 0x01 || (0x05 ≤ code && code ≤ 0x07) || code == 0x09 || code == 0x0A || code == 0x0C

/-- Whether a counter counts such an event. -/
def Ctx.countsTime (c : Ctx) (i : Nat) : Bool := timedEvent (wbits c.pmsel (8 * i) 8)

/-- Counters that count such an event given free values, with their dirty bits set (R57). -/
def State.settlePmc (s : State) : State :=
  let g := s.me
  let n := s.drawn g.asid
  let pmc := Vector.ofFn fun i : Fin 4 => if g.ctx.countsTime i.val then Config.freeWord g.asid (n + i.val) else g.pmc[i]
  let dirty := ((List.range 4).filter g.ctx.countsTime).foldl (fun m i => m ||| srDirty (0x50 + i)) g.ctx.dirty
  ({ s with me := { g with pmc := pmc, ctx := { g.ctx with dirty := dirty } } }).draw g.asid 4

/-- `GETSR` (R313). -/
def execGetsr (la : BitVec 4) (d : Reg) (i : BitVec 10) (s : State) : Host.Outcome State Fault Refusal :=
  runWord (.getsr la d i) (do
    legalM (srExists i.toNat)
    legalM ((← getM (·.cur.kind)) == .main || srLoader i.toNat)
    if 0x050 ≤ i.toNat && i.toNat ≤ 0x053 then modM (·.settlePmc)
    let v ← getM fun s => s.sr s.cur s.me i.toNat
    writeS d v) s

/-- Registers that software may write (R61). -/
def srWritable (i : Nat) : Bool :=
  (0x010 ≤ i && i ≤ 0x015) || i == 0x01A || i == 0x021 || i == 0x023 || i == 0x024 || i == 0x027 || (0x050 ≤ i && i ≤ 0x054) ||
    i == 0x060

/-- Registers marked S (R61). -/
def srSystem (i : Nat) : Bool := i == 0x013 || i == 0x01A || i == 0x060

/-- A per-core register written, with its dirty bit set (R57, R364). -/
def Ctx.setSr (c : Ctx) (i : Nat) (v : Word) : Ctx :=
  let c : Ctx := match i with
    | 0x010 => c.setTcause v
    | 0x011 => { c with tpc := BitVec.ofNat 64 (v.toNat / 4 * 4) }
    | 0x012 => { c with tval := v }
    | 0x013 => { c with tvec := v }
    | 0x014 => { c with uivec := v }
    | 0x015 => c.setUimask v
    | 0x01A => { c with dvd := BitVec.ofNat 3 v.toNat }
    | 0x054 => { c with pmsel := BitVec.ofNat 64 (v.toNat % 2 ^ 32) }
    | 0x060 => { c with mplk := wbit v 0 }
    | _ => c
  { c with dirty := c.dirty ||| 2 ^ (128 + i) }

/-- A counter written. -/
def Agent.setPmc (g : Agent) (n : Nat) (v : Word) : Agent :=
  { g with
    pmc := Vector.ofFn fun k : Fin 4 => if k.val = n then v else g.pmc[k]
    ctx := { g.ctx with dirty := g.ctx.dirty ||| 2 ^ (128 + 0x050 + n) } }

/-- A register written at once, or staged (R39). -/
def putSr (i : Nat) (v : Word) : M Unit :=
  match i with
  | 0x021 => stagedM fun x => { x with resTol := some v }
  | 0x023 => stagedM fun x => { x with cycMax := some v }
  | 0x024 => stagedM fun x => { x with cycPh := some v }
  | 0x027 => stagedM fun x => { x with swpol := some v }
  | 0x050 | 0x051 | 0x052 | 0x053 => modM fun s => { s with me := s.me.setPmc (i - 0x050) v }
  | 0x054 => modM fun s => s.settlePmc.modCtx (·.setSr i v)
  | _ => modM fun s => s.modCtx (·.setSr i v)

/-- `SETSR` (R364). -/
def execSetsr (la : BitVec 4) (a : Reg) (i : BitVec 10) (s : State) : Host.Outcome State Fault Refusal :=
  runWord (.setsr la a i) (do
    let n := i.toNat
    legalM (srWritable n)
    legalM ((← getM (·.cur.kind)) == .main || (0x010 ≤ n && n ≤ 0x012))
    if srSystem n then
      systemM
      ownM
    let v ← readS a
    legalM (!(n == 0x01A && wbits v 0 3 == 7))
    legalM (!(n == 0x024 && wbits v 0 2 != 0 && (← getM (·.mySpan.ph)) == 0))
    legalM (!(n == 0x027 && (← getM (·.me.task.isSome))))
    putSr n v) s

end Sys2Proof.Machine
end

