-- ==== Sys2Proof/Machine/Preempt.lean ====
section
/-! DEFINITION. Pre-emption, saving, resuming and migration of spans (R186, R198–R203, R211), and the host commands on spans and partitions
(R195, R205, R219). -/

namespace Sys2Proof.Machine

/-! ## Host commands (R219) -/

/-- The code and address space of the command in progress, while `GO` is set. -/
def State.command (s : State) : Option (Nat × Nat) :=
  let w := wordAt s.host.hcmd 0
  if wbit w 63 then some (wbits w 0 8, wbits w 8 8) else none

/-- Argument word 1 of the command. -/
def State.commandArg (s : State) : Nat := (wordAt s.host.hcmd 1).toNat

/-- The command completes with a status: `GO` clears, `HRES` is written, vector 0 is raised. -/
def State.answer (s : State) (status : Nat) : State :=
  let w := wordAt s.host.hcmd 0
  ({ s with host := { s.host with
    hcmd := BitVec.ofNat 64 (w.toNat % 2 ^ 63) :: s.host.hcmd.drop 1
    hres := BitVec.ofNat 64 (status + 2 ^ 63) } }).msix 0

/-- A command of one code, done when it is the one in progress. -/
def State.onCommand (s : State) (code : Nat) (f : Nat → State) : Host.Outcome State Fault Refusal :=
  match s.command with
  | some (c, asid) => .next (if c = code then f asid else s)
  | none => .next s

/-! ## Stopping a span (R198, R199) -/

/-- The strands, loaders and storers of a span. -/
def State.spanAgents (s : State) (key : Nat) : List (AgentId × Agent) :=
  s.agents.filter fun ag => ag.2.act != .idle && ag.2.task.isNone && jobKey ag.2.asid ag.2.job == key

/-- Whether every core of a span can bind an image slot (R199). -/
def State.canSave (s : State) (key : Nat) : Bool := (s.job key).cores.all fun c => s.slotFor c key

/-- A span told to stop. -/
def State.preempt (s : State) (key : Nat) (why : OffWhy) (pair : Option Nat) : State :=
  let s := s.modJob key fun j => { j with stage := .stopping, why := why, moved := pair }
  (s.spanAgents key).foldl (fun s ag => s.modAgent ag.1 (·.halt s.tick)) s

/-- The dirty bits that a save leaves: those of the volatile range, which it does not store (R56, R57). -/
def Job.unsaved (j : Job) (g : Agent) : Nat :=
  ((List.range 48).filter fun c => j.volatile c && g.ctx.dirtyCode c).foldl (fun m c => m ||| 2 ^ c) 0

/-- The agents of a core as its image holds them. -/
def State.imageAgentsOf (s : State) (j : Job) (core : Nat) : List (AgentKind × Agent) :=
  [AgentKind.main, .loader, .storer].filterMap fun k =>
    let g := s.agent ⟨core, k⟩
    if g.act == .idle then none
    else some (k, { g with ctx := { g.ctx with dirty := if k = .main then j.unsaved g else 0 } })

/-- A core's agents, table and taken record into its image slot, and its inbox into the span's router image (R199, R336). -/
def State.storeCore (s : State) (key core : Nat) : State :=
  let j := s.job key
  let x : Image := ⟨key, s.imageAgentsOf j core, s.tableBytes core, (s.core core).deq, none⟩
  let box := (s.core core).inbox
  let s := [AgentKind.main, .loader, .storer].foldl (fun s k => s.leaveCore ⟨core, k⟩) s
  let s := s.modCore core fun c => { c with images := c.images.filter (·.job != key) ++ [x], inbox := [] }
  s.modJob key fun j => { j with boxes := tabSet core box j.boxes }

/-- One core saved, its held statistics flushed first (R83). -/
def saveCore (key core : Nat) : D Unit := do
  flushCore (← devGet fun s => s.whoOf (s.job key).asid key ⟨core, .main⟩) core
  devMod (·.storeCore key core)

/-- The group slots of a span's cores saved with it (R186). -/
def State.saveRouters (s : State) (key : Nat) (cores : List Nat) : State :=
  let mine := s.groups.filter fun kg => cores.contains (kg.1 / 64)
  let s := s.modJob key fun j => { j with router := mine }
  { s with groups := s.groups.filter fun kg => !cores.contains (kg.1 / 64) }

/-- The licence of a cluster whose span has left, where the cluster held it (R200, steps 4 and 5). -/
def State.giveLicence (s : State) (key k : Nat) : State :=
  let p := pairOf k
  let twin := twinCluster k
  let work := (s.cluster twin).entries.any fun q => !q.copy && (q.st == .ready || q.st == .parked) && jobKey q.asid q.job != key
  if (s.pair p).moving.isSome then s.licMoved p
  else if work then s.licMove p .transfer
  else s.licFree p

/-- What the stop of a span finds of the licence of one of its clusters (R200, step 4): whether the cluster held it, and whether the span's
pin is to be requested again by it. The pin goes with the holder where the span has a gang there, else with the span's own cluster. -/
def State.licenceAt (s : State) (key k : Nat) : Bool × Bool :=
  let x := s.pair (pairOf k)
  let held := x.holder == some (onDieU k)
  let twinHolds := x.holder == some (onDieU (twinCluster k)) && (s.job key).gangs.contains (twinCluster k)
  (held, x.pins.contains key && !twinHolds)

/-- The copy unit of a cluster stops a span's job after its current row (R200, step 1). -/
def stopCopy (key k : Nat) : D Unit := do
  match ← devGet (·.copyJob k) with
  | none => pure ()
  | some q =>
    if q.owner == key then
      match ← runRow k q with
      | some q => if q.nRows ≤ q.rows then endQ k q 0 true
      | none => pure ()

/-- A cluster's jobs of a stopped span taken into its image with their states, and its pin removed (R200, steps 3 and 4). -/
def State.takeUnits (s : State) (key k : Nat) (lic : Bool × Bool) : State :=
  let c := s.cluster k
  let image : ClusterImage := ⟨k, c.entries.filter fun q => q.owner == key, lic.1, lic.2⟩
  let s := s.modCluster k fun c => { c with
    queue := c.queue.filter fun q => q.owner != key
    incoming := c.incoming.filter fun q => q.owner != key
    cpy := match c.cpy with
      | some i => if c.queue.any fun q => q.key == i && q.owner == key then none else some i
      | none => none }
  let s := s.modPair (pairOf k) fun x => { x with pins := setDel key x.pins }
  s.modJob key fun j => { j with images := j.images ++ [image] }

/-- The engine, the copy unit, the queue and the licence of one cluster of a stopped span (R200). -/
def stopUnits (key k : Nat) (lic : Bool × Bool) : D Unit := do
  stopCopy key k
  parkEngine k
  devMod fun s =>
    let s := s.takeUnits key k lic
    if (s.pair (pairOf k)).holder == some (onDieU k) && lic.1 then s.giveLicence key k
    else if (s.job key).gangs.contains (twinCluster k) then s
    else s.licSettle (pairOf k)

/-- Whether every agent of a span has stopped or retired. -/
def State.allStopped (s : State) (key : Nat) : Bool :=
  (s.spanAgents key).all fun ag => ag.2.act == .stopped || ag.2.act == .retired

/-- A stopped span saved (R186, R199, R200). A licence that passed between two clusters of the span on the way finds no work of its jobs at the
end, and becomes FREE (R146). -/
def save (key : Nat) : D Unit := do
  let j ← devGet (·.job key)
  let lics ← devGet fun s => j.gangs.map fun k => (k, s.licenceAt key k)
  lics.forM fun x => stopUnits key x.1 x.2
  j.cores.forM (saveCore key)
  devMod fun s => j.gangs.foldl (fun s k => s.licSettle (pairOf k)) s
  devMod fun s => (s.saveRouters key j.cores).modJob key fun j => { j with stage := .off }

/-! ## Resuming a span (R203) -/

/-- The licence requested again for a job, as a `LICACQ` of a cluster that raises no interrupt (R147, R203). -/
def State.reacquire (s : State) (key k : Nat) : State :=
  if s.licOpen k then s.modPair (pairOf k) fun x => { x with holder := some (onDieU k), pins := setAdd key x.pins }
  else
    match s.licReq k with
    | some r => s.setLicReq k (some (if r.job = key then r else { r with also := setAdd key r.also }))
    | none => s.setLicReq k (some ⟨key, 8 * k, false, []⟩)

/-- Entries put into a cluster's queue in their order, as far as it has room (R137); what finds none waits ahead of what waits already. -/
def State.putQ (s : State) (k : Nat) (qs : List QJob) : State :=
  let room := 64 - s.queueUsed k
  s.modCluster k fun c => { c with
    queue := (qs.take room).foldl (fun m q => insertQ q m) c.queue, incoming := qs.drop room ++ c.incoming }

/-- Engine jobs put into a cluster's queue after its own entries, the parked job first (R147). -/
def State.appendQ (s : State) (k : Nat) (qs : List QJob) : State :=
  let n := (s.cluster k).entered
  let qs := (movingOrder qs).mapIdx fun i q => q.comes (n + i)
  (s.modCluster k fun c => { c.yields qs with entered := n + qs.length, incoming := (c.yields qs).incoming ++ qs }).letInAll k

/-- The image of a cluster whose licence case 2 of R147 moves to die U. -/
def ClusterImage.crosses (x : ClusterImage) (moved : Option Nat) : Bool := x.held && moved == some x.cluster

/-- A cluster's queue entries and licence wish restored (R147, R203). -/
def State.restoreCluster (s : State) (key : Nat) (moved : Option Nat) (x : ClusterImage) : State :=
  let k := x.cluster
  let qs := x.queue.map (·.atRest)
  if x.crosses moved then
    let u := twinCluster k
    let s := (s.putQ k (qs.filter (·.copy))).appendQ u (qs.filter (!·.copy))
    let p := s.pair (pairOf k)
    if p.holder.isNone && p.moving.isNone then
      s.modPair (pairOf k) fun p => { p with
        holder := some true, lmov := min 255 (p.lmov + 1), pins := if x.pinned then setAdd key p.pins else p.pins }
    else (if x.pinned then s.reacquire key u else s).licSettle (pairOf k)
  else
    let s := s.putQ k qs
    let s := if x.pinned then s.reacquire key k else s
    s.licSettle (pairOf k)

/-- One core restored from its image: agents, table, taken record and inbox. A loader or storer comes back whole, whatever the volatile range
(the model's choice, log entry 83). The slot keeps the registers it holds (R199, R206). -/
def State.restoreCore (s : State) (key core : Nat) : State :=
  let j := s.job key
  match (s.core core).images.find? fun x => x.job == key with
  | none => s
  | some x =>
    let s := x.agents.foldl (fun s (kg : AgentKind × Agent) =>
      let g := if kg.1 = .main then kg.2.forgetVolatile j (s.drawn j.asid) else kg.2
      (s.setAgent ⟨core, kg.1⟩ g.goOn).draw j.asid 384) s
    let s := s.poke (tableAddr core 0) x.table
    s.modCore core fun c => { c with
      deq := x.deq, inbox := (tabGet core j.boxes).getD []
      images := c.images.map fun y =>
        if y.job = key then { y with agents := [], kept := (x.agents.find? fun kg => kg.1 == .main).map (·.2) } else y }

/-- A span back on its cores with its code: cores, routers, queues and licences as its images hold them (R203), and no group slot that another
span left there. A link that died meanwhile has its effect on the groups now (R184). -/
def State.bringBack (s : State) (key : Nat) (j : Job) (l t : List Byte) : State :=
  let s := j.cores.foldl (fun s c => (s.fillStores l t c).restoreCore key c) s
  let rest := s.groups.filter fun kg => !j.cores.contains (kg.1 / 64)
  let s := { s with groups := j.router.foldl (fun m (kg : Nat × GSlot) => tabSet kg.1 kg.2 m) rest }
  let s := s.modJob key fun j => { j with stage := .running, images := [], router := [], boxes := [], moved := none }
  let s := j.images.foldl (fun s x => s.restoreCluster key j.moved x) s
  (j.images.foldl (fun s x => s.licSettle (pairOf x.cluster)) s).groupsDeath j.router

/-- A span resumes (R203): its code images are copied again first (R55). A damaged image ends its job with SOFT (R197). -/
def resumeNow (key : Nat) : D Unit := do
  let j ← devGet (·.job key)
  let w ← devGet (·.whoMain j)
  if j.soft then endJob key (Cause.soft).code true
  else
    let images : D (List Byte × List Byte) := do
      let l ← codeImage w j.hdr false
      let t ← codeImage w j.hdr true
      pure (l, t)
    match ← devTry images with
    | .error c => endJob key c.code true
    | .ok (l, t) => devMod (·.bringBack key j l t)

/-- A span no longer waits for its resume. -/
def State.noResume (s : State) (key : Nat) : State :=
  { s with host := { s.host with pendResume := setDel key s.host.pendResume } }

/-- A span that waits to resume: once its clusters are free it takes them, and once its cores are clear of tasks, and none of its clusters
holds a frozen slice (R195), it goes on. -/
def tryResume (key : Nat) : D Unit := do
  let j ← devGet (·.job key)
  if (← devGet fun s => tabGet key s.jobs).isNone then devMod (·.noResume key)
  else if j.stage == .resuming || (j.stage == .off && j.why == .host && (← devGet fun s => j.gangs.all s.freeCluster)) then
    devMod fun s => s.modJob key fun j => { j with stage := .resuming }
    j.cores.forM evict
    if ← devGet fun s => j.cores.all s.vacant && !(j.gangs.any s.frozenCluster) then
      devMod (·.noResume key)
      resumeNow key

/-- The span of an address space that a command's argument names. -/
def State.spanArg (s : State) (asid : Nat) : Option (Nat × Job) :=
  let key := jobKey asid s.commandArg
  (tabGet key s.jobs).bind fun j => if j.bag || 2 ^ 31 ≤ s.commandArg then none else some (key, j)

/-- A command to resume a span is complete, since its save has ended and it resumes by itself (R211, R219). -/
def State.answerResume (s : State) (key : Nat) : State :=
  match s.command with
  | some (0x02, asid) => if (s.spanArg asid).any fun kj => kj.1 == key then s.answer 0 else s
  | some _ | none => s

/-- A span stopped for a migration that is over resumes (R211). -/
def resumeMoved (key : Nat) : D Unit := do
  devMod fun s => { (s.answerResume key).modJob key fun j => { j with stage := .resuming } with
    host := { s.host with pendResume := setAdd key s.host.pendResume } }
  tryResume key

/-! ## Migration (R211) -/

/-- The spans with a gang on a pair. -/
def State.spansOn (s : State) (p : Nat) : List (Nat × Job) :=
  s.jobs.filter fun kj => !kj.2.bag && (kj.2.gangs.any fun k => pairOf k == p) &&
    (match kj.2.stage with
      | .running | .stopping | .resuming => true
      | .off => kj.2.why == .thermal
      | .waiting => false)

/-- Whether a physical pair position is taken by a pair. -/
def State.positionTaken (s : State) (g y : Nat) : Bool := (List.range s.dev.pairs).any fun k => s.pairPos k == (g, y)

/-- The readings of the cores of a physical pair position. -/
def State.positionReadings (s : State) (g y : Nat) : List Thermal :=
  [0, 1].flatMap fun die => (List.range 8).map fun i => s.thermal (domainKey (.position die (8 * g + i) y))

/-- The lowest-numbered free good pair position that is cool enough (R211, step 1): a spare by its readings, one that a migration left only once
its cores have left HOT. -/
def State.coolPosition (s : State) : Option (Nat × Nat) :=
  ((List.range 33).flatMap fun y => (List.range 8).map fun g => (g, y)).find? fun p =>
    !s.dev.badPos.contains (p.1 * 64 + p.2) && !s.positionTaken p.1 p.2 &&
      !s.plant.vacated.contains (p.1 * 64 + p.2) && (s.positionReadings p.1 p.2).all fun t => t.reading ≤ 1520

/-- The vacated positions whose cores have all left HOT are free (R211). -/
def State.freeVacated (s : State) : State :=
  { s with plant := { s.plant with vacated := s.plant.vacated.filter fun x =>
      (s.positionReadings (x / 64) (x % 64)).any fun t => t.st != 0 } }

/-- Whether a core of a pair is HOT. -/
def State.pairHot (s : State) (p : Nat) : Bool := (s.pairThermals p).any fun t => t.st == 1

/-- Entry `p` of the table rewritten in one step (R13). -/
def State.rewriteEntry (s : State) (p : Nat) (pos : Nat × Nat) : State :=
  let e := s.lptEntry p
  let old := s.pairPos p
  let moves := min 255 (wbits e 40 8 + 1)
  let v := pos.1 + 8 * pos.2 + 2 ^ 9 + wbits e 16 24 * 2 ^ 16 + moves * 2 ^ 40
  State.freeVacated { s with
    dev := { s.dev with lpt := tabSet p (BitVec.ofNat 64 v) s.dev.lpt }
    plant := { s.plant with vacated := setAdd (old.1 * 64 + old.2) s.plant.vacated } }

/-- Whether a pair may take a throttle step now: at most one per ms (R211). -/
def State.throttleDue (s : State) (p : Nat) : Bool := (s.pair p).tthrAt = 0 || (s.pair p).tthrAt + 1000000 ≤ s.now

/-- The divider offset of a pair raised, at most once per ms and up to 3; a core held below its divider keeps the slack offset at 0 (R187,
R211). -/
def State.raiseTthr (s : State) (p : Nat) : State :=
  if s.throttleDue p then
    let s := s.modPair p fun x => { x with tthr := min 3 (x.tthr + 1), tthrAt := s.now }
    { s with plant := { s.plant with soff := 0 } }
  else s

/-- Whether a router of a pair holds a partly combined block (R186): one from a child, not yet sent on (log entry 77). -/
def State.combining (s : State) (p : Nat) : Bool :=
  s.groups.any fun kg => (pairCores p).contains (kg.1 / 64) && !kg.2.dead &&
    kg.2.ops.any fun o => o.slot != 8 && !kg.2.flushed.contains (o.round, o.chunk) &&
      o.blocks.any fun b => !kg.2.outs.contains (o.round, o.chunk, b.1)

/-- The migration in progress carried on: once its spans are off, its cores clear and no block partly combined, the entry is rewritten to the
position chosen and the spans resume. -/
def migrateStep : D Unit := do
  match ← devGet (·.plant.moving) with
  | none => pure ()
  | some (p, pos) =>
    (pairCores p).forM evict
    let xs ← devGet (·.spansOn p)
    if xs.all (fun kj => kj.2.stage == .off) && (← devGet fun s => (pairCores p).all s.vacant && !s.combining p) then
      devMod fun s =>
        let s := s.rewriteEntry p pos
        { s with plant := { s.plant with moving := none } }
      xs.forM fun kj => resumeMoved kj.1

/-- Whether the tasks on a pair's cores can be cleared away (R199, R202, R211). -/
def State.tasksCanGo (s : State) (p : Nat) : Bool :=
  (pairCores p).all fun c =>
    let g := s.agent ⟨c, .main⟩
    g.task.isNone || s.slotFor c (jobKey g.asid g.job)

/-- A span of the pair stopped for its migration: one that runs is pre-empted, one that waits to resume waits for the migration instead, and
one that is being stopped already goes off by itself. -/
def State.stopForMove (s : State) (p key : Nat) : State :=
  match (s.job key).stage with
  | .running => s.preempt key .thermal (some p)
  | .resuming => (s.noResume key).modJob key fun j => { j with stage := .off, why := .thermal }
  | .stopping | .off | .waiting => s

/-- Where a hot pair can move to now: a cool position, where every span and task on it can be stopped (R211, step 2). -/
def State.target (s : State) (p : Nat) : Option (Nat × Nat) :=
  if (s.spansOn p).all (fun kj => s.canSave kj.1) && s.tasksCanGo p then s.coolPosition else none

/-- A hot pair served (R211): its spans are stopped for migration to the position chosen now, or its divider offset rises. -/
def servePair (p : Nat) : D Unit := do
  if (← devGet (·.plant.moving)).isSome then pure ()
  else
    match ← devGet (·.target p) with
    | some pos =>
      let xs ← devGet (·.spansOn p)
      devMod fun s =>
        let s := { s with plant := { s.plant with moving := some (p, pos), pendHot := setDel p s.plant.pendHot } }
        xs.foldl (fun s kj => s.stopForMove p kj.1) s
      migrateStep
    | none => devMod fun s => ({ s with plant := { s.plant with pendHot := setDel p s.plant.pendHot } }).raiseTthr p

/-- The hot pairs to be served now, in ascending order (R211): those that became HOT, and those whose next step is due. -/
def State.hotDue (s : State) : List Nat :=
  ((s.pairs.map (·.1)).filter fun k => k < s.dev.pairs && s.pairHot k && s.throttleDue k).foldl (fun m k => setAdd k m) s.plant.pendHot

/-- Every hot pair to be served now is served, where one has become HOT. -/
def serveHot : D Unit := do
  if !(← devGet (·.plant.pendHot)).isEmpty then (← devGet (·.hotDue)).forM servePair

/-- Whether a span's routers may be saved: for a migration, once no router of the pair is combining a block (R186). -/
def State.routersRest (s : State) (j : Job) : Bool :=
  match j.moved with
  | some p => !s.combining p
  | none => true

/-- Event `SAVE_COMPLETE` (R199): every agent of a span being stopped has stopped. -/
def execSaveComplete (asid job : Nat) (s : State) : Host.Outcome State Fault Refusal :=
  let key := jobKey asid job
  match tabGet key s.jobs with
  | none => .next s
  | some j =>
    if j.stage == .stopping && s.allStopped key && s.routersRest j then
      .next (((s.attempt (save key)).attempt migrateStep).attempt serveHot)
    else .next (s.attempt migrateStep)

/-! ## Commands on spans -/

/-- Event `PREEMPT_SPAN` (R198, R199, R219): refused where a core's image slots are bound; a span in migration is stopped after it, and one
that is off already waits for its resume no longer. One that has not started answers 2 (the model's choice, log entry 102). -/
def execPreemptSpan (s : State) : Host.Outcome State Fault Refusal :=
  s.onCommand 0x01 fun asid =>
    match s.spanArg asid with
    | none => s.answer 2
    | some (key, j) =>
      match j.stage with
      | .running => if s.canSave key then (s.preempt key .host none).answer 0 else s.answer 1
      | .stopping | .off => if j.why = .thermal then s else (s.noResume key).answer 0
      | .resuming => s
      | .waiting => s.answer 2

/-- Event `RESUME_SPAN` (R203, R219): the command, and the spans whose resume still waits for their clusters. -/
def execResumeSpan (s : State) : Host.Outcome State Fault Refusal :=
  let go (s : State) : State := s.host.pendResume.foldl (fun s key => s.attempt (tryResume key)) s
  let other : State := go s
  match s.command with
  | some (0x02, asid) =>
    match s.spanArg asid with
    | none => .next (s.answer 2)
    | some (key, j) =>
      match j.stage with
      | .stopping => .next s
      | .off => .next (if j.why = .thermal then s.answer 0 else
          go ({ s with host := { s.host with pendResume := setAdd key s.host.pendResume } }.answer 0))
      | .resuming => .next ((go s).answer 0)
      | .running | .waiting => .next (s.answer 2)
  | some _ | none => .next other

/-- Whether a containment must wait for a span: one in migration, or about to start or to resume (R211, R219). -/
def Job.unsettled (j : Job) : Bool :=
  match j.stage with
  | .waiting | .resuming => true
  | .stopping | .off => j.why == .thermal
  | .running => false

/-- Event `CONTAIN` (R219): every running span of the address space is stopped; one in migration, or about to start or to resume, is stopped
once it runs, and the command then completes. One that cannot be stopped makes the answer a refusal. -/
def execContain (s : State) : Host.Outcome State Fault Refusal :=
  s.onCommand 0x07 fun asid =>
    let mine (s : State) : List (Nat × Job) := s.jobs.filter fun kj => kj.2.asid == asid && !kj.2.bag
    let s := (mine s).foldl (fun s kj =>
      if kj.2.stage == .running && s.canSave kj.1 then s.preempt kj.1 .host none
      else if kj.2.stage == .off && kj.2.why == .host then s.noResume kj.1 else s) s
    if (mine s).any fun kj => kj.2.unsettled then s
    else s.answer (if (mine s).all fun kj => kj.2.stage != .running then 0 else 1)

/-! ## Commands on partitions -/

/-- Event `TRANSLATION_SHOOTDOWN` (R86, R91, R219). -/
def execTranslationShootdown (s : State) : Host.Outcome State Fault Refusal :=
  s.onCommand 0x03 fun asid =>
    ({ s with mem := { s.mem with
      tlb := s.mem.tlb.filter (·.asid != asid), hcopies := s.mem.hcopies.filter (·.asid != asid) } }).answer 0

/-- Event `THAW` (R195, R219): the frozen slices of a cluster of the partition are unpinned and the cluster serves again. A cluster
that holds none, or is not the partition's, answers 2 (the model's choice, log entry 102). -/
def execThaw (s : State) : Host.Outcome State Fault Refusal :=
  s.onCommand 0x04 fun asid =>
    let k := s.commandArg
    if k < 512 && s.ownsCore asid (8 * k) && s.frozenCluster k then
      ({ s with mem := { s.mem with
        frozen := s.mem.frozen.filter fun c => clusterOf c != k
        pins := s.mem.pins.filter fun x => !(clusterOf (x.1 / 1024) == k && s.mem.frozen.contains (x.1 / 1024)) } }).answer 0
    else s.answer 2

/-- Event `DECLARE_PORT_OUT` (R205, R219): the port leaves the minima, and later packets from it are dropped. A port of 16 or
more answers 2 (the model's choice, log entry 102). -/
def execDeclarePortOut (s : State) : Host.Outcome State Fault Refusal :=
  s.onCommand 0x05 fun _ =>
    let p := s.commandArg
    if p < 16 then ((s.modIn p fun i => { i with removed := true }).flushPorts).answer 0 else s.answer 2

/-- Event `REENABLE_DELIVERY` (R205, R219). It also ends the stall of the device's own bound, for every address space (the model's choice, log
entry 93). -/
def execReenableDelivery (s : State) : Host.Outcome State Fault Refusal :=
  s.onCommand 0x06 fun asid =>
    ({ s with ord := { s.ord with
      halted := tabDel asid s.ord.halted, fullAt := s.ord.fullAt.filter fun f => f.1 / 16 != asid, lost := none } }).answer 0

/-- Licences, pins and requests of a partition's pairs given up (R146). -/
def State.freeLicences (s : State) (asid : Nat) : State :=
  { s with pairs := s.pairs.map fun kp =>
      if s.ownsPair asid kp.1 then
        (kp.1, { kp.2 with holder := none, moving := none, pins := [], reqL := none, reqU := none })
      else kp }

/-- The end of a partition whose jobs have ended: licences given up, slices unpinned, `PV` 0. -/
def State.endPartition (s : State) (asid : Nat) : State :=
  let s := s.freeLicences asid
  let s := { s with mem := { s.mem with pins := s.mem.pins.filter fun x => !(s.ownsCore asid (x.1 / 1024)) } }
  let pd := (tabGet asid s.host.pdesc).getD []
  let w := wordAt pd 0
  { s with host := { s.host with
    pdesc := tabSet asid (BitVec.ofNat 64 (w.toNat / 2 * 2) :: pd.drop 1) s.host.pdesc
    chans := s.host.chans.filter fun x => x.1 / 16 != asid } }

/-- Every job of a partition ends with PEERDEAD and no slice is frozen. What one job's units own holds up no other's end. -/
def tearDown (asid : Nat) : D Unit := do
  let keys ← devGet fun s => (s.jobs.filter fun kj => kj.2.asid == asid).map (·.1)
  let own ← devGet fun s => (keys.flatMap s.jobQ).map (·.2.key)
  devMod fun s => { s with mem := { s.mem with owned := s.mem.owned.filter fun o => !own.contains o.2 } }
  keys.forM fun key => endJob key (Cause.peerdead).code false
  devMod fun s => (s.endPartition asid).answer 0

/-- Event `TEAR_DOWN` (R219). A partition that is not live answers 2 (the model's choice, log entry 102). -/
def execTearDown (s : State) : Host.Outcome State Fault Refusal :=
  s.onCommand 0x08 fun asid => if s.live asid then s.attempt (tearDown asid) else s.answer 2

/-- Event `HCMD_UNKNOWN_CODE` (R219). -/
def execHcmdUnknownCode (s : State) : Host.Outcome State Fault Refusal :=
  match s.command with
  | some (c, _) => .next (if 1 ≤ c && c ≤ 9 then s else s.answer 2)
  | none => .next s

end Sys2Proof.Machine
end

