-- ==== Sys2Proof/Machine/Plant.lean ====
section
/-! DEFINITION. Heat and power (R207–R212): readings of the thermal domains, the throttle, refresh, ballast, and the package fault
(R197). -/

namespace Sys2Proof.Machine

/-- A package fault (R197): every job of every partition ends with SOFT, the host is notified by a vector that the manual does not
name, and the package serves nothing more until the next package reset. What one job's units own holds up no other's end. -/
def packageFault : D Unit := do
  devMod fun s => { s with mem := { s.mem with owned := [] } }
  (← devGet fun s => s.jobs.map (·.1)).forM fun key => endJob key (Cause.soft).code true
  devMod fun s =>
    let s := (s.msix ((Config.freeWord 256 (s.drawn 256)).toNat % 64)).draw 256 1
    { s with dev := { s.dev with failing := false, fault := true } }

/-- A package fault arises (R197). Where a job cannot end yet, the fault is tried again at every step (the model's choice, log entry
105). -/
def State.failPackage (s : State) : State := ({ s with dev := { s.dev with failing := true } } : State).attempt packageFault

/-- A package fault that has arisen is carried out as soon as it can be. -/
def State.failNow (s : State) : State := if s.dev.failing then s.attempt packageFault else s

/-! ## Thermal domains (R209) -/

/-- Whether a domain exists: a core position of the 64 × 33 grid of each die, or one of 8 stacks. -/
def domainExists : Domain → Bool
  | .position die x y => die < 2 && x < 64 && y < 33
  | .stack n => n < 8

/-- The threshold of a state of a domain, in 1/16 °C. -/
def threshold : Domain → Nat → Int
  | .position _ _ _, 1 => 1680
  | .position _ _ _, _ => 1840
  | .stack _, 1 => 1360
  | .stack _, _ => 1520

/-- The state a domain is in after a reading: an entry waits for 1 ms since the last transition; an exit also needs 3 °C below the
threshold and 200 µs in the state. -/
def Thermal.next (t : Thermal) (d : Domain) (r : Int) (now : Nat) : Nat :=
  let rested := match t.lastTr with
    | none => true
    | some x => decide (x + 1000000 ≤ now)
  if !rested then t.st
  else if t.st < 2 && threshold d 2 ≤ r then 2
  else if t.st = 0 && threshold d 1 ≤ r then 1
  else if t.st = 1 && r + 48 ≤ threshold d 1 && t.since + 200000 ≤ now then 0
  else t.st

/-- A reading taken. -/
def Thermal.read (t : Thermal) (d : Domain) (r : Int) (now : Nat) : Thermal :=
  let n := t.next d r now
  if n = t.st then { t with reading := r } else { t with st := n, since := now, lastTr := some now, reading := r }

/-- The pair whose core stands at a position (R13). -/
def State.pairAt (s : State) (d : Domain) : Option Nat :=
  match d with
  | .position _ x y => (List.range s.dev.pairs).find? fun k => s.pairPos k == (x / 8, y)
  | .stack _ => none

/-- Event `THERMAL_READING` (R209, R211): a core that becomes HOT makes the device act on its pair. -/
def execThermalReading (d : Domain) (r : Int) (s : State) : Host.Outcome State Fault Refusal :=
  if !domainExists d then .next s
  else
    let k := domainKey d
    let old := s.thermal k
    let new := old.read d r s.now
    let s := State.freeVacated { s with plant := { s.plant with doms := tabSet k new s.plant.doms } }
    if new.st = old.st then .next s
    else if new.st = 2 then .next s.failPackage
    else if new.st = 1 then
      match s.pairAt d with
      | some p =>
        let s := { s with plant := { s.plant with pendHot := setAdd p s.plant.pendHot } }
        .next ((s.attempt migrateStep).attempt serveHot)
      | none => .next s
    else .next s

/-- Event `THROTTLE_STEP` (R211, step 3): once per ms a HOT pair, after the lower ones that are due too, tries to migrate again and otherwise raises
`TTHR`; a pair out of HOT lowers it. -/
def execThrottleStep (p : Nat) (s : State) : Host.Outcome State Fault Refusal :=
  let s := s.attempt migrateStep
  let x := s.pair p
  if s.dev.pairs ≤ p || s.now < x.tthrAt + 1000000 then .next s
  else if s.pairHot p then .next (s.attempt ((s.hotDue.filter (· < p) ++ [p]).forM servePair))
  else if x.tthr = 0 then .next s
  else .next (s.modPair p fun x => { x with tthr := x.tthr - 1, tthrAt := s.now })

/-! ## Refresh and ballast (R207, R212) -/

/-- Event `HBM_REFRESH` (R212): a channel in service is refreshed once its period is over. Only time shows it. -/
def execHbmRefresh (stack chan : Nat) (s : State) : Host.Outcome State Fault Refusal :=
  let key := stack * 32 + chan
  let period := if (s.thermal (8192 + stack)).st = 0 then 3900 else 1950
  let due := match tabGet key s.plant.refresh with
    | some t => decide (t + period ≤ s.now)
    | none => true
  if 8 ≤ stack || 32 ≤ chan || s.dev.channelsOut.contains key || !due then .next s
  else .next { s with plant := { s.plant with refresh := tabSet key s.now s.plant.refresh } }

/-- The ballast operations per window that a fade still fills in: they fall to 0 over 200 ticks. -/
def Ballast.inForce (b : Ballast) (now : Nat) : Nat := b.level - b.level * min 2000 (now - b.since) / 2000

/-- A window's count: when it drops to at most half the one before, a fade starts from the missing count, or goes on from the level in
force. -/
def Ballast.window (b : Ballast) (count now : Nat) : Ballast :=
  let now0 := b.inForce now
  if count < b.prev && 2 * count ≤ b.prev then ⟨count, if now0 = 0 then b.prev - count else now0, now⟩ else { b with prev := count }

/-- Event `BALLAST_WINDOW` (R207): ballast writes no state that a program reads, but for the counters. -/
def execBallastWindow (row count : Nat) (s : State) : Host.Outcome State Fault Refusal :=
  if 264 ≤ row then .next s
  else .next { s with plant := { s.plant with ballast := tabMod row {} (fun b => b.window count s.now) s.plant.ballast } }

end Sys2Proof.Machine
end

