-- ==== Sys2Proof/Machine/Faults.lean ====
section
/-! DEFINITION. Accesses by outside observers (R117–R120), replies to accesses of this package (R117, R119, R196), and soft errors
(R197). -/

namespace Sys2Proof.Machine

/-! ## Accesses by outside observers (R117) -/

/-- Whether a line stands in a release that no outside observer sees yet (R118). -/
def State.unseen (s : State) (ls : List Nat) : Bool := s.fab.rels.any fun r => meets ls r.lines

/-- Whether an outside access waits at its home: for an owned line (R129), for a release it would read (R118), or for a
reservation (R109). -/
def State.outsideWaits (s : State) (ls : List Nat) (reads writes : Bool) : Bool :=
  s.ownedAny ls || (reads && s.unseen ls) || (writes && s.reservedAny ls)

/-- Bytes written by an outside observer as a one-access chunk (R107, R117, R197). -/
def State.outsidePut (s : State) (segs : List (Nat × Nat)) (bs : List Byte) : State :=
  let t := (s.squashAll (segLines segs)).softPoke segs bs
  if t.mem.poison.isEmpty then t else t.clearPoison (holdSegs segs bs [])

/-- Committed bytes of segments. -/
def State.bytesOf (s : State) (segs : List (Nat × Nat)) : List Byte := segs.flatMap fun g => bytesAt s.mem.bytes g.1 g.2

/-- Bytes an outside access touches. -/
def outBytes : OutOp → Nat
  | .read n => n
  | .write bs => bs.length
  | .add n _ | .swap n _ | .cas n _ _ => n
  | .minmax v2 _ _ => MMVarBytes v2
  | .bit _ _ => 8

/-- Whether an outside access reads. -/
def outReads : OutOp → Bool
  | .write _ => false
  | .read _ | .add _ _ | .swap _ _ | .cas _ _ _ | .minmax _ _ _ | .bit _ _ => true

/-- Whether an outside access writes. -/
def outWrites : OutOp → Bool
  | .read _ => false
  | .write _ | .add _ _ | .swap _ _ | .cas _ _ _ | .minmax _ _ _ | .bit _ _ => true

/-- What an outside access writes over the old bytes, where it writes (R266–R276). -/
def outNew (op : OutOp) (old : List Byte) : Option (List Byte) :=
  let x := leNat old
  match op with
  | .read _ => none
  | .write bs => some bs
  | .add n v => some (leBytes n (x + v.toNat))
  | .swap n v => some (leBytes n v.toNat)
  | .cas n e v => if x = e.toNat % 2 ^ (8 * n) then some (leBytes n v.toNat) else none
  | .minmax v2 wantMax v => some (leBytes (MMVarBytes v2) (minMaxOld v2 wantMax x v))
  | .bit op v => some (leBytes 8 (bitOld op x v))

/-- The bytes that the reply to an outside access brings: the old ones, or none for a store. -/
def outReply (op : OutOp) (old : List Byte) : List Byte := if outReads op then old else []

/-- Event `PEER_ACCESS_ARRIVE` (R117): an access of another device is performed at its home and answered. Without a live partition,
or where the translation fails, nothing is performed and no reply leaves. -/
def execPeerAccessArrive (x : OutAccess) (s : State) : Host.Outcome State Fault Refusal :=
  match if s.live x.asid then s.segsOf hubCaches x.asid x.va (outBytes x.op) (outWrites x.op) false else none with
  | none => .next s
  | some segs =>
    let ls := segLines segs
    if s.outsideWaits ls (outReads x.op) (outWrites x.op) then .next s
    else
      let old := s.bytesOf segs
      let bad := outReads x.op && meets ls s.mem.poison
      let t := match outNew x.op old with
        | some bs => if bad then s else s.outsidePut segs bs
        | none => s
      let t := t.notHung x.asid
      .next { t with fab := { t.fab with out := t.fab.out ++ [.reply x.asid (outReply x.op old) bad] } }

/-- Event `RELEASE_PERFORMED` (R118): the releases of a line whose covered sets have been performed are seen outside. -/
def execReleasePerformed (line : Nat) (s : State) : Host.Outcome State Fault Refusal :=
  .next { s with fab := { s.fab with
    rels := s.fab.rels.filter fun r => !(r.lines.contains line && s.performed r.cov) } }

/-! ## Replies to accesses of this package -/

/-- An outside access of this package. -/
def State.extOp (s : State) (id : Nat) : Option ExtOp := s.fab.exts.find? fun x => x.id == id

/-- Whether an access has been sent and no older one of its agent to the same target stands before it (R117, R118). -/
def State.nextReply (s : State) (x : ExtOp) : Bool :=
  (x.sent || s.performed x.cov) &&
    (x.agent.isNone || (s.fab.exts.find? fun y =>
      y.sameStream x && y.host == x.host && y.dev == x.dev && y.pod == x.pod) == some x)

/-- An access that is no longer outstanding. -/
def State.dropExt (s : State) (id : Nat) : State := { s with fab := { s.fab with exts := s.fab.exts.filter fun x => x.id != id } }

/-- An agent asleep in an access goes on with what came of it, beside what other accesses of the same unit brought; a `WAIT` sleeps on and finds it
when it evaluates again. -/
def Agent.answered (g : Agent) (x : ExtOp) (r : Except Cause (List Byte)) : Agent :=
  if g.awaits x then
    let g := { g with got := g.got ++ [(x.ptr, x.op, r)] }
    match g.act with
    | .asleep (.ext _) _ => { g with act := .running }
    | .asleep _ _ | .idle | .running | .stopped | .retired => g
  else g

/-- What a read of the device brought, kept for the job it was made for (R117). -/
def State.keepReply (s : State) (x : ExtOp) (data : Except Cause (List Byte)) : State :=
  if x.store || (tabGet x.job s.jobs).isNone then s
  else { s with fab := { s.fab with replies := s.fab.replies ++ [⟨x.asid, x.job, x.ptr, outBytes x.op, data⟩] } }

/-- A reply at the agent, or the job, for which the access was made. -/
def State.takeReply (s : State) (x : ExtOp) (data : List Byte) (poisoned : Bool) : State :=
  match x.agent with
  | some a => s.modAgent a (·.answered x (if poisoned then .error .soft else .ok data))
  | none => s.keepReply x (if poisoned then .error .soft else .ok data)

/-- A message to another device, by its number: it must be the oldest from its agent to its node (R336). -/
def State.flightOf (s : State) (id : Nat) : Option Flight :=
  (s.fab.msgs.find? fun f => f.id == some id).bind fun f =>
    if (s.fab.msgs.find? fun h => f.sameSender h && h.node == f.node) == some f then some f else none

/-- A message that is no longer on its way. -/
def State.dropFlight (s : State) (f : Flight) : State := { s with fab := { s.fab with msgs := s.fab.msgs.erase f } }

/-- Event `PEER_ACCESS_REPLY` (R117, R119, R336): an access is reported performed and a load's data delivered, or a message to another
device has entered its inbox. -/
def execPeerAccessReply (id : Nat) (data : List Byte) (poisoned : Bool) (s : State) : Host.Outcome State Fault Refusal :=
  match s.extOp id with
  | none =>
    match s.flightOf id with
    | some f => .next (s.dropFlight f)
    | none => .next s
  | some x =>
    if s.nextReply x && data.length == (if outReads x.op then outBytes x.op else 0) then
      .next ((s.takeReply x data poisoned).dropExt id)
    else .next s

/-- The access that an agent sleeps in, or that its `WAIT` evaluates with. -/
def State.awaited (s : State) (a : AgentId) : Option ExtOp :=
  match (s.agent a).act with
  | .asleep (.ext id) _ => s.extOp id
  | .asleep (.wait _ _ _ _) _ => s.fab.exts.find? fun x => x.agent == some a && (s.agent a).awaits x
  | .asleep _ _ | .idle | .running | .stopped | .retired => none

/-- Event `PEER_LOAD_TIMEOUT` (R196): a load whose target stays unreachable for 1 ms. -/
def execPeerLoadTimeout (a : AgentId) (s : State) : Host.Outcome State Fault Refusal :=
  match s.awaited a with
  | none => .next s
  | some x =>
    if x.host || s.now < x.since + 1000000 then .next s
    else .next ((s.modAgent a (·.answered x (.error .peerdead))).dropExt x.id)

/-- An outside access that proves unreachable, at its issuer (R196): a posted store leaves its pointer for the next release of the stream that
made it, wherever that stands; a load or atomic raises PEERDEAD, and a read of the device fails with it. -/
def State.unreachable (s : State) (x : ExtOp) : State :=
  match x.agent with
  | some a =>
    if (s.agent a).awaits x then s.modAgent a (·.answered x (.error .peerdead))
    else s.failedAt a x.job x.task x.ptr
  | none => s.keepReply x (.error .peerdead)

/-- Event `PEER_STORE_UNREACHABLE` (R196, R336): a store, or a message to another device that was lost there. -/
def execPeerStoreUnreachable (id : Nat) (s : State) : Host.Outcome State Fault Refusal :=
  match s.extOp id with
  | none =>
    match s.flightOf id, (s.flightOf id).bind (·.sender) with
    | some f, some a => .next ((s.dropFlight f).failedAt a f.job f.task f.node)
    | some f, none => .next (s.dropFlight f)
    | none, _ => .next s
  | some x => if x.host then .next s else .next ((s.unreachable x).dropExt id)

/-! ## Time and soft errors -/

/-- Event `DIRECTORY_HANDLER_TURN` (R96): the handler strand's only visible effect is time. -/
def execDirectoryHandlerTurn (_core : Nat) (s : State) : Host.Outcome State Fault Refusal := .next s

/-- Whether shadow storage holds an image of a job (R199). -/
def State.hasImage (s : State) (key : Nat) : Bool := s.cores.any fun kc => kc.2.images.any fun i => i.job == key

/-- An image of a span found damaged (R197): its job ends with SOFT when it resumes. -/
def State.spoilImage (s : State) (key : Nat) : State :=
  if s.hasImage key then s.modJob key fun j => { j with soft := true } else s

/-- The image of a stopped task found damaged (R197): its job ends with SOFT when a core claims it. -/
def State.spoilTask (s : State) (key : Nat) (rec : Word) : State :=
  { s with clusters := s.clusters.map fun kc => (kc.1, { kc.2 with
      tasks := kc.2.tasks.map fun e =>
        if e.image.isSome && e.ptr == rec && jobKey e.asid e.job == key then { e with soft := true } else e }) }

/-- Event `SOFT_ERROR` (R197). One that is corrected is counted on the agent whose access met it (R213). -/
def execSoftError (w : SoftWhere) (s : State) : Host.Outcome State Fault Refusal :=
  match w with
  | .cleanLine _ => .next s
  | .storedLine a => .next { s with mem := { s.mem with poison := setAdd (lineOf a) s.mem.poison } }
  | .routerBuffer core g =>
    match tabGet (core * 64 + g) s.groups with
    | some x =>
      match x.unacked.head? with
      | some it => .next (({ s with fab := { s.fab with items := s.fab.items.erase it } }).launch (gSlk x.desc) it)
      | none => .next s
    | none => .next s
  | .register a code => .next (s.parityAt a code)
  | .shadow asid job => .next (s.spoilImage (jobKey asid job))
  | .taskImage asid job rec => .next (s.spoilTask (jobKey asid job) rec)
  | .corrected a => .next (s.modAgent a (·.countEvent 0x08 1))
  | .fabric => .next s.failPackage

end Sys2Proof.Machine
end

