-- ==== Sys2Proof/Machine/FloatScalar.lean ====
section
/-! DEFINITION. The scalar floating instructions, A-class majors 0x14–0x1D (R294, R298–R311). -/

namespace Sys2Proof.Machine

/-! ## Shared forms -/

/-- The format a precision names (R228). -/
def precFmt : Prec → Fmt
  | .fp32 => .fp32
  | .fp64 => .fp64

/-- A floating operand: the low bits of its register (R294). -/
def floatOf (p : Prec) (v : Word) : Nat := v.toNat % 2 ^ (precFmt p).width

/-- A floating result with every higher bit 0 (R294). -/
def floatWord (x : Nat) : Word := BitVec.ofNat 64 x

/-- Two operands and one result of a format. -/
def binaryF (p : Prec) (f : Nat → Nat → Nat) (d a b : Reg) : M Unit := do
  let x ← readS a
  let y ← readS b
  writeS d (floatWord (f (floatOf p x) (floatOf p y)))

/-- `FCVT` (R301): the result of each selector. -/
def convert (sel : CvtSel) (r : RMode) (p : Prec) (v : Word) : Word :=
  let f := precFmt p
  let x := floatOf p v
  match sel with
  | .ff => match p with
    | .fp32 => floatWord (fConv .fp64 .fp32 r v.toNat)
    | .fp64 => floatWord (fConv .fp32 .fp64 r (v.toNat % 2 ^ 32))
  | .fi64 => BitVec.ofInt 64 (fToInt f r (-(2 ^ 63)) (2 ^ 63 - 1) x)
  | .fn64 => BitVec.ofInt 64 (fToInt f r 0 (2 ^ 64 - 1) x)
  | .i64f => floatWord (intToF f r v.toInt)
  | .n64f => floatWord (intToF f r v.toNat)
  | .fi32 => BitVec.ofInt 64 (fToInt f r (-(2 ^ 31)) (2 ^ 31 - 1) x)
  | .fn32 => BitVec.ofInt 64 (fToInt f r 0 (2 ^ 32 - 1) x)
  | .i32f => floatWord (intToF f r (toSigned 32 (v.toNat % 2 ^ 32)))

/-! ## The instructions -/

/-- `FADD` (R298). -/
def execFadd (d a b : Reg) (r : RMode) (p : Prec) (s : State) : Host.Outcome State Fault Refusal :=
  runWord (.fadd d a b r p) (binaryF p (fAdd (precFmt p) r) d a b) s

/-- `FSUB` (R311). -/
def execFsub (d a b : Reg) (r : RMode) (p : Prec) (s : State) : Host.Outcome State Fault Refusal :=
  runWord (.fsub d a b r p) (binaryF p (fSub (precFmt p) r) d a b) s

/-- `FMUL` (R309). -/
def execFmul (d a b : Reg) (r : RMode) (p : Prec) (s : State) : Host.Outcome State Fault Refusal :=
  runWord (.fmul d a b r p) (binaryF p (fMul (precFmt p) r) d a b) s

/-- `FMA` (R306): one rounding. -/
def execFma (d a b c : Reg) (r : RMode) (p : Prec) (s : State) : Host.Outcome State Fault Refusal :=
  runWord (.fma d a b c r p) (do
    let x ← readS a
    let y ← readS b
    let z ← readS c
    writeS d (floatWord (fFma (precFmt p) r (floatOf p x) (floatOf p y) (floatOf p z)))) s

/-- `FDIV` (R302): a late result. -/
def execFdiv (d a b : Reg) (la : BitVec 4) (r : RMode) (p : Prec) (s : State) : Host.Outcome State Fault Refusal :=
  runWord (.fdiv d a b la r p) (do
    let x ← readS a
    let y ← readS b
    writeLate la d (floatWord (fDiv (precFmt p) r (floatOf p x) (floatOf p y)))) s

/-- `FSQRT` (R310): a late result. -/
def execFsqrt (d a : Reg) (la : BitVec 4) (r : RMode) (p : Prec) (s : State) : Host.Outcome State Fault Refusal :=
  runWord (.fsqrt d a la r p) (do
    let x ← readS a
    writeLate la d (floatWord (fSqrt (precFmt p) r (floatOf p x)))) s

/-- `FMIN` (R308). -/
def execFmin (d a b : Reg) (p : Prec) (s : State) : Host.Outcome State Fault Refusal :=
  runWord (.fmin d a b p) (binaryF p (fMinMax (precFmt p) false) d a b) s

/-- `FMAX` (R307). -/
def execFmax (d a b : Reg) (p : Prec) (s : State) : Host.Outcome State Fault Refusal :=
  runWord (.fmax d a b p) (binaryF p (fMinMax (precFmt p) true) d a b) s

/-- `FCMP` (R300). -/
def execFcmp (d a b : Reg) (rel : FRel) (p : Prec) (s : State) : Host.Outcome State Fault Refusal :=
  runWord (.fcmp d a b rel p) (binaryF p (fun x y => bitNat (fRel (precFmt p) rel x y)) d a b) s

/-- `FCVT` (R301). -/
def execFcvt (d a : Reg) (sel : CvtSel) (r : RMode) (p : Prec) (s : State) : Host.Outcome State Fault Refusal :=
  runWord (.fcvt d a sel r p) (do
    let x ← readS a
    writeS d (convert sel r p x)) s

/-- `FCLASS` (R299). -/
def execFclass (d a : Reg) (p : Prec) (s : State) : Host.Outcome State Fault Refusal :=
  runWord (.fclass d a p) (do
    let x ← readS a
    writeS d (floatWord (fClass (precFmt p) (floatOf p x)))) s

end Sys2Proof.Machine
end

