-- ==== Sys2Proof/Machine/Host.lean ====
section
/-! DEFINITION. The host window (R206, R214–R217, R222) and start-up (R15, R221). Nothing of the window but `CAPB` and `BOOTST` is
served until `BOOTST` reads 1. -/

namespace Sys2Proof.Machine

/-- Whether the window is served (R221). -/
def State.booted (s : State) : Bool := s.host.bootst == 1

/-- Bits of `HERR` set. -/
def State.setHerr (s : State) (bit : Nat) : State :=
  { s with host := { s.host with herr := s.host.herr ||| BitVec.ofNat 3 (2 ^ bit) } }

/-! ## The aperture (R214) -/

/-- The segments that an aperture access reaches: those of `APBASE` and the offset within its half, in the address space of
`APASID`. -/
def State.apertureSegs (s : State) (off n : Nat) (wr : Bool) : Option (List (Nat × Nat)) :=
  if s.live s.host.apasid then s.segsOf hubCaches s.host.apasid ((s.host.apbase + off % 2 ^ 36) % 2 ^ 64) n wr false else none

/-- Whether an access lies in the upper half. -/
def upperHalf (off : Nat) : Bool := decide (2 ^ 36 ≤ off)

/-- An aperture write, performed at its home (R117). In the upper half an aligned 8-byte write sets the word's full tag and any other
is dropped; aligned are its offset and its address both (R214; the model's choice, log entry 69). -/
def State.hostWrite (s : State) (off : Nat) (bs : List Byte) : State :=
  if upperHalf off && (bs.length != 8 || off % 8 != 0 || s.host.apbase % 8 != 0) then s.setHerr 0
  else
    match s.apertureSegs off bs.length true with
    | none => s.setHerr 0
    | some segs =>
      if s.outsideWaits (segLines segs) false true then s
      else
        let t := (s.outsidePut segs bs).notHung s.host.apasid
        if upperHalf off then t.setTag (segs.headD (0, 0)).1 true else t

/-- Event `APERTURE_READ` (R197, R214): the bytes, with poison marked; all ones where the access does not reach memory. -/
def execApertureRead (off n : Nat) (s : State) : Host.Outcome State Fault Refusal :=
  if !s.booted || 2 ^ 37 < off + n then .next s
  else
    match s.apertureSegs off n false with
    | none => .next ({ s with host := { s.host with rd := List.replicate n 0xFF, rdBad := false } }.setHerr 2)
    | some segs =>
      let ls := segLines segs
      if s.outsideWaits ls true false then .next s
      else
        let s := s.notHung s.host.apasid
        .next { s with host := { s.host with rd := s.bytesOf segs, rdBad := meets ls s.mem.poison } }

/-- Event `APERTURE_WRITE` (R214). -/
def execApertureWrite (off : Nat) (bs : List Byte) (s : State) : Host.Outcome State Fault Refusal :=
  .next (if !s.booted || 2 ^ 37 < off + bs.length then s else s.hostWrite off bs)

/-- Event `APERTURE_TAGGED_WRITE` (R214). -/
def execApertureTaggedWrite (off : Nat) (bs : List Byte) (s : State) : Host.Outcome State Fault Refusal :=
  .next (if !s.booted || 2 ^ 37 < off + bs.length then s else s.hostWrite off bs)

/-! ## Registers with a behaviour of their own (R215) -/

/-- A job stream register after a write of one of its words (R41, R43): either write lets the dispatcher look at the stream again. -/
def Stream.writeWord (x : Stream) (word : Nat) (v : Word) : Stream :=
  if word = 0 then
    { x with base := BitVec.ofNat 64 (v.toNat / 64 * 64), head := 0, skip := false, waitAt := none, blocks := false }
  else
    let n := wbits v 0 4 + 1
    { x with
      logn := n, asid := wbits v 8 8, sv := wbit v 16, jerr := x.jerr && !wbit v 63, skip := false, head := x.head % 2 ^ n }

/-- Event `JSREG_WRITE` (R43, R215). -/
def execJsregWrite (st word : Nat) (v : Word) (s : State) : Host.Outcome State Fault Refusal :=
  if !s.booted || 64 ≤ st || 2 ≤ word then .next s
  else .next { s with streams := tabSet st (((tabGet st s.streams).getD { logn := 1 }).writeWord word v) s.streams }

/-- Event `HERR_CLEAR` (R215). -/
def execHerrClear (v : Word) (s : State) : Host.Outcome State Fault Refusal :=
  .next (if s.booted then { s with host := { s.host with herr := s.host.herr &&& ~~~ (BitVec.ofNat 3 v.toNat) } } else s)

/-- Event `HCELL_CLEAR` (R317): bit 63 of the write clears `HPEND`. -/
def execHcellClear (core : Nat) (v : Word) (s : State) : Host.Outcome State Fault Refusal :=
  .next (if s.booted && s.coreExists core && wbit v 63 then s.modCore core fun k => { k with hpend := false } else s)

/-! ## Debug reads (R206, R216) -/

/-- The main agents that the image slots of a core hold (R199). -/
def State.slotAgents (s : State) (core : Nat) : List Agent :=
  (s.core core).images.filterMap fun i => ((i.agents.find? fun x => x.1 == .main).map (·.2)).or i.kept

/-- Whether an image keeps a register (R199): no scalar or tile of the volatile range, and of the state registers those of the agent that
software writes and, for a span, its cycle state and `SWPOL` (R152, R173). -/
def State.imageHolds (s : State) (g : Agent) (code : Nat) : Bool :=
  let j := s.job (jobKey g.asid g.job)
  if code < 48 then !j.volatile code
  else code < 0x400 || dirtySrs.contains (code - 0x400) || (g.task.isNone && 0x420 ≤ code && code ≤ 0x427)

/-- A binding as R216 lays it out. -/
def bindingWord : Option Binding → Word
  | none => 0
  | some b => BitVec.ofNat 64 (b.pos % 2 ^ 32 + b.code % 2 ^ 10 * 2 ^ 32 + bitNat b.out * 2 ^ 62 + 2 ^ 63)

/-- The register that an offset of `DBG` shows, by its code of R57, and its value; reserved offsets show none. -/
def State.dbgRegister (s : State) (core : Nat) (g : Agent) (off : Nat) : Option (Nat × Word) :=
  if off < 0x100 then some (off / 8, g.ctx.reg (BitVec.ofNat 5 (off / 8)))
  else if off < 0x900 then
    let v := (g.ctx.row ((off - 0x100) / 16)).toNat
    some (32 + (off - 0x100) / 128, BitVec.ofNat 64 (v / 2 ^ (8 * (off % 16))))
  else if off < 0x920 then some (48 + (off - 0x900) / 8, bindingWord ((g.ctx.binds.toList.getD ((off - 0x900) / 8) none)))
  else if 0xC00 ≤ off && srExists ((off - 0xC00) / 8) then
    some (0x400 + (off - 0xC00) / 8, s.sr ⟨core, .main⟩ g ((off - 0xC00) / 8))
  else none

/-- A read of NOTPRESENT. -/
def State.notPresent (s : State) : State :=
  ({ s with host := { s.host with rd := List.replicate 8 0xFF, rdBad := false } }).setHerr 1

/-- A word returned to the host. -/
def State.hostWord (s : State) (v : Word) : State := { s with host := { s.host with rd := wordBytes 8 v, rdBad := false } }

/-- The agent whose register a debug read shows: the strand or task of the core, or the first one of its image slots that holds the register
(of two that hold it, the model's choice, log entry 62); none where neither is there (R206). -/
def State.dbgAgent (s : State) (core off : Nat) : Option Agent :=
  let g := s.agent ⟨core, .main⟩
  if g.act != .idle && g.act != .retired then some g
  else (s.slotAgents core).find? fun x => (s.dbgRegister core x off).any fun r => s.imageHolds x r.1

/-- A register of an agent returned, with a counter whose count depends on timing given a free value (log entry 11). -/
def State.showRegister (s : State) (core : Nat) (g : Agent) (off : Nat) : State :=
  match s.dbgRegister core g off with
  | none => s.hostWord 0
  | some (code, v) =>
    if 0x450 ≤ code && code ≤ 0x453 && timedEvent (wbits g.ctx.pmsel (8 * (code - 0x450)) 8) then
      (s.draw g.asid 1).hostWord (Config.freeWord g.asid (s.drawn g.asid))
    else s.hostWord v

/-- Event `DBG_READ` (R206): an aligned 8-byte read of a core's registers. -/
def execDbgRead (core off : Nat) (s : State) : Host.Outcome State Fault Refusal :=
  if !s.booted || !s.coreExists core || 4096 ≤ off || off % 8 != 0 then .next s
  else if 0xA00 ≤ off && off < 0xA20 then
    .next (s.hostWord ((tabGet (core % 2048 * 4 + (off - 0xA00) / 8) s.twins).getD {}).val)
  else
    match s.dbgAgent core off with
    | some g => .next (s.showRegister core g off)
    | none => .next (if (s.dbgRegister core {} off).isSome then s.notPresent else s.hostWord 0)

/-! ## Partitions (R217) -/

/-- Whether a pair of a descriptor exists and stands in no other live descriptor. -/
def State.pairsFree (s : State) (asid : Nat) : Bool :=
  (List.range 256).all fun k => !s.ownsPair asid k ||
    (k < s.dev.pairs && s.host.pdesc.all fun d => d.1 == asid || !(s.live d.1 && s.ownsPair d.1 k))

/-- A descriptor word replaced. -/
def State.setPd (s : State) (asid i : Nat) (v : Word) : State :=
  let ws := (List.range 16).map (s.pdWord asid)
  { s with host := { s.host with pdesc := tabSet asid (ws.set i v) s.host.pdesc } }

/-- `PV` written to 1: the partition goes live with its job numbers, task rotation, capabilities and ordered delivery at their start, and the
device reads its channel tables (R218); or the write fails and `PV` stays 0. -/
def State.goLive (s : State) (asid : Nat) : State :=
  if s.live asid || !s.pairsFree asid then s
  else
    let s := (s.setPd asid 0 (BitVec.ofNat 64 ((s.pdWord asid 0).toNat / 2 * 2 + 1))).freshDraws asid
    let chans := (s.readChannels asid).foldl (fun m kc => tabSet kc.1 kc.2 m) (s.host.chans.filter fun x => x.1 / 16 != asid)
    { s with
      host := { s.host with chans := chans }
      jobCount := tabDel asid s.jobCount
      bagRot := tabDel asid s.bagRot
      caps := s.caps.filter fun c => c.1 / 4096 != asid
      ord := { s.ord with
        halted := tabDel asid s.ord.halted
        queues := s.ord.queues.filter fun q => q.1 / 16 != asid
        fullAt := s.ord.fullAt.filter fun f => f.1 / 16 != asid } }

/-- Event `PARTITION_GO_LIVE` (R217). -/
def execPartitionGoLive (asid : Nat) (s : State) : Host.Outcome State Fault Refusal :=
  .next (if s.booted && asid < 256 then s.goLive asid else s)

/-- Bits of a descriptor word that are not reserved (R2, R217). -/
def pdMask (i : Nat) (v : Word) : Word :=
  if i = 0 then BitVec.ofNat 64 (v.toNat % 4)
  else if i = 7 then BitVec.ofNat 64 (v.toNat % 2 ^ 32)
  else if 12 ≤ i then 0
  else v

/-- A write of a descriptor word: a live one takes only `RDYCNT` and `STALL`. -/
def State.writePd (s : State) (asid i : Nat) (v : Word) : State :=
  let v := pdMask i v
  if s.live asid then
    if i = 0 then s.setPd asid 0 (BitVec.ofNat 64 (v.toNat / 2 * 2 + 1))
    else if i = 7 then s.setPd asid 7 v
    else s
  else if i = 0 then
    let t := s.setPd asid 0 (BitVec.ofNat 64 (v.toNat / 2 * 2))
    if wbit v 0 then t.goLive asid else t
  else s.setPd asid i v

/-- Event `MGMT_REGISTER_WRITE` (R215, R217, R219): an 8-byte write; read-only and unassigned places ignore it, and so does the
command block while `GO` is 1. -/
def execMgmtRegisterWrite (off : Nat) (v : Word) (s : State) : Host.Outcome State Fault Refusal :=
  if !s.booted || off % 8 != 0 then .next s
  else if off = 0x2008 then .next { s with host := { s.host with apasid := wbits v 0 8 } }
  else if off = 0x2010 then .next { s with host := { s.host with apbase := v.toNat } }
  else if off = 0x2020 then .next { s with host := { s.host with frzsel := BitVec.ofNat 12 v.toNat } }
  else if 0x10000 ≤ off && off < 0x18000 then .next (s.writePd ((off - 0x10000) / 128) (off % 128 / 8) v)
  else if 0x30000 ≤ off && off < 0x30040 then
    if s.command.isSome then .next s
    else .next { s with host := { s.host with hcmd := s.host.hcmd.set ((off - 0x30000) / 8) v } }
  else .next s

/-! ## What the window shows (R195, R215, R219) -/

/-- Word 1 of a job stream register. -/
def Stream.word1 (x : Stream) : Word :=
  BitVec.ofNat 64 (x.logn - 1 + x.asid * 2 ^ 8 + bitNat x.sv * 2 ^ 16 + x.eslot % 2 ^ 16 * 2 ^ 32 + x.ecause % 2 ^ 8 * 2 ^ 48 +
    bitNat x.jerr * 2 ^ 63)

/-- Whether the slice that `FRZSEL` names is frozen. -/
def State.frzShown (s : State) : Bool := s.mem.frozen.contains s.host.frzsel.toNat

/-- The notice cell of a core (R317). -/
def Core.cell (k : Core) (word : Nat) : Word :=
  if word = 0 then BitVec.ofNat 64 (k.hcode.toNat + bitNat k.hpend * 2 ^ 63) else k.harg

/-- Whether a read of the management window at an 8-byte aligned offset answers with the data-poisoned bit set (R197): a poisoned line of a frozen
slice that `FRZ` shows. -/
def State.windowBad (s : State) (off : Nat) : Bool :=
  s.booted && 0x2000000 ≤ off && off < 0x2040000 && s.frzShown &&
    s.mem.poison.contains (lineOf (stashAddr s.host.frzsel.toNat (off - 0x2000000)))

/-- The word at an 8-byte aligned offset of the management window, but for `DBG`. A read of it changes nothing. -/
def State.window (s : State) (off : Nat) : Word :=
  if off < 0x100 then s.capWord (off / 8)
  else if off = 0x2000 then BitVec.ofNat 64 s.host.bootst
  else if !s.booted then 0
  else if 0x1000 ≤ off && off < 0x1800 then s.lptEntry ((off - 0x1000) / 8)
  else if off = 0x2008 then BitVec.ofNat 64 s.host.apasid
  else if off = 0x2010 then BitVec.ofNat 64 s.host.apbase
  else if off = 0x2018 then s.host.herr.zeroExtend 64
  else if off = 0x2020 then BitVec.ofNat 64 (s.host.frzsel.toNat + bitNat s.frzShown * 2 ^ 63)
  else if 0x10000 ≤ off && off < 0x18000 then s.pdWord ((off - 0x10000) / 128) (off % 128 / 8)
  else if 0x20000 ≤ off && off < 0x20400 then
    let x := (tabGet ((off - 0x20000) / 16) s.streams).getD {}
    if off % 16 = 0 then x.base else x.word1
  else if 0x30000 ≤ off && off < 0x30040 then wordAt s.host.hcmd ((off - 0x30000) / 8)
  else if off = 0x30040 then s.host.hres
  else if 0x30048 ≤ off && off < 0x300A8 then leWord ((s.host.sig.drop (off - 0x30048)).take 8)
  else if 0x40000 ≤ off && off < 0x50000 then (s.core ((off - 0x40000) / 16)).cell (off % 16 / 8)
  else if 0x2000000 ≤ off && off < 0x2040000 then
    if s.frzShown then leWord (bytesAt s.mem.bytes (stashAddr s.host.frzsel.toNat (off - 0x2000000)) 8) else BitVec.allOnes 64
  else 0

/-! ## Attestation and start-up (R221, R222) -/

/-- What Attest signs: nonce, image digest, fuse map and `CAPB`, in that order. -/
def State.attestText (s : State) : List Byte :=
  ((s.host.hcmd.drop 1).take 6).flatMap (wordBytes 8) ++ s.host.fwDigest ++
    Config.fuseBytes s.dev.badPos s.dev.channelsOut s.dev.lanes ++ s.capBytes 0 256

/-- Event `ATTEST` (R222): r ‖ s stands after `HRES`. -/
def execAttest (s : State) : Host.Outcome State Fault Refusal :=
  s.onCommand 0x09 fun _ =>
    let d := sha384 s.attestText
    ({ s with host := { s.host with sig := (List.range 96).map (Config.attestByte d) } }).answer 0

/-- The default position of a pair, as group × 64 + row (R14). -/
def defaultPos (k : Nat) : Nat := k % 8 * 64 + k / 8

/-- Pairs removed from the top down to one at a good position, or to `k` itself (R15): the new count, and whether `k` keeps a place. -/
def removeTop (bad : List Nat) (k : Nat) : Nat → Nat × Bool
  | 0 => (0, false)
  | p + 1 => if p = k then (k, false) else if bad.contains (defaultPos p) then removeTop bad k p else (p, true)

/-- The entry of a pair at a position. -/
def entryAt (pos : Nat) : Word := BitVec.ofNat 64 (pos / 64 + pos % 64 * 8 + 2 ^ 9 + 0xFAC688 * 2 ^ 16)

/-- One pair placed (R15): the pair count, the good spares left, and the entries that differ from the default. -/
def placePair (bad : List Nat) (x : Nat × List Nat × Tab Word) (k : Nat) : Nat × List Nat × Tab Word :=
  if x.1 ≤ k || !bad.contains (defaultPos k) then x
  else
    match x.2.1 with
    | pos :: rest => (x.1, rest, tabSet k (entryAt pos) x.2.2)
    | [] =>
      let r := removeTop bad k x.1
      (r.1, [], if r.2 then tabSet k (entryAt (defaultPos r.1)) x.2.2 else x.2.2)

/-- The placement of R15: pair count and table. -/
def placement (bad : List Nat) : Nat × Tab Word :=
  let spares := ((List.range 8).map (64 * · + 32)).filter fun p => !bad.contains p
  let r := (List.range 256).foldl (placePair bad) (256, spares, [])
  (r.1, r.2.2.filter fun e => e.1 < r.1)

/-- What `BOOTST` shows after the checks of R15 and R221. -/
def bootStatus (b : BootInput) (pairs : Nat) : Nat :=
  if !b.sigOk || !b.digestOk then 2
  else if b.version < b.rollback then 3
  else if pairs < 128 then 4
  else 1

/-- How many lanes a port trained with (R18). -/
def portCount : PortLanes → Nat
  | .absent => 0
  | .four => 4
  | .eight => 8

/-- The `FLN` word of ports as they were trained (R18, R19). -/
def laneWord (ports : Vector PortLanes 16) : Word :=
  BitVec.ofNat 64 ((ports.toList.mapIdx fun p l => portCount l * 16 ^ p).foldl (· + ·) 0)

/-- The package after package reset and start-up (R15, R221): every field as `State.reset` has it but for what start-up finds, the
readings of the sensors, pod time, and the model's own schedule and counter. -/
def State.boot (s : State) (b : BootInput) : State :=
  let bad := b.badPos.map fun p => p.1 * 64 + p.2
  let pl := placement bad
  let st := bootStatus b pl.1
  let found : Bool := st == 1 || st == 4
  { State.reset with
    turns := s.turns
    free := s.free
    plant := { doms := s.plant.doms.map fun (kt : Nat × Thermal) => (kt.1, { reading := kt.2.reading }) }
    host := { bootst := st, fwVersion := if found then b.version else 0, fwDigest := if found then b.digest else [] }
    dev := {
      pairs := pl.1, lpt := pl.2, badPos := bad
      channelsOut := b.channelsOut.foldl (fun m c => setAdd (c.1.val * 32 + c.2.val) m) []
      lanes := laneWord b.ports, devId := s.dev.devId, podId := s.dev.podId, podOff := s.podt } }

/-- Event `PACKAGE_RESET` (R221). -/
def execPackageReset (b : BootInput) (s : State) : Host.Outcome State Fault Refusal := .next (s.boot b)

end Sys2Proof.Machine
end

