-- ==== Sys2Proof/Machine/Integer.lean ====
section
/-! DEFINITION. The scalar integer instructions, A-class majors 0x00–0x13 (R62, R264, R266–R374). -/

namespace Sys2Proof.Machine

/-! ## Shared forms -/

/-- Two sources and one result in place for the next instruction (R264, R333). -/
def binaryS (f : Word → Word → Word) (d a b : Reg) : M Unit := do
  let x ← readS a
  let y ← readS b
  writeS d (f x y)

/-- One source and one result in place for the next instruction (R264, R333). -/
def unaryS (f : Word → Word) (d a : Reg) : M Unit := do
  let x ← readS a
  writeS d (f x)

/-- One source, which is also the destination and may not be bound (R280, R327), and one more source. -/
def updateS (f : Word → Word → Word) (d a : Reg) : M Unit := do
  unboundM d
  let y ← readS d
  let x ← readS a
  writeS d (f y x)

/-- A 14-bit immediate sign-extended (R264). -/
def sext14 (i : BitVec 14) : Word := i.signExtend 64

/-- The low six bits of a shift count (R366). -/
def shiftCount (b : Word) : Nat := b.toNat % 64

/-- Bits 127:64 of the signed product (R343). -/
def mulHigh (a b : Word) : Word := BitVec.ofInt 64 (a.toInt * b.toInt / (2 ^ 64 : Int))

/-- Bits 127:64 of the natural product (R343). -/
def mulHighU (a b : Word) : Word := BitVec.ofNat 64 (a.toNat * b.toNat / 2 ^ 64)

/-- The quotient of `DIV` (R297). -/
def quotient (u : Bool) (a b : Word) : Word :=
  if b = 0 then BitVec.allOnes 64
  else if u then BitVec.ofNat 64 (a.toNat / b.toNat)
  else BitVec.ofInt 64 (Int.tdiv a.toInt b.toInt)

/-- The remainder of `REM` (R355). -/
def remainder (u : Bool) (a b : Word) : Word :=
  if b = 0 then a
  else if u then BitVec.ofNat 64 (a.toNat % b.toNat)
  else BitVec.ofInt 64 (Int.tmod a.toInt b.toInt)

/-- The smaller of two values (R338). -/
def minOf (u : Bool) (a b : Word) : Word := if (if u then b.ult a else b.slt a) then b else a

/-- The larger of two values (R337). -/
def maxOf (u : Bool) (a b : Word) : Word := if (if u then a.ult b else a.slt b) then b else a

/-- Leading zero bits (R287). -/
def leadingZeros (a : Word) : Word := if a = 0 then 64 else BitVec.ofNat 64 (63 - Nat.log2 a.toNat)

/-- Set bits among the low `n` (R352). -/
def setBits (a : Nat) : Nat → Nat
  | 0 => 0
  | n + 1 => a % 2 + setBits (a / 2) n

/-- The field mask of `BFX` and `BFI`: `w` holds the width less one (R280, R281). -/
def fieldMask (w : BitVec 6) : Word := BitVec.ofNat 64 (2 ^ (w.toNat + 1) - 1)

/-- The field of `BFX` (R281). -/
def extractField (p w : BitVec 6) (a : Word) : Word := (a >>> p.toNat) &&& fieldMask w

/-- `BFI` (R280): the field of `old` replaced. -/
def insertField (p w : BitVec 6) (old a : Word) : Word :=
  let m := fieldMask w <<< p.toNat
  (old &&& ~~~m) ||| ((a <<< p.toNat) &&& m)

/-! ## The instructions -/

/-- `ADD` (R270). -/
def execAdd (d a b : Reg) (s : State) : Host.Outcome State Fault Refusal :=
  runWord (.add d a b) (binaryS (fun x y => x + y) d a b) s

/-- `ADD` with an immediate (R270). -/
def execAddImm (d a : Reg) (i : BitVec 14) (s : State) : Host.Outcome State Fault Refusal :=
  runWord (.addImm d a i) (unaryS (fun x => x + sext14 i) d a) s

/-- `SUB` (R374). -/
def execSub (d a b : Reg) (s : State) : Host.Outcome State Fault Refusal :=
  runWord (.sub d a b) (binaryS (fun x y => x - y) d a b) s

/-- `MUL` (R342). -/
def execMul (d a b : Reg) (s : State) : Host.Outcome State Fault Refusal :=
  runWord (.mul d a b) (binaryS (fun x y => x * y) d a b) s

/-- `MULH.s` (R343). -/
def execMulh (d a b : Reg) (s : State) : Host.Outcome State Fault Refusal :=
  runWord (.mulh d a b) (binaryS (mulHigh) d a b) s

/-- `MULH.u` (R343). -/
def execMulhU (d a b : Reg) (s : State) : Host.Outcome State Fault Refusal :=
  runWord (.mulhU d a b) (binaryS (mulHighU) d a b) s

/-- `DIV` (R297). -/
def execDiv (d a b : Reg) (u : Bool) (s : State) : Host.Outcome State Fault Refusal :=
  runWord (.div d a b u) (binaryS (quotient u) d a b) s

/-- `REM` (R355). -/
def execRem (d a b : Reg) (u : Bool) (s : State) : Host.Outcome State Fault Refusal :=
  runWord (.rem d a b u) (binaryS (remainder u) d a b) s

/-- `AND` (R274). -/
def execAndR (d a b : Reg) (s : State) : Host.Outcome State Fault Refusal :=
  runWord (.andR d a b) (binaryS (fun x y => x &&& y) d a b) s

/-- `OR` (R346). -/
def execOrR (d a b : Reg) (s : State) : Host.Outcome State Fault Refusal :=
  runWord (.orR d a b) (binaryS (fun x y => x ||| y) d a b) s

/-- `XOR` (R421). -/
def execXorR (d a b : Reg) (s : State) : Host.Outcome State Fault Refusal :=
  runWord (.xorR d a b) (binaryS (fun x y => x ^^^ y) d a b) s

/-- `ANDN` (R275). -/
def execAndn (d a b : Reg) (s : State) : Host.Outcome State Fault Refusal :=
  runWord (.andn d a b) (binaryS (fun x y => x &&& ~~~y) d a b) s

/-- `AND` with an immediate (R274). -/
def execAndImm (d a : Reg) (i : BitVec 14) (s : State) : Host.Outcome State Fault Refusal :=
  runWord (.andImm d a i) (unaryS (fun x => x &&& sext14 i) d a) s

/-- `OR` with an immediate (R346). -/
def execOrImm (d a : Reg) (i : BitVec 14) (s : State) : Host.Outcome State Fault Refusal :=
  runWord (.orImm d a i) (unaryS (fun x => x ||| sext14 i) d a) s

/-- `XOR` with an immediate (R421). -/
def execXorImm (d a : Reg) (i : BitVec 14) (s : State) : Host.Outcome State Fault Refusal :=
  runWord (.xorImm d a i) (unaryS (fun x => x ^^^ sext14 i) d a) s

/-- `SHL` (R366). -/
def execShl (d a b : Reg) (s : State) : Host.Outcome State Fault Refusal :=
  runWord (.shl d a b) (binaryS (fun x y => x <<< shiftCount y) d a b) s

/-- `SHR` (R367). -/
def execShr (d a b : Reg) (s : State) : Host.Outcome State Fault Refusal :=
  runWord (.shr d a b) (binaryS (fun x y => x >>> shiftCount y) d a b) s

/-- `SRA` (R369). -/
def execSra (d a b : Reg) (s : State) : Host.Outcome State Fault Refusal :=
  runWord (.sra d a b) (binaryS (fun x y => x.sshiftRight (shiftCount y)) d a b) s

/-- `ROT` (R360). -/
def execRot (d a b : Reg) (s : State) : Host.Outcome State Fault Refusal :=
  runWord (.rot d a b) (binaryS (fun x y => x.rotateLeft (shiftCount y)) d a b) s

/-- `MIN` (R338). -/
def execMinS (d a b : Reg) (u : Bool) (s : State) : Host.Outcome State Fault Refusal :=
  runWord (.minS d a b u) (binaryS (minOf u) d a b) s

/-- `MAX` (R337). -/
def execMaxS (d a b : Reg) (u : Bool) (s : State) : Host.Outcome State Fault Refusal :=
  runWord (.maxS d a b u) (binaryS (maxOf u) d a b) s

/-- `CMP` (R288). -/
def execCmp (d a b : Reg) (c : Cond) (s : State) : Host.Outcome State Fault Refusal :=
  runWord (.cmp d a b c) (binaryS (fun x y => boolWord (condHolds c x y)) d a b) s

/-- `SEL` (R363): every source is read, whichever is chosen. -/
def execSel (d a b c : Reg) (s : State) : Host.Outcome State Fault Refusal :=
  runWord (.sel d a b c) (do
    let x ← readS a
    let y ← readS b
    let z ← readS c
    writeS d (if z = 0 then y else x)) s

/-- `CLZ` (R287). -/
def execClz (d a : Reg) (s : State) : Host.Outcome State Fault Refusal :=
  runWord (.clz d a) (unaryS leadingZeros d a) s

/-- `POPC` (R352). -/
def execPopc (d a : Reg) (s : State) : Host.Outcome State Fault Refusal :=
  runWord (.popc d a) (unaryS (fun x => BitVec.ofNat 64 (setBits x.toNat 64)) d a) s

/-- `BFX` (R281). -/
def execBfx (d a : Reg) (p w : BitVec 6) (s : State) : Host.Outcome State Fault Refusal :=
  runWord (.bfx d a p w) (unaryS (extractField p w) d a) s

/-- `BFI` (R280). -/
def execBfi (d a : Reg) (p w : BitVec 6) (s : State) : Host.Outcome State Fault Refusal :=
  runWord (.bfi d a p w) (updateS (insertField p w) d a) s

/-- `LI` (R327). -/
def execLi (d : Reg) (i : BitVec 19) (s : State) : Host.Outcome State Fault Refusal :=
  runWord (.li d i) (writeS d (i.signExtend 64)) s

/-- `LI.hi` (R327): `d` is read at issue and may not be bound. -/
def execLiHi (d : Reg) (i : BitVec 19) (s : State) : Host.Outcome State Fault Refusal :=
  runWord (.liHi d i) (do
    unboundM d
    let x ← readS d
    writeS d ((x <<< 19) ||| i.zeroExtend 64)) s

/-- `MOV` (R339): pops or appends once on streams. -/
def execMov (d a : Reg) (s : State) : Host.Outcome State Fault Refusal :=
  runWord (.mov d a) (unaryS (fun x => x) d a) s

/-- A pointer moved by a signed distance: the handle stays (R326). -/
def ptrMove (p : Word) (v : Int) : Word :=
  BitVec.ofNat 64 (handleOf p * 2 ^ 52 + (((offsetOf p : Int) + v) % (2 ^ 52 : Int)).toNat)

/-- `LEA` (R326). -/
def execLea (d a : Reg) (i : BitVec 14) (s : State) : Host.Outcome State Fault Refusal :=
  runWord (.lea d a i) (unaryS (fun x => ptrMove x i.toInt) d a) s

end Sys2Proof.Machine
end

