-- ==== Sys2Proof/Machine/Sfu.lean ====
section
/-! DEFINITION. The functions of the special-function unit (R412): the exact value is found to more than 200 bits in fixed point
and rounded once. Where the result is so close to a simple value that no finite working precision shows the side it lies on, that
side is stated directly (log entry 18). -/

namespace Sys2Proof.Machine

/-- Fraction bits of the working precision. -/
def sfuBits : Nat := 256

/-- One in working precision. -/
def sfuOne : Int := ((2 ^ sfuBits : Nat) : Int)

/-- Product in working precision. -/
def mulFix (a b : Int) : Int := a * b / sfuOne

/-- The sum of y^k / k! from term `k` on. -/
def expTerms (y : Int) : Nat → Nat → Int → Int
  | 0, _, _ => 0
  | fuel + 1, k, t => t + expTerms y fuel (k + 1) (mulFix t y / (k + 1))

/-- The sum of z^(2 k + 1) / (2 k + 1) from term `k` on: the inverse hyperbolic tangent. -/
def atanhTerms (z2 : Int) : Nat → Nat → Int → Int
  | 0, _, _ => 0
  | fuel + 1, k, t => t / (2 * k + 1) + atanhTerms z2 fuel (k + 1) (mulFix t z2)

/-- Inverse hyperbolic tangent of z, |z| ≤ 1/3. -/
def atanhFix (z : Int) : Int := atanhTerms (mulFix z z) 90 0 z

/-- Natural logarithm of 2. -/
def ln2Fix : Int := 2 * atanhFix (sfuOne / 3)

/-- e^y as mantissa and power of two. -/
def expFix (y : Int) : Int × Int :=
  let n := y / ln2Fix
  (expTerms (y - n * ln2Fix) 64 0 sfuOne, n)

/-- m × 2^e in working precision, where the result needs no bit below it. -/
def fixOf (m : Nat) (e : Int) : Int :=
  let k := e + sfuBits
  if 0 ≤ k then ((m * 2 ^ k.toNat : Nat) : Int) else ((m / 2 ^ (-k).toNat : Nat) : Int)

/-- A value of working precision times a power of two. -/
def fixVal (v : Int) (n : Int) : FVal := .fin (decide (v < 0)) v.natAbs (n - sfuBits)

/-- Exponent of the highest bit of m × 2^e. -/
def topBit (m : Nat) (e : Int) : Int := e + (Nat.log2 m : Nat)

/-- A magnitude just below, or just above, m × 2^e. -/
def nudge (neg up : Bool) (m : Nat) (e : Int) : FVal := .fin neg (if up then m * 2 ^ 100 + 1 else m * 2 ^ 100 - 1) (e - 100)

/-- A signed value in working precision. -/
def signFix (neg : Bool) (v : Int) : Int := if neg then -v else v

/-- 2^x. -/
def sfuExp2 (neg : Bool) (m : Nat) (e : Int) : FVal :=
  if m = 0 then .fin false 1 0
  else if topBit m e < -80 then nudge false (!neg) 1 0
  else if 12 < topBit m e then .fin false 1 (if neg then -8000 else 8000)
  else
    let x := signFix neg (fixOf m e)
    let n := x / sfuOne
    fixVal (expTerms (mulFix (x - n * sfuOne) ln2Fix) 64 0 sfuOne) n

/-- log₂ of a positive value. -/
def sfuLog2 (m : Nat) (e : Int) : FVal :=
  let n := topBit m e
  let f := fixOf m (e - n)
  let z := (f - sfuOne) * sfuOne / (f + sfuOne)
  let v := n * sfuOne + 2 * atanhFix z * sfuOne / ln2Fix
  if v = 0 then .fin false 0 0 else fixVal v 0

/-- 1 ÷ √x of a positive value. -/
def sfuRsqrt (m : Nat) (e : Int) : FVal :=
  let m := if e % 2 = 0 then m else 2 * m
  let h := e / 2
  let num := 2 ^ 256
  let q := num / m
  let r := isqrt q
  .fin false (2 * r + (if r * r * m = num then 0 else 1)) (-128 - h - 1)

/-- Fraction bits for argument reduction. -/
def wideBits : Nat := 640

/-- The sum of ± z^(2 k + 1) / (2 k + 1) for z = 1 / d, at `wideBits`: the inverse tangent. -/
def atanInv (d2 : Int) : Nat → Nat → Int → Int
  | 0, _, _ => 0
  | fuel + 1, k, t => t / (2 * k + 1) - atanInv d2 fuel (k + 1) (t / d2)

/-- π at `wideBits` fraction bits. -/
def piWide : Int :=
  let one : Int := ((2 ^ wideBits : Nat) : Int)
  16 * atanInv 25 150 0 (one / 5) - 4 * atanInv (239 * 239) 60 0 (one / 239)

/-- The alternating sum of y^(2 k + j) / (2 k + j)!, k from the current term on: sine for j = 1, cosine for j = 0. -/
def trigTerms (y2 : Int) : Nat → Nat → Int → Int
  | 0, _, _ => 0
  | fuel + 1, j, t => t - trigTerms y2 fuel (j + 2) (mulFix t y2 / ((j + 1) * (j + 2)))

/-- Sine of an angle in [0, π/2] in working precision. -/
def sinFix (r : Int) : Int := trigTerms (mulFix r r) 40 1 r

/-- Cosine of an angle in [0, π/2] in working precision. -/
def cosFix (r : Int) : Int := trigTerms (mulFix r r) 40 0 sfuOne

/-- Quadrant and remainder of a positive angle. -/
def reduceAngle (m : Nat) (e : Int) : Int × Int :=
  let k := e + wideBits
  let x : Int := if 0 ≤ k then ((m * 2 ^ k.toNat : Nat) : Int) else ((m / 2 ^ (-k).toNat : Nat) : Int)
  let h := piWide / 2
  let q := x / h
  (q % 4, (x - q * h) / ((2 ^ (wideBits - sfuBits) : Nat) : Int))

/-- sin x. -/
def sfuSin (neg : Bool) (m : Nat) (e : Int) : FVal :=
  if m = 0 then .fin neg 0 0
  else if topBit m e < -80 then nudge neg false m e
  else
    let r := reduceAngle m e
    let v := if r.1 = 0 then sinFix r.2 else if r.1 = 1 then cosFix r.2 else if r.1 = 2 then -sinFix r.2 else -cosFix r.2
    fixVal (signFix neg v) 0

/-- cos x. -/
def sfuCos (m : Nat) (e : Int) : FVal :=
  if m = 0 then .fin false 1 0
  else if topBit m e < -80 then nudge false false 1 0
  else
    let r := reduceAngle m e
    let v := if r.1 = 0 then cosFix r.2 else if r.1 = 1 then -sinFix r.2 else if r.1 = 2 then -cosFix r.2 else sinFix r.2
    fixVal v 0

/-- tanh x. -/
def sfuTanh (neg : Bool) (m : Nat) (e : Int) : FVal :=
  if m = 0 then .fin neg 0 0
  else if topBit m e < -80 then nudge neg false m e
  else if 6 ≤ topBit m e then nudge neg false 1 0
  else
    let x := expFix (2 * fixOf m e)
    let a : Int := x.1 * ((2 ^ x.2.toNat : Nat) : Int)
    fixVal (signFix neg ((a - sfuOne) * sfuOne / (a + sfuOne))) 0

/-- 1 ÷ (1 + e^−x). -/
def sfuSigm (neg : Bool) (m : Nat) (e : Int) : FVal :=
  if m = 0 then .fin false 1 (-1)
  else if topBit m e < -80 then nudge false (!neg) 1 (-1)
  else if !neg && 7 ≤ topBit m e then nudge false false 1 0
  else if neg && 9 ≤ topBit m e then .fin false 1 (-8000)
  else
    let x := expFix (fixOf m e)
    let a : Int := x.1 * ((2 ^ x.2.toNat : Nat) : Int)
    if neg then
      let d := a + sfuOne
      .fin false (2 ^ 1024 / d.natAbs) (sfuBits - 1024)
    else fixVal (a * sfuOne / (a + sfuOne)) 0

/-- A special function of a lane, rounded once to its format (R412). -/
def sfu (fn : SfuFn) (f : Fmt) (a : Nat) : Nat :=
  let nan := f.canonNan
  let out := pack f .rne
  match unpack f a with
  | .nan n p => packNan f n p
  | .inf n => match fn with
    | .exp2 => if n then 0 else f.infBits
    | .log2 => if n then nan else f.infBits
    | .rcp => withSign f n 0
    | .rsqrt => if n then nan else 0
    | .sin | .cos => nan
    | .tanh => out (.fin n 1 0)
    | .sigm => if n then 0 else out (.fin false 1 0)
  | .fin n m e => match fn with
    | .exp2 => out (sfuExp2 n m e)
    | .log2 => if m = 0 then withSign f true f.infBits else if n then nan else out (sfuLog2 m e)
    | .rcp => fDiv f .rne (out (.fin false 1 0)) a
    | .rsqrt => if m = 0 then withSign f n f.infBits else if n then nan else out (sfuRsqrt m e)
    | .sin => out (sfuSin n m e)
    | .cos => out (sfuCos m e)
    | .tanh => out (sfuTanh n m e)
    | .sigm => out (sfuSigm n m e)

end Sys2Proof.Machine
end

