-- ==== Sys2Proof/Machine/VectorLong.lean ====
section
/-! DEFINITION. The long-latency tile instructions, A-class majors 0x1E, 0x2E–0x31 and 0x33 (R99, R165, R391, R399, R408–R412). -/

namespace Sys2Proof.Machine

/-! ## `VSFU`, `VRED`, `VSCAN` -/

/-- `VSFU` (R412). -/
def execVsfu (td ta : TReg) (la : BitVec 4) (n f : BitVec 3) (lt : LaneTy) (fn : SfuFn) (s : State) :
    Host.Outcome State Fault Refusal :=
  runWord (.vsfu td ta la n f lt fn) (do
    let x ← readRows ta f.toNat (rowCount n)
    writeRowsLate la td f.toNat (x.map fun r => rowOf lt.width ((lanesOf lt.width r).map (sfu fn (LaneFmt lt))))) s

/-- The node operation of `VRED` (R408). -/
def redOp (op : RedOp) (lt : LaneTy) : Nat → Nat → Nat :=
  match op with
  | .sum => laneAdd lt
  | .min => laneMin lt
  | .max => laneMax lt

/-- `VRED` (R408): row f of td is the late destination. -/
def execVred (td ta : TReg) (la : BitVec 4) (n f : BitVec 3) (lt : LaneTy) (op : RedOp) (s : State) :
    Host.Outcome State Fault Refusal :=
  runWord (.vred td ta la n f lt op) (do
    let x ← readRows ta f.toNat (rowCount n)
    writeRowsLate la td f.toNat [lane0 lt (reduceRows lt (redOp op lt) x)]) s

/-- The sequential scan of R410: outputs before or after each add. -/
def scanFrom (f : Nat → Nat → Nat) (excl : Bool) (acc : Nat) : List Nat → List Nat
  | [] => []
  | x :: xs => (if excl then acc else f acc x) :: scanFrom f excl (f acc x) xs

/-- The scan of all elements. -/
def scanAll (f : Nat → Nat → Nat) (excl : Bool) : List Nat → List Nat
  | [] => []
  | x :: xs => (if excl then 0 else x) :: scanFrom f excl x xs

/-- `VSCAN` (R410). -/
def execVscan (td ta : TReg) (la : BitVec 4) (n f : BitVec 3) (lt : LaneTy) (excl : Bool) (s : State) :
    Host.Outcome State Fault Refusal :=
  runWord (.vscan td ta la n f lt excl) (do
    let x ← readRows ta f.toNat (rowCount n)
    writeRowsLate la td f.toNat
      (rowsFrom lt.width (rowCount n) (scanAll (laneAdd lt) excl (elemsOf lt.width x)))) s

/-! ## `VHAD` -/

/-- `VHAD` (R399). -/
def execVhad (td ta : TReg) (la : BitVec 4) (n f : BitVec 3) (lt : LaneTy) (pts : HadN) (s : State) :
    Host.Outcome State Fault Refusal :=
  runWord (.vhad td ta la n f lt pts) (do
    let x ← readRows ta f.toNat (rowCount n)
    let k ← keysM
    writeRowsLate la td f.toNat (rowsFrom lt.width (rowCount n) (hadamard pts (LaneFmt lt) k (elemsOf lt.width x)))) s

/-! ## `VCHAIN` -/

/-- A micro-operation as `VCHAIN` runs it (R391): tiles read as ta, tb and td, the tile written, first row and row counts. -/
structure MicroOp where
  instr : Instr
  ta    : TReg
  tb    : Option TReg
  tc    : Option TReg
  td    : TReg
  n     : BitVec 3
  f     : BitVec 3
  deriving DecidableEq, Repr

/-- The micro-operation of an instruction that may stand in the store (R403). -/
def microOf (i : Instr) : Option MicroOp :=
  match i with
  | .vadd td ta tb n f _ | .vsub td ta tb n f _ | .vmul td ta tb n f _ | .vmin td ta tb n f _ | .vmax td ta tb n f _
  | .vand td ta tb n f _ | .vor td ta tb n f _ | .vxor td ta tb n f _ | .vshl td ta tb n f _ _ | .vcmp td ta tb n f _ _ =>
    some ⟨i, ta, some tb, none, td, n, f⟩
  | .vfma td ta tb n f _ | .vsel td ta tb n f _ => some ⟨i, ta, some tb, some td, td, n, f⟩
  | .vcvt td ta _ n f _ _ => some ⟨i, ta, none, some td, td, n, f⟩
  | .tzero td n f _ => some ⟨i, td, none, none, td, n, f⟩
  | .tmov td ta n f _ | .ttrans td ta n f _ => some ⟨i, ta, none, none, td, n, f⟩
  | _ => none

/-- The operation in a slot; none for an empty slot. -/
def slotOp (c : Ctx) (k : Nat) : Option MicroOp :=
  if h : k < 16 then
    match decodeWord (c.mp[k]).toNat with
    | .ok i => if c.mp[k] = 0 then none else microOf i
    | .error _ => none
  else none

/-- The tiles a micro-operation names. -/
def MicroOp.tiles (m : MicroOp) : List TReg := m.ta :: m.tb.toList ++ m.tc.toList ++ [m.td]

/-- Rows of a sparse overlay on the register file: bits written so far, and their mask. -/
def overlayRow (base : Nat → Row) (w : Tab (Row × Row)) (i : Nat) : Row :=
  match tabGet i w with
  | some x => maskRow (base i) x.1 x.2
  | none => base i

/-- The bits of a destination row that an operation writes: all, but for a conversion that narrows, whose other lanes keep their values
(R393). -/
def writtenBits : Instr → Row
  | .vcvt _ _ k _ _ lt dst =>
    if lt.width ≤ dst.width then BitVec.allOnes 128
    else putLanes dst.width 0 (k.toNat * lt.lanes) (List.replicate lt.lanes (2 ^ dst.width - 1))
  | _ => BitVec.allOnes 128

/-- A row written into an overlay. -/
def overlayPut (m : Row) (w : Tab (Row × Row)) (x : Nat × Row) : Tab (Row × Row) :=
  let old := (tabGet x.1 w).getD (0, 0)
  tabSet x.1 (maskRow old.1 x.2 m, old.2 ||| m) w

/-- One micro-operation at pass `k`, on the rows written so far. -/
def runMicro (base : Nat → Row) (k : Nat) (w : Tab (Row × Row)) (m : MicroOp) : Tab (Row × Row) :=
  let rows (t : TReg) : List Row := (List.range (rowCount m.n)).map fun q => overlayRow base w (rowIx t (m.f.toNat + k + q))
  let ys := (m.tb.map rows).getD []
  let zs := (m.tc.map rows).getD []
  (indexRows m.td (m.f.toNat + k) (tileRows m.instr (rows m.ta) ys zs)).foldl (overlayPut (writtenBits m.instr)) w

/-- Every pass over every operation, in order (R391): what each row receives, and in which bits. -/
def runChain (base : Nat → Row) (passes : Nat) (ops : List MicroOp) : Tab (Row × Row) :=
  (List.range passes).foldl (fun w k => ops.foldl (runMicro base k) w) []

/-- `VCHAIN` (R391): the store's operations, copied at issue; every row written is a late destination. -/
def execVchain (first last : BitVec 4) (la : BitVec 4) (p : BitVec 3) (s : State) : Host.Outcome State Fault Refusal :=
  runWord (.vchain first last la p) (do
    let c ← getM (·.me.ctx)
    let slots := (List.range (last.toNat - first.toNat + 1)).map fun k => slotOp c (first.toNat + k)
    legalM (slots.all (·.isSome))
    let ops := slots.filterMap id
    legalM (ops.all fun m => m.f.toNat + p.toNat + rowCount m.n ≤ 8)
    match (ops.flatMap (·.tiles)).find? fun t => (c.bindOf (32 + t.toNat)).isSome with
    | some t => streamM (32 + t.toNat)
    | none =>
      let base ← getM fun s => s.srcRow
      let rs := runChain base (rowCount p) ops
      lateM la.toNat (.lanes rs)) s

/-! ## `RESACC` -/

/-- The sum of squares of one pair of rows (R165). -/
def squareSum (lt : LaneTy) (x y : Row) : Nat :=
  let sq (a b : Nat) : Nat :=
    let e := fSub .fp32 .rne (fConv (LaneFmt lt) .fp32 .rne a) (fConv (LaneFmt lt) .fp32 .rne b)
    fMul .fp32 .rne e e
  pairTree (fAdd .fp32 .rne) 8 (List.zipWith sq (lanesOf lt.width x) (lanesOf lt.width y))

/-- What one `RESACC` adds to the partial. -/
def residualOf (lt : LaneTy) (x y : List Row) : W32 :=
  match List.zipWith (squareSum lt) x y with
  | [] => 0
  | r :: rs => BitVec.ofNat 32 (rs.foldl (fAdd .fp32 .rne) r)

/-- `RESACC` (R165, R356): legal for a span's strand in the RESID phase, outside the user interrupt handler. -/
def execResacc (la : BitVec 4) (ta tb : TReg) (n f : BitVec 3) (lt : LaneTy) (s : State) :
    Host.Outcome State Fault Refusal :=
  runWord (.resacc la ta tb n f lt) (do
    let g ← getM (·.me)
    legalM (g.task.isNone && !g.ctx.uiin)
    legalM ((← getM fun s => (s.job s.myJob).span.ph) == 3)
    let x ← readRows ta f.toNat (rowCount n)
    let y ← readRows tb f.toNat (rowCount n)
    lateM la.toNat (.rpart (residualOf lt x y))) s

end Sys2Proof.Machine
end

