-- ==== Sys2Proof/Machine/Dispatch.lean ====
section
/-! DEFINITION. The one dispatch of the machine: one arm for every row of the table of operations. -/

namespace Sys2Proof.Machine

/-- What an instruction or event does to the package. -/
def exec (i : Instr) (s : State) : Host.Outcome State Fault Refusal :=
  match i with
  | .nop x1 => Sys2Proof.Machine.execNop x1 s
  | .branch x1 => Sys2Proof.Machine.execBranch x1 s
  | .call x1 => Sys2Proof.Machine.execCall x1 s
  | .bcc x1 x2 x3 x4 => Sys2Proof.Machine.execBcc x1 x2 x3 x4 s
  | .jr x1 x2 => Sys2Proof.Machine.execJr x1 x2 s
  | .ret x1 => Sys2Proof.Machine.execRet x1 s
  | .loop x1 x2 x3 => Sys2Proof.Machine.execLoop x1 x2 x3 s
  | .wait x1 x2 x3 x4 x5 => Sys2Proof.Machine.execWait x1 x2 x3 x4 x5 s
  | .bar x1 => Sys2Proof.Machine.execBar x1 s
  | .vote x1 => Sys2Proof.Machine.execVote x1 s
  | .spawn x1 x2 => Sys2Proof.Machine.execSpawn x1 x2 s
  | .suspend x1 x2 x3 => Sys2Proof.Machine.execSuspend x1 x2 x3 s
  | .retire x1 => Sys2Proof.Machine.execRetire x1 s
  | .trap x1 x2 x3 => Sys2Proof.Machine.execTrap x1 x2 x3 s
  | .tret x1 => Sys2Proof.Machine.execTret x1 s
  | .hcall x1 x2 x3 => Sys2Proof.Machine.execHcall x1 x2 x3 s
  | .fence x1 => Sys2Proof.Machine.execFence x1 s
  | .chunk x1 => Sys2Proof.Machine.execChunk x1 s
  | .ld x1 x2 x3 x4 x5 x6 => Sys2Proof.Machine.execLd x1 x2 x3 x4 x5 x6 s
  | .st x1 x2 x3 x4 x5 x6 => Sys2Proof.Machine.execSt x1 x2 x3 x4 x5 x6 s
  | .ldt x1 x2 x3 x4 x5 x6 x7 => Sys2Proof.Machine.execLdt x1 x2 x3 x4 x5 x6 x7 s
  | .stt x1 x2 x3 x4 x5 x6 x7 => Sys2Proof.Machine.execStt x1 x2 x3 x4 x5 x6 x7 s
  | .ldfe x1 x2 x3 x4 x5 => Sys2Proof.Machine.execLdfe x1 x2 x3 x4 x5 s
  | .stfe x1 x2 x3 x4 x5 => Sys2Proof.Machine.execStfe x1 x2 x3 x4 x5 s
  | .feset x1 x2 x3 => Sys2Proof.Machine.execFeset x1 x2 x3 s
  | .feq x1 x2 x3 => Sys2Proof.Machine.execFeq x1 x2 x3 s
  | .aadd x1 x2 x3 x4 x5 x6 => Sys2Proof.Machine.execAadd x1 x2 x3 x4 x5 x6 s
  | .amin x1 x2 x3 x4 x5 x6 => Sys2Proof.Machine.execAmin x1 x2 x3 x4 x5 x6 s
  | .amax x1 x2 x3 x4 x5 x6 => Sys2Proof.Machine.execAmax x1 x2 x3 x4 x5 x6 s
  | .abit x1 x2 x3 x4 x5 x6 => Sys2Proof.Machine.execAbit x1 x2 x3 x4 x5 x6 s
  | .aswap x1 x2 x3 x4 x5 x6 => Sys2Proof.Machine.execAswap x1 x2 x3 x4 x5 x6 s
  | .acas x1 x2 x3 x4 x5 x6 => Sys2Proof.Machine.execAcas x1 x2 x3 x4 x5 x6 s
  | .afadd x1 x2 x3 x4 x5 x6 => Sys2Proof.Machine.execAfadd x1 x2 x3 x4 x5 x6 s
  | .aagg x1 x2 x3 x4 x5 x6 => Sys2Proof.Machine.execAagg x1 x2 x3 x4 x5 x6 s
  | .pref x1 x2 => Sys2Proof.Machine.execPref x1 x2 s
  | .wback x1 x2 => Sys2Proof.Machine.execWback x1 x2 s
  | .inval x1 x2 => Sys2Proof.Machine.execInval x1 x2 s
  | .sbind x1 x2 x3 x4 x5 x6 => Sys2Proof.Machine.execSbind x1 x2 x3 x4 x5 x6 s
  | .sfree x1 x2 => Sys2Proof.Machine.execSfree x1 x2 s
  | .ssync x1 x2 x3 => Sys2Proof.Machine.execSsync x1 x2 x3 s
  | .mxpub x1 x2 x3 => Sys2Proof.Machine.execMxpub x1 x2 x3 s
  | .cppub x1 x2 x3 => Sys2Proof.Machine.execCppub x1 x2 x3 s
  | .jobq x1 x2 x3 => Sys2Proof.Machine.execJobq x1 x2 x3 s
  | .licacq x1 x2 x3 => Sys2Proof.Machine.execLicacq x1 x2 x3 s
  | .licrel x1 => Sys2Proof.Machine.execLicrel x1 s
  | .penq x1 x2 x3 x4 => Sys2Proof.Machine.execPenq x1 x2 x3 x4 s
  | .pdeq x1 x2 x3 => Sys2Proof.Machine.execPdeq x1 x2 x3 s
  | .pdone x1 x2 x3 x4 => Sys2Proof.Machine.execPdone x1 x2 x3 x4 s
  | .pstat x1 x2 x3 x4 => Sys2Proof.Machine.execPstat x1 x2 x3 x4 s
  | .gsend x1 x2 x3 => Sys2Proof.Machine.execGsend x1 x2 x3 s
  | .grecv x1 x2 x3 x4 => Sys2Proof.Machine.execGrecv x1 x2 x3 x4 s
  | .gstat x1 x2 x3 => Sys2Proof.Machine.execGstat x1 x2 x3 s
  | .gcfg x1 x2 x3 => Sys2Proof.Machine.execGcfg x1 x2 x3 s
  | .osend x1 x2 x3 => Sys2Proof.Machine.execOsend x1 x2 x3 s
  | .orecv x1 x2 x3 x4 => Sys2Proof.Machine.execOrecv x1 x2 x3 x4 s
  | .msend x1 x2 x3 => Sys2Proof.Machine.execMsend x1 x2 x3 s
  | .mrecv x1 x2 => Sys2Proof.Machine.execMrecv x1 x2 s
  | .twx x1 x2 x3 x4 => Sys2Proof.Machine.execTwx x1 x2 x3 x4 s
  | .twxRd x1 x2 x3 => Sys2Proof.Machine.execTwxRd x1 x2 x3 s
  | .twxWr x1 x2 x3 => Sys2Proof.Machine.execTwxWr x1 x2 x3 s
  | .capgive x1 x2 x3 => Sys2Proof.Machine.execCapgive x1 x2 x3 s
  | .captake x1 x2 x3 => Sys2Proof.Machine.execCaptake x1 x2 x3 s
  | .capq x1 x2 x3 => Sys2Proof.Machine.execCapq x1 x2 x3 s
  | .cycbeg x1 x2 => Sys2Proof.Machine.execCycbeg x1 x2 s
  | .cycend x1 => Sys2Proof.Machine.execCycend x1 s
  | .cycstat x1 x2 => Sys2Proof.Machine.execCycstat x1 x2 s
  | .restst x1 x2 x3 x4 => Sys2Proof.Machine.execRestst x1 x2 x3 x4 s
  | .wgfence x1 => Sys2Proof.Machine.execWgfence x1 s
  | .getsr x1 x2 x3 => Sys2Proof.Machine.execGetsr x1 x2 x3 s
  | .setsr x1 x2 x3 => Sys2Proof.Machine.execSetsr x1 x2 x3 s
  | .htld x1 x2 x3 => Sys2Proof.Machine.execHtld x1 x2 x3 s
  | .htwr x1 x2 x3 => Sys2Proof.Machine.execHtwr x1 x2 x3 s
  | .tsflush x1 => Sys2Proof.Machine.execTsflush x1 s
  | .add x1 x2 x3 => Sys2Proof.Machine.execAdd x1 x2 x3 s
  | .addImm x1 x2 x3 => Sys2Proof.Machine.execAddImm x1 x2 x3 s
  | .sub x1 x2 x3 => Sys2Proof.Machine.execSub x1 x2 x3 s
  | .mul x1 x2 x3 => Sys2Proof.Machine.execMul x1 x2 x3 s
  | .mulh x1 x2 x3 => Sys2Proof.Machine.execMulh x1 x2 x3 s
  | .mulhU x1 x2 x3 => Sys2Proof.Machine.execMulhU x1 x2 x3 s
  | .div x1 x2 x3 x4 => Sys2Proof.Machine.execDiv x1 x2 x3 x4 s
  | .rem x1 x2 x3 x4 => Sys2Proof.Machine.execRem x1 x2 x3 x4 s
  | .andR x1 x2 x3 => Sys2Proof.Machine.execAndR x1 x2 x3 s
  | .orR x1 x2 x3 => Sys2Proof.Machine.execOrR x1 x2 x3 s
  | .xorR x1 x2 x3 => Sys2Proof.Machine.execXorR x1 x2 x3 s
  | .andn x1 x2 x3 => Sys2Proof.Machine.execAndn x1 x2 x3 s
  | .andImm x1 x2 x3 => Sys2Proof.Machine.execAndImm x1 x2 x3 s
  | .orImm x1 x2 x3 => Sys2Proof.Machine.execOrImm x1 x2 x3 s
  | .xorImm x1 x2 x3 => Sys2Proof.Machine.execXorImm x1 x2 x3 s
  | .shl x1 x2 x3 => Sys2Proof.Machine.execShl x1 x2 x3 s
  | .shr x1 x2 x3 => Sys2Proof.Machine.execShr x1 x2 x3 s
  | .sra x1 x2 x3 => Sys2Proof.Machine.execSra x1 x2 x3 s
  | .rot x1 x2 x3 => Sys2Proof.Machine.execRot x1 x2 x3 s
  | .minS x1 x2 x3 x4 => Sys2Proof.Machine.execMinS x1 x2 x3 x4 s
  | .maxS x1 x2 x3 x4 => Sys2Proof.Machine.execMaxS x1 x2 x3 x4 s
  | .cmp x1 x2 x3 x4 => Sys2Proof.Machine.execCmp x1 x2 x3 x4 s
  | .sel x1 x2 x3 x4 => Sys2Proof.Machine.execSel x1 x2 x3 x4 s
  | .clz x1 x2 => Sys2Proof.Machine.execClz x1 x2 s
  | .popc x1 x2 => Sys2Proof.Machine.execPopc x1 x2 s
  | .bfx x1 x2 x3 x4 => Sys2Proof.Machine.execBfx x1 x2 x3 x4 s
  | .bfi x1 x2 x3 x4 => Sys2Proof.Machine.execBfi x1 x2 x3 x4 s
  | .li x1 x2 => Sys2Proof.Machine.execLi x1 x2 s
  | .liHi x1 x2 => Sys2Proof.Machine.execLiHi x1 x2 s
  | .mov x1 x2 => Sys2Proof.Machine.execMov x1 x2 s
  | .lea x1 x2 x3 => Sys2Proof.Machine.execLea x1 x2 x3 s
  | .fadd x1 x2 x3 x4 x5 => Sys2Proof.Machine.execFadd x1 x2 x3 x4 x5 s
  | .fsub x1 x2 x3 x4 x5 => Sys2Proof.Machine.execFsub x1 x2 x3 x4 x5 s
  | .fmul x1 x2 x3 x4 x5 => Sys2Proof.Machine.execFmul x1 x2 x3 x4 x5 s
  | .fma x1 x2 x3 x4 x5 x6 => Sys2Proof.Machine.execFma x1 x2 x3 x4 x5 x6 s
  | .fdiv x1 x2 x3 x4 x5 x6 => Sys2Proof.Machine.execFdiv x1 x2 x3 x4 x5 x6 s
  | .fsqrt x1 x2 x3 x4 x5 => Sys2Proof.Machine.execFsqrt x1 x2 x3 x4 x5 s
  | .fmin x1 x2 x3 x4 => Sys2Proof.Machine.execFmin x1 x2 x3 x4 s
  | .fmax x1 x2 x3 x4 => Sys2Proof.Machine.execFmax x1 x2 x3 x4 s
  | .fcmp x1 x2 x3 x4 x5 => Sys2Proof.Machine.execFcmp x1 x2 x3 x4 x5 s
  | .fcvt x1 x2 x3 x4 x5 => Sys2Proof.Machine.execFcvt x1 x2 x3 x4 x5 s
  | .fclass x1 x2 x3 => Sys2Proof.Machine.execFclass x1 x2 x3 s
  | .resacc x1 x2 x3 x4 x5 x6 => Sys2Proof.Machine.execResacc x1 x2 x3 x4 x5 x6 s
  | .vadd x1 x2 x3 x4 x5 x6 => Sys2Proof.Machine.execVadd x1 x2 x3 x4 x5 x6 s
  | .vsub x1 x2 x3 x4 x5 x6 => Sys2Proof.Machine.execVsub x1 x2 x3 x4 x5 x6 s
  | .vmul x1 x2 x3 x4 x5 x6 => Sys2Proof.Machine.execVmul x1 x2 x3 x4 x5 x6 s
  | .vfma x1 x2 x3 x4 x5 x6 => Sys2Proof.Machine.execVfma x1 x2 x3 x4 x5 x6 s
  | .vmin x1 x2 x3 x4 x5 x6 => Sys2Proof.Machine.execVmin x1 x2 x3 x4 x5 x6 s
  | .vmax x1 x2 x3 x4 x5 x6 => Sys2Proof.Machine.execVmax x1 x2 x3 x4 x5 x6 s
  | .vand x1 x2 x3 x4 x5 x6 => Sys2Proof.Machine.execVand x1 x2 x3 x4 x5 x6 s
  | .vor x1 x2 x3 x4 x5 x6 => Sys2Proof.Machine.execVor x1 x2 x3 x4 x5 x6 s
  | .vxor x1 x2 x3 x4 x5 x6 => Sys2Proof.Machine.execVxor x1 x2 x3 x4 x5 x6 s
  | .vshl x1 x2 x3 x4 x5 x6 x7 => Sys2Proof.Machine.execVshl x1 x2 x3 x4 x5 x6 x7 s
  | .vcmp x1 x2 x3 x4 x5 x6 x7 => Sys2Proof.Machine.execVcmp x1 x2 x3 x4 x5 x6 x7 s
  | .vsel x1 x2 x3 x4 x5 x6 => Sys2Proof.Machine.execVsel x1 x2 x3 x4 x5 x6 s
  | .vcvt x1 x2 x3 x4 x5 x6 x7 => Sys2Proof.Machine.execVcvt x1 x2 x3 x4 x5 x6 x7 s
  | .vdec x1 x2 x3 x4 x5 x6 => Sys2Proof.Machine.execVdec x1 x2 x3 x4 x5 x6 s
  | .venc x1 x2 x3 x4 x5 x6 => Sys2Proof.Machine.execVenc x1 x2 x3 x4 x5 x6 s
  | .vbcast x1 x2 x3 x4 x5 => Sys2Proof.Machine.execVbcast x1 x2 x3 x4 x5 s
  | .vperm x1 x2 x3 x4 x5 x6 => Sys2Proof.Machine.execVperm x1 x2 x3 x4 x5 x6 s
  | .vsfu x1 x2 x3 x4 x5 x6 x7 => Sys2Proof.Machine.execVsfu x1 x2 x3 x4 x5 x6 x7 s
  | .vred x1 x2 x3 x4 x5 x6 x7 => Sys2Proof.Machine.execVred x1 x2 x3 x4 x5 x6 x7 s
  | .vscan x1 x2 x3 x4 x5 x6 x7 => Sys2Proof.Machine.execVscan x1 x2 x3 x4 x5 x6 x7 s
  | .vhad x1 x2 x3 x4 x5 x6 x7 => Sys2Proof.Machine.execVhad x1 x2 x3 x4 x5 x6 x7 s
  | .vsign x1 x2 x3 x4 x5 => Sys2Proof.Machine.execVsign x1 x2 x3 x4 x5 s
  | .vchain x1 x2 x3 x4 => Sys2Proof.Machine.execVchain x1 x2 x3 x4 s
  | .vmpld x1 x2 x3 x4 => Sys2Proof.Machine.execVmpld x1 x2 x3 x4 s
  | .vrep x1 x2 x3 x4 x5 x6 => Sys2Proof.Machine.execVrep x1 x2 x3 x4 x5 x6 s
  | .tzero x1 x2 x3 x4 => Sys2Proof.Machine.execTzero x1 x2 x3 x4 s
  | .tmov x1 x2 x3 x4 x5 => Sys2Proof.Machine.execTmov x1 x2 x3 x4 x5 s
  | .ttrans x1 x2 x3 x4 x5 => Sys2Proof.Machine.execTtrans x1 x2 x3 x4 x5 s
  | .vins x1 x2 x3 x4 => Sys2Proof.Machine.execVins x1 x2 x3 x4 s
  | .vext x1 x2 x3 x4 => Sys2Proof.Machine.execVext x1 x2 x3 x4 s
  | .vdot x1 x2 x3 x4 x5 x6 => Sys2Proof.Machine.execVdot x1 x2 x3 x4 x5 x6 s
  | .afaddHoldTimeout x1 => Sys2Proof.Machine.execAfaddHoldTimeout x1 s
  | .stageQueueRoom x1 => Sys2Proof.Machine.execStageQueueRoom x1 s
  | .speedwellRoute x1 x2 x3 => Sys2Proof.Machine.execSpeedwellRoute x1 x2 x3 s
  | .deferredEffects x1 x2 => Sys2Proof.Machine.execDeferredEffects x1 x2 s
  | .pipelineCoreMove x1 x2 => Sys2Proof.Machine.execPipelineCoreMove x1 x2 s
  | .groupItemArrive x1 => Sys2Proof.Machine.execGroupItemArrive x1 s
  | .groupResultArrive x1 x2 => Sys2Proof.Machine.execGroupResultArrive x1 x2 s
  | .groupAck x1 x2 => Sys2Proof.Machine.execGroupAck x1 x2 s
  | .groupTimeout x1 x2 x3 => Sys2Proof.Machine.execGroupTimeout x1 x2 x3 s
  | .lateNoticeArrive x1 x2 => Sys2Proof.Machine.execLateNoticeArrive x1 x2 s
  | .routeNoticeArrive x1 x2 x3 x4 => Sys2Proof.Machine.execRouteNoticeArrive x1 x2 x3 x4 s
  | .slackWindow => Sys2Proof.Machine.execSlackWindow s
  | .orderedInject => Sys2Proof.Machine.execOrderedInject s
  | .orderedPacketArrive x1 x2 => Sys2Proof.Machine.execOrderedPacketArrive x1 x2 s
  | .orderedBeacon x1 => Sys2Proof.Machine.execOrderedBeacon x1 s
  | .orderedDeliver x1 => Sys2Proof.Machine.execOrderedDeliver x1 s
  | .closeBeaconArrive x1 x2 => Sys2Proof.Machine.execCloseBeaconArrive x1 x2 s
  | .watermarkStall x1 => Sys2Proof.Machine.execWatermarkStall x1 s
  | .messageArrive x1 => Sys2Proof.Machine.execMessageArrive x1 s
  | .lateResultLand x1 => Sys2Proof.Machine.execLateResultLand x1 s
  | .commitGrant x1 => Sys2Proof.Machine.execCommitGrant x1 s
  | .userInterruptEntry x1 => Sys2Proof.Machine.execUserInterruptEntry x1 s
  | .waitEvaluate x1 => Sys2Proof.Machine.execWaitEvaluate x1 s
  | .waitTimeout x1 => Sys2Proof.Machine.execWaitTimeout x1 s
  | .waitTableSummary => Sys2Proof.Machine.execWaitTableSummary s
  | .barComplete x1 x2 x3 => Sys2Proof.Machine.execBarComplete x1 x2 x3 s
  | .voteCommit x1 x2 => Sys2Proof.Machine.execVoteCommit x1 x2 s
  | .coreWake x1 x2 => Sys2Proof.Machine.execCoreWake x1 x2 s
  | .coreGate x1 => Sys2Proof.Machine.execCoreGate x1 s
  | .tableRecheckDone x1 => Sys2Proof.Machine.execTableRecheckDone x1 s
  | .presetLoad x1 => Sys2Proof.Machine.execPresetLoad x1 s
  | .takeSlot x1 => Sys2Proof.Machine.execTakeSlot x1 s
  | .spanPlace x1 x2 => Sys2Proof.Machine.execSpanPlace x1 x2 s
  | .spanWait1ms x1 => Sys2Proof.Machine.execSpanWait1ms x1 s
  | .bagRecordEnter x1 x2 => Sys2Proof.Machine.execBagRecordEnter x1 x2 s
  | .recordReady x1 x2 => Sys2Proof.Machine.execRecordReady x1 x2 s
  | .claimRecord x1 => Sys2Proof.Machine.execClaimRecord x1 s
  | .jobComplete x1 x2 => Sys2Proof.Machine.execJobComplete x1 x2 s
  | .jobQueueReady x1 x2 => Sys2Proof.Machine.execJobQueueReady x1 x2 s
  | .engineIssue x1 => Sys2Proof.Machine.execEngineIssue x1 s
  | .engineStep x1 => Sys2Proof.Machine.execEngineStep x1 s
  | .engineComplete x1 => Sys2Proof.Machine.execEngineComplete x1 s
  | .copyIssue x1 => Sys2Proof.Machine.execCopyIssue x1 s
  | .copyRow x1 => Sys2Proof.Machine.execCopyRow x1 s
  | .copyComplete x1 => Sys2Proof.Machine.execCopyComplete x1 s
  | .park x1 => Sys2Proof.Machine.execPark x1 s
  | .unpark x1 => Sys2Proof.Machine.execUnpark x1 s
  | .jobMove x1 => Sys2Proof.Machine.execJobMove x1 s
  | .felrilLinkDeath x1 => Sys2Proof.Machine.execFelrilLinkDeath x1 s
  | .peerAccessArrive x1 => Sys2Proof.Machine.execPeerAccessArrive x1 s
  | .releasePerformed x1 => Sys2Proof.Machine.execReleasePerformed x1 s
  | .peerLoadTimeout x1 => Sys2Proof.Machine.execPeerLoadTimeout x1 s
  | .directoryHandlerTurn x1 => Sys2Proof.Machine.execDirectoryHandlerTurn x1 s
  | .saveComplete x1 x2 => Sys2Proof.Machine.execSaveComplete x1 x2 s
  | .thermalReading x1 x2 => Sys2Proof.Machine.execThermalReading x1 x2 s
  | .throttleStep x1 => Sys2Proof.Machine.execThrottleStep x1 s
  | .hbmRefresh x1 x2 => Sys2Proof.Machine.execHbmRefresh x1 x2 s
  | .ballastWindow x1 x2 => Sys2Proof.Machine.execBallastWindow x1 x2 s
  | .softError x1 => Sys2Proof.Machine.execSoftError x1 s
  | .packageReset x1 => Sys2Proof.Machine.execPackageReset x1 s
  | .partitionGoLive x1 => Sys2Proof.Machine.execPartitionGoLive x1 s
  | .jsregWrite x1 x2 x3 => Sys2Proof.Machine.execJsregWrite x1 x2 x3 s
  | .apertureRead x1 x2 => Sys2Proof.Machine.execApertureRead x1 x2 s
  | .apertureWrite x1 x2 => Sys2Proof.Machine.execApertureWrite x1 x2 s
  | .apertureTaggedWrite x1 x2 => Sys2Proof.Machine.execApertureTaggedWrite x1 x2 s
  | .herrClear x1 => Sys2Proof.Machine.execHerrClear x1 s
  | .hcellClear x1 x2 => Sys2Proof.Machine.execHcellClear x1 x2 s
  | .dbgRead x1 x2 => Sys2Proof.Machine.execDbgRead x1 x2 s
  | .mgmtRegisterWrite x1 x2 => Sys2Proof.Machine.execMgmtRegisterWrite x1 x2 s
  | .preemptSpan => Sys2Proof.Machine.execPreemptSpan s
  | .resumeSpan => Sys2Proof.Machine.execResumeSpan s
  | .translationShootdown => Sys2Proof.Machine.execTranslationShootdown s
  | .thaw => Sys2Proof.Machine.execThaw s
  | .declarePortOut => Sys2Proof.Machine.execDeclarePortOut s
  | .reenableDelivery => Sys2Proof.Machine.execReenableDelivery s
  | .contain => Sys2Proof.Machine.execContain s
  | .tearDown => Sys2Proof.Machine.execTearDown s
  | .attest => Sys2Proof.Machine.execAttest s
  | .hcmdUnknownCode => Sys2Proof.Machine.execHcmdUnknownCode s
  | .peerStoreUnreachable x1 => Sys2Proof.Machine.execPeerStoreUnreachable x1 s
  | .peerAccessReply x1 x2 x3 => Sys2Proof.Machine.execPeerAccessReply x1 x2 x3 s

end Sys2Proof.Machine
end

