-- ==== Sys2Proof/Machine/Issue.lean ====
section
/-! DEFINITION. Fetching and issuing bundles (R223–R226), what an agent does with its turn, and the turns of the schedule (log
entry 1). `step` and `State.withFetchWord` only call what stands here. -/

namespace Sys2Proof.Machine

/-! ## Fetch -/

/-- The access of a fetch (R226): steps 1–3 and 6 of R87 and the `X` rule. -/
def fetchAcc : Acc := { rd := true, wr := false, n := 8, align := 8, gen := false, cap := false, fetch := true }

/-- Bytes of memory fetched: pinned (R89), owned lines waited for (R129), poison (R197) and a frozen slice (R195) refused. A fetch is no
read of the chunk (log entry 38). -/
def fetchSegs (segs : List (Nat × Nat)) (p : Word) : M (List Byte) := do
  let ls := segLines segs
  needM (!(← getM (·.frozenSegs segs))) (.trap .peerdead p)
  needM (!(← getM (·.ownedAny ls))) .stall
  pinM segs
  needM (!(← getM fun s => meets ls s.mem.poison)) (.trap .soft p)
  getM (·.viewBytes segs)

/-- The bytes of a bundle in peer-device or host space: the device reads them for the agent's job (R117; log entry 38). -/
def fetchOutside (host : Bool) (dev pod addr : Nat) (p : Word) : M (Except Cause (List Byte)) := do
  let x ← getM fun s => DevAsk.mk s.me.asid s.myJob host dev pod addr 8 p
  devM (devOutside x)

/-- The image that an alias window shows of fetched bytes (R74). -/
def fetchImage (win : Nat) (bs : List Byte) : M (List Byte) := fun s =>
  if win = 0 then .ok (bs, s)
  else if win = 1 && s.rechecking then .error .stall
  else
    let k := winWidth win
    .ok ((splitElems k (bs.length / k) bs).flatMap fun x => leBytes 4 (s.windowLoad win x), s)

/-- Eight bytes of the table window fetched (R69, R71). -/
def fetchTable (o : Nat) : M (List Byte) := fun s =>
  if o < 0x400 then .ok (s.viewBytes [(tableAddr s.cur.core o, 8)], s)
  else if s.rechecking then .error .stall
  else .ok (leBytes 8 (bitNat s.tabBad), s)

/-- The bundle at a pointer, as a main agent reads it, or the status of a read outside that failed (R196, R197). -/
def fetchMain (p : Word) : M (Except Cause (List Byte)) := do
  let (e, pl) ← accessM p fetchAcc
  match pl with
  | .mem segs =>
    let bs ← fetchImage (hWin e) (← fetchSegs segs p)
    pure (.ok bs)
  | .table o =>
    let bs ← fetchTable o
    pure (.ok bs)
  | .capBlock o =>
    let bs ← getM (·.capBytes o 8)
    pure (.ok bs)
  | .outside host dev pod addr => fetchOutside host dev pod addr p

/-- The bundle at the current position. A loader or storer fetches from its own store and never traps (R55, R226). -/
def fetchM : M (Except Cause (List Byte)) := do
  let a ← getM (·.cur)
  let p ← getM (·.me.ctx.pc)
  if a.kind = .main then fetchMain p
  else
    let bs ← getM fun s => bytesAt s.mem.bytes (istoreAddr a.core (a.kind == .storer) (p.toNat % 2 ^ 14)) 8
    pure (.ok bs)

/-! ## Issue -/

/-- A chunk opens with the unit when none is open: the checkpoint is taken (R109). -/
def State.openChunk (s : State) : State :=
  if s.me.chunk.count = 0 then
    { s with me := { s.me with raised := 0, chunk := { ckpt := s.me.ctx, limit := s.me.chunk.limit } } }
  else s

/-- The state with a word about to issue. -/
def State.withWord (s : State) (w : Nat) (second : Bool) : State :=
  { s with unit := { s.unit with word := BitVec.ofNat 32 w, second := second, popped := [], res := .done } }

/-- A word decoded and executed. -/
def State.runEncoded (s : State) (w : Nat) : Host.Outcome State Fault Refusal :=
  match decodeWord w with
  | .ok i => exec i s
  | .error _ => .next (s.applyRes (.trapped .illegal (s.unit.word.zeroExtend 64)))

/-- Word 1 of a bundle executed: its bit 31 must be clear (R223, R244). -/
def State.runSecond (s : State) (w : Nat) : Host.Outcome State Fault Refusal :=
  let s := s.withWord w true
  if w / 2 ^ 31 = 1 then .next (s.applyRes (.trapped .illegal (s.unit.word.zeroExtend 64))) else s.runEncoded w

/-- The reads that the device has sent outside in an attempt that waits, on the state before it (R117; log entry 79). -/
def State.keepAsks (s u : State) : State :=
  (u.fab.exts.filter fun x => x.agent.isNone && !x.store && decide (s.fab.nextExt ≤ x.id)).foldl (fun s x => match x.op with
    | .read n => s.askOutside ⟨x.asid, x.job, x.host, x.dev, x.pod, x.addr, n, x.ptr⟩
    | .write _ | .add _ _ | .swap _ _ | .cas _ _ _ | .minmax _ _ _ | .bit _ _ => s) s

/-- A bundle whose word `w` does not complete: nothing of the bundle takes effect (R190), and what stopped the word in the state `u`
applies where the bundle began. -/
def State.dropBundle (start u : State) (w : Nat) (second : Bool) : State :=
  ((start.keepAsks u).withWord w second).applyRes u.unit.res

/-- The end of a lone word. One that forms a chunk of its own takes effect only once nothing it has read or stored before meets a reservation
(R109). -/
def State.endLone (start : State) (w : Nat) (second : Bool) : Host.Outcome State Fault Refusal → Host.Outcome State Fault Refusal
  | .next t => .next (if t.unit.res != .done then t
      else if t.unit.own && t.grantWaits then start.dropBundle (t.endAs .stalled) w second
      else t.finishUnit 1)
  | o => o

/-- A lone word (R224). -/
def State.issueLone (s : State) (w : Nat) (second : Bool) : Host.Outcome State Fault Refusal :=
  s.endLone w second (if second then s.runSecond w else (s.withWord w false).runEncoded w)

/-- The preset or the re-check that word 0 of a bundle started has run its time (R69, R71). -/
def State.settleTable (s : State) : State :=
  let s := match s.me.ctx.preset with
    | some k => s.loadPreset k (!s.unit.own)
    | none => s
  s.modCtx fun c => { c with recheck := false }

/-- Whether word 0 of a bundle started a preset or a re-check that may run now (R69, R71, R109). -/
def State.tableDue (s : State) : Bool :=
  let c := s.me.ctx
  (c.recheck || c.preset.isSome) && !(s.unit.own && c.preset.isSome && s.reserved (tableLines s.cur.core))

/-- What word 0 of a bundle holds in the chunk put in place, for a word 1 with which the bundle forms a chunk of its own: the two words take effect
in program order (R97, R225). -/
def State.inPlace (s : State) : State :=
  let c := s.me.chunk
  if c.held.isEmpty && c.tagw.isEmpty then s else s.heldInPlace.modChunk fun c => { c with held := [], tagw := [] }

/-- Word 1 of a pair run behind what word 0 stores, where it makes of the bundle a chunk of its own. -/
def State.runBehind (t : State) (w1 : Nat) : Host.Outcome State Fault Refusal :=
  match t.runSecond w1 with
  | .next u => if u.unit.res = .done && u.unit.own && !t.unit.own then t.inPlace.runSecond w1 else .next u
  | o => o

/-- Word 1 of a pair on the state after word 0. Where it waits for the preset or re-check that word 0 started, it runs after that has
ended (R69, R71). -/
def State.runAfter (t : State) (w1 : Nat) : Host.Outcome State Fault Refusal :=
  match t.runBehind w1 with
  | .next u =>
    if u.unit.res = .stalled && t.tableDue then t.settleTable.runBehind w1 else .next u
  | o => o

/-- Word 1 of a pair after word 0: late results of word 0 age in between, and the operand view stays (R47). A bundle that forms a chunk of its
own takes effect only once nothing that its first word stored meets a reservation (R109). -/
def State.issueSecond (start t : State) (w1 : Nat) : Host.Outcome State Fault Refusal :=
  match t.ageLates.runAfter w1 with
  | .next u => .next (if u.unit.res != .done then start.dropBundle u w1 true
      else if u.unit.own && u.grantWaits then start.dropBundle (u.endAs .stalled) w1 true
      else u.finishUnit 2)
  | o => o

/-- The span as it stands for a word beside `VOTE`: that word comes after the vote in program order, so its phase is not tested before it
(R165, R225; log entry 40). -/
def State.besideVote (s : State) : State := s.modJob s.myJob fun j => { j with span := { j.span with ph := 3 } }

/-- Whether a word is a `VOTE`. -/
def isVote (w : Nat) : Bool :=
  match decodeWord w with
  | .ok (.vote _) => true
  | .ok _ | .error _ => false

/-- The state in which word 1 of a pair would issue, with word 0 only tried, as if what it sleeps for had come: what it pops and appends stands
before word 1. A word 0 that waits at issue has done nothing yet. -/
def State.afterTry (start : State) (w0 : Nat) : State :=
  match ({ start with unit := { start.unit with tried := true } }).runEncoded w0 with
  | .next t => if t.unit.res = .done then { t.ageLates with unit := { t.unit with tried := false } } else start
  | .fault _ | .refused _ => start

/-- Whether word 1 of a pair would trap, while word 0 waits for others (R190). -/
def State.secondTraps (start : State) (w0 w1 : Nat) : Option UnitRes :=
  let t := start.afterTry w0
  match (if isVote w0 then t.besideVote else t).runSecond w1 with
  | .next u => match u.unit.res with
    | .trapped c v | .blocked c v => some (.trapped c v)
    | .done | .stalled | .again | .keeping _ | .slept _ | .outside _ _ _ _ _ _ _ | .gone => none
  | .fault _ | .refused _ => none

/-- A pair whose word 0 waits: a trap of word 1 stops both words (R190), also while it must itself wait
to be taken; otherwise the bundle stands as in `t`. -/
def State.pairWaits (start t : State) (w0 w1 : Nat) : State :=
  match start.secondTraps w0 w1 with
  | some r => (start.withWord w1 true).applyRes r
  | none => t

/-- A paired bundle whose word 0 ends its agent's stream: word 1 takes effect first (R225, R359, R376). -/
def State.issueEnding (start : State) (w0 w1 : Nat) : Host.Outcome State Fault Refusal :=
  match ({ start with unit := { start.unit with own := true } }).runSecond w1 with
  | .next t =>
    if t.unit.res = .done then
      match (t.withWord w0 false).runEncoded w0 with
      | .next u => .next (if u.unit.res = .gone then u else start.dropBundle u w0 false)
      | o => o
    else .next (start.dropBundle t w1 true)
  | o => o

/-- Whether word 0 of a pair, a `BAR` or `VOTE`, has just completed as the last arrival: the bundle then goes on as those of the strands
that slept do, with its next issue (R278, R406; log entry 40). -/
def lastArrival (start t : State) : Bool := start.me.mark != .done && t.me.mark == .done

/-- A paired bundle once word 0 has run to the state `t` (R224, R225). Where word 0 traps, its trap is recorded and word 1 is not looked at (the model's
choice, log entry 96). -/
def State.afterFirst (start t : State) (w0 w1 : Nat) : Host.Outcome State Fault Refusal :=
  match t.unit.res with
  | .done =>
    if lastArrival start t then .next (start.pairWaits (t.endAs .stalled) w0 w1) else start.issueSecond t w1
  | .gone => start.issueEnding w0 w1
  | .slept _ | .outside _ _ _ _ _ _ _ | .stalled | .again | .keeping _ => .next (start.pairWaits t w0 w1)
  | .trapped _ _ | .blocked _ _ => .next t

/-- A paired bundle (R224, R225). -/
def State.issuePair (s : State) (w0 w1 : Nat) : Host.Outcome State Fault Refusal :=
  if w0 / 2 ^ 30 % 2 = 1 then .next ((s.withWord w0 false).applyRes (.trapped .illegal (BitVec.ofNat 64 w0)))
  else if w1 / 2 ^ 30 % 2 = 0 then .next ((s.withWord w1 false).applyRes (.trapped .illegal (BitVec.ofNat 64 w1)))
  else if s.me.chunk.count != 0 && s.me.chunk.limit < s.me.chunk.count + 2 then
    .next ((s.withWord w0 false).applyRes .again)
  else
    let c := s.me.ctx
    let start := ({ s with unit := { s.unit with
      paired := true, view := some (c.regs, c.tiles) } }).withWord w0 false
    match start.runEncoded w0 with
    | .next t => start.afterFirst t w0 w1
    | o => o

/-- The next unit of the current agent is fetched and issued. -/
def State.issue (s : State) : Host.Outcome State Fault Refusal :=
  let s := ({ s with unit := { second := s.me.ctx.slot } }).openChunk
  match fetchM s with
  | .error x => s.stopAt x
  | .ok (.error c, s) => .next (s.applyRes (.trapped c s.me.ctx.pc))
  | .ok (.ok bs, s) =>
    let b := leNat bs
    let w0 := b % 2 ^ 32
    let w1 := b / 2 ^ 32
    if w0 / 2 ^ 31 = 1 then
      if s.me.ctx.slot then s.issueLone w1 true else s.issueLone w0 false
    else s.issuePair w0 w1

/-! ## An agent's turn -/

/-- What the turn of a sleeping agent tries (R35, R36, R113, R150, R196, R278, R406). -/
def State.wakeEvent (s : State) (a : AgentId) (g : Agent) : Sleep → Instr
  | .wait _ _ d _ =>
    if (s.awaited a).any fun x => !x.host && x.since + 1000000 ≤ s.now then .peerLoadTimeout a
    else if d.any (· ≤ s.tick) then .waitTimeout a
    else .waitEvaluate a
  | .bar => .barComplete g.asid g.job (g.gang % 512)
  | .vote => .voteCommit g.asid g.job
  | .pdeq | .orecv | .ext _ => .peerLoadTimeout a
  | .penq _ | .pdone _ => .stageQueueRoom a
  | .hold _ _ _ _ _ _ => .afaddHoldTimeout a.key

/-- A sleeper of these kinds looks again by issuing its word again. -/
def reissues : Sleep → Bool
  | .pdeq | .orecv => true
  | .wait _ _ _ _ | .bar | .vote | .penq _ | .pdone _ | .hold _ _ _ _ _ _ | .ext _ => false

/-- An agent asked to stop (R198) stops at its unit boundary once its chunk has ended and committed. -/
def State.stopNow (s : State) : State :=
  let s := s.endChunk
  if s.me.chunk.count = 0 then { s with me := { s.me with act := .stopped, stopReq := false } } else s

/-- Whether the agent stands between two units, with no event's answer waiting for the word it stands at. -/
def Agent.between (g : Agent) : Bool :=
  match g.mark with
  | .none | .left _ | .again => g.got.isEmpty
  | .done | .value _ | .trap _ _ => false

/-- The next unit: a gated core has woken for it (R208), and a parity error that its sweep found comes first (R58). -/
def State.issueNext (s : State) : Host.Outcome State Fault Refusal :=
  let s := if (s.core s.cur.core).gated then s.modCore s.cur.core fun k => { k with gated := false } else s
  match s.me.parity with
  | some code => .next (({ s with unit := { second := s.me.ctx.slot } }).takeTrap .parity (BitVec.ofNat 64 code))
  | none => s.issue

/-- The turn of a running agent: its chunk's grant, its decode table, a stop, a user interrupt, or its next unit. -/
def State.runTurn (s : State) : Host.Outcome State Fault Refusal :=
  let c := s.me.ctx
  if s.me.chunk.ended then exec (.commitGrant s.cur) s
  else if c.preset.isSome then exec (.presetLoad s.cur) s
  else if c.recheck then exec (.tableRecheckDone s.cur) s
  else if s.me.stopReq && s.me.between then .next s.stopNow
  else if s.cur.kind == .main && s.me.mark == .none && s.me.got.isEmpty && c.uiPending && !c.inHandler then exec (.userInterruptEntry s.cur.core) s
  else s.issueNext

/-- The turn of an agent. -/
def State.agentTurn (s : State) (a : AgentId) : Host.Outcome State Fault Refusal :=
  let s := s.focus a
  match s.me.act with
  | .idle | .stopped | .retired => .next s
  | .running => s.runTurn
  | .asleep k _ =>
    if reissues k && !s.me.stopReq then ({ s with me := { s.me with act := .running } }).issueNext
    else if reissues k then .next s.stopNow
    else exec (s.wakeEvent a s.me k) s

/-! ## The schedule -/

/-- Entries that a cache holds (R91): 16 in a core, 512 in a cluster. -/
def cacheSize (at_ : Nat) : Nat := if at_ < 4096 then 16 else 512

/-- A page put into a cache, whose oldest entry gives way when it is full (R91). -/
def fillTlb (x : TlbEntry) (m : List TlbEntry) : List TlbEntry :=
  let (own, rest) := m.partition fun c => c.at_ == x.at_
  (x :: own.filter fun c => !(c.asid == x.asid && c.page == x.page)).take (cacheSize x.at_) ++ rest

/-- A change of the caches (R86, R91). One entry holds 64 KiB of a leaf, of one of 2 MiB too (the model's choice, log
entry 14). A walk that fails, an address without memory among it (R20), is never cached. -/
def State.cacheMove (s : State) : CacheMove → State
  | .fillPage at_ asid va =>
    match s.walk asid va with
    | some l =>
      if va / 2 ^ 48 != 0 || s.hbmsz ≤ l.pa then s
      else { s with mem := { s.mem with
        tlb := fillTlb ⟨at_, asid, va / 2 ^ 16, l.pa / 2 ^ 16 * 2 ^ 16, l.write, l.exec⟩ s.mem.tlb } }
    | none => s
  | .dropPage at_ asid page =>
    { s with mem := { s.mem with tlb := s.mem.tlb.filter fun c => !(c.at_ == at_ && c.asid == asid && c.page == page) } }
  | .fillHandle asid h =>
    let rest := s.mem.hcopies.filter fun c => !(c.asid == asid && c.h == h)
    { s with mem := { s.mem with hcopies := ⟨asid, h, s.handle asid h⟩ :: rest } }
  | .dropHandle asid h => { s with mem := { s.mem with hcopies := s.mem.hcopies.filter fun c => !(c.asid == asid && c.h == h) } }
  | .dropAll => { s with mem := { s.mem with tlb := [], hcopies := [] } }

/-- Whether a package that has faulted still serves a move: only package reset (R197). -/
def serves (s : State) : Move → Bool
  | .event (.packageReset _) => true
  | .event _ | .agent _ => !s.dev.fault

/-- One turn of the schedule (log entry 1): a package fault that waits is tried, time passes, caches change, and an agent moves or an event happens. Without a schedule,
10 ns pass and the current agent moves. -/
def State.turn (s : State) : Host.Outcome State Fault Refusal :=
  let s := s.failNow
  match s.turns with
  | [] => if s.dev.fault then .next s else ({ s with now := s.now + 10 }).agentTurn s.cur
  | t :: ts =>
    let s := t.caches.foldl State.cacheMove { s with turns := ts, now := s.now + t.ns }
    if !serves s t.move then .next s
    else
      match t.move with
      | .agent a => s.agentTurn a
      | .event i => if i.isEvent then exec i s else .next s

/-! ## Placing a word where the machine fetches (log entry 5) -/

/-- Bytes put into committed memory, with any byte the agent's own chunk holds there dropped. -/
def State.place (s : State) (a : Nat) (bs : List Byte) : State :=
  let s := s.poke a bs
  s.modChunk fun c => { c with held := (List.range bs.length).foldl (fun m i => tabDel (a + i) m) c.held }

/-- The bundle that holds a word: as word 0 when its bit 31 is set, else as word 1 beside a lone `NOP`. -/
def bundleFor (w : Nat) : Nat :=
  if w / 2 ^ 31 % 2 = 1 then w % 2 ^ 32 + 0x40000000 * 2 ^ 32 else 0x80000000 + w % 2 ^ 32 * 2 ^ 32

/-- The agent ready to issue at its next turn. -/
def State.readyToIssue (s : State) (slot : Bool) : State :=
  let g := s.me
  { s with
    turns := []
    dev := { s.dev with failing := false, fault := false }
    me := { g with
      act := .running, mark := .none, got := [], stopReq := false, parity := none
      chunk := { g.chunk with ended := false }
      ctx := { g.ctx with slot := slot, preset := none, recheck := false, uip := 0 } } }

/-- Where the current position's bundle lies in memory, if a fetch there reads its bytes as they are. -/
def State.fetchAddr (s : State) : Option Nat :=
  match s.cur.kind with
  | .loader => some (istoreAddr s.cur.core false (s.me.ctx.pc.toNat % 2 ^ 14))
  | .storer => some (istoreAddr s.cur.core true (s.me.ctx.pc.toNat % 2 ^ 14))
  | .main =>
    match s.check s.who s.me.ctx.pc fetchAcc with
    | .ok (.mem [g]) =>
      if hWin (s.handle s.me.asid (handleOf s.me.ctx.pc)) = 0 && !s.frozenSegs [g] && !s.ownedAny (segLines [g]) &&
        decide (g.1 + g.2 ≤ 2 ^ 44) && !meets (segLines [g]) s.mem.poison then some g.1 else none
    | .ok (.mem _) | .ok (.table _) | .ok (.capBlock _) | .ok (.outside _ _ _ _) | .error _ => none

/-- A small address space in which handle 0x801 names executable memory, with the current agent at its first bundle. -/
def State.mapCode (s : State) : State :=
  let a := s.me.asid
  let pd := (tabGet a s.host.pdesc).getD []
  let pd := ([1, 0x100000, 0x200000] : List Word) ++ pd.drop 3
  let s := { s with host := { s.host with pdesc := tabSet a pd s.host.pdesc }, dev := { s.dev with channelsOut := [] } }
  let s := s.poke (0x100000 + 32 * 0x801) ([(0 : Word), 0x200000, 0x80, 0].flatMap fun w => wordBytes 8 w)
  let s := s.poke 0x200000 (leBytes 8 (0x201000 + 1))
  let s := s.poke 0x201000 (leBytes 8 (0x202000 + 1))
  let s := s.poke 0x202000 (leBytes 8 (0x400000 + 15))
  let s := { s with mem := { s.mem with tlb := [], hcopies := [], poison := [], owned := [] } }
  s.modCtx fun c => { c with pc := 0x8010000000000000 }

/-- A word placed where the next step fetches it. -/
def State.placeWord (s : State) (w : Nat) : State :=
  let s := s.readyToIssue (w / 2 ^ 31 % 2 = 0)
  match s.fetchAddr with
  | some a => s.place a (leBytes 8 (bundleFor w))
  | none =>
    let s := s.mapCode
    s.place ((s.fetchAddr).getD 0x400000) (leBytes 8 (bundleFor w))

end Sys2Proof.Machine
end

