-- ==== Sys2Proof/Machine/Step.lean ====
section
/-! DEFINITION. One step of the machine, and the state with a word placed where the next step fetches it. -/

namespace Sys2Proof.Machine

/-- One step: one turn of the schedule. -/
def step (s : State) : Host.Outcome State Fault Refusal := s.turn

/-- The state with an instruction word placed where `step` fetches its next instruction (log entry 5). -/
def State.withFetchWord (s : State) (_nbits w : Nat) : State := s.placeWord w

end Sys2Proof.Machine
end

