-- ==== Sys2Proof/Safety.lean ====
section
/-! DEFINITION. What counts as a safe run, and the terms in which the statements speak of states: the invariant, when a word is ready
to compute, operands and results in plain registers, and what an ordinary access to memory needs. -/

namespace Sys2Proof.Machine

/-- The invariant of every state: memory stands in its canonical form. -/
abbrev State.Inv (s : State) : Prop := s.mem.wf = true

/-! ## A word ready to compute -/

/-- Nothing keeps a word from its own computation: its agent may run it (R101, R231, R244), no event has left it a trap, and it is issued, not
only tried for a word that waits beside it. -/
abbrev State.Ready (s : State) (i : Instr) : Prop := s.mayRun i = true ∧ s.leftTrap = none ∧ s.unit.tried = false

/-- No generator is bound to these scalar registers (R52). -/
abbrev State.Plain (s : State) (rs : List Reg) : Prop := ∀ r ∈ rs, s.me.ctx.bindOf r.toNat = none

/-- No generator is bound to these tile registers (R52). -/
abbrev State.PlainTiles (s : State) (ts : List TReg) : Prop := ∀ t ∈ ts, s.me.ctx.bindOf (32 + t.toNat) = none

/-! ## Results -/

/-- The state with one scalar register of the current agent written, and nothing else. -/
def State.withReg (s : State) (r : Reg) (v : Word) : State := s.modCtx (·.setReg r v)

/-- The state with rows of a tile of the current agent written, from row `f` on, and nothing else. -/
def State.withRows (s : State) (t : TReg) (f : Nat) (vs : List Row) : State :=
  s.modCtx fun c => (indexRows t f vs).foldl (fun c x => c.setRow x.1 x.2) c

/-- A result of a long-latency instruction with LA = 0: older results of its destination in flight land first (R99, rule 7), then the register
is written, and nothing else. -/
def State.nowReg (s : State) (r : Reg) (v : Word) : State :=
  if r = 0 then s else { (s.landOlder (.scalar r v)).withReg r v with unit := s.unit }

/-- The same for any late destination. -/
def State.landNow (s : State) (v : LateVal) : State := { (s.landOlder v).land v with unit := s.unit }

/-- The same for rows of a tile. -/
def State.nowRows (s : State) (t : TReg) (f : Nat) (vs : List Row) : State :=
  { (s.landOlder (.rows (indexRows t f vs))).withRows t f vs with unit := s.unit }

/-- A late result with its window, added to those in flight (R99). -/
def State.withLate (s : State) (v : LateVal) (la : BitVec 4) : State :=
  s.modCtx fun c => { c with lates := c.lates ++ [⟨v, la.toNat + 1⟩] }

/-- No late result in flight shares a destination with a result (R99, rule 7). -/
abbrev State.Clear (s : State) (v : LateVal) : Prop := ∀ l ∈ s.me.ctx.lates, meets l.val.dests v.dests = false

/-- Rows of a tile as a source sees them. -/
def State.srcRows (s : State) (t : TReg) (f n : Nat) : List Row := (List.range n).map fun k => s.srcRow (rowIx t (f + k))

/-- A taken branch to word 0 of a bundle: nothing but control and the loop levels it leaves (R265, R331). -/
def State.branched (s : State) (target : Word) (pops : Bool) : State :=
  let s := s.modCtx fun c => { c with loops := if pops then popLoops c.pc target c.loops else c.loops, loopReq := [] }
  { s with unit := { s.unit with taken := some (target, false) } }

/-! ## Ordinary accesses -/

/-- A checked access that lands in package memory, `a.n` bytes at `pa` through the raw window, where no engine or copy job owns a line
(R129) and no line is poisoned (R197). -/
abbrev State.Reaches (s : State) (p : Word) (a : Acc) (pa : Nat) : Prop :=
  s.check s.who p a = .ok (.mem [(pa, a.n)]) ∧ hWin (s.handle s.me.asid (handleOf p)) = 0 ∧ pa < 2 ^ 44 ∧ pa + a.n ≤ 2 ^ 44 ∧
    s.ownedAny (segLines [(pa, a.n)]) = false ∧ meets (segLines [(pa, a.n)]) s.mem.poison = false

/-- An ordinary word, which belongs to its agent's chunk, with room for the lines of a store (R105). -/
abbrev State.Room (s : State) (pa n : Nat) : Prop :=
  s.unit.own = false ∧ ((s.noteWrites (segLines [(pa, n)])).me.chunk.writes.length ≤ 128 ∨ s.me.chunk.count = 0)

/-- What a load leaves beside its register: its lines stand in the read set, and an acquire has met the releases of these lines that are still
pending outside (R119). No register and no byte of memory changes. -/
def State.loaded (s : State) (acq : Bool) (ls : List Nat) : State :=
  if acq then (s.noteReads ls).acquire ls else s.noteReads ls

/-- A word that forms a chunk of its own may act on lines at once: its agent has no open chunk and so no late result in flight (R99, rule 6),
no reservation of another agent stands against it (R109, R110), and the bytes belong to no READY or RUNNING record (R31). -/
abbrev State.Alone (s : State) (pa n : Nat) : Prop :=
  s.me.chunk = {} ∧ s.me.ctx.lates = [] ∧ s.reserved (segLines [(pa, n)]) = false ∧ s.hitRecs [(pa, n)] = []

/-- A word that forms a chunk of its own, at its start (R110). -/
abbrev State.alone (s : State) : State := { s with unit := { s.unit with own := true } }

/-- An agent that stands between two units with nothing to do before its next one: it runs, its chunk waits for no grant, no decode table is
being loaded or re-checked, no package fault waits (R197), no stop is asked for, no interrupt is due, no parity error stands and its core is not gated (R58, R59, R69, R71,
R107, R198, R208). -/
abbrev State.Issues (s : State) : Prop :=
  s.turns = [] ∧ s.dev.failing = false ∧ s.dev.fault = false ∧ s.me.act = .running ∧ s.me.chunk.ended = false ∧ s.me.ctx.preset = none ∧
    s.me.ctx.recheck = false ∧ s.me.stopReq = false ∧ (s.me.ctx.uiPending = true → s.me.ctx.inHandler = true) ∧ s.me.parity = none ∧
    (s.core s.cur.core).gated = false

/-- Every byte outside a range of package memory is as before, committed and as the current agent sees it. -/
def State.SameOutside (s t : State) (pa n : Nat) : Prop :=
  ∀ a, a < pa ∨ pa + n ≤ a → t.viewBytes [(a, 1)] = s.viewBytes [(a, 1)] ∧ byteAt t.mem.bytes a = byteAt s.mem.bytes a

end Sys2Proof.Machine
end

