-- ==== Sys2Proof/Certificates/Slice0/Obligations.lean ====
section
/-! DEFINITION. The statements for the provers. A statement of an instruction's result gives the whole next state, so that it says what the
instruction leaves alone as well; where it does not, the frame stands beside it. -/

open Sys2Proof Sys2Proof.Machine

/-! ## Scalar integer instructions -/

/-- R274, R275, R342, R343, R346, R366, R367, R369, R374, R421: products, differences, logic and shifts. The next state is the old one
with register d written, and nothing else: every other register, every flag and special register, and memory are as before. -/
def Obligations.ScalarArithmetic : Prop :=
  ∀ (s : State) (d a b : Reg) (i : BitVec 14), s.Plain [d, a, b] →
    (s.Ready (.sub d a b) → exec (.sub d a b) s = .next (s.withReg d (s.srcReg a - s.srcReg b))) ∧
    (s.Ready (.mul d a b) → exec (.mul d a b) s = .next (s.withReg d (s.srcReg a * s.srcReg b))) ∧
    (s.Ready (.mulh d a b) → exec (.mulh d a b) s =
      .next (s.withReg d (BitVec.ofInt 64 ((s.srcReg a).toInt * (s.srcReg b).toInt / 2 ^ 64)))) ∧
    (s.Ready (.mulhU d a b) → exec (.mulhU d a b) s =
      .next (s.withReg d (BitVec.ofNat 64 ((s.srcReg a).toNat * (s.srcReg b).toNat / 2 ^ 64)))) ∧
    (s.Ready (.andR d a b) → exec (.andR d a b) s = .next (s.withReg d (s.srcReg a &&& s.srcReg b))) ∧
    (s.Ready (.andImm d a i) → exec (.andImm d a i) s = .next (s.withReg d (s.srcReg a &&& i.signExtend 64))) ∧
    (s.Ready (.andn d a b) → exec (.andn d a b) s = .next (s.withReg d (s.srcReg a &&& ~~~s.srcReg b))) ∧
    (s.Ready (.orR d a b) → exec (.orR d a b) s = .next (s.withReg d (s.srcReg a ||| s.srcReg b))) ∧
    (s.Ready (.orImm d a i) → exec (.orImm d a i) s = .next (s.withReg d (s.srcReg a ||| i.signExtend 64))) ∧
    (s.Ready (.xorR d a b) → exec (.xorR d a b) s = .next (s.withReg d (s.srcReg a ^^^ s.srcReg b))) ∧
    (s.Ready (.xorImm d a i) → exec (.xorImm d a i) s = .next (s.withReg d (s.srcReg a ^^^ i.signExtend 64))) ∧
    (s.Ready (.shl d a b) → exec (.shl d a b) s = .next (s.withReg d (s.srcReg a <<< ((s.srcReg b).toNat % 64)))) ∧
    (s.Ready (.shr d a b) → exec (.shr d a b) s = .next (s.withReg d (s.srcReg a >>> ((s.srcReg b).toNat % 64)))) ∧
    (s.Ready (.sra d a b) → exec (.sra d a b) s =
      .next (s.withReg d ((s.srcReg a).sshiftRight ((s.srcReg b).toNat % 64))))

/-- R270, R288, R337, R338, R339, R360: sums, comparisons, the smaller and the larger, moves and rotations, with the same frame. -/
def Obligations.ScalarCompare : Prop :=
  ∀ (s : State) (d a b : Reg) (i : BitVec 14) (u : Bool) (c : Cond), s.Plain [d, a, b] →
    (s.Ready (.add d a b) → exec (.add d a b) s = .next (s.withReg d (s.srcReg a + s.srcReg b))) ∧
    (s.Ready (.addImm d a i) → exec (.addImm d a i) s = .next (s.withReg d (s.srcReg a + i.signExtend 64))) ∧
    (s.Ready (.minS d a b u) → exec (.minS d a b u) s =
      .next (s.withReg d (if (if u then (s.srcReg b).ult (s.srcReg a) else (s.srcReg b).slt (s.srcReg a))
        then s.srcReg b else s.srcReg a))) ∧
    (s.Ready (.maxS d a b u) → exec (.maxS d a b u) s =
      .next (s.withReg d (if (if u then (s.srcReg a).ult (s.srcReg b) else (s.srcReg a).slt (s.srcReg b))
        then s.srcReg b else s.srcReg a))) ∧
    (s.Ready (.cmp d a b c) → exec (.cmp d a b c) s =
      .next (s.withReg d (if (match c with
        | .eq => s.srcReg a == s.srcReg b
        | .ne => s.srcReg a != s.srcReg b
        | .lt => (s.srcReg a).slt (s.srcReg b)
        | .ge => (s.srcReg b).sle (s.srcReg a)
        | .ltu => (s.srcReg a).ult (s.srcReg b)
        | .geu => (s.srcReg b).ule (s.srcReg a)
        | .bit => (s.srcReg a &&& s.srcReg b) != 0
        | .nbit => (s.srcReg a &&& s.srcReg b) == 0) then 1 else 0))) ∧
    (s.Ready (.mov d a) → exec (.mov d a) s = .next (s.withReg d (s.srcReg a))) ∧
    (s.Ready (.rot d a b) → exec (.rot d a b) s =
      .next (s.withReg d ((s.srcReg a <<< ((s.srcReg b).toNat % 64)) |||
        (s.srcReg a >>> (64 - (s.srcReg b).toNat % 64)))))

/-- R297, R355: quotient and remainder, with the corners the rules name. Neither traps on its values. -/
def Obligations.DivRem : Prop :=
  ∀ (s : State) (d a b : Reg) (u : Bool), s.Plain [d, a, b] →
    (s.Ready (.div d a b u) → ∃ q, exec (.div d a b u) s = .next (s.withReg d q) ∧
      (s.srcReg b = 0 → q = 0xFFFFFFFFFFFFFFFF) ∧
      (s.srcReg b ≠ 0 → u = true → q.toNat = (s.srcReg a).toNat / (s.srcReg b).toNat) ∧
      (s.srcReg b ≠ 0 → u = false → s.srcReg a = 0x8000000000000000 → s.srcReg b = 0xFFFFFFFFFFFFFFFF →
        q = 0x8000000000000000) ∧
      (s.srcReg b ≠ 0 → u = false → ¬(s.srcReg a = 0x8000000000000000 ∧ s.srcReg b = 0xFFFFFFFFFFFFFFFF) →
        q.toInt = (s.srcReg a).toInt.tdiv (s.srcReg b).toInt)) ∧
    (s.Ready (.rem d a b u) → ∃ r, exec (.rem d a b u) s = .next (s.withReg d r) ∧
      (s.srcReg b = 0 → r = s.srcReg a) ∧
      (s.srcReg b ≠ 0 → u = true → r.toNat = (s.srcReg a).toNat % (s.srcReg b).toNat) ∧
      (s.srcReg b ≠ 0 → u = false → r.toInt = (s.srcReg a).toInt.tmod (s.srcReg b).toInt))

/-- R287, R352, R280, R281, R326, R327, R363: bit counts, fields, immediates, pointers and selection, with the same frame. -/
def Obligations.ScalarBits : Prop :=
  ∀ (s : State) (d a b c : Reg) (p w : BitVec 6) (i : BitVec 14) (l : BitVec 19), s.Plain [d, a, b, c] →
    (s.Ready (.clz d a) → ∃ n : Nat, exec (.clz d a) s = .next (s.withReg d (BitVec.ofNat 64 n)) ∧ n ≤ 64 ∧
      (s.srcReg a).toNat < 2 ^ (64 - n) ∧ (n < 64 → 2 ^ (63 - n) ≤ (s.srcReg a).toNat)) ∧
    (s.Ready (.popc d a) → exec (.popc d a) s =
      .next (s.withReg d (BitVec.ofNat 64 ((List.range 64).filter fun k => (s.srcReg a).getLsbD k).length))) ∧
    (s.Ready (.bfx d a p w) → exec (.bfx d a p w) s =
      .next (s.withReg d ((s.srcReg a >>> p.toNat) &&& BitVec.ofNat 64 (2 ^ (w.toNat + 1) - 1)))) ∧
    (s.Ready (.bfi d a p w) → exec (.bfi d a p w) s = .next (s.withReg d
      ((s.srcReg d &&& ~~~(BitVec.ofNat 64 (2 ^ (w.toNat + 1) - 1) <<< p.toNat)) |||
        ((s.srcReg a <<< p.toNat) &&& (BitVec.ofNat 64 (2 ^ (w.toNat + 1) - 1) <<< p.toNat))))) ∧
    (s.Ready (.sel d a b c) → exec (.sel d a b c) s =
      .next (s.withReg d (if s.srcReg c ≠ 0 then s.srcReg a else s.srcReg b))) ∧
    (s.Ready (.li d l) → exec (.li d l) s = .next (s.withReg d (l.signExtend 64))) ∧
    (s.Ready (.liHi d l) → exec (.liHi d l) s = .next (s.withReg d ((s.srcReg d <<< 19) ||| l.zeroExtend 64))) ∧
    (s.Ready (.lea d a i) → ∃ v, exec (.lea d a i) s = .next (s.withReg d v) ∧ handleOf v = handleOf (s.srcReg a) ∧
      (offsetOf v : Int) = ((offsetOf (s.srcReg a) : Int) + i.toInt) % 2 ^ 52)

/-- R47: a write to `s0` is discarded and `s0` reads 0; a write to any other register changes that register alone. -/
def Obligations.RegisterFile : Prop :=
  ∀ (s : State) (r q : Reg) (v : Word),
    s.me.ctx.reg 0 = 0 ∧ s.withReg 0 v = s ∧
    (r ≠ 0 → (s.withReg r v).me.ctx.reg r = v) ∧
    (q ≠ r → (s.withReg r v).me.ctx.reg q = s.me.ctx.reg q) ∧
    (s.withReg r v).me.ctx.tiles = s.me.ctx.tiles ∧ (s.withReg r v).me.ctx.pc = s.me.ctx.pc ∧
    (s.withReg r v).me.ctx.tcause = s.me.ctx.tcause ∧ (s.withReg r v).me.ctx.uimask = s.me.ctx.uimask ∧
    (s.withReg r v).mem = s.mem ∧ (s.withReg r v).others = s.others

/-- R190, R244, R101: a word that its agent may not run, an operand limit broken or an instruction outside the scalar subset of a
loader or storer, takes ILLEGAL with the word in `TVAL`. -/
def Obligations.IllegalWord : Prop :=
  ∀ (s : State) (i : Instr), i.isEvent = false → (i.wf = false ∨ (s.cur.kind ≠ .main ∧ i.inScalarSubset = false)) →
    exec i s = .next (s.applyRes (.trapped .illegal (s.unit.word.zeroExtend 64)))

/-! ## Scalar floating instructions -/

/-- R298, R299, R300, R302, R306, R307, R308, R309, R310, R311: the result of each arithmetic instruction of its format and mode; nothing
else changes, and no flag is kept (R67). `FCLASS` sets the one bit that names the class of its operand. `FDIV` and `FSQRT` stand here with
LA = 0, after older results of their destination. R301, R67: `FCVT` to an integer rounds by the mode, saturates at the ends of the integer
type and makes 0 of a NaN; from an integer and between formats it rounds by the mode. R66: what rounding to an integer does in each mode. -/
def Obligations.FloatResults : Prop :=
  (∀ (s : State) (d a b c : Reg) (r : RMode) (p : Prec) (rel : FRel), s.Plain [d, a, b, c] →
    let x := floatOf p (s.srcReg a)
    let y := floatOf p (s.srcReg b)
    let z := floatOf p (s.srcReg c)
    let f := precFmt p
    (s.Ready (.fadd d a b r p) → exec (.fadd d a b r p) s = .next (s.withReg d (BitVec.ofNat 64 (fAdd f r x y)))) ∧
    (s.Ready (.fsub d a b r p) → exec (.fsub d a b r p) s = .next (s.withReg d (BitVec.ofNat 64 (fSub f r x y)))) ∧
    (s.Ready (.fmul d a b r p) → exec (.fmul d a b r p) s = .next (s.withReg d (BitVec.ofNat 64 (fMul f r x y)))) ∧
    (s.Ready (.fma d a b c r p) → exec (.fma d a b c r p) s = .next (s.withReg d (BitVec.ofNat 64 (fFma f r x y z)))) ∧
    (s.Ready (.fmin d a b p) → exec (.fmin d a b p) s = .next (s.withReg d (BitVec.ofNat 64 (fMinMax f false x y)))) ∧
    (s.Ready (.fmax d a b p) → exec (.fmax d a b p) s = .next (s.withReg d (BitVec.ofNat 64 (fMinMax f true x y)))) ∧
    (s.Ready (.fcmp d a b rel p) → exec (.fcmp d a b rel p) s = .next (s.withReg d (if fRel f rel x y then 1 else 0))) ∧
    (s.Ready (.fclass d a p) → ∃ k : Nat, exec (.fclass d a p) s = .next (s.withReg d (BitVec.ofNat 64 (2 ^ k))) ∧ k < 10 ∧
      (k = 0 ↔ unpack f x = .inf true) ∧ (k = 1 ↔ ∃ m e, unpack f x = .fin true m e ∧ 2 ^ f.fb ≤ m) ∧
      (k = 2 ↔ ∃ m e, unpack f x = .fin true m e ∧ 0 < m ∧ m < 2 ^ f.fb) ∧ (k = 3 ↔ ∃ e, unpack f x = .fin true 0 e) ∧
      (k = 4 ↔ ∃ e, unpack f x = .fin false 0 e) ∧ (k = 5 ↔ ∃ m e, unpack f x = .fin false m e ∧ 0 < m ∧ m < 2 ^ f.fb) ∧
      (k = 6 ↔ ∃ m e, unpack f x = .fin false m e ∧ 2 ^ f.fb ≤ m) ∧ (k = 7 ↔ unpack f x = .inf false) ∧
      (k = 8 ↔ isNan f x = true ∧ x / 2 ^ (f.fb - 1) % 2 = 0) ∧ (k = 9 ↔ isNan f x = true ∧ x / 2 ^ (f.fb - 1) % 2 = 1)) ∧
    (s.Ready (.fdiv d a b 0 r p) → exec (.fdiv d a b 0 r p) s = .next (s.nowReg d (BitVec.ofNat 64 (fDiv f r x y)))) ∧
    (s.Ready (.fsqrt d a 0 r p) → exec (.fsqrt d a 0 r p) s = .next (s.nowReg d (BitVec.ofNat 64 (fSqrt f r x))))) ∧
  (∀ (s : State) (d a : Reg) (sel : CvtSel) (r : RMode) (p : Prec), s.Plain [d, a] → s.Ready (.fcvt d a sel r p) →
    let v := s.srcReg a
    let f := precFmt p
    let toInt (lo hi : Int) : Word := match unpack f (floatOf p v) with
      | .nan _ _ => 0
      | .inf neg => BitVec.ofInt 64 (if neg then lo else hi)
      | .fin neg m e => BitVec.ofInt 64 (max lo (min hi (roundInt r neg m e)))
    exec (.fcvt d a sel r p) s = .next (s.withReg d (match sel with
      | .ff => match p with
        | .fp32 => BitVec.ofNat 64 (pack .fp32 r (unpack .fp64 v.toNat))
        | .fp64 => BitVec.ofNat 64 (pack .fp64 r (unpack .fp32 (v.toNat % 2 ^ 32)))
      | .fi64 => toInt (-(2 ^ 63)) (2 ^ 63 - 1)
      | .fn64 => toInt 0 (2 ^ 64 - 1)
      | .fi32 => toInt (-(2 ^ 31)) (2 ^ 31 - 1)
      | .fn32 => toInt 0 (2 ^ 32 - 1)
      | .i64f => BitVec.ofNat 64 (intToF f r v.toInt)
      | .n64f => BitVec.ofNat 64 (intToF f r v.toNat)
      | .i32f => BitVec.ofNat 64 (intToF f r (BitVec.ofNat 32 v.toNat).toInt)))) ∧
  (∀ (neg : Bool) (m k : Nat),
    let v : Int := if neg then -(m : Int) else m
    let down : Int := -(k : Int)
    (∀ r, roundInt r neg m (k : Int) = v * 2 ^ k) ∧
    roundInt .rdn neg m down = v / 2 ^ k ∧ roundInt .rup neg m down = -(-v / 2 ^ k) ∧ roundInt .rtz neg m down = v.tdiv (2 ^ k) ∧
    (roundInt .rna neg m down).natAbs = (2 * m + 2 ^ k) / 2 ^ (k + 1) ∧
    let q := (roundInt .rne neg m down).natAbs
    2 * m ≤ 2 * q * 2 ^ k + 2 ^ k ∧ 2 * q * 2 ^ k ≤ 2 * m + 2 ^ k ∧
      (2 * m = 2 * q * 2 ^ k + 2 ^ k ∨ 2 * q * 2 ^ k = 2 * m + 2 ^ k → q % 2 = 0))

/-- R63, R65, R66: an addition with a NaN operand returns the first NaN among its operands, quieted, and a value that a format holds is left as
it is by rounding to that format, in every mode. -/
def Obligations.FloatFormats : Prop :=
  (∀ (f : Fmt) (r : RMode) (a b : Nat), f ∈ [Fmt.fp64, Fmt.fp32, Fmt.bf16, Fmt.fp16] → a < 2 ^ f.width → b < 2 ^ f.width →
    (isNan f a = true → fAdd f r a b = a ||| 2 ^ (f.fb - 1)) ∧
    (isNan f a = false → isNan f b = true → fAdd f r a b = b ||| 2 ^ (f.fb - 1))) ∧
  (∀ (f : Fmt) (r : RMode) (x : Nat), f ∈ [Fmt.fp64, Fmt.fp32, Fmt.bf16, Fmt.fp16, Fmt.e8m10] → x < 2 ^ f.width →
    isNan f x = false → pack f r (unpack f x) = x)

/-! ## Late results -/

/-- R99: a long-latency result with a window of `la` words does not stand in its register before its window closes: it waits among the
late results, for `la` + 1 words with its own. Nothing else changes. As words complete, the only late result in flight stays in flight until
its window closes, and then lands in its register. With no window a result stands at once, after the results in flight that share its
destination; where none does, nothing else changes. -/
def Obligations.LateResults : Prop :=
  (∀ (s : State) (d a b : Reg) (td ta tb : TReg) (la : BitVec 4) (n f : BitVec 3) (r : RMode) (p : Prec) (lt : LaneTy) (fn : SfuFn) (op : RedOp)
    (excl : Bool) (pts : HadN), s.Plain [d, a, b, 28, 29, 30] → s.PlainTiles [td, ta, tb] → la ≠ 0 → d ≠ 0 →
    s.srcReg 28 = 0 →
    let x := s.srcRows ta f.toNat (n.toNat + 1)
    let y := s.srcRows tb f.toNat (n.toNat + 1)
    let keys := (0, (s.srcReg 29).toNat, (s.srcReg 30).toNat)
    let late (i : Instr) (v : LateVal) : Prop := s.Ready i → exec i s = .next (s.withLate v la)
    let rows (vs : List Row) : LateVal := .rows (indexRows td f.toNat vs)
    late (.fdiv d a b la r p) (.scalar d (BitVec.ofNat 64 (fDiv (precFmt p) r (floatOf p (s.srcReg a)) (floatOf p (s.srcReg b))))) ∧
    late (.fsqrt d a la r p) (.scalar d (BitVec.ofNat 64 (fSqrt (precFmt p) r (floatOf p (s.srcReg a))))) ∧
    late (.vsfu td ta la n f lt fn) (rows (x.map fun r => rowOf lt.width ((lanesOf lt.width r).map (sfu fn (LaneFmt lt))))) ∧
    late (.vred td ta la n f lt op) (rows [lane0 lt (reduceRows lt (redOp op lt) x)]) ∧
    late (.vscan td ta la n f lt excl) (rows (rowsFrom lt.width (n.toNat + 1) (scanAll (laneAdd lt) excl (elemsOf lt.width x)))) ∧
    late (.vhad td ta la n f lt pts) (rows (rowsFrom lt.width (n.toNat + 1) (hadamard pts (LaneFmt lt) keys (elemsOf lt.width x)))) ∧
    (s.me.task = none → s.me.ctx.uiin = false → (s.job s.myJob).span.ph = 3 →
      late (.resacc la ta tb n f lt) (.rpart (residualOf lt x y)))) ∧
  (∀ (s : State) (d : Reg) (v : Word) (n : Nat), s.me.ctx.lates = [⟨.scalar d v, n + 1⟩] → s.Plain [d] → d ≠ 0 →
    (n ≠ 0 → s.ageLates.me.ctx.lates = [⟨.scalar d v, n⟩] ∧ s.ageLates.me.ctx.regs = s.me.ctx.regs) ∧
    (n = 0 → s.ageLates.me.ctx.lates = [] ∧ s.ageLates.me.ctx.reg d = v ∧
      ∀ q, q ≠ d → s.ageLates.me.ctx.reg q = s.me.ctx.reg q)) ∧
  (∀ (s : State) (d : Reg) (v : Word) (t : TReg) (f : Nat) (vs : List Row),
    (s.Clear (.scalar d v) → s.nowReg d v = s.withReg d v) ∧
    (s.Clear (.rows (indexRows t f vs)) → s.nowRows t f vs = s.withRows t f vs) ∧
    (d ≠ 0 → (s.nowReg d v).me.ctx.reg d = v ∧ (s.nowReg d v).Clear (.scalar d v)))


/-! ## Control flow -/

/-- R265, R277, R279, R282, R345: where each branch goes, what `CALL` saves, and that a branch not taken changes nothing. The pointer of the
bundle `n` bundles on keeps its handle, and its offset wraps modulo 2^52. -/
def Obligations.Branches : Prop :=
  ∀ (s : State) (o : BitVec 24) (q : BitVec 11) (c : Cond) (a b : Reg) (la : BitVec 4),
    (s.Ready (.nop la) → exec (.nop la) s = .next s) ∧
    (s.Ready (.branch o) → exec (.branch o) s = .next (s.branched (s.bundleAt s.me.ctx.pc o.toInt) true)) ∧
    (s.Ready (.call o) → s.Plain [31] → exec (.call o) s =
      .next ((s.withReg 31 (s.bundleAt s.me.ctx.pc 1)).branched (s.bundleAt s.me.ctx.pc o.toInt) false)) ∧
    (s.Ready (.bcc c a b q) → s.Plain [a, b] → condHolds c (s.srcReg a) (s.srcReg b) = true →
      exec (.bcc c a b q) s = .next (s.branched (s.bundleAt s.me.ctx.pc q.toInt) true)) ∧
    (s.Ready (.bcc c a b q) → s.Plain [a, b] → condHolds c (s.srcReg a) (s.srcReg b) = false →
      exec (.bcc c a b q) s = .next s) ∧
    (∀ (p : Word) (n : Int), s.cur.kind = .main →
      handleOf (s.bundleAt p n) = handleOf p ∧ (s.bundleAt p n).toNat % 8 = 0 ∧
      (offsetOf p % 8 = 0 → (offsetOf (s.bundleAt p n) : Int) = ((offsetOf p : Int) + 8 * n) % 2 ^ 52))

/-- R322, R358, R381: a jump to the bundle a register names, ALIGN where its low bits are not 0, and the cause that `TRAP` names. -/
def Obligations.JumpsAndTraps : Prop :=
  ∀ (s : State) (la : BitVec 4) (a : Reg) (code : BitVec 8),
    (s.Ready (.jr la a) → s.Plain [a] → (s.srcReg a).toNat % 8 = 0 →
      exec (.jr la a) s = .next (s.branched (s.bundlePtr (s.srcReg a)) true)) ∧
    (s.Ready (.jr la a) → s.Plain [a] → (s.srcReg a).toNat % 8 ≠ 0 →
      exec (.jr la a) s = .next (s.applyRes (.trapped .align (s.srcReg a)))) ∧
    (s.Ready (.ret la) → s.Plain [31] → (s.srcReg 31).toNat % 8 = 0 →
      exec (.ret la) s = .next (s.branched (s.bundlePtr (s.srcReg 31)) true)) ∧
    (∀ k, s.Ready (.trap la a code) → s.Plain [a] → Cause.ofCode code.toNat = some k →
      exec (.trap la a code) s = .next (s.takeTrap k (s.srcReg a))) ∧
    (Cause.ofCode code.toNat = none → exec (.trap la a code) s = .next (s.takeTrap .illegal (s.unit.word.zeroExtend 64)))

/-- R330, R331: `LOOP` asks for a level over the next `n` bundles, which is made at the end of its bundle; two levels in use, the count register
of the level in use, or a body that ends beyond it, are ILLEGAL, and a bound register is STREAM. A `LOOP` in a paired bundle keeps the
count it read at issue, a lone one has the register read at the end of the bundle (the model's reading: log entry 8). A count of 0, as in
`s0`, skips the body; any other enters it with its level inside the levels in use. At the end of its last bundle the innermost level counts
down and control goes to its first bundle, or, with the last pass done, it is left with a count of 0 and the level around it acts in turn. -/
def Obligations.Loops : Prop :=
  (∀ (s : State) (la : BitVec 4) (a : Reg) (n : BitVec 10), s.Ready (.loop la a n) →
    let l : LoopLevel := ⟨s.bundleAt s.me.ctx.pc 1, s.bundleAt s.me.ctx.pc n.toNat, a⟩
    (s.Plain [a] → levelFits l s.me.ctx.levels = true → s.unit.paired = false →
      exec (.loop la a n) s = .next (s.modCtx fun c => { c with loopReq := c.loopReq ++ [⟨l, none⟩] })) ∧
    (s.Plain [a] → levelFits l s.me.ctx.levels = true → s.unit.paired = true →
      exec (.loop la a n) s = .next (s.modCtx fun c => { c with loopReq := c.loopReq ++ [⟨l, some (s.srcReg a)⟩] })) ∧
    (s.Plain [a] → levelFits l s.me.ctx.levels = false →
      exec (.loop la a n) s = .next (s.takeTrap .illegal (s.unit.word.zeroExtend 64))) ∧
    (∀ i b, s.me.ctx.bindOf a.toNat = some (i, b) →
      exec (.loop la a n) s = .next (s.takeTrap .stream (BitVec.ofNat 64 b.code)))) ∧
  (∀ (l x y : LoopLevel) (zs : List LoopLevel), levelFits l [] = true ∧
    (levelFits l [x] = true ↔ x.cnt ≠ l.cnt ∧ l.last.toNat ≤ x.last.toNat) ∧ levelFits l (x :: y :: zs) = false) ∧
  (∀ (s : State) (r : LoopReq) (c : Ctx) (q : Word),
    let v := match r.count with
      | some v => v
      | none => c.reg r.level.cnt
    (v = 0 → pushLoops s [r] (c, q) = (c, s.bundleAt r.level.last 1)) ∧
    (v ≠ 0 → pushLoops s [r] (c, q) = ({ c with loops := r.level :: c.loops }, r.level.first)) ∧
    (r.count = none → r.level.cnt = 0 → v = 0)) ∧
  (∀ (c : Ctx) (l : LoopLevel) (ls : List LoopLevel) (pc : Word),
    (l.last ≠ pc → endLoops pc (l :: ls) c = ({ c with loops := l :: ls }, none)) ∧
    (l.last = pc → 2 ≤ (c.reg l.cnt).toNat →
      endLoops pc (l :: ls) c = ({ c.setReg l.cnt (c.reg l.cnt - 1) with loops := l :: ls }, some l.first)) ∧
    (l.last = pc → (c.reg l.cnt).toNat ≤ 1 → endLoops pc (l :: ls) c = endLoops pc ls (c.setReg l.cnt 0)) ∧
    endLoops pc [] c = ({ c with loops := [] }, none)) ∧
  (∀ (s : State) (r : LoopReq), s.me.ctx.loops = [] → s.me.ctx.loopReq = [r] →
    let v := match r.count with
      | some v => v
      | none => s.me.ctx.reg r.level.cnt
    let t := s.endBundle
    t.me.ctx.loopReq = [] ∧ t.me.ctx.slot = false ∧ t.me.ctx.regs = s.me.ctx.regs ∧ t.mem = s.mem ∧
    (v = 0 → t.me.ctx.pc = s.bundleAt r.level.last 1 ∧ t.me.ctx.loops = []) ∧
    (v ≠ 0 → t.me.ctx.pc = r.level.first ∧ t.me.ctx.loops = [r.level]))

/-- R286, R303: `CHUNK` ends the chunk after it, and `FENCE` does so once every outside access is performed and none has failed. -/
def Obligations.ChunkAndFence : Prop :=
  ∀ (s : State) (la : BitVec 4),
    (s.Ready (.chunk la) → exec (.chunk la) s = .next { s with unit := { s.unit with ends := true } }) ∧
    (s.Ready (.fence la) → s.me.err = none → s.allPerformed = true →
      exec (.fence la) s = .next { s with unit := { s.unit with ends := true } })

/-! ## Traps and handlers -/

/-- R188, R190, R191: a trap that is not fatal, with no chunk open and no late result in flight: `TPC` holds the unit, `TVAL` the value,
`TCAUSE` the code, `s24`–`s31` are banked with `s24` = `TVAL` and `s25` = `TPC`, and the handler starts at `TVEC` at system privilege.
The other registers, the tiles, every handler register it does not name, and all of memory are as before. The stream bindings stay in the
handler (the model's reading: log entry 45), and the loop levels are set aside (R332; when exactly: log entry 65). PARITY, HANG, any trap with
`TVEC` = 0 and any trap inside the trap handler are fatal. -/
def Obligations.TrapEntry : Prop :=
  (∀ (c : Ctx) (k : Cause), c.fatal k = true ↔ k = .parity ∨ k = .hang ∨ c.tvec = 0 ∨ c.tin = true) ∧
  ∀ (s : State) (k : Cause) (v : Word), s.me.chunk = {} → s.me.ctx.lates = [] → s.me.ctx.fatal k = false →
    let t := s.takeTrap k v
    t.me.ctx.tin = true ∧ t.me.ctx.pc = s.bundlePtr s.me.ctx.tvec ∧ t.me.ctx.slot = false ∧
    t.me.ctx.tpc = s.unitPtr ∧ t.me.ctx.tval = v ∧ t.me.ctx.cause = BitVec.ofNat 8 k.code ∧ t.me.ctx.dbl = false ∧
    t.me.ctx.reg 24 = v ∧ t.me.ctx.reg 25 = s.unitPtr ∧ t.me.ctx.trapSave = s.me.ctx.upper ∧
    (∀ r : Reg, r.toNat < 24 → t.me.ctx.reg r = s.me.ctx.reg r) ∧ t.me.ctx.tiles = s.me.ctx.tiles ∧
    t.me.ctx.tvec = s.me.ctx.tvec ∧ t.me.ctx.uimask = s.me.ctx.uimask ∧ t.me.ctx.binds = s.me.ctx.binds ∧
    t.me.ctx.loops = [] ∧ t.me.ctx.aside = (s.me.ctx.loops, s.me.ctx.loopReq) :: s.me.ctx.aside ∧
    t.me.act = .running ∧ t.mem = s.mem ∧ t.others = s.others ∧ t.jobs = s.jobs ∧ t.host = s.host

/-- R192, R382, R60, R332: `TRET` in the trap handler gives back `s24`–`s31`, the loop levels and user privilege and goes to the unit that
`TPC` names; in the user interrupt handler it gives back that handler's bank and levels. The levels are those that the entry set aside; a
`LOOP` of the unfinished bundle waits on only where its own bundle resumes in its second word (the exchange: log entry 65). -/
def Obligations.TrapReturn : Prop :=
  ∀ (s : State) (la : BitVec 4), s.Ready (.tret la) →
    (s.me.ctx.tin = true → exec (.tret la) s = .next s.trapReturn ∧
      s.trapReturn.me.ctx.tin = false ∧ s.trapReturn.me.ctx.upper = s.me.ctx.trapSave ∧
      s.trapReturn.unit.taken = some (s.bundlePtr s.me.ctx.tpc, wbit s.me.ctx.tpc 2) ∧
      (∀ r : Reg, r.toNat < 24 → s.trapReturn.me.ctx.reg r = s.me.ctx.reg r) ∧
      s.trapReturn.me.ctx.tcause = s.me.ctx.tcause - 2 ^ 11 ∧ s.trapReturn.mem = s.mem ∧
      ∀ x xs, s.me.ctx.aside = x :: xs → s.trapReturn.me.ctx.loops = x.1 ∧ s.trapReturn.me.ctx.aside = xs ∧
        s.trapReturn.me.ctx.loopReq = x.2.filter fun r =>
          wbit s.me.ctx.tpc 2 && r.level.first == s.bundleAt (s.bundlePtr s.me.ctx.tpc) 1) ∧
    (s.me.ctx.tin = false → s.me.ctx.uiin = true → exec (.tret la) s = .next s.interruptReturn ∧
      s.interruptReturn.me.ctx.uiin = false ∧ s.interruptReturn.me.ctx.upper = s.me.ctx.uiSave ∧
      s.interruptReturn.unit.taken = some (s.bundlePtr s.me.ctx.uiPc, wbit s.me.ctx.uiPc 2) ∧
      (∀ r : Reg, r.toNat < 24 → s.interruptReturn.me.ctx.reg r = s.me.ctx.reg r) ∧ s.interruptReturn.mem = s.mem ∧
      ∀ x xs, s.me.ctx.aside = x :: xs → s.interruptReturn.me.ctx.loops = x.1 ∧ s.interruptReturn.me.ctx.aside = xs ∧
        s.interruptReturn.me.ctx.loopReq = x.2.filter fun r =>
          wbit s.me.ctx.uiPc 2 && r.level.first == s.bundleAt (s.bundlePtr s.me.ctx.uiPc) 1) ∧
    (s.me.ctx.tin = false → s.me.ctx.uiin = false →
      exec (.tret la) s = .next (s.takeTrap .illegal (s.unit.word.zeroExtend 64)))

/-- R317: `HCALL` at system privilege, with its core's cell free and everything earlier performed, posts the code and the argument, sets
`HPEND` and sends MSI-X vector 1; inside an open chunk it first ends that chunk and keeps the operand it has read; at user privilege it takes
PRIV. -/
def Obligations.HostCall : Prop :=
  ∀ (s : State) (la : BitVec 4) (a : Reg) (c : BitVec 10), s.Ready (.hcall la a c) →
    (s.me.ctx.tin = false → exec (.hcall la a c) s = .next (s.takeTrap .priv (s.unit.word.zeroExtend 64))) ∧
    (s.me.ctx.tin = true → s.Plain [a] → s.me.chunk.count = 0 → s.me.err = none → s.allPerformed = true →
      (s.core s.cur.core).hpend = false →
      ∃ t, exec (.hcall la a c) s = .next t ∧ (t.core s.cur.core).hpend = true ∧ (t.core s.cur.core).hcode = c ∧
        (∀ v, s.me.mark = .value v → (t.core s.cur.core).harg = v) ∧
        ((∀ v, s.me.mark ≠ .value v) → (t.core s.cur.core).harg = s.srcReg a) ∧
        t.host.msix = s.host.msix ++ [1] ∧ t.me.ctx = s.me.ctx ∧ t.mem = s.mem) ∧
    (s.me.ctx.tin = true → s.Plain [a] → s.me.chunk.count ≠ 0 → s.me.err = none → s.me.mark = .none →
      exec (.hcall la a c) s = .next (s.applyRes (.keeping (s.srcReg a))) ∧
        (s.applyRes (.keeping (s.srcReg a))).me.mark = .value (s.srcReg a) ∧
        (s.applyRes (.keeping (s.srcReg a))).me.chunk.ended = true)


/-! ## Tile instructions -/

/-- R387, R388, R389, R398, R401, R402, R404, R405, R411, R413, R415, R416: arithmetic, logic and selection lane by lane on rows f to
f + n. The next state is the old one with those rows of td written: every other row, every register and memory are as before. R48, R387: lane `j` of a result row is the lane operation on lanes `j` of its sources; integer sums, differences and products wrap at
the lane's width. -/
def Obligations.VectorArithmetic : Prop :=
  (∀ (s : State) (td ta tb : TReg) (n f : BitVec 3) (lt : LaneTy) (k : ShiftKind), s.PlainTiles [td, ta, tb] →
    let x := s.srcRows ta f.toNat (n.toNat + 1)
    let y := s.srcRows tb f.toNat (n.toNat + 1)
    let z := s.srcRows td f.toNat (n.toNat + 1)
    let w (i : Instr) (rows : List Row) : Prop := s.Ready i → exec i s = .next (s.withRows td f.toNat rows)
    w (.vadd td ta tb n f lt) (List.zipWith (rows2 lt (laneAdd lt)) x y) ∧
    w (.vsub td ta tb n f lt) (List.zipWith (rows2 lt (laneSub lt)) x y) ∧
    w (.vmul td ta tb n f lt) (List.zipWith (rows2 lt (laneMul lt)) x y) ∧
    w (.vmin td ta tb n f lt) (List.zipWith (rows2 lt (laneMin lt)) x y) ∧
    w (.vmax td ta tb n f lt) (List.zipWith (rows2 lt (laneMax lt)) x y) ∧
    w (.vand td ta tb n f lt) (List.zipWith (fun a b => a &&& b) x y) ∧
    w (.vor td ta tb n f lt) (List.zipWith (fun a b => a ||| b) x y) ∧
    w (.vxor td ta tb n f lt) (List.zipWith (fun a b => a ^^^ b) x y) ∧
    w (.vshl td ta tb n f lt k) (List.zipWith (rows2 lt (laneShift k lt.width)) x y) ∧
    w (.vfma td ta tb n f lt) (zip3 (rows3 lt (laneFma lt)) x y z) ∧
    w (.vsel td ta tb n f lt) (zip3 (fun a b m => (m &&& a) ||| (~~~m &&& b)) x y z)) ∧
  (∀ (lt : LaneTy) (x y : Row) (j : Nat), j < lt.lanes →
    (∀ g : Nat → Nat → Nat, laneOf lt.width (rows2 lt g x y) j = g (laneOf lt.width x j) (laneOf lt.width y j) % 2 ^ lt.width) ∧
    (lt.isFloat = false →
      laneAdd lt (laneOf lt.width x j) (laneOf lt.width y j) = (laneOf lt.width x j + laneOf lt.width y j) % 2 ^ lt.width ∧
      laneMul lt (laneOf lt.width x j) (laneOf lt.width y j) = laneOf lt.width x j * laneOf lt.width y j % 2 ^ lt.width ∧
      (laneSub lt (laneOf lt.width x j) (laneOf lt.width y j) + laneOf lt.width y j) % 2 ^ lt.width = laneOf lt.width x j))

/-- R380, R384, R386, R390, R392, R393, R395, R407, R409: copies, transposition, zeros, spreads, comparisons, conversions, dot products and
permutations of rows, with the same frame. -/
def Obligations.VectorMoves : Prop :=
  ∀ (s : State) (td ta tb : TReg) (n f : BitVec 3) (k : BitVec 4) (lt dst : LaneTy) (c : Cond) (r : Reg),
    s.PlainTiles [td, ta, tb] → s.Plain [r] →
    let x := s.srcRows ta f.toNat (n.toNat + 1)
    let y := s.srcRows tb f.toNat (n.toNat + 1)
    let old := (List.range (n.toNat + 1)).map fun q => s.me.ctx.row (rowIx td (f.toNat + q))
    let w (i : Instr) (rows : List Row) : Prop := s.Ready i → exec i s = .next (s.withRows td f.toNat rows)
    w (.tmov td ta n f lt) x ∧
    w (.ttrans td ta n f lt) (transpose lt x) ∧
    w (.tzero td n f lt) (List.replicate (n.toNat + 1) 0) ∧
    w (.vbcast td r n f lt) (List.replicate (n.toNat + 1) (spread lt (s.srcReg r).toNat)) ∧
    w (.vrep td ta k n f lt) (x.map fun a => spread lt (laneOf lt.width a k.toNat)) ∧
    w (.vcmp td ta tb n f lt c) (List.zipWith (rows2 lt (laneMask lt c)) x y) ∧
    w (.vcvt td ta k n f lt dst) (List.zipWith (convertRow lt dst k.toNat) x old) ∧
    w (.vperm td ta tb n f lt) (List.zipWith (permuteRow lt) x y) ∧
    w (.vdot td ta tb n f lt) [lane0 lt (reduceRows lt (laneAdd lt) (List.zipWith (rows2 lt (laneMul lt)) x y))]

/-- R397, R400: `VINS` replaces the lane of row f that register s + 1 names by the low bits of s and keeps every other lane; `VEXT` reads
that lane, sign-extended for an integer type and zero-extended for a floating one. -/
def Obligations.LaneInsertExtract : Prop :=
  ∀ (s : State) (td : TReg) (r : Reg) (f : BitVec 3) (lt : LaneTy), s.PlainTiles [td] → s.Plain [r, r + 1] →
    let j := (s.srcReg (r + 1)).toNat % lt.lanes
    (s.Ready (.vins td r f lt) → exec (.vins td r f lt) s = .next (s.withRows td f.toNat
      [putLanes lt.width (s.me.ctx.row (rowIx td f.toNat)) j [(s.srcReg r).toNat % 2 ^ lt.width]])) ∧
    (s.Ready (.vext td r f lt) → exec (.vext td r f lt) s = .next (s.withReg r
      (if lt.isFloat then BitVec.ofNat 64 (laneOf lt.width (s.srcRow (rowIx td f.toNat)) j)
        else BitVec.ofInt 64 (toSigned lt.width (laneOf lt.width (s.srcRow (rowIx td f.toNat)) j)))))

/-- R391, R399, R408, R410, R412, R414: with LA = 0 the long-latency tile instructions write their rows at once, after older
results of those rows; the flips of `VHAD` and
`VSIGN` take a seed of 0 where `s28` is 0. -/
def Obligations.VectorLong : Prop :=
  ∀ (s : State) (td ta : TReg) (n f : BitVec 3) (lt : LaneTy) (fn : SfuFn) (op : RedOp) (excl : Bool) (pts : HadN),
    s.PlainTiles [td, ta] → s.Plain [28, 29, 30] → s.srcReg 28 = 0 →
    let x := s.srcRows ta f.toNat (n.toNat + 1)
    let keys := (0, (s.srcReg 29).toNat, (s.srcReg 30).toNat)
    let w (i : Instr) (rows : List Row) : Prop := s.Ready i → exec i s = .next (s.nowRows td f.toNat rows)
    let v (i : Instr) (rows : List Row) : Prop := s.Ready i → exec i s = .next (s.withRows td f.toNat rows)
    w (.vsfu td ta 0 n f lt fn) (x.map fun r => rowOf lt.width ((lanesOf lt.width r).map (sfu fn (LaneFmt lt)))) ∧
    w (.vred td ta 0 n f lt op) [lane0 lt (reduceRows lt (redOp op lt) x)] ∧
    w (.vscan td ta 0 n f lt excl) (rowsFrom lt.width (n.toNat + 1) (scanAll (laneAdd lt) excl (elemsOf lt.width x))) ∧
    w (.vhad td ta 0 n f lt pts) (rowsFrom lt.width (n.toNat + 1) (hadamard pts (LaneFmt lt) keys (elemsOf lt.width x))) ∧
    v (.vsign td ta n f lt) (rowsFrom lt.width (n.toNat + 1)
      ((elemsOf lt.width x).mapIdx fun i v => if flipAt keys i then fNeg (LaneFmt lt) v else v))

/-- R68, R71, R72, R394, R396: `VDEC` decodes bytes through the core's own table and never traps on what it holds; `VENC` encodes through it, or
takes FPE with `TVAL` 1 while `TABBAD` is set. That the table's lines join the lines the chunk has read is the model's choice (log entry
74). -/
def Obligations.TableCodes : Prop :=
  ∀ (s : State) (td ta : TReg) (k : BitVec 4) (n f : BitVec 3) (lt : LaneTy), s.PlainTiles [td, ta] → s.rechecking = false →
    let x := s.srcRows ta f.toNat (n.toNat + 1)
    let old := (List.range (n.toNat + 1)).map fun q => s.me.ctx.row (rowIx td (f.toNat + q))
    (s.Ready (.vdec td ta k n f lt) → exec (.vdec td ta k n f lt) s = .next (s.noteTable.withRows td f.toNat (x.map fun r =>
      rowOf lt.width ((List.range lt.lanes).map fun j =>
        fConv .fp32 (LaneFmt lt) .rne (decode8 (s.tableEntry (laneOf 8 r (k.toNat * lt.lanes + j)))))))) ∧
    (s.Ready (.venc td ta k n f lt) → s.tabBad = false → exec (.venc td ta k n f lt) s = .next (s.noteTable.withRows td f.toNat
      (List.zipWith (fun r z => putLanes 8 z (k.toNat * lt.lanes)
        ((lanesOf lt.width r).map fun v => encode8 s.table (unpack (LaneFmt lt) v))) x old))) ∧
    (s.Ready (.venc td ta k n f lt) → s.tabBad = true → exec (.venc td ta k n f lt) s = .next (s.takeTrap .fpe 1))

/-- R391, R403: `VMPLD` writes consecutive slots of the micro-program store when every word may stand there, takes PRIV under `MPLK` at user
privilege, and otherwise takes ILLEGAL with the first word that may not stand there; `VCHAIN` writes the rows its passes make, at once with
LA = 0 and late with a window. That lanes kept by a narrowing conversion are those the row holds when the result lands is the model's reading
(log entry 85). -/
def Obligations.MicroPrograms : Prop :=
  ∀ (s : State) (first last : BitVec 4) (ta : TReg) (p n f : BitVec 3),
    let ws : List W32 := (elemsOf 32 (s.srcRows ta f.toNat (n.toNat + 1))).map (BitVec.ofNat 32 ·)
    let slots := (List.range (last.toNat - first.toNat + 1)).map fun k => slotOp s.me.ctx (first.toNat + k)
    (s.Ready (.vmpld first ta n f) → s.PlainTiles [ta] → (s.me.ctx.mplk = true → s.me.ctx.tin = true) →
      (∀ w ∈ ws, microWord w = true) →
      ∃ t, exec (.vmpld first ta n f) s = .next t ∧ t.me.ctx.regs = s.me.ctx.regs ∧ t.me.ctx.tiles = s.me.ctx.tiles ∧
        t.mem = s.mem ∧
        ∀ i : Fin 16, t.me.ctx.mp[i] =
          if first.toNat ≤ i.val ∧ i.val < first.toNat + ws.length then ws.getD (i.val - first.toNat) 0 else s.me.ctx.mp[i]) ∧
    (s.Ready (.vmpld first ta n f) → s.me.ctx.mplk = true → s.me.ctx.tin = false →
      exec (.vmpld first ta n f) s = .next (s.takeTrap .priv (s.unit.word.zeroExtend 64))) ∧
    (∀ w, s.Ready (.vmpld first ta n f) → s.PlainTiles [ta] → (s.me.ctx.mplk = true → s.me.ctx.tin = true) →
      ws.find? (fun w => !microWord w) = some w → exec (.vmpld first ta n f) s = .next (s.takeTrap .illegal (w.zeroExtend 64))) ∧
    (s.Ready (.vchain first last 0 p) → (∀ m ∈ slots, m.isSome = true) →
      (∀ m ∈ slots.filterMap id, m.f.toNat + p.toNat + (m.n.toNat + 1) ≤ 8) → (∀ t : TReg, s.PlainTiles [t]) →
      let rs := runChain s.srcRow (p.toNat + 1) (slots.filterMap id)
      exec (.vchain first last 0 p) s = .next (s.landNow (.lanes rs)) ∧
        (s.Clear (.lanes rs) → s.landNow (.lanes rs) =
          s.modCtx fun c => rs.foldl (fun c x => c.setRow x.1 (maskRow (c.row x.1) x.2.1 x.2.2)) c)) ∧
    (∀ la : BitVec 4, la ≠ 0 → s.Ready (.vchain first last la p) → (∀ m ∈ slots, m.isSome = true) →
      (∀ m ∈ slots.filterMap id, m.f.toNat + p.toNat + (m.n.toNat + 1) ≤ 8) → (∀ t : TReg, s.PlainTiles [t]) →
      exec (.vchain first last la p) s = .next (s.withLate (.lanes (runChain s.srcRow (p.toNat + 1) (slots.filterMap id))) la))

/-- R165, R356: `RESACC` of a strand in the RESID phase adds the residual of its rows to `RPART`; outside that phase, for a task and in the user
interrupt handler it is ILLEGAL. A residual still in flight joins first, since results of one destination land in program order (R99; log
entry 40). -/
def Obligations.Residual : Prop :=
  ∀ (s : State) (ta tb : TReg) (n f : BitVec 3) (lt : LaneTy), s.Ready (.resacc 0 ta tb n f lt) → s.PlainTiles [ta, tb] →
    let r := residualOf lt (s.srcRows ta f.toNat (n.toNat + 1)) (s.srcRows tb f.toNat (n.toNat + 1))
    let join (q : Option W32) (r : W32) : W32 := match q with
      | none => r
      | some q => BitVec.ofNat 32 (fAdd .fp32 .rne q.toNat r.toNat)
    (s.me.task = none → s.me.ctx.uiin = false → (s.job s.myJob).span.ph = 3 → s.Clear (.rpart r) →
      exec (.resacc 0 ta tb n f lt) s = .next (s.modCtx fun c => { c with rpart := some (join c.rpart r) })) ∧
    (∀ q k, s.me.task = none → s.me.ctx.uiin = false → (s.job s.myJob).span.ph = 3 → s.me.ctx.lates = [⟨.rpart q, k⟩] →
      exec (.resacc 0 ta tb n f lt) s =
        .next (s.modCtx fun c => { c with lates := [], rpart := some (join (some (join c.rpart q)) r) })) ∧
    (s.me.task ≠ none ∨ s.me.ctx.uiin = true ∨ (s.job s.myJob).span.ph ≠ 3 →
      exec (.resacc 0 ta tb n f lt) s = .next (s.takeTrap .illegal (s.unit.word.zeroExtend 64)))


/-! ## Memory -/

/-- R295, R323: `LD` of 1, 2, 4 or 8 bytes reads its bytes, lowest address first, as its agent sees them, zero-extended, and leaves every byte of
memory and every other register as before: at once with LA = 0, after older results of its register, and with a window it waits among the
late results (R99). -/
def Obligations.LoadResult : Prop :=
  ∀ (s : State) (la : BitVec 4) (o : CmOrd) (d b : Reg) (sz : MSize) (x : BitVec 6) (pa : Nat),
    let n := MSizeBytes sz
    s.Ready (.ld la o d b sz x) → s.Plain [d, b] → s.unit.own = false →
    s.Reaches (ptrAdd (s.srcReg b) (x.toNat * n)) { rd := true, wr := false, n := n, align := n } pa →
    let v := leWord (s.viewBytes [(pa, n)])
    let u := s.loaded (o == .acq) (segLines [(pa, n)])
    (la = 0 → exec (.ld la o d b sz x) s = .next (u.nowReg d v)) ∧
    (la ≠ 0 → d ≠ 0 → exec (.ld la o d b sz x) s = .next (u.withLate (.scalar d v) la)) ∧
    (la ≠ 0 → d = 0 → exec (.ld la o d b sz x) s = .next u) ∧
    u.me.ctx = s.me.ctx ∧ u.mem = s.mem ∧ u.others = s.others

/-- R371, R106: `ST` writes the low bytes of its register, lowest address first. The bytes are held in the agent's chunk: committed memory
and every other agent are as before, and so is every byte outside the stored ones, and every register. -/
def Obligations.StoreResult : Prop :=
  ∀ (s : State) (la : BitVec 4) (o : CmOrd) (d b : Reg) (sz : MSize) (x : BitVec 6) (pa : Nat),
    let n := MSizeBytes sz
    s.Ready (.st la o d b sz x) → s.Plain [d, b] → (o = .rel → s.me.err = none) → s.Room pa n →
    s.Reaches (ptrAdd (s.srcReg b) (x.toNat * n)) { rd := false, wr := true, n := n, align := n } pa →
    ∃ t, exec (.st la o d b sz x) s = .next t ∧ t.viewBytes [(pa, n)] = wordBytes n (s.srcReg d) ∧ s.SameOutside t pa n ∧
      t.me.ctx = s.me.ctx ∧ t.mem = s.mem ∧ t.others = s.others ∧ t.host = s.host

/-- R87, R190, R189: a load or store whose checks fail takes the trap that the first failing check names, with the pointer in `TVAL`, and
has no other effect. An invalid entry is HANDLE before anything else, then comes alignment, then the bound. -/
def Obligations.AccessTraps : Prop :=
  (∀ (s : State) (la : BitVec 4) (o : CmOrd) (d b : Reg) (sz : MSize) (x : BitVec 6) (c : Cause),
    let n := MSizeBytes sz
    let p := ptrAdd (s.srcReg b) (x.toNat * n)
    s.Plain [d, b] →
    (s.Ready (.ld la o d b sz x) → s.check s.who p { rd := true, wr := false, n := n, align := n } = .error c →
      exec (.ld la o d b sz x) s = .next (s.takeTrap c p)) ∧
    (s.Ready (.st la o d b sz x) → (o = .rel → s.me.err = none) →
      s.check s.who p { rd := false, wr := true, n := n, align := n } = .error c →
      exec (.st la o d b sz x) s = .next (s.takeTrap c p))) ∧
  ∀ (s : State) (w : Who) (p : Word) (a : Acc),
    let e := s.handle w.asid (handleOf p)
    (hValid e = false → s.check w p a = .error .handle) ∧
    (stepHandle e (handleOf p) a = true → a.ali = true → stepAlign e p a = false → s.check w p a = .error .align) ∧
    (stepHandle e (handleOf p) a = true → (a.ali = true → stepAlign e p a = true) → hBound e < offsetOf p + a.n →
      s.check w p a = .error .bounds)

/-- R325, R373: `LDT` fills 1, 2, 4 or 8 rows from consecutive bytes, and `STT` writes its rows to them; the frame of each is that of `LD` and `ST`. -/
def Obligations.TileLoadStore : Prop :=
  ∀ (s : State) (la : BitVec 4) (o : CmOrd) (t : TReg) (b : Reg) (k : BitVec 2) (f e : BitVec 3) (pa : Nat),
    let n := 2 ^ k.toNat
    let p := ptrAdd (s.srcReg b) (16 * e.toNat)
    s.Plain [b] → s.PlainTiles [t] →
    (s.Ready (.ldt 0 o t b k f e) → s.unit.own = false →
      s.Reaches p { rd := true, wr := false, n := 16 * n, align := 16 } pa →
      exec (.ldt 0 o t b k f e) s = .next ((s.loaded (o == .acq) (segLines [(pa, 16 * n)])).nowRows t f.toNat
        (bytesToRows n (s.viewBytes [(pa, 16 * n)])))) ∧
    (s.Ready (.ldt la o t b k f e) → la ≠ 0 → s.unit.own = false →
      s.Reaches p { rd := true, wr := false, n := 16 * n, align := 16 } pa →
      exec (.ldt la o t b k f e) s = .next ((s.loaded (o == .acq) (segLines [(pa, 16 * n)])).withLate
        (.rows (indexRows t f.toNat (bytesToRows n (s.viewBytes [(pa, 16 * n)])))) la)) ∧
    (s.Ready (.stt la o t b k f e) → (o = .rel → s.me.err = none) → s.Room pa (16 * n) →
      s.Reaches p { rd := false, wr := true, n := 16 * n, align := 16 } pa →
      ∃ u, exec (.stt la o t b k f e) s = .next u ∧
        u.viewBytes [(pa, 16 * n)] = (s.srcRows t f.toNat n).flatMap (fun r => leBytes 16 r.toNat) ∧
        s.SameOutside u pa (16 * n) ∧ u.me.ctx = s.me.ctx ∧ u.mem = s.mem ∧ u.others = s.others)

/-- R304, R305, R324, R372, R111: the full tag of a word: read by `FEQ`, set or cleared by `FESET` with the data unchanged, cleared by `LDFE` as it
reads the word, set by `STFE` as it writes it. -/
def Obligations.FullEmpty : Prop :=
  ∀ (s : State) (la : BitVec 4) (o : CmOrd) (d b : Reg) (x : BitVec 6) (full : Bool) (pa : Nat), s.Plain [d, b] → s.Room pa 8 →
    let acc (rd wr : Bool) : Acc := { rd := rd, wr := wr, n := 8, align := 8, raw := true, spaces := [0, 1, 2] }
    let p := ptrAdd (s.srcReg b) (x.toNat * 8)
    (s.Ready (.ldfe la o d b x) → s.Reaches p (acc true true) pa → s.Clear (.scalar d 0) →
      let v := leWord (s.viewBytes [(pa, 8)])
      ∃ t, exec (.ldfe la o d b x) s = .next t ∧ t.viewTag pa = false ∧
        (la = 0 → t.me.ctx = s.me.ctx.setReg d v) ∧
        (la ≠ 0 → d ≠ 0 → t.me.ctx = { s.me.ctx with lates := s.me.ctx.lates ++ [⟨.scalar d v, la.toNat + 1⟩] }) ∧
        (∀ a, t.viewBytes [(a, 1)] = s.viewBytes [(a, 1)]) ∧ t.mem = s.mem ∧ ∀ a, a ≠ pa → t.viewTag a = s.viewTag a) ∧
    (s.Ready (.stfe la o d b x) → (o = .rel → s.me.err = none) → s.Reaches p (acc false true) pa →
      ∃ t, exec (.stfe la o d b x) s = .next t ∧ t.viewTag pa = true ∧ t.viewBytes [(pa, 8)] = wordBytes 8 (s.srcReg d) ∧
        s.SameOutside t pa 8 ∧ t.me.ctx = s.me.ctx ∧ t.mem = s.mem ∧ ∀ a, a ≠ pa → t.viewTag a = s.viewTag a) ∧
    (s.Ready (.feset la b full) → s.Reaches (s.srcReg b) (acc false true) pa →
      ∃ t, exec (.feset la b full) s = .next t ∧ t.viewTag pa = full ∧ (∀ a, a ≠ pa → t.viewTag a = s.viewTag a) ∧
        (∀ a, t.viewBytes [(a, 1)] = s.viewBytes [(a, 1)]) ∧ t.me.ctx = s.me.ctx ∧ t.mem = s.mem) ∧
    (s.Ready (.feq la d b) → s.Reaches (s.srcReg b) (acc true false) pa →
      exec (.feq la d b) s = .next ((s.noteReads (segLines [(pa, 8)])).withReg d (if s.viewTag pa then 1 else 0)))

/-- R94, R320, R353, R419: the cache hints change no register and no memory; `PREF` never traps on its address, `WBACK` and `INVAL` take the trap
of a failing check. -/
def Obligations.CacheHints : Prop :=
  ∀ (s : State) (la : BitVec 4) (a : Reg), s.Plain [a] →
    let acc : Acc := { rd := true, wr := false, n := 1, align := 1, ali := false, gen := false, cap := false }
    (s.Ready (.pref la a) → exec (.pref la a) s = .next s) ∧
    (∀ pl, s.check s.who (s.srcReg a) acc = .ok pl →
      (s.Ready (.wback la a) → exec (.wback la a) s = .next s) ∧ (s.Ready (.inval la a) → exec (.inval la a) s = .next s)) ∧
    (∀ c, s.check s.who (s.srcReg a) acc = .error c →
      (s.Ready (.wback la a) → exec (.wback la a) s = .next (s.takeTrap c (s.srcReg a))) ∧
      (s.Ready (.inval la a) → exec (.inval la a) s = .next (s.takeTrap c (s.srcReg a))))

/-- R52, R361, R362, R365, R370: `SBIND` binds a free generator to a free register as the descriptor says, or is ILLEGAL; `SFREE` frees it; `SSYNC`
reads its position, all ones when nothing is bound. -/
def Obligations.StreamControl : Prop :=
  ∀ (s : State) (la : BitVec 4) (a : Reg) (r : BitVec 5) (k : BitVec 2) (tile out : Bool) (pa : Nat), s.Plain [a] →
    let code := if tile then 32 + r.toNat else r.toNat
    let ws := leWords 8 (s.viewBytes [(pa, 64)])
    (s.Ready (.sbind la a r k tile out) → s.unit.own = false → (s.me.ctx.binds[k.toNat]'k.isLt) = none → s.me.ctx.bindOf code = none →
      s.Reaches (s.srcReg a) { rd := true, wr := false, n := 64, align := 64 } pa →
      (∀ b, bindingOf ws code tile out = some b → exec (.sbind la a r k tile out) s =
        .next ((s.noteReads (segLines [(pa, 64)])).modCtx fun c =>
          { c with binds := c.binds.set k.toNat (some b) k.isLt, dirty := c.dirty ||| 2 ^ (48 + k.toNat) })) ∧
      (bindingOf ws code tile out = none →
        exec (.sbind la a r k tile out) s = .next (s.takeTrap .illegal (s.unit.word.zeroExtend 64)))) ∧
    (s.Ready (.sfree la k) → (∀ b, (s.me.ctx.binds[k.toNat]'k.isLt) = some b → exec (.sfree la k) s = .next (s.modCtx fun c =>
      { c with binds := c.binds.set k.toNat none k.isLt, dirty := c.dirty ||| 2 ^ (48 + k.toNat) })) ∧
      ((s.me.ctx.binds[k.toNat]'k.isLt) = none → exec (.sfree la k) s = .next s)) ∧
    (s.Ready (.ssync la a k) → exec (.ssync la a k) s = .next (s.withReg a
      (match s.me.ctx.binds[k.toNat]'k.isLt with
        | some b => BitVec.ofNat 64 b.pos
        | none => BitVec.allOnes 64)))

/-- R52, R339, R362: `MOV` from a register bound for input takes the next element and moves its generator by one; at the end of the stream it
takes STREAM with the register's code; into a register bound for output it appends one element. -/
def Obligations.StreamElements : Prop :=
  ∀ (s : State) (d a : Reg) (i : Fin 4) (b : Binding) (pa : Nat), s.Ready (.mov d a) →
    (s.Plain [d] → d ≠ 0 → s.unit.own = false → s.unit.popped = [] → s.me.ctx.bindOf a.toNat = some (i, b) →
      b.out = false → b.pos < b.cnt →
      s.Reaches (b.ptr b.pos) { rd := true, wr := false, n := b.esz, align := b.esz } pa →
      ∃ t, exec (.mov d a) s = .next t ∧ t.me.ctx.reg d = extend b.esz b.sgn (leNat (s.viewBytes [(pa, b.esz)])) ∧
        (t.me.ctx.binds[i]) = some { b with pos := b.pos + 1 } ∧ t.mem = s.mem) ∧
    (s.unit.popped = [] → s.me.ctx.bindOf a.toNat = some (i, b) → b.out = false → b.cnt ≤ b.pos →
      exec (.mov d a) s = .next (s.takeTrap .stream (BitVec.ofNat 64 b.code))) ∧
    (s.Plain [a] → s.me.ctx.bindOf d.toNat = some (i, b) → b.out = true → b.pos < b.cnt → s.Room pa b.esz →
      s.Reaches (b.ptr b.pos) { rd := false, wr := true, n := b.esz, align := b.esz } pa →
      ∃ t, exec (.mov d a) s = .next t ∧ t.viewBytes [(pa, b.esz)] = wordBytes b.esz (s.srcReg a) ∧
        (t.me.ctx.binds[i]) = some { b with pos := b.pos + 1 } ∧ t.me.ctx.regs = s.me.ctx.regs ∧ t.mem = s.mem)

/-- R106, R107: the grant of a chunk makes its held bytes visible, and no other byte changes; a new chunk has no held bytes (bytes of a READY or
RUNNING record are another matter: R31). R109: a squash restores the checkpoint, discards the chunk's held bytes and halves the chunk limit down to 1. -/
def Obligations.Chunks : Prop :=
  (∀ s : State, s.me.chunk.count ≠ 0 → tabSorted s.me.chunk.held = true → s.me.chunk.stats = [] →
    s.hitRecs (s.me.chunk.held.map fun x => (x.1, 1)) = [] →
    (∀ a, byteAt s.grant.mem.bytes a = (tabGet a s.me.chunk.held).getD (byteAt s.mem.bytes a)) ∧
    s.grant.me.chunk = {} ∧ s.grant.me.ctx = { s.me.ctx with dirty := s.grant.me.ctx.dirty } ∧
    ∀ k g, (k, g) ∈ s.others → g.conflicts s.me.chunk.writes = false → (k, g) ∈ s.grant.others) ∧
  (∀ g : Agent, g.squash.chunk.held = [] ∧ g.squash.chunk.count = 0 ∧ g.squash.chunk.limit = max 1 (g.chunk.limit / 2) ∧
    g.squash.ctx.regs = g.chunk.ckpt.regs ∧ g.squash.ctx.tiles = g.chunk.ckpt.tiles ∧ g.squash.ctx.pc = g.chunk.ckpt.pc ∧
    g.squash.ctx.lates = g.chunk.ckpt.lates ∧ g.squash.ctx.uip = g.chunk.ckpt.uip ||| g.raised)

/-! ## Atomics -/

/-- R262, R266, R267, R268, R269, R272, R273, R276: an atomic reads its old value, writes the new one at once in committed memory and returns the
old one in d, late with a window (R99); nothing else in memory and no other register changes. `ACAS` writes only where the old value is the expected one. -/
def Obligations.Atomics : Prop :=
  ∀ (s : State) (la : BitVec 4) (o : BitVec 3) (d a v : Reg) (wd : AWidth) (m : MMVar) (op : BitOp) (pa : Nat),
    s.Plain [d, a, v] → (codeReleases o = true → s.me.err = none) →
    let x := (s.srcReg v).toNat
    let does (i : Instr) (n : Nat) (f : Nat → Nat) (signed : Bool) : Prop :=
      s.Ready i → s.Alone pa n →
      s.Reaches (s.srcReg a) { rd := true, wr := true, n := n, align := n, raw := true, spaces := [0, 1, 2, 4] } pa →
      let old := leNat (bytesAt s.mem.bytes pa n)
      let w := widenOld n signed old
      ∃ t, exec i s = .next t ∧ bytesAt t.mem.bytes pa n = leBytes n (f old) ∧ s.SameOutside t pa n ∧
        t.me.ctx = (if la = 0 ∨ d = 0 then s.me.ctx.setReg d w else { s.me.ctx with lates := [⟨.scalar d w, la.toNat + 1⟩] }) ∧
        t.mem.tags = s.mem.tags ∧ t.host = s.host
    does (.aadd la o d a v wd) (AWidthBytes wd) (fun old => (old + x) % 2 ^ (8 * AWidthBytes wd)) false ∧
    does (.aagg la o d a v wd) (AWidthBytes wd) (fun old => (old + x) % 2 ^ (8 * AWidthBytes wd)) false ∧
    does (.aswap la o d a v wd) (AWidthBytes wd) (fun _ => x % 2 ^ (8 * AWidthBytes wd)) false ∧
    does (.acas la o d a v wd) (AWidthBytes wd) (fun old =>
      if old = (s.srcReg d).toNat % 2 ^ (8 * AWidthBytes wd) then x % 2 ^ (8 * AWidthBytes wd) else old) false ∧
    does (.amin la o d a v m) (MMVarBytes m) (fun old => minMaxOld m false old (s.srcReg v)) (m == .ws) ∧
    does (.amax la o d a v m) (MMVarBytes m) (fun old => minMaxOld m true old (s.srcReg v)) (m == .ws) ∧
    does (.abit la o d a v op) 8 (fun old => bitOld op old (s.srcReg v)) false

/-- R113, R271: `AFADD` in its turn adds to the accumulator, counts its number and returns the sum; a number already passed is SEQGAP; a number whose turn
has not come puts its agent to sleep. -/
def Obligations.OrderedFloatAdd : Prop :=
  ∀ (s : State) (la : BitVec 4) (o : BitVec 3) (d a v : Reg) (fm : FFmt) (pa : Nat),
    s.Ready (.afadd la o d a v fm) → s.Plain [d, a, v] → (codeReleases o = true → s.me.err = none) → s.me.mark = .none →
    s.Alone pa 16 → (∀ kg ∈ s.others, kg.2.heldAdd = none) →
    s.Reaches (s.srcReg a) { rd := true, wr := true, n := 16, align := 16, raw := true, cap := false, spaces := [0] } pa →
    let f := ffmtOf fm
    let sum := fAdd f .rne (s.peek pa (f.width / 8)) ((s.srcReg v).toNat % 2 ^ f.width)
    (s.srcReg d = BitVec.ofNat 64 (s.peek (pa + 8) 8) →
      ∃ t, exec (.afadd la o d a v fm) s = .next t ∧ bytesAt t.mem.bytes pa (f.width / 8) = leBytes (f.width / 8) sum ∧
        bytesAt t.mem.bytes (pa + 8) 8 = leBytes 8 (s.peek (pa + 8) 8 + 1) ∧
        t.me.ctx = (if la = 0 ∨ d = 0 then s.me.ctx.setReg d (BitVec.ofNat 64 sum)
          else { s.me.ctx with lates := [⟨.scalar d (BitVec.ofNat 64 sum), la.toNat + 1⟩] }) ∧ s.SameOutside t pa 16) ∧
    ((s.srcReg d).toNat < s.peek (pa + 8) 8 →
      exec (.afadd la o d a v fm) s = .next (s.takeTrap .seqgap (s.srcReg a))) ∧
    (s.peek (pa + 8) 8 < (s.srcReg d).toNat →
      ∃ t, exec (.afadd la o d a v fm) s = .next t ∧
        t.me.act = .asleep (.hold pa fm (s.srcReg v) (s.srcReg d).toNat (s.srcReg a) o) s.now ∧ t.mem = s.mem ∧ t.me.ctx = s.me.ctx)

/-! ## Handle entries and statistics -/

/-- R86, R318, R319: `HTLD` stores the entry in force; `HTWR` writes an entry without its reserved bits (R2, R85), which is in force at once and whose capability is
FREE where the entry tracks one; an entry below 0x800 takes PRIV at user privilege, and entry 0xFFF HANDLE. R83, R383: `TSFLUSH` empties the core's statistics, whose headers pass their checks, and changes no register; each count is added to its header and
saturates. -/
def Obligations.HandlesAndStatistics : Prop :=
  (∀ (s : State) (la : BitVec 4) (a b : Reg) (pa : Nat), s.Plain [a, b] →
    let h := handleOf (s.srcReg a)
    let e := leWords 4 (s.viewBytes [(pa, 32)])
    (s.Ready (.htld la a b) → s.Room pa 32 → s.Reaches (s.srcReg b) { rd := false, wr := true, n := 32, align := 32, raw := true } pa →
      (s.handle s.me.asid h).length = 4 →
      ∃ t, exec (.htld la a b) s = .next t ∧ t.viewBytes [(pa, 32)] = (s.handle s.me.asid h).flatMap (wordBytes 8) ∧
        s.SameOutside t pa 32 ∧ t.me.ctx = s.me.ctx ∧ t.mem = s.mem) ∧
    (s.Ready (.htwr la a b) → h ≠ 0xFFF → (h < 0x800 → s.me.ctx.tin = true) → s.Alone (s.entryAddr s.me.asid h) 32 →
      s.Reaches (s.srcReg b) { rd := true, wr := false, n := 32, align := 32, raw := true } pa →
      s.ownedAny (segLines [(s.entryAddr s.me.asid h, 32)]) = false → s.entryAddr s.me.asid h + 32 ≤ s.hbmsz →
      ∃ t, exec (.htwr la a b) s = .next t ∧ t.handle s.me.asid h = maskEntry e ∧ t.me.ctx = s.me.ctx ∧
        tabGet (s.me.asid * 4096 + h) t.caps = (if hCapt e then some .free else none) ∧
        s.SameOutside t (s.entryAddr s.me.asid h) 32) ∧
    (s.Ready (.htwr la a b) → s.me.chunk.count = 0 → h < 0x800 → s.me.ctx.tin = false →
      exec (.htwr la a b) s = .next (s.takeTrap .priv (s.unit.word.zeroExtend 64))) ∧
    (s.Ready (.htwr la a b) → s.me.chunk.count = 0 → h = 0xFFF →
      exec (.htwr la a b) s = .next (s.takeTrap .handle (s.srcReg a))) ∧
    (hBound (maskEntry e) = wbits (wordAt e 1) 0 52 ∧ wbits (wordAt (maskEntry e) 1) 52 12 = 0 ∧
      wbits (wordAt (maskEntry e) 2) 49 15 = 0 ∧ wbit (wordAt (maskEntry e) 2) 15 = false ∧ hBase (maskEntry e) = hBase e ∧
      hThp (maskEntry e) = hThp e ∧ wbits (wordAt (maskEntry e) 2) 0 15 = wbits (wordAt e 2) 0 15 ∧
      wbits (wordAt (maskEntry e) 2) 16 33 = wbits (wordAt e 2) 16 33)) ∧
  (∀ (s : State) (la : BitVec 4),
    (s.Ready (.tsflush la) → s.me.chunk = {} → s.statTrap s.who (s.core s.cur.core).stats = none →
      s.ownedNot none (s.statLines s.who (s.core s.cur.core).stats) = false →
      s.reservedAny (s.statLines s.who (s.core s.cur.core).stats) = false →
      ∃ t, exec (.tsflush la) s = .next t ∧ (t.core s.cur.core).stats = [] ∧ t.me.ctx = s.me.ctx) ∧
    (∀ (w : Who) (x : Stat) (o n pa : Nat), s.statPlace w x o = .ok [(pa, 8)] → pa + 8 ≤ 2 ^ 44 → s.hitRecs [(pa, 8)] = [] →
      bytesAt (s.addCount w x o n).mem.bytes pa 8 = leBytes 8 (min (leNat (bytesAt s.mem.bytes pa 8) + n) (2 ^ 64 - 1)) ∧
      ∀ a, a < pa ∨ pa + 8 ≤ a → byteAt (s.addCount w x o n).mem.bytes a = byteAt s.mem.bytes a))


/-! ## The decoder, the step and the invariant -/

/-- R223, R227–R230, R239–R242: words written out from the encodings of the manual, of each class and format, decode to the instructions they
stand for; bit 31 takes no part; and a function that is not assigned decodes to nothing. -/
def Obligations.DecodeWords : Prop :=
  decodeWord 0x0F000000 = .ok (.fence 0) ∧ decodeWord 0x01FFFFFF = .ok (.branch (-1)) ∧
    decodeWord 0x03484FFD = .ok (.bcc .lt 8 9 0x7FD) ∧ decodeWord 0x90018A84 = .ok (.ld 0 .rlx 12 10 .w 4) ∧
    decodeWord 0x9C0E531D = .ok (.acas 0 7 5 6 7 .w) ∧ decodeWord 0xA6001C10 = .ok (.gsend 0 7 1) ∧
    decodeWord 0xD3193FF0 = .ok (.lea 3 4 (-16)) ∧ decodeWord 0xDB190A11 = .ok (.fcmp 3 4 5 .lt .fp64) ∧
    decodeWord 0x64123631 = .ok (.vmax 1 2 3 3 0 .fp32) ∧ (decodeWord 0x64123632).toOption = none ∧
    decodeWord 0x21012345 = decodeWord 0xA1012345

/-- R223, R227–R231: for every well-formed instruction, with every operand at every value its encoding admits, the word that encodes it
decodes to it. Events have no word. -/
def Obligations.RoundTrip : Prop :=
  ∀ i : Instr, i.isEvent = false → i.wf = true → decodeWord (encode i) = .ok i

/-- R224, R225, R226, R244: a step of an agent that issues fetches the bundle at its position, decodes its word and runs it, as the lone word of a
half-used bundle or as the pair of a full one, and then moves on; a turn of an event runs that event. That a bundle is read again for its second
word, what a fetch pins, and that it is no read of the chunk are the model's readings (log entry 38); that a pair whose word 0 is the last
arrival at a `BAR` or `VOTE` goes on with its next issue is another (log entry 40), and such a pair is left out here. -/
def Obligations.StepRunsWord : Prop :=
  (∀ (s c : State) (bs : List Byte) (i : Instr), s.Issues →
    let u := ({ s with now := s.now + 10, unit := { second := s.me.ctx.slot } }).openChunk
    let w := if s.me.ctx.slot then leNat bs / 2 ^ 32 else leNat bs % 2 ^ 32
    fetchM u = .ok (.ok bs, c) → leNat bs % 2 ^ 32 / 2 ^ 31 = 1 → (s.me.ctx.slot = true → w / 2 ^ 31 = 0) → decodeWord w = .ok i →
    step s = match exec i (c.withWord w s.me.ctx.slot) with
      | .next t => .next (if t.unit.res ≠ .done then t
          else if t.unit.own = true ∧ t.grantWaits = true then c.dropBundle (t.endAs .stalled) w s.me.ctx.slot else t.finishUnit 1)
      | o => o) ∧
  (∀ (s c t x y : State) (bs : List Byte) (i j : Instr), s.Issues →
    let u := ({ s with now := s.now + 10, unit := { second := s.me.ctx.slot } }).openChunk
    let v := ({ c with unit := { c.unit with paired := true, view := some (c.me.ctx.regs, c.me.ctx.tiles) } }).withWord (leNat bs % 2 ^ 32) false
    fetchM u = .ok (.ok bs, c) → leNat bs % 2 ^ 32 / 2 ^ 30 = 0 → leNat bs / 2 ^ 32 / 2 ^ 30 = 1 →
    (c.me.chunk.count = 0 ∨ c.me.chunk.count + 2 ≤ c.me.chunk.limit) →
    decodeWord (leNat bs % 2 ^ 32) = .ok i → decodeWord (leNat bs / 2 ^ 32) = .ok j →
    exec i v = .next t → t.unit.res = .done → lastArrival v t = false →
    let a := if y.unit.own = true ∧ t.unit.own = false then t.ageLates.inPlace else t.ageLates
    exec j (t.ageLates.withWord (leNat bs / 2 ^ 32) true) = .next y → y.unit.res = .done →
    exec j (a.withWord (leNat bs / 2 ^ 32) true) = .next x → x.unit.res = .done →
    ((x.unit.own = true → x.grantWaits = false) → step s = .next (x.finishUnit 2)) ∧
    (x.unit.own = true → x.grantWaits = true → step s = .next (v.dropBundle (x.endAs .stalled) (leNat bs / 2 ^ 32) true))) ∧
  (∀ (s : State) (ns : Nat) (ts : List Turn) (i : Instr), s.turns = ⟨ns, [], .event i⟩ :: ts → s.dev.failing = false → s.dev.fault = false → i.isEvent = true →
    step s = exec i { s with turns := ts, now := s.now + ns }) ∧
  (∀ (t : State) (n : Nat), t.me.ctx.lates = [] → t.unit.own = false → t.unit.ends = false → t.me.chunk.count + n < t.me.chunk.limit →
    t.me.ctx.loops = [] → t.me.ctx.loopReq = [] →
    let f := t.finishUnit n
    (∀ q b, t.unit.taken = some (q, b) → f.me.ctx.pc = q ∧ f.me.ctx.slot = b) ∧
    (t.unit.taken = none → t.unit.paired = false → t.unit.second = false → f.me.ctx.pc = t.me.ctx.pc ∧ f.me.ctx.slot = true) ∧
    (t.unit.taken = none → (t.unit.paired = true ∨ t.unit.second = true) →
      f.me.ctx.pc = t.bundleAt t.me.ctx.pc 1 ∧ f.me.ctx.slot = false) ∧
    f.me.chunk.count = t.me.chunk.count + n ∧ f.me.ctx.regs = t.me.ctx.regs ∧ f.me.ctx.tiles = t.me.ctx.tiles ∧ f.mem = t.mem ∧
    f.others = t.others)

/-- Memory stays in its canonical form, whatever a step does: addresses rise, no entry repeats what an unlisted address reads as, and the full tags
are a rising list. The canonical form is the model's own way of holding memory (log entry 3). -/
def Obligations.StepKeepsInv : Prop :=
  ∀ s t : State, s.Inv → step s = .next t → t.Inv

/-- R49, R61, R122, R145, R215: the values the manual gives at package reset: `TICK` 0, every twin-window cell 0, the previous sequence number 0,
every licence FREE and untransferred, the registers of the host window 0; and memory is in its canonical form. -/
def Obligations.ResetState : Prop :=
  State.reset.Inv ∧ State.reset.tick = 0 ∧ (∀ k, tabGet k State.reset.twins = none) ∧ State.reset.ord.prevSeq = 0 ∧
    (∀ k, State.reset.licst k = 0) ∧ State.reset.host.bootst = 0 ∧ State.reset.host.herr = 0 ∧ State.reset.host.hcmd = List.replicate 8 0 ∧
    State.reset.host.hres = 0 ∧ (∀ a i, State.reset.pdWord a i = 0) ∧ (∀ k, tabGet k State.reset.streams = none) ∧
    (∀ c, (State.reset.core c).hpend = false) ∧ State.reset.tabBad = false ∧ State.reset.me.ctx.uimask = 0

/-! ## Waiting, barriers and tasks -/

/-- R34, R35, R36, R38, R417: a `WAIT` whose kind words are legal reads its conditions from committed state, as a chunk of its own. When its mode
is met it completes at once and its result register receives the mask of true conditions; with a limit of 0 it completes too, with bit 63 set;
otherwise its agent sleeps, with nothing changed, until its deadline, or for ever with a limit of all ones. A woken `WAIT` receives what woke it.
A kind word that is not assigned, or has a reserved bit set, is ILLEGAL with that word in `TVAL`; a descriptor list past `s31`, or one that holds
the result register, and a limit other than 0 in a handler, are ILLEGAL with the instruction word. That every kind is tested before any
reserved bit is the model's reading (log entry 10). -/
def Obligations.Waiting : Prop :=
  (∀ (s u : State) (yld any : Bool) (n : BitVec 2) (f t : Reg) (bs : List Bool),
    let k := 2 * (n.toNat + 1)
    let rs := (List.range k).map fun i => BitVec.ofNat 5 (f.toNat + i)
    let cs := descriptors (rs.map s.srcReg)
    let v := s.srcReg t
    s.Ready (.wait yld any n f t) → f.toNat + k ≤ 32 → (t.toNat < f.toNat ∨ f.toNat + k ≤ t.toNat) → s.Plain (t :: rs) →
    (∀ c ∈ cs, kindGood c.1 = true ∧ kindReserved c.1 = true ∧ (s.cur.kind ≠ .main → kindOf c.1 ≤ 4)) →
    (s.me.ctx.inHandler = true → v = 0) → (yld = false ∨ s.me.task = none) → s.me.chunk.count = 0 →
    (s.me.mark = .none → condsM cs s.alone = .ok (bs, u) → u.Plain [t] →
      (modeMet any bs = true → exec (.wait yld any n f t) s = .next (u.withReg t (waitResult bs false))) ∧
      (modeMet any bs = false → v = 0 → exec (.wait yld any n f t) s = .next (u.withReg t (waitResult bs true))) ∧
      (modeMet any bs = false → v ≠ 0 → u.now = s.now → u.me.mark = .none → exec (.wait yld any n f t) s = .next (s.applyRes (.slept
        (.wait cs any (if v = BitVec.allOnes 64 then none else some (s.tick + v.toNat)) (firstFalse cs bs)))))) ∧
    (∀ r, s.me.mark = .value r → exec (.wait yld any n f t) s = .next (s.alone.withReg t r))) ∧
  (∀ (s : State) (yld any : Bool) (n : BitVec 2) (f t : Reg),
    let k := 2 * (n.toNat + 1)
    let rs := (List.range k).map fun i => BitVec.ofNat 5 (f.toNat + i)
    let cs := descriptors (rs.map s.srcReg)
    let fits := f.toNat + k ≤ 32 ∧ (t.toNat < f.toNat ∨ f.toNat + k ≤ t.toNat)
    let traps (v : Word) : Prop := exec (.wait yld any n f t) s = .next (s.takeTrap .illegal v)
    s.Ready (.wait yld any n f t) →
    (¬ fits → traps (s.unit.word.zeroExtend 64)) ∧
    (fits → s.me.chunk.count = 0 → s.Plain (t :: rs) →
      (∀ c, cs.find? (fun c => !kindGood c.1) = some c → traps c.1) ∧
      (∀ c, cs.find? (fun c => !kindGood c.1) = none → cs.find? (fun c => !kindReserved c.1) = some c → traps c.1) ∧
      (cs.find? (fun c => !kindGood c.1) = none → cs.find? (fun c => !kindReserved c.1) = none → s.me.ctx.inHandler = true →
        s.srcReg t ≠ 0 → traps (s.unit.word.zeroExtend 64))))

/-- R278, R406, R40, R168, R169: the last strand to arrive completes a barrier or a vote at once, for every strand; every other one sleeps in it, and
goes on when it completes. A vote commits what the strands have staged, the lowest core's wish first, and tallies the partials of every strand
placed. Neither is legal for a task or in a handler. -/
def Obligations.Arrivals : Prop :=
  (∀ (s : State) (la : BitVec 4), s.me.chunk.count = 0 → s.me.task = none → s.me.ctx.inHandler = false →
    let u := s.alone.arrive .bar
    let v := s.alone.arrive .vote
    (s.Ready (.bar la) → s.me.mark = .done → exec (.bar la) s = .next s.alone) ∧
    (s.Ready (.vote la) → s.me.mark = .done → exec (.vote la) s = .next s.alone) ∧
    (s.Ready (.bar la) → s.me.mark = .none → u.barReady s.myJob (s.me.gang % 512) = true →
      exec (.bar la) s = .next (u.completeBar s.myJob (s.me.gang % 512))) ∧
    (s.Ready (.bar la) → s.me.mark = .none → u.barReady s.myJob (s.me.gang % 512) = false →
      exec (.bar la) s = .next (s.applyRes (.slept .bar))) ∧
    (s.Ready (.vote la) → s.me.mark = .none → v.voteReady s.myJob = true → exec (.vote la) s = .next (v.commitVote s.myJob)) ∧
    (s.Ready (.vote la) → s.me.mark = .none → v.voteReady s.myJob = false → exec (.vote la) s = .next (s.applyRes (.slept .vote)))) ∧
  (∀ (s : State) (la : BitVec 4), s.me.task ≠ none ∨ s.me.ctx.inHandler = true →
    (s.Ready (.bar la) → exec (.bar la) s = .next (s.takeTrap .illegal (s.unit.word.zeroExtend 64))) ∧
    (s.Ready (.vote la) → exec (.vote la) s = .next (s.takeTrap .illegal (s.unit.word.zeroExtend 64)))) ∧
  (∀ (s : State) (asid job gang : Nat), s.barReady (jobKey asid job) gang = true → ∃ t, exec (.barComplete asid job gang) s = .next t ∧
    t.mem = s.mem ∧ (t.job (jobKey asid job)).bars = tabDel gang (s.job (jobKey asid job)).bars ∧
    ∀ a ∈ (tabGet gang (s.job (jobKey asid job)).bars).getD [], (t.agent a).mark = .done ∧
      ((∃ n, (s.agent a).act = .asleep .bar n) → (t.agent a).act = .running)) ∧
  (∀ (s : State) (asid job : Nat), s.voteReady (jobKey asid job) = true →
    exec (.voteCommit asid job) s = .next (s.commitVote (jobKey asid job))) ∧
  (∀ (s : State) (asid job : Nat), s.voteReady (jobKey asid job) = true →
    (s.fenceStaged (jobKey asid job) = true → s.openHelpers (jobKey asid job) = []) → ∃ t, exec (.voteCommit asid job) s = .next t ∧
    t.mem = s.mem ∧ (t.job (jobKey asid job)).votes = [] ∧
    (t.job (jobKey asid job)).span = (((s.job (jobKey asid job)).span.commit (mergeStaged ((s.strands (jobKey asid job)).map (·.2.ctx.staged)))).tally
      (mergeStaged ((s.strands (jobKey asid job)).map (·.2.ctx.staged))) ((s.placed (jobKey asid job)).filterMap (·.2.ctx.rpart)))) ∧
  (∀ x y : Staged, (∀ v, x.resTol = some v → (mergeStaged [x, y]).resTol = some v) ∧
    (x.resTol = none → (mergeStaged [x, y]).resTol = y.resTol) ∧ ((mergeStaged [x, y]).cycEnd = true ↔ x.cycEnd = true ∨ y.cycEnd = true))

/-- R40, R161, R162, R168, R169: what the cycle unit does at a vote: a staged `CYCBEG` starts a run at FINE; FINE passes to COARSE and COARSE to RESID; at RESID
the residual is tallied, and the run ends as converged, at its limit or stopped, or starts its next cycle. R290, R291, R292, R357, R420, R166: the words of the cycle unit: legal for a strand outside the user interrupt handler and in the phase their rules
name, they stage their wish; `CYCSTAT` and `RESTST` read the span. -/
def Obligations.CycleUnit : Prop :=
  (∀ (p : Span) (x : Staged) (parts : List W32),
    (p.ph = 0 → x.cycBeg = none → p.tally x parts = p) ∧
    (∀ d, p.ph = 0 → x.cycBeg = some d → p.tally x parts = { p with cycn := 0, rspan := 0, dir := d, ph := 1 }) ∧
    ((p.ph = 1 ∨ p.ph = 2) → x.cycEnd = false → x.cycPh = none → p.tally x parts = { p with ph := p.ph + 1 }) ∧
    ((p.ph = 1 ∨ p.ph = 2) → x.cycEnd = true → (p.tally x parts).ph = 0 ∧ (p.tally x parts).mgstat.toNat % 4 = 3) ∧
    (p.ph = 3 → fRel .fp32 .le (foldPartials parts).toNat p.tol.toNat = true →
      (p.tally x parts).ph = 0 ∧ (p.tally x parts).mgstat.toNat % 4 = 1 ∧ (p.tally x parts).rspan = foldPartials parts ∧
        (p.tally x parts).cycn = p.cycn + 1) ∧
    (p.ph = 3 → fRel .fp32 .le (foldPartials parts).toNat p.tol.toNat = false → p.lim ≠ 0 → p.lim.toNat ≤ (p.cycn + 1).toNat →
      (p.tally x parts).ph = 0 ∧ (p.tally x parts).mgstat.toNat % 4 = 2) ∧
    (p.ph = 3 → fRel .fp32 .le (foldPartials parts).toNat p.tol.toNat = false → (p.cycn + 1).toNat < p.lim.toNat → x.cycEnd = false →
      x.cycPh = none → p.tally x parts = { p with rspan := foldPartials parts, cycn := p.cycn + 1, ph := 1 })) ∧
  (∀ (s : State) (la : BitVec 4) (d b : Reg) (bwd tol : Bool),
    let p := s.mySpan
    let stages (i : Instr) (f : Staged → Staged) : Prop :=
      s.Ready i → s.me.task = none → s.me.ctx.uiin = false → exec i s = .next (s.modCtx fun c => { c with staged := f c.staged })
    let illegal (i : Instr) : Prop := s.Ready i → exec i s = .next (s.takeTrap .illegal (s.unit.word.zeroExtend 64))
    (p.ph = 0 → stages (.cycbeg la bwd) (fun x => { x with cycBeg := some bwd }) ∧ stages (.wgfence la) (fun x => { x with wgFence := true })) ∧
    (p.ph ≠ 0 → stages (.cycend la) (fun x => { x with cycEnd := true })) ∧
    (p.ph ≠ 0 ∨ s.me.task ≠ none ∨ s.me.ctx.uiin = true → illegal (.cycbeg la bwd) ∧ illegal (.wgfence la)) ∧
    (p.ph = 0 ∨ s.me.task ≠ none ∨ s.me.ctx.uiin = true → illegal (.cycend la)) ∧
    (s.Ready (.cycstat la d) → s.Plain [d] →
      exec (.cycstat la d) s = .next (s.withReg d (if s.me.task = none then p.stat else 0))) ∧
    (s.Ready (.restst la d b tol) → s.Plain [d, b] →
      exec (.restst la d b tol) s = .next (s.withReg d (if s.me.task = none ∧
        fRel .fp32 .le p.rspan.toNat (if tol then p.tol.toNat else (s.srcReg b).toNat % 2 ^ 32) = true then 1 else 0))))

/-- R30, R359, R368, R375, R376, R418, R422: `RETIRE` of a strand ends its stream and drops what it had staged and bound; its partial stays for the
phase's vote (R169). `RETIRE` of a task makes its record RETIRED and frees its core. `SPAWN` makes a record of the job wait. `SUSPEND` of a task, and a
yielding `WAIT`, write its position, its mask, its conditions and its live registers into its record, which waits, and free its core. What may
not do so is ILLEGAL. -/
def Obligations.Tasks : Prop :=
  (∀ (s : State) (la : BitVec 4), s.Ready (.retire la) →
    let v := (s.alone.modCore s.cur.core fun k => { k with stats := [] }).modCtx fun c =>
      { c with binds := Vector.replicate 4 none, loops := [], loopReq := [], staged := {} }
    (s.me.ctx.inHandler = true → exec (.retire la) s = .next (s.takeTrap .illegal (s.unit.word.zeroExtend 64))) ∧
    (s.me.ctx.inHandler = false → s.me.chunk.count = 0 → s.me.ctx.lates = [] → (s.core s.cur.core).stats = [] →
      (s.me.task = none → ∃ t, exec (.retire la) s = .next t ∧ t.me.act = .retired ∧ t.unit.res = .gone ∧ t.me.ctx.staged = {} ∧
        t.me.ctx.rpart = s.me.ctx.rpart ∧ t.me.ctx.loops = [] ∧ (∀ i : Fin 4, t.me.ctx.binds[i] = none) ∧ t.mem = s.mem ∧
        t.me.ctx.regs = s.me.ctx.regs) ∧
      (∀ p u, s.me.task = some p → s.me.ctx.preset = none → recState s.who p 3 v = .ok ((), u) → u.cur = s.cur → u.me.ctx.preset = none →
        ∃ t, exec (.retire la) s = .next t ∧
        t.unit.res = .gone ∧ t.agent s.cur = {} ∧ t.mem = u.mem ∧ ∀ r ∈ (t.job u.myJob).recs, r.ptr = p → r.at_ = .retired))) ∧
  (∀ (s : State) (la : BitVec 4) (a : Reg), s.Ready (.spawn la a) →
    (s.me.ctx.inHandler = true → exec (.spawn la a) s = .next (s.takeTrap .illegal (s.unit.word.zeroExtend 64))) ∧
    (∀ pa t u, s.me.ctx.inHandler = false → s.Plain [a] → s.Alone pa 64 →
      let p := s.srcReg a
      s.Reaches p { rd := false, wr := true, n := 64, align := 64, raw := true, spaces := [0] } pa →
      recWrite s.who p 0x38 (leBytes 8 s.me.job) (s.alone.squashOthers (segLines [(pa, 64)])) = .ok ((), t) →
      recState s.who p 0 t = .ok ((), u) → exec (.spawn la a) s = .next (u.modJob u.myJob fun j =>
        { j with recs := j.recs.filter (fun r => r.ptr != p) ++ [({ ptr := p, at_ := .waiting, cluster := clusterOf u.cur.core } : Rec)] }))) ∧
  (∀ (s : State) (la : BitVec 4) (a b : Reg), s.Ready (.suspend la a b) → s.Plain [a] →
    let v := s.srcReg a
    let n := wbits v 36 3
    let rs := (List.range n).map fun i => BitVec.ofNat 5 (b.toNat + i)
    (s.maySuspend = false → exec (.suspend la a b) s = .next (s.takeTrap .illegal (s.unit.word.zeroExtend 64))) ∧
    (s.maySuspend = true → s.me.chunk.count = 0 → suspendGood v b.toNat = false →
      exec (.suspend la a b) s = .next (s.takeTrap .illegal v)) ∧
    (∀ p u, s.maySuspend = true → s.me.chunk.count = 0 → suspendGood v b.toNat = true → s.Plain rs → s.me.task = some p →
      s.me.ctx.lates = [] → (s.core s.cur.core).stats = [] →
      ((s.writeBack v n (rs.map s.srcReg)).forM fun x => recWrite s.who p x.1 x.2)
        (s.alone.modCore s.cur.core fun k => { k with stats := [] }) = .ok ((), u) →
      u.cur = s.cur → u.me.ctx.preset = none → ∃ t, exec (.suspend la a b) s = .next t ∧ t.unit.res = .gone ∧ t.agent s.cur = {} ∧ t.mem = u.mem ∧
        ∀ r ∈ (t.job u.myJob).recs, r.ptr = p → r.at_ = .waiting)) ∧
  (∀ (s u : State) (n : BitVec 2) (f t : Reg) (p : Word),
    let k := 2 * (n.toNat + 1)
    let rs := (List.range k).map fun i => BitVec.ofNat 5 (f.toNat + i)
    let cs := descriptors (rs.map s.srcReg)
    let v := s.srcReg t
    s.Ready (.wait true false n f t) → f.toNat + k ≤ 32 → (t.toNat < f.toNat ∨ f.toNat + k ≤ t.toNat) → s.Plain (t :: rs) →
    (∀ c ∈ cs, kindReserved c.1 = true ∧ kindOf c.1 = (if s.rdycnt s.me.asid then 3 else 1)) → s.maySuspend = true →
    suspendGood v 0 = true → wbits v 36 3 = 0 → s.me.task = some p → s.cur.kind = .main → s.me.chunk.count = 0 → s.me.ctx.lates = [] →
    (s.core s.cur.core).stats = [] →
    ((s.writeBack v cs.length (cs.map (·.2))).forM fun x => recWrite s.who p x.1 x.2)
      (s.alone.modCore s.cur.core fun k => { k with stats := [] }) = .ok ((), u) →
    u.cur = s.cur → u.me.ctx.preset = none → ∃ t', exec (.wait true false n f t) s = .next t' ∧ t'.unit.res = .gone ∧ t'.agent s.cur = {} ∧ t'.mem = u.mem) ∧
  (∀ (s : State) (v : Word) (n : Nat) (cs : List Word),
    let xs := s.writeBack v n cs
    let h := suspendHead v n
    xs.head? = some (0, wordBytes 8 s.resumeAt ++ wordBytes 8 h) ∧
    (n ≠ 0 → (0x18, (cs.take n).flatMap fun x => wordBytes 8 x) ∈ xs) ∧
    (wbits v 0 32 ≠ 0 → (0x40, (((List.range 32).filter (wbit v)).map fun i => s.me.ctx.reg (BitVec.ofNat 5 i)).flatMap fun x => wordBytes 8 x) ∈ xs) ∧
    (n ≤ 4 → wbits h 0 32 = wbits v 0 32 ∧ wbits h 32 3 = wbits v 32 3 ∧ wbits h 36 3 = n ∧ (wbit h 40 = true ↔ wbits v 0 32 ≠ 0) ∧
      wbits h 41 3 = 0) ∧
    (s.unit.paired = false → s.unit.second = false → s.resumeAt = BitVec.ofNat 64 (s.me.ctx.pc.toNat / 8 * 8 + 4)) ∧
    (s.unit.paired = true ∨ s.unit.second = true → s.resumeAt = s.bundleAt s.me.ctx.pc 1)) ∧
  (∀ (s : State) (w : Who) (p : Word) (o pa : Nat) (bs : List Byte),
    s.check w (ptrAdd p o) { rd := false, wr := true, n := bs.length, align := 1, cap := false } = .ok (.mem [(pa, bs.length)]) →
    hWin (s.handle w.asid (handleOf (ptrAdd p o))) = 0 → pa < 2 ^ 44 → s.ownedNot none (segLines [(pa, bs.length)]) = false →
    s.reservedAny (segLines [(pa, bs.length)]) = false → s.mem.poison = [] →
    ∃ u, recWrite w p o bs s = .ok ((), u) ∧ u.mem = { s.mem with bytes := setBytes pa bs s.mem.bytes } ∧ u.cur = s.cur)


/-! ## Engine and copy jobs, and the matrix licence -/

/-- R32, R137, R138, R139, R140, R289, R321, R328, R329, R344: `MXPUB` and `CPPUB` copy the record into the queue of their cluster as a job that waits for
its conditions, or is READY at once where it has none or a count of more than 4, and d receives its id; with 64 entries in use d receives 0. `JOBQ` reads a job's word. `LICACQ`
takes an open licence with a pin, or leaves a request; `LICREL` takes the job's pin away, and with the last one the licence, or withdraws a
request. The distinct keys by which the model tells publications apart are a field of its own (log entry 82). -/
def Obligations.JobWords : Prop :=
  ∀ (s : State) (la : BitVec 4) (d b : Reg) (note : Bool) (pa : Nat), s.Plain [d, b] →
    let k := clusterOf s.cur.core
    let c := s.cluster k
    let x := s.pair (pairOf k)
    let publishes (i : Instr) (copy : Bool) : Prop :=
      s.Ready i → s.me.chunk.count = 0 → (copy = false → s.rechecking = false) →
      s.Reaches (s.srcReg b) { rd := true, wr := false, n := 128, align := 64 } pa →
      (s.queueUsed k < 64 → (∀ y ∈ c.queue, y.key ≠ c.pubs * 512 + k) → x.reqL = none → x.reqU = none →
        let id := 2 ^ 31 + 2 ^ 29 * bitNat copy + k * 2 ^ 20 + c.pubs % 2 ^ 20
        let ws := leWords 16 (s.viewBytes [(pa, 128)])
        let ncond := if copy then wbits (wordAt ws 0) 3 3 else wbits (wordAt ws 0) 14 3
        ∃ t q, exec i s = .next t ∧ (t.cluster k).queue = c.queue ++ [q] ∧ q.id = id ∧ q.copy = copy ∧
          q.st = (if ncond = 0 ∨ 5 ≤ ncond then JobSt.ready else JobSt.waiting) ∧
          q.words = ws ∧ q.pub = s.cur ∧ q.asid = s.me.asid ∧ q.job = s.me.job ∧
          (t.cluster k).pubs = c.pubs + 1 ∧ t.me.ctx = s.me.ctx.setReg d (BitVec.ofNat 64 id) ∧ t.mem = s.mem ∧ t.others = s.others) ∧
      (64 ≤ s.queueUsed k → exec i s = .next (s.alone.withReg d 0))
    publishes (.mxpub la d b) false ∧ publishes (.cppub la d b) true ∧
    (s.Ready (.jobq la d b) → exec (.jobq la d b) s = .next (s.withReg d (s.jobWord s.me.asid (wbits (s.srcReg b) 0 32)))) ∧
    (∀ asid id, (∀ q, s.liveQ asid id = some q → s.jobWord asid id = BitVec.ofNat 64 (match q.st with
        | .waiting => 0
        | .ready => 1
        | .running => 2
        | .parked => 3
        | .complete => 4)) ∧
      (s.liveQ asid id = none → id < 2 ^ 31 → s.jobWord asid id = 7)) ∧
    (s.Ready (.licacq la d note) → s.me.task = none → s.me.chunk.count = 0 → s.licReq k = none →
      (x.moving = none → (x.holder = none ∨ x.holder = some (onDieU k)) →
        ∃ t, exec (.licacq la d note) s = .next t ∧ (t.pair (pairOf k)).holder = some (onDieU k) ∧
          s.myJob ∈ (t.pair (pairOf k)).pins ∧ t.me.ctx = s.me.ctx.setReg d 1 ∧ t.mem = s.mem) ∧
      ((x.moving ≠ none ∨ x.holder = some (!onDieU k)) →
        ∃ t, exec (.licacq la d note) s = .next t ∧ t.licReq k = some ⟨s.myJob, s.cur.core, note, []⟩ ∧
          t.me.ctx = s.me.ctx.setReg d 0 ∧ t.mem = s.mem)) ∧
    (s.Ready (.licacq la d note) → s.me.task ≠ none ∨ s.me.chunk.count = 0 ∧ s.licReq k ≠ none →
      exec (.licacq la d note) s = .next (s.takeTrap .licence (s.unit.word.zeroExtend 64))) ∧
    (s.Ready (.licrel la) → s.me.task = none → s.me.chunk.count = 0 →
      (s.holdsLic k = false → exec (.licrel la) s = .next (s.alone.setLicReq k none)) ∧
      (s.holdsLic k = true → x.pins ≠ [] → s.myJob ∉ x.pins →
        exec (.licrel la) s = .next (s.takeTrap .licence (s.unit.word.zeroExtend 64))) ∧
      (s.holdsLic k = true → s.myJob ∈ x.pins → setDel s.myJob x.pins ≠ [] →
        exec (.licrel la) s = .next (s.alone.modPair (pairOf k) fun x => { x with pins := setDel s.myJob x.pins })) ∧
      (s.holdsLic k = true → s.myJob ∈ x.pins → setDel s.myJob x.pins = [] → c.eng = none → x.reqL = none → x.reqU = none →
        s.engineWork (pairOf k) = false → s.engineWork (pairOf k + 256) = false → k < 512 →
        ∃ t, exec (.licrel la) s = .next t ∧ (t.pair (pairOf k)).holder = none ∧ (t.pair (pairOf k)).pins = [] ∧
          (t.pair (pairOf k)).moving = none ∧ t.me.ctx = s.me.ctx ∧ t.mem = s.mem))


/-! ## Pipelines -/

/-- R150, R335, R349, R350, R351, R354: with its pipeline's descriptor read, `PENQ` gives a record the next sequence number and a free slot (the lowest: the
model's choice, log entry 23), waits for room, or answers 0 when the pool is full; `PDEQ` takes the next record of its core's stage, or sleeps; `PDONE` finishes the record its core has taken, or sleeps
while what follows is full; `PSTAT` reads a stage, starts no pipeline, and is ILLEGAL for a stage past the last.
When a queue of a deterministic job hands out a record is the model's choice (log entry 92). -/
def Obligations.PipelineWords : Prop :=
  ∀ (s u : State) (la : BitVec 4) (d b : Reg) (p st : BitVec 4) (drop : Bool) (key : Nat) (x : Pipe),
    let q := s.srcReg b
    let n := pRecord x.desc
    s.me.chunk = {} → pipeM p s.alone = .ok (key, u) → tabGet key u.pipes = some x → u.me = s.me → u.unit = s.alone.unit → u.cur = s.cur →
    s.Plain [d, d + 1, b] →
    (∀ pa pb slot, s.Ready (.penq la d b p) → u.who.det = false → u.Reaches q { rd := true, wr := false, n := n, align := 64 } pa →
      (x.freeSlot = none → exec (.penq la d b p) s = .next (u.withReg d 0)) ∧
      (x.freeSlot = some slot → x.admits 0 = false → exec (.penq la d b p) s = .next (s.applyRes (.slept (.penq p.toNat)))) ∧
      (x.freeSlot = some slot → x.admits 0 = true → u.Alone pb n →
        u.Reaches (x.slotPtr slot) { rd := false, wr := true, n := n, align := 64, raw := true, gen := false, cap := false, spaces := [0] } pb →
        ∃ t y r, exec (.penq la d b p) s = .next t ∧ tabGet key t.pipes = some y ∧ y.seq = x.seq + 1 ∧ r ∈ y.recs ∧ r.slot = slot ∧
          r.seq = x.seq ∧ r.stage = 0 ∧ t.me.ctx = s.me.ctx.setReg d (x.slotPtr slot))) ∧
    (∀ i, s.Ready (.pdeq la d p) → s.me.task = none → s.me.ctx.inHandler = false → tabGet s.cur.core x.assign = some i →
      (x.nextRec u.who.det i = none → exec (.pdeq la d p) s = .next (s.applyRes (.slept .pdeq))) ∧
      (∀ r, x.nextRec u.who.det i = some r → ∃ t, exec (.pdeq la d p) s = .next t ∧
        (t.core s.cur.core).deq = some ⟨p.toNat, x.slotPtr r.slot⟩ ∧ t.mem = u.mem ∧
        t.me.ctx = (s.me.ctx.setReg d (x.slotPtr r.slot)).setReg (d + 1) (BitVec.ofNat 64 i))) ∧
    (∀ pa r, s.Ready (.pdone la b p drop) → s.me.task = none → (u.core s.cur.core).deq = some ⟨p.toNat, q⟩ →
      x.recs.find? (fun r => r.at_ == .core s.cur.core && x.slotPtr r.slot == q) = some r →
      u.Reaches q { rd := true, wr := false, n := 64, align := 64, raw := true } pa →
      let kinds := effectKinds (wordAt (leWords 8 (u.viewBytes [(pa, 64)])) 1)
      ((∃ e ∈ kinds, 2 ≤ e) → exec (.pdone la b p drop) s = .next (s.takeTrap .illegal (s.unit.word.zeroExtend 64))) ∧
      ((∀ e ∈ kinds, e = 1) → (∀ i, x.needs r drop = some i → x.admits i = true) →
        ∀ v, finishStage key s.cur.core r drop u = .ok ((), v) →
        exec (.pdone la b p drop) s = .next (v.modCore s.cur.core fun k => { k with deq := none })) ∧
      ((∀ e ∈ kinds, e = 1) → ∀ i, x.needs r drop = some i → x.admits i = false → exec (.pdone la b p drop) s = .next (s.applyRes (.slept (.pdone p.toNat))))) ∧
    (∀ ws v, s.Ready (.pstat la d p st) → pipeDescM p s = .ok (ws, v) → v.me.ctx = s.me.ctx → v.pipes = s.pipes →
      let y := v.pipe (pipeKey v.me.asid p.toNat)
      (st.toNat < pStages ws → exec (.pstat la d p st) s = .next (v.withReg d (BitVec.ofNat 64 (y.depth st.toNat + 2 ^ 32 * y.coresOf st.toNat +
        2 ^ 48 * ((tabGet (clusterOf v.cur.core * 16 + st.toNat) y.windows).getD {}).last)))) ∧
      (pStages ws ≤ st.toNat → exec (.pstat la d p st) s = .next (s.takeTrap .illegal (s.unit.word.zeroExtend 64))))

/-! ## Collectives, the ordered class and messages -/

/-- R174, R176, R178, R179, R180, R312, R314, R315, R316: `GSEND` contributes the images at its pointer, `BMAP` and the present blocks of each, to the next
round of its group; `GRECV` stores the images of the oldest result present, zeros for absent blocks, takes it away and answers the status word, or
answers 0; `GSTAT` reads the status word of a slot and never traps; `GCFG` stages a descriptor for the next vote. For `GSEND` and `GRECV` a register
not in use is HANDLE with its number; for `GCFG` a failing check of its pointer traps. The contributed bytes are those that
memory holds as `GSEND` is performed (the model's choice, log entry 87). -/
def Obligations.GroupWords : Prop :=
  ∀ (s : State) (la : BitVec 4) (d b : Reg) (n : BitVec 6) (g : GSlot) (pa : Nat),
    let p := s.srcReg b
    let key := s.cur.core * 64 + n.toNat
    let image (q : Nat) : Word × Tab (List Byte) :=
      let bmap := leWord (s.viewBytes [(pa + 8320 * q, 8)])
      (bmap, ((List.range 64).filter (wbit bmap)).map fun k => (k, s.viewBytes [(pa + 8320 * q + 128 + 128 * k, 128)]))
    s.Plain [d, b] →
    (s.Ready (.gsend la b n) → s.mySlot n.toNat = some g → gSelf g.desc = true → (gKind g.desc = 2 → gRoot g.desc = true) →
      (g.awaits = true → g.rnd = 0 ∨ g.rnd - 1 ∉ g.present) → p.toNat % 128 = 0 → s.me.chunk.count = 0 → (g.held.any g.mine = false ∨ g.dead = true) →
      s.Reaches p { rd := true, wr := false, n := imageBytes g.desc, align := 128, raw := true, spaces := [0, 1] } pa →
      exec (.gsend la b n) s = .next (s.alone.contribute key ((List.range (gChunks g.desc)).map image)) ∧
      (gKind g.desc ≤ 1 → gChunks g.desc = 1 → (g.rnd, 0) ∉ g.flushed → (∃ i ∈ gChildren g.desc, g.operand g.rnd 0 i = none) →
        ∃ t y, exec (.gsend la b n) s = .next t ∧ tabGet key t.groups = some y ∧ y.rnd = g.rnd + 1 ∧ y.late = false ∧
          y.ops = g.ops ++ [⟨g.rnd, 0, 8, (image 0).1, 1, false, (image 0).2⟩] ∧ t.me.ctx = s.me.ctx ∧ t.mem = s.mem)) ∧
    (s.Ready (.grecv la d b n) → s.mySlot n.toNat = some g → gSelf g.desc = true → g.dead = false → p.toNat % 128 = 0 →
      s.Alone pa (imageBytes g.desc) →
      s.Reaches p { rd := false, wr := true, n := imageBytes g.desc, align := 128, raw := true, spaces := [0, 1] } pa →
      (g.present = [] → exec (.grecv la d b n) s = .next (s.alone.withReg d 0)) ∧
      (∀ r rs, g.present = r :: rs → s.plant.soff ≤ 3 → (g.images r).length = imageBytes g.desc →
        ∃ t, exec (.grecv la d b n) s = .next t ∧ tabGet key t.groups = some (g.take r) ∧ (g.take r).present = rs ∧
          s.SameOutside t pa (imageBytes g.desc) ∧ t.viewBytes [(pa, imageBytes g.desc)] = g.images r ∧
          (∀ q, q ≠ d → t.me.ctx.reg q = s.me.ctx.reg q) ∧
          (d ≠ 0 → let v := t.me.ctx.reg d
            wbit v 63 = true ∧ wbits v 0 3 = (g.take r).gss ∧ wbit v 8 = g.late ∧ wbit v 9 = g.roundPart r ∧ wbits v 10 2 = s.plant.soff ∧
            wbits v 16 32 = (g.take r).rnd % 2 ^ 32))) ∧
    (∀ x : GResult, resultImage x = wordBytes 8 x.bmap ++ leBytes 8 (x.ncon % 2 ^ 32 + 2 ^ 32 * bitNat x.part + 2 ^ 40 * x.rmask) ++
      List.replicate 112 0 ++ (List.range 64).flatMap fun k => (tabGet k x.blocks).getD (List.replicate 128 0)) ∧
    (∀ r x, gChunks g.desc = 1 → g.results.find? (fun x => x.round == r && x.chunk == 0) = some x → g.images r = resultImage x) ∧
    (s.Ready (.gstat la d n) → exec (.gstat la d n) s = .next (s.withReg d (s.gstat (s.mySlot n.toNat)))) ∧
    (s.plant.soff ≤ 3 → s.gstat none = BitVec.ofNat 64 (7 + 2 ^ 10 * s.plant.soff) ∧
      let v := s.gstat (some g)
      wbits v 0 3 = g.gss ∧ wbit v 8 = g.late ∧ (∀ r, g.oldest = some r → wbit v 9 = g.roundPart r) ∧ wbits v 10 2 = s.plant.soff ∧
        wbits v 16 32 = g.rnd % 2 ^ 32 ∧ wbit v 63 = false) ∧
    (s.Ready (.gcfg la b n) → s.me.task = none → s.unit.own = false →
      let a : Acc := { rd := true, wr := false, n := 128, align := 128, raw := true }
      (∀ c, s.check s.who p a = .error c → exec (.gcfg la b n) s = .next (s.takeTrap c p)) ∧
      (s.Reaches p a pa →
        let ws := leWords 16 (s.viewBytes [(pa, 128)])
        (groupGood ws s.who.det = true → exec (.gcfg la b n) s = .next ((s.noteReads (segLines [(pa, 128)])).modCtx fun c =>
          { c with staged := { c.staged with gcfg := tabSet n.toNat ws c.staged.gcfg } })) ∧
        (groupGood ws s.who.det = false → exec (.gcfg la b n) s = .next (s.takeTrap .illegal p)))) ∧
    (s.Ready (.gcfg la b n) → s.me.task ≠ none → exec (.gcfg la b n) s = .next (s.takeTrap .illegal (s.unit.word.zeroExtend 64))) ∧
    (s.me.chunk.count = 0 → s.mySlot n.toNat = none →
      (s.Ready (.gsend la b n) → exec (.gsend la b n) s = .next (s.takeTrap .handle (n.zeroExtend 64))) ∧
      (s.Ready (.grecv la d b n) → exec (.grecv la d b n) s = .next (s.takeTrap .handle (n.zeroExtend 64))))

/-- R336, R340, R341, R121, R122, R347, R348: `MSEND` puts a message on its way, `MRECV` takes the oldest message of its core's inbox or two zeros; `OSEND` hands a
packet to the injection of its device, to wait for its covered set; `ORECV` takes the next packet delivered on its channel, or sleeps. A channel that
is not registered, or of which this device is no member, is HANDLE, and an address space whose delivery has halted takes WATERMARK. -/
def Obligations.Messages : Prop :=
  ∀ (s : State) (la : BitVec 4) (d a b : Reg) (c : BitVec 4) (ch : Channel), s.Plain [d, d + 1, a, b] → s.me.chunk.count = 0 →
    let q := (tabGet (s.me.asid * 16 + c.toNat) s.ord.queues).getD []
    (s.Ready (.msend la a b) → nodeGood (s.srcReg a) = true → s.inFlight.length < 8 →
      ∃ t f, exec (.msend la a b) s = .next t ∧ t.fab.msgs = s.fab.msgs ++ [f] ∧ f.sender = some s.cur ∧ f.node = s.srcReg a ∧
        f.msg.payload = s.srcReg b ∧ f.msg.asid = s.me.asid ∧ f.msg.core = nodeCore (s.srcReg a) ∧ t.me.ctx = s.me.ctx ∧ t.mem = s.mem) ∧
    (s.Ready (.msend la a b) → nodeGood (s.srcReg a) = false → exec (.msend la a b) s = .next (s.takeTrap .handle (s.srcReg a))) ∧
    (s.Ready (.mrecv la d) → (s.core s.cur.core).inbox = [] → exec (.mrecv la d) s = .next ((s.alone.withReg d 0).withReg (d + 1) 0)) ∧
    (∀ x xs, s.Ready (.mrecv la d) → (s.core s.cur.core).inbox = x :: xs → exec (.mrecv la d) s =
      .next (((s.alone.modCore s.cur.core fun k => { k with inbox := xs }).withReg d x.1).withReg (d + 1) x.2)) ∧
    (s.channel s.me.asid c.toNat = some ch → ch.members.contains s.dev.devId = true →
      (s.Ready (.osend la b c) → s.me.err = none → ∃ t x, exec (.osend la b c) s = .next t ∧
        t.ord.inject = s.ord.inject ++ [⟨x, s.covered s.cur⟩] ∧ x.payload = s.srcReg b ∧ x.asid = s.me.asid ∧ x.chan = c.toNat ∧
        x.src = s.dev.devId ∧ t.me.ctx = s.me.ctx ∧ t.mem = s.mem) ∧
      (s.Ready (.orecv la d false c) → s.me.ctx.inHandler = false → tabGet s.me.asid s.ord.halted = none →
        (q = [] → exec (.orecv la d false c) s = .next (s.applyRes (.slept .orecv))) ∧
        (∀ x xs, q = x :: xs → ∃ t, exec (.orecv la d false c) s = .next t ∧ t.me.ctx = s.me.ctx.setReg d x.payload ∧ t.mem = s.mem ∧
          tabGet (s.me.asid * 16 + c.toNat) t.ord.queues = some xs)) ∧
      (s.Ready (.orecv la d true c) → s.me.ctx.inHandler = false → tabGet s.me.asid s.ord.halted = none → s.Plain [d + 2, d + 3] →
        ∀ x xs, q = x :: xs → ∃ t, exec (.orecv la d true c) s = .next t ∧ t.me.ctx = (((s.me.ctx.setReg d x.payload).setReg (d + 1)
          (BitVec.ofNat 64 x.stamp)).setReg (d + 2) (BitVec.ofNat 64 x.seq)).setReg (d + 3) (BitVec.ofNat 64 (x.src % 2 ^ 13)))) ∧
    (∀ w key, s.channel s.me.asid c.toNat = some ch → ch.members.contains s.dev.devId = true → tabGet s.me.asid s.ord.halted = some w →
      s.Ready (.orecv la d key c) → s.me.ctx.inHandler = false →
      exec (.orecv la d key c) s = .next (s.takeTrap .watermark (BitVec.ofNat 64 w))) ∧
    ((∀ x, s.channel s.me.asid c.toNat = some x → x.members.contains s.dev.devId = false) →
      (s.Ready (.osend la b c) → exec (.osend la b c) s = .next (s.takeTrap .handle (c.zeroExtend 64))) ∧
      (∀ key, s.Ready (.orecv la d key c) → s.me.ctx.inHandler = false →
        exec (.orecv la d key c) s = .next (s.takeTrap .handle (c.zeroExtend 64)))) ∧
    (∀ key, s.Ready (.orecv la d key c) → s.me.ctx.inHandler = true →
      exec (.orecv la d key c) s = .next (s.takeTrap .illegal (s.unit.word.zeroExtend 64)))

/-! ## Twin window, capabilities and state registers -/

/-- R49, R50, R133, R134, R283, R284, R285, R385: `TWX` exchanges a cell with a register, `TWX.RD` reads it and `TWX.WR` writes it; a core of another address space than the
last writer's reads 0. A capability that is FREE, offered to the taker or held by it is taken, one held elsewhere is refused with 1; the holder may offer it; and
`CAPQ` reads its state. -/
def Obligations.TwinsAndCapabilities : Prop :=
  ∀ (s : State) (la : BitVec 4) (d a b : Reg) (n : BitVec 2), s.Plain [d, a, b] → 
    let h := handleOf (s.srcReg b)
    (s.Ready (.twx la d b n) → s.me.chunk.count = 0 →
      exec (.twx la d b n) s = .next ((s.alone.twinWrite n (s.srcReg b)).withReg d (s.twinRead n))) ∧
    (s.Ready (.twxRd la d n) → s.me.chunk.count = 0 → exec (.twxRd la d n) s = .next (s.alone.withReg d (s.twinRead n))) ∧
    (s.Ready (.twxWr la b n) → s.me.chunk.count = 0 → exec (.twxWr la b n) s = .next (s.alone.twinWrite n (s.srcReg b))) ∧
    (∀ v, (s.twinWrite n v).twinRead n = v ∧ ∀ m, m ≠ n → (s.twinWrite n v).twinRead m = s.twinRead m) ∧
    (∀ c, tabGet (s.twinKey n) s.twins = some c → c.asid ≠ s.me.asid → s.twinRead n = 0) ∧
    (∀ c, s.Ready (.captake la d b) → s.me.task = none → s.me.chunk.count = 0 → s.capState s.me.asid h = some c →
      ((c = .free ∨ c = .held s.cur s.myJob ∨ c = .offered s.cur s.myJob) → ∃ t, exec (.captake la d b) s = .next t ∧
        tabGet (s.me.asid * 4096 + h) t.caps = some (.held s.cur s.myJob) ∧ t.me.ctx = s.me.ctx.setReg d 0 ∧ t.mem = s.mem) ∧
      (c ≠ .free → c ≠ .held s.cur s.myJob → c ≠ .offered s.cur s.myJob → exec (.captake la d b) s = .next (s.alone.withReg d 1))) ∧
    (s.Ready (.captake la d b) → s.me.task = none → s.me.chunk.count = 0 → s.capState s.me.asid h = none →
      exec (.captake la d b) s = .next (s.takeTrap .cap (s.srcReg b))) ∧
    (∀ k, s.Ready (.capgive la a b) → s.me.chunk.count = 0 → s.writingVia (handleOf (s.srcReg a)) = false →
      s.capState s.me.asid (handleOf (s.srcReg a)) = some (.held s.cur s.myJob) → AgentKind.ofCode (wbits (s.srcReg b) 2 2) = some k →
      s.inMySpan (wbits (s.srcReg b) 4 12) = true →
      exec (.capgive la a b) s = .next (s.alone.setCap s.me.asid (handleOf (s.srcReg a)) (.offered ⟨wbits (s.srcReg b) 4 12, k⟩ s.myJob))) ∧
    (s.Ready (.capq la d b) → exec (.capq la d b) s = .next (s.withReg d (capWordOf (s.capState s.me.asid h))))

/-- R61, R39, R152, R161, R188, R213, R313, R364: `GETSR` reads every register that exists (a counter of an event that counts time as a free value, the
model's choice, log entry 11), and `SETSR` writes the plain ones at once, the staged ones for the next vote, and those of the
system at system privilege only; a register that does not exist or is read-only is ILLEGAL. -/
def Obligations.StateRegisters : Prop :=
  ∀ (s : State) (la : BitVec 4) (d a : Reg) (i : BitVec 10), s.Plain [d, a] → s.cur.kind = .main →
    let n := i.toNat
    let v := s.srcReg a
    (s.Ready (.getsr la d i) → srExists n = true → (n < 0x050 ∨ 0x053 < n) →
      exec (.getsr la d i) s = .next (s.withReg d (s.sr s.cur s.me n))) ∧
    (s.Ready (.getsr la d i) → 0x050 ≤ n → n ≤ 0x053 →
      exec (.getsr la d i) s = .next (s.settlePmc.withReg d (s.settlePmc.sr s.cur s.settlePmc.me n))) ∧
    (∀ k : Fin 4, s.sr s.cur s.me (0x050 + k.val) = s.me.pmc[k] ∧ (s.me.ctx.countsTime k.val = false → s.settlePmc.me.pmc[k] = s.me.pmc[k])) ∧
    (s.Ready (.getsr la d i) → srExists n = false → exec (.getsr la d i) s = .next (s.takeTrap .illegal (s.unit.word.zeroExtend 64))) ∧
    (s.sr s.cur s.me 0x000).toNat % 2 ^ 12 = s.cur.core % 2 ^ 12 ∧ s.sr s.cur s.me 0x008 = BitVec.ofNat 64 s.tick ∧
    s.sr s.cur s.me 0x010 = s.me.ctx.tcause ∧ s.sr s.cur s.me 0x011 = s.me.ctx.tpc ∧ s.sr s.cur s.me 0x012 = s.me.ctx.tval ∧
    s.sr s.cur s.me 0x013 = s.me.ctx.tvec ∧ s.sr s.cur s.me 0x015 = s.me.ctx.uimask ∧
    (s.Ready (.setsr la a i) → n ∈ [0x010, 0x011, 0x012, 0x014, 0x015] → exec (.setsr la a i) s = .next (s.modCtx (·.setSr n v))) ∧
    (s.Ready (.setsr la a i) → n ∈ [0x013, 0x060] → s.me.ctx.tin = true → s.me.chunk.count = 0 →
      exec (.setsr la a i) s = .next (s.alone.modCtx (·.setSr n v))) ∧
    (s.Ready (.setsr la a i) → n = 0x01A → wbits v 0 3 ≠ 7 → s.me.ctx.tin = true → s.me.chunk.count = 0 →
      exec (.setsr la a i) s = .next (s.alone.modCtx (·.setSr n v))) ∧
    (s.Ready (.setsr la a i) → n ∈ [0x013, 0x01A, 0x060] → s.me.ctx.tin = false →
      exec (.setsr la a i) s = .next (s.takeTrap .priv (s.unit.word.zeroExtend 64))) ∧
    (s.Ready (.setsr la a i) → n = 0x021 → exec (.setsr la a i) s = .next (s.modCtx fun c => { c with staged := { c.staged with resTol := some v } })) ∧
    (s.Ready (.setsr la a i) → n = 0x023 → exec (.setsr la a i) s = .next (s.modCtx fun c => { c with staged := { c.staged with cycMax := some v } })) ∧
    (s.Ready (.setsr la a i) → n = 0x024 → (wbits v 0 2 = 0 ∨ s.mySpan.ph ≠ 0) →
      exec (.setsr la a i) s = .next (s.modCtx fun c => { c with staged := { c.staged with cycPh := some v } })) ∧
    (s.Ready (.setsr la a i) → n = 0x024 → wbits v 0 2 ≠ 0 → s.mySpan.ph = 0 →
      exec (.setsr la a i) s = .next (s.takeTrap .illegal (s.unit.word.zeroExtend 64))) ∧
    (s.Ready (.setsr la a i) → n = 0x027 → s.me.task = none →
      exec (.setsr la a i) s = .next (s.modCtx fun c => { c with staged := { c.staged with swpol := some v } })) ∧
    (s.Ready (.setsr la a i) → n = 0x027 → s.me.task ≠ none →
      exec (.setsr la a i) s = .next (s.takeTrap .illegal (s.unit.word.zeroExtend 64))) ∧
    (s.Ready (.setsr la a i) → n = 0x054 → exec (.setsr la a i) s = .next (s.settlePmc.modCtx (·.setSr n v))) ∧
    (∀ w : Word, (s.me.ctx.setSr 0x054 w).pmsel = BitVec.ofNat 64 (w.toNat % 2 ^ 32)) ∧
    (s.Ready (.setsr la a i) → n = 0x050 ∨ n = 0x051 ∨ n = 0x052 ∨ n = 0x053 →
      ∃ t, exec (.setsr la a i) s = .next t ∧ (∀ k : Fin 4, t.me.pmc[k] = if k.val = n - 0x050 then v else s.me.pmc[k]) ∧
        t.me.ctx.regs = s.me.ctx.regs ∧ t.mem = s.mem) ∧
    (s.Ready (.setsr la a i) → srWritable n = false → exec (.setsr la a i) s = .next (s.takeTrap .illegal (s.unit.word.zeroExtend 64))) ∧
    (∀ w : Word, (s.me.ctx.setSr 0x015 w).uimask.toNat % 16 = w.toNat % 16 ∧ (s.me.ctx.setSr 0x010 w).tin = s.me.ctx.tin ∧
      (s.me.ctx.setSr 0x012 w).tval = w)


/-! ## Events of agents -/

/-- R58, R59, R60, R69, R71, R99, R107, R208: what happens to an agent between its words: a late result lands, a chunk commits, the user interrupt handler is
entered, a core wakes with a register found bad or is gated, and the decode table is loaded and re-checked. That the handler may be entered between the
two lone words of one bundle, where R59 says only 'pair boundary', is the model's reading (log entry 39). -/
def Obligations.AgentEvents : Prop :=
  ∀ (s : State) (a : AgentId) (core : Nat),
    let g := s.agent a
    let m := s.agent ⟨core, .main⟩
    (∀ r v, g.ctx.lates = [⟨.scalar r v, 0⟩] → g.ctx.bindOf r.toNat = none → r ≠ 0 →
      ∃ t, exec (.lateResultLand a) s = .next t ∧ (t.agent a).ctx.lates = [] ∧ (t.agent a).ctx.reg r = v ∧ t.mem = s.mem ∧
        ∀ q, q ≠ r → (t.agent a).ctx.reg q = g.ctx.reg q) ∧
    (g.chunk.ended = true → g.chunk.count ≠ 0 → g.chunk.stats = [] → (s.focus a).reserved g.chunk.writes = false →
      tabSorted g.chunk.held = true → (s.focus a).hitRecs (g.chunk.held.map fun x => (x.1, 1)) = [] →
      ∃ t, exec (.commitGrant a) s = .next t ∧ (t.agent a).chunk = {} ∧ (t.agent a).ctx = { g.ctx with dirty := (t.agent a).ctx.dirty } ∧
        ∀ x, byteAt t.mem.bytes x = (tabGet x g.chunk.held).getD (byteAt s.mem.bytes x)) ∧
    (m.act = .running → m.mark = .none → m.got = [] → m.ctx.uiPending = true → m.ctx.inHandler = false → m.chunk.count = 0 →
      ∃ t, exec (.userInterruptEntry core) s = .next t ∧ t.mem = s.mem ∧
        let c := (t.agent ⟨core, .main⟩).ctx
        c.uiin = true ∧ c.uiSave = m.ctx.upper ∧ c.pc = BitVec.ofNat 64 (m.ctx.uivec.toNat / 8 * 8) ∧ c.slot = false ∧
          c.uiPc = BitVec.ofNat 64 (m.ctx.pc.toNat / 8 * 8 + 4 * bitNat m.ctx.slot) ∧ c.reg 24 = m.ctx.uip.zeroExtend 64 ∧
          (m.ctx.uip[0] = true → c.reg 25 = m.src0) ∧ (m.ctx.uip[0] = false → m.ctx.uip[1] = true → c.reg 25 = m.src1) ∧
          (∀ r : Reg, r.toNat < 24 → c.reg r = m.ctx.reg r) ∧ c.tiles = m.ctx.tiles ∧ c.tin = m.ctx.tin) ∧
    ((s.core core).gated = true → (exec (.coreWake core []) s = .next (s.modCore core fun k => { k with gated := false })) ∧
      ∀ code, hasDirtyBit code = true → (s.job (jobKey m.asid m.job)).volatile code = false → m.parity = none →
        ∃ t, exec (.coreWake core [code]) s = .next t ∧ (t.core core).gated = false ∧
          t.agent ⟨core, .main⟩ = { m with parity := some code }) ∧
    (s.coreExists core = true → s.coreEmpty core = true → (s.core core).idle + 20000 ≤ s.now →
      exec (.coreGate core) s = .next (s.modCore core fun k => { k with gated := true })) ∧
    (∃ t, exec (.tableRecheckDone a) s = .next t ∧ t.agent a = { g with ctx := { g.ctx with recheck := false } } ∧ t.mem = s.mem) ∧
    (∀ k, g.ctx.preset = some k → g.chunk.count = 0 → (s.focus a).reserved (tableLines a.core) = false →
      ∃ t, exec (.presetLoad a) s = .next t ∧ (t.agent a).ctx.preset = none ∧ (t.agent a).ctx.recheck = true ∧
        (t.agent a).ctx.regs = g.ctx.regs ∧ bytesAt t.mem.bytes (tableAddr a.core 0) 1024 = presetBytes k)

/-- R35, R36, R37, R38, R113, R150, R196, R417: what wakes a sleeper: a `WAIT` that evaluates again, its timeout, an `AFADD` held for 1 ms, room in a
stage's queue, a load whose target stays unreachable for 1 ms, and the summary that finds a job hung for the second time. That a `WAIT` looked at past its
deadline has expired, whatever it then finds, is the model's reading (log entry 81). -/
def Obligations.WaitEvents : Prop :=
  ∀ (s : State) (a : AgentId),
    let g := s.agent a
    (∀ cs any d fk n bs, g.act = .asleep (.wait cs any d fk) n → s.lookAt a cs = .ok bs →
      let u := s.asAgent a (·.pinConds cs)
      let f := g.forget cs
      ((∀ x, d = some x → s.tick ≤ x) →
        (modeMet any bs = true →
          exec (.waitEvaluate a) s = .next (u.setAgent a { f with act := .running, mark := .value (waitResult bs false) })) ∧
        (modeMet any bs = false →
          exec (.waitEvaluate a) s = .next (u.setAgent a { f with act := .asleep (.wait cs any d (firstFalse cs bs)) n })) ∧
        (d = some s.tick → modeMet any bs = true →
          exec (.waitTimeout a) s = .next (u.setAgent a { f with act := .running, mark := .value (waitResult bs false) }))) ∧
      (∀ x, d = some x → x < s.tick →
        exec (.waitEvaluate a) s = .next (u.setAgent a { f with act := .running, mark := .value (waitResult bs true) }) ∧
        exec (.waitTimeout a) s = .next (u.setAgent a { f with act := .running, mark := .value (waitResult bs true) })) ∧
      (∀ x, d = some x → x ≤ s.tick → modeMet any bs = false →
        exec (.waitTimeout a) s = .next (u.setAgent a { f with act := .running, mark := .value (waitResult bs true) })) ∧
      (∀ x, d = some x → s.tick < x → exec (.waitTimeout a) s = .next s)) ∧
    (∀ addr fm v q p o n i, s.agent (agentOfKey i) = g → g.act = .asleep (.hold addr fm v q p o) n → n + 1000000 ≤ s.now →
      exec (.afaddHoldTimeout i) s = .next (s.setAgent (agentOfKey i) { g with act := .running, mark := .trap .seqgap p })) ∧
    (∀ k n, g.act = .asleep k n → s.queueOpen a g.asid k = true →
      exec (.stageQueueRoom a) s = .next (s.setAgent a { g with act := .running })) ∧
    (∀ id n x, g.act = .asleep (.ext id) n → s.extOp id = some x → x.host = false → x.since + 1000000 ≤ s.now →
      ∃ t, exec (.peerLoadTimeout a) s = .next t ∧ t.agent a = { g with act := .running, got := g.got ++ [(x.ptr, x.op, .error .peerdead)] } ∧
        t.extOp id = none ∧ t.mem = s.mem) ∧
    (s.sumAt + 10000 ≤ s.now → s.hung = [] → exec .waitTableSummary s =
      .next { s with sumAt := s.now, hung := (s.jobs.filter fun kj => s.quiet kj.1 kj.2).map (·.1) }) ∧
    (∀ j v, s.sumAt + 10000 ≤ s.now → s.jobs = [(s.myJob, j)] → s.quiet s.myJob j = true → s.myJob ∈ s.hung → s.me.act ≠ .idle →
      ({ s with sumAt := s.now, hung := [s.myJob] } : State).listed s.cur s.me = some v →
      ∃ t, exec .waitTableSummary s = .next t ∧ t.me.act = .running ∧ t.me.mark = .trap .hang v) ∧
    (s.now < s.sumAt + 10000 → exec .waitTableSummary s = .next s)

/-! ## Events of pipelines, groups and the ordered class -/

/-- R150, R151, R153, R154: a router sends a record to a stage; the effects of a record that leaves its set are performed and it moves on; and the scheduler moves a
core to another stage. That a record which left a set before has its effects performed again at a later stage outside every set is the model's
reading (log entry 68). Of stages with equal fill fractions the lowest-numbered counts as lowest and as highest (the model's choice, log entry
92). -/
def Obligations.PipelineEvents : Prop :=
  ∀ (s : State) (asid p k : Nat) (x : Pipe), tabGet (pipeKey asid p) s.pipes = some x → s.isOff x.job = false →
    let key := pipeKey asid p
    (∀ r i l, x.routable (s.fixedOrder key) k = some (r, i, l) →
      let u := if s.fixedOrder key then s else s.modPipe key fun y => { y with lfsr := tabSet k l y.lfsr }
      let v := u.modPipe key (·.toQueue r.slot i)
      (∀ t, stampSlot key r.slot v = .ok ((), t) → exec (.speedwellRoute asid p k) s = .next t) ∧
      (stampSlot key r.slot v = .error .wait → exec (.speedwellRoute asid p k) s = .next s) ∧
      ∃ y z, tabGet key v.pipes = some y ∧ z ∈ y.recs ∧ z.slot = r.slot ∧ z.stage = i ∧ z.at_ = .queue i ∧ y.seq = x.seq) ∧
    (∀ r, x.settles = some (r, none) → pSet x.desc r.stage ≠ 0 → pSet x.desc r.stage ∈ r.left →
      ∃ t y, exec (.deferredEffects asid p) s = .next t ∧ tabGet key t.pipes = some y ∧ t.mem = s.mem ∧ ∀ z ∈ y.recs, z.slot ≠ r.slot) ∧
    (∀ r n t, x.settles = some (r, n) → (pSet x.desc r.stage = 0 ∨ pSet x.desc r.stage ∉ r.left) →
      let c := pSet x.desc r.stage
      (∀ u, settleEffects key r s = .ok (none, t) →
        moveOn key r n (t.modPipe key fun y => y.modRec r.slot fun z => { z with left := c :: z.left }) = .ok ((), u) →
        exec (.deferredEffects asid p) s = .next u) ∧
      (∀ e u, settleEffects key r s = .ok (some e, t) → endJob x.job e.code true t = .ok ((), u) →
        exec (.deferredEffects asid p) s = .next u) ∧
      (settleEffects key r s = .error .wait → exec (.deferredEffects asid p) s = .next s)) ∧
    (∀ r ws k v xs t u, k = 0 →
      writeAt (s.whoPipe key r) true (wordAt ws (2 + 2 * v)) { rd := false, wr := true, n := 8, align := 8, cap := false }
        (wordBytes 8 (wordAt ws (3 + 2 * v))) s = .ok ((), t) →
      performAll key r ws xs t = .ok (none, u) → performAll key r ws ((v, k) :: xs) s = .ok (none, u)) ∧
    (∀ low high c, (s.job x.job).det = false → x.movedAt + 10000 ≤ s.now → x.coreMove = some (low, high) →
      ((x.assign.filter fun a => (tabGet a.1 x.moves).getD a.2 == low).map (·.1)).getLast? = some c →
      ∃ t y, exec (.pipelineCoreMove asid p) s = .next t ∧ tabGet key t.pipes = some y ∧ y.movedAt = s.now ∧ t.mem = s.mem ∧
        ((∃ n, (s.agent ⟨c, .main⟩).act = .asleep .pdeq n) → tabGet c y.moves = some high ∧ y.assign = x.assign) ∧
        ((∀ n, (s.agent ⟨c, .main⟩).act ≠ .asleep .pdeq n) → tabGet c y.assign = some high))

/-- R60, R179, R181, R183, R184, R185, R187: an item at its node is kept and acknowledged, or relayed; a whole result becomes present and raises source 2; an acknowledged
item is done with; a timer that expires flushes its chunk; notices mark a member LATE or route a child anew; and the slack offset follows the average of the
last slacks. -/
def Obligations.GroupEvents : Prop :=
  ∀ (s : State) (core n : Nat) (g : GSlot) (it : GItem),
    let key := core * 64 + n
    (s.isHere it.src = true → it ∈ s.fab.items → s.isHere it.node = false → s.reaches it.node = true →
      exec (.groupItemArrive it) s = .next { s with fab := { s.fab with items := s.fab.items.erase it, out := s.fab.out ++ [.item it] } }) ∧
    (s.slot core n = some g → nodeCore it.node = core → it.group = n → s.isHere it.src = true → it ∈ s.fab.items → s.isHere it.node = true →
      s.nodeOff key it = false → s.tooEarly it = false → g.job / 2 ^ 32 = it.asid → g.dead = false → it.dir = .down → gRoot g.desc = false →
      sameNode (gParent g.desc) it.src = true →
      gKind g.desc = 0 → g.knowsResult it = false → gChildren g.desc = [] →
      ∃ t, exec (.groupItemArrive it) s = .next t ∧ tabGet key t.groups = some (g.putResult it.round it.chunk it.body) ∧ it ∈ t.fab.acks ∧ t.mem = s.mem) ∧
    (∀ r, s.slot core n = some g → g.arriving = some r → gSelf g.desc = true → g.dead = false →
      ∃ t y, exec (.groupResultArrive core n) s = .next t ∧ tabGet key t.groups = some y ∧ r ∈ y.present ∧ t.mem = s.mem ∧
        ((s.agent ⟨core, .main⟩).asid = g.job / 2 ^ 32 → (s.agent ⟨core, .main⟩).ctx.uien[2] = true → (t.agent ⟨core, .main⟩).ctx.uip[2] = true)) ∧
    (tabGet key s.groups = some g → g.unacked.find? s.fab.acks.contains = some it →
      (∀ kg ∈ s.groups, kg.1 / 64 = core → kg.2.held = []) →
      ∃ t y, exec (.groupAck core n) s = .next t ∧ tabGet key t.groups = some y ∧ y.unacked = g.unacked.erase it ∧
        (g.held = [] → g.parked = [] → (∀ x ∈ g.unacked.erase it, g.mine x = false) → y.sending = false) ∧ t.mem = s.mem) ∧
    (tabGet key s.groups = some g → g.unacked.find? s.fab.acks.contains = none → s.ackers g ≠ [] →
      (∀ kg ∈ s.groups, kg.1 / 64 = core → kg.2.held = []) →
      ∃ w ∈ s.ackers g, ∃ x t y, (g.unacked.find? fun x => s.farAcks x && some w == some x.node) = some x ∧
        exec (.groupAck core n) s = .next t ∧ tabGet key t.groups = some y ∧ y.unacked = g.unacked.erase x ∧ t.mem = s.mem) ∧
    (∀ q x, s.slot core n = some g → (g.timers.find? fun t => t.1 % 1024 == q && t.2 + 2 ^ (gToe g.desc + 9) ≤ s.tick &&
        (expected g.desc).any fun i => (g.operand (t.1 / 1024) q i).isNone) = some x →
      exec (.groupTimeout core n q) s = .next (((s.takeDoor key (x.1 / 1024) q).modGroup key (·.flush (x.1 / 1024) q)).combine key (x.1 / 1024) q)) ∧
    (∀ deep, s.slot core n = some g → (s.fab.lates.find? fun x => x.1 == core && x.2.1 == n) = some (core, n, g.job / 2 ^ 32, deep) →
      gSelf g.desc = true →
      ∃ t, exec (.lateNoticeArrive core n) s = .next t ∧ tabGet key t.groups = some { g with late := true } ∧ t.mem = s.mem) ∧
    (∀ c relay, s.slot core n = some g → c ∈ gChildren g.desc → ∃ t y, exec (.routeNoticeArrive core n c relay) s = .next t ∧
      tabGet key t.groups = some y ∧ tabGet c y.relays = some relay ∧ t.mem = s.mem) ∧
    (s.plant.slackAt + 50000 ≤ s.now → (s.pairs.any fun p => p.2.tthr != 0) = false → s.plant.slacks ≠ [] →
      let sum := s.plant.slacks.foldl (· + ·) 0
      let len := s.plant.slacks.length
      (2000 * len < sum → exec .slackWindow s = .next { s with plant := { s.plant with soff := min 3 (s.plant.soff + 1), slackAt := s.now } }) ∧
      (sum < 500 * len → exec .slackWindow s = .next { s with plant := { s.plant with soff := s.plant.soff - 1, slackAt := s.now } })) ∧
    (s.plant.slackAt + 50000 ≤ s.now → (s.pairs.any fun p => p.2.tthr != 0) = true →
      exec .slackWindow s = .next { s with plant := { s.plant with soff := 0, slackAt := s.now } })

/-- R122, R123, R124, R125, R126, R127, R336: a packet is stamped and numbered at injection; arrivals raise a port's watermark; a quiet link sends a beacon; packets below the
delivery watermark enter their queues in key order; a stall halts delivery; a dead link's port is frozen, and leaves the minima with its close beacon; and a message
enters its inbox. -/
def Obligations.OrderedEvents : Prop :=
  ∀ (s : State) (port asid : Nat),
    let i := (tabGet port s.ord.inp).getD {}
    (∀ x, (s.ord.inject.find? fun x => s.performed x.cov) = some x → ∃ t, exec .orderedInject s = .next t ∧
      t.ord.prevSeq = (s.ord.prevSeq + 1) % 2 ^ 64 ∧ t.ord.prevStamp = max s.podt s.ord.prevStamp ∧ t.ord.inject = s.ord.inject.erase x ∧ t.mem = s.mem) ∧
    (∀ b, s.linked port = true → i.frozen = false → i.removed = false → i.stuck = false → ∃ t, exec (.orderedPacketArrive port (.beacon b)) s = .next t ∧
      ((tabGet port t.ord.inp).getD {}).wm = max i.wm b ∧ t.mem = s.mem ∧ ∀ q, q ≠ port → tabGet q t.ord.inp = tabGet q s.ord.inp) ∧
    (∀ x, x.tag = none → s.linked port = true → i.frozen = false → i.removed = false → i.stuck = false → ∃ t, exec (.orderedPacketArrive port (.packet x)) s = .next t ∧
      ((tabGet port t.ord.inp).getD {}).wm = max i.wm x.stamp ∧ t.ord.seen = x :: s.ord.seen ∧ t.mem = s.mem) ∧
    (let u := s.flushPorts;
      (u.sends port = true → (u.outPort port).sentAt + 256 ≤ u.now → ∃ t, exec (.orderedBeacon port) s = .next t ∧ t.mem = u.mem ∧
        t.fab.out = u.fab.out ++ [.beacon port (u.bound port)] ∧ (t.outPort port).sentAt = u.now) ∧
      (u.sends port = false ∨ u.now < (u.outPort port).sentAt + 256 → exec (.orderedBeacon port) s = .next u)) ∧
    (∀ x, s.ord.local_ = [x] → x.asid = asid → tabGet asid s.ord.halted = none →
      let q := (tabGet (queueKey x) s.ord.queues).getD []
      (x.stamp < s.deliveryMark → q.length < 64 → ∃ t, exec (.orderedDeliver asid) s = .next t ∧ t.ord.local_ = [] ∧
        tabGet (queueKey x) t.ord.queues = some (q ++ [x]) ∧ t.mem = s.mem) ∧
      (x.stamp < s.deliveryMark → 64 ≤ q.length → ∃ t, exec (.orderedDeliver asid) s = .next t ∧ t.ord.local_ = [x] ∧
        tabGet (queueKey x) t.ord.fullAt = some ((tabGet (queueKey x) s.ord.fullAt).getD s.now) ∧ t.ord.queues = s.ord.queues ∧
        t.mem = s.mem) ∧
      (s.deliveryMark ≤ x.stamp → exec (.orderedDeliver asid) s = .next s)) ∧
    (i.frozen = true → i.stuck = false → ∃ t, exec (.closeBeaconArrive s.dev.devId port) s = .next t ∧
      ((tabGet port t.ord.inp).getD {}).removed = true ∧ t.mem = s.mem) ∧
    (i.frozen = false ∨ i.stuck = true → exec (.closeBeaconArrive s.dev.devId port) s = .next s) ∧
    (∀ w, s.live asid = true → tabGet asid s.ord.halted = none → s.stalledMark asid = some w → ∃ t, exec (.watermarkStall asid) s = .next t ∧
      tabGet asid t.ord.halted = some w ∧ t.mem = s.mem ∧ (∀ n, s.me.asid = asid → s.me.act = .asleep .orecv n →
        t.me.act = .running ∧ t.me.mark = .trap .watermark (BitVec.ofNat 64 w))) ∧
    (s.linked port = true → port ∉ s.fab.deadPorts → ∃ t, exec (.felrilLinkDeath port) s = .next t ∧ port ∈ t.fab.deadPorts ∧ (t.outPort port).dead = true ∧
      ((tabGet port t.ord.inp).getD {}).frozen = true ∧ t.mem = s.mem) ∧
    (∀ m f, s.isHere m.src = true → s.fab.msgs = [f] → f.msg = m → f.id = none → s.hasBox m = true → s.boxOpen m.core = true →
      ∃ t, exec (.messageArrive m) s = .next t ∧ t.fab.msgs = [] ∧ (t.core m.core).inbox = (s.core m.core).inbox ++ [(m.payload, m.src)] ∧
        t.mem = s.mem)


/-! ## Events of the dispatcher and of the job queues -/

/-- R24, R26, R28, R29, R31, R42, R43, R44, R45, R54, R202, R422: the head slot of a stream is taken or waits for clusters; a span is placed once
its cores are clear; a bag's next record enters a cluster's queue, becomes READY and is claimed by a core; and a finished job writes its
completion word. Who reads a record, and how a failing header ends its span, are the model's readings (log entry 76), as is where a completion word may
lie (log entry 70); that a task starts with `UIVEC` 0 is its choice (log entry 90). -/
def Obligations.DispatchEvents : Prop :=
  ∀ (s : State),
    (∀ st x pa ws, tabGet st s.streams = some x → s.headSlot st = .slot pa ws →
      (s.mustWait st x ws = true → exec (.takeSlot st) s = .next { s with
        streams := tabSet st { x with waitAt := some (x.waitAt.getD s.now) } s.streams }) ∧
      (s.mustWait st x ws = false → s.nextStream = some st →
        let u := s.freeSlot st x pa
        (∀ c, u.donepCheck x.asid ws = .error c → exec (.takeSlot st) s = .next (u.streamError st x.head c.code)) ∧
        (∀ p, u.donepCheck x.asid ws = .ok p → jKind ws ≤ 1 → (jKind ws = 0 → jGangs ws ≤ (s.clustersOf x.asid).length) →
          ∃ t j, exec (.takeSlot st) s = .next t ∧ t.lastTaken = st ∧ tabGet (jobKey x.asid (s.nextJob x.asid)) t.jobs = some j ∧
            j.bag = (jKind ws == 1) ∧ j.entry = wordAt ws 1 ∧ j.arg = wordAt ws 2 ∧ j.donep = wordAt ws 3 ∧ j.det = jDet ws ∧
            t.mem.bytes = s.mem.bytes ∧ pa ∉ t.mem.tags ∧
            ∃ y, tabGet st t.streams = some y ∧ y.head = (x.head + 1) % 2 ^ x.logn ∧ y.waitAt = none))) ∧
    (∀ st x slot code, tabGet st s.streams = some x →
      tabGet st (s.streamError st slot code).streams = some { x with eslot := slot, ecause := code, jerr := true }) ∧
    (∀ st x t0, tabGet st s.streams = some x → x.waitAt = some t0 →
      (t0 + 1000000 ≤ s.now → exec (.spanWait1ms st) s = .next { s with streams := tabSet st { x with blocks := true } s.streams }) ∧
      (s.now < t0 + 1000000 → exec (.spanWait1ms st) s = .next s)) ∧
    (∀ j, tabGet (jobKey j.asid j.id) s.jobs = some j → j.bag = false → j.stage = .waiting → (∀ k ∈ j.gangs, s.usable k = true) →
      (∀ c ∈ j.cores, s.vacant c = true) → (∀ c ∈ j.cores, (s.agent ⟨c, .main⟩).task = none) →
      (∀ c u, readKernel j s = .error (.fails c []) → completeWith (jobKey j.asid j.id) j c.code s = .ok ((), u) →
        exec (.spanPlace j.asid j.id) s = .next u) ∧
      (∀ h l st k u, readKernel j s = .ok ((h, l, st), u) → tabGet (jobKey j.asid j.id) u.jobs = some j → j.gangs = [k] → j.nstr = 1 →
        ∃ t, exec (.spanPlace j.asid j.id) s = .next t ∧
        tabGet (jobKey j.asid j.id) t.jobs = some { j with stage := .running, hdr := h } ∧
        bytesAt t.mem.bytes (tableAddr (8 * k) 0) 1024 = presetBytes 1 ∧
        (imageLen h false ≠ 0 → (t.agent ⟨8 * k, .loader⟩).act = .running ∧ (t.agent ⟨8 * k, .loader⟩).ctx.pc = wordAt h 1) ∧
        let g := t.agent ⟨8 * k, .main⟩
        g.act = .running ∧ g.asid = j.asid ∧ g.job = j.id ∧ g.gang = 0 ∧ g.ctx.pc = wordAt h 0 ∧ g.ctx.uivec = wordAt h 4 ∧
          g.ctx.reg 1 = j.arg ∧ ∀ r, r ≠ 1 → g.ctx.reg r = 0)) ∧
    (∀ j p, tabGet (jobKey j.asid j.id) s.jobs = some j → j.next = some p → s.queueLoad (s.nextCluster j.asid) < 256 →
      let key := jobKey j.asid j.id
      let w := s.recWho j
      (∀ u, p.toNat % 64 ≠ 0 → endJob key (Cause.align).code true s = .ok ((), u) → exec (.bagRecordEnter j.asid j.id) s = .next u) ∧
      (∀ c u, p.toNat % 64 = 0 → recRead w p 0 64 s = .error (.fails c []) → endJob key c.code true s = .ok ((), u) →
        exec (.bagRecordEnter j.asid j.id) s = .next u) ∧
      (∀ bs a b u, p.toNat % 64 = 0 → recRead w p 0 64 s = .ok (bs, a) → recWrite w p 0x38 (leBytes 8 j.id) a = .ok ((), b) →
        recState w p 0 b = .ok ((), u) → tabGet key u.jobs = some j →
        let link := wordAt (leWords 8 bs) 2
        ∃ v y, exec (.bagRecordEnter j.asid j.id) s = .next v ∧ v.mem = u.mem ∧ tabGet key v.jobs = some y ∧
          y.recs = j.recs ++ [({ ptr := p, at_ := .waiting, cluster := s.nextCluster j.asid, entry := true } : Rec)] ∧ (link = 0 → y.next = none) ∧
          (link ∈ p :: j.taken → y.next = none) ∧ (link ≠ 0 → link ∉ p :: j.taken → y.next = some link) ∧
          tabGet j.asid v.bagRot = some (s.nextCluster j.asid))) ∧
    (∀ asid p j r, s.waitingRec asid p = some (j, r) →
      let w := s.recWho j
      (r.entry = false → 256 ≤ s.queueLoad r.cluster → exec (.recordReady asid p) s = .next s) ∧
      (∀ bs a, (r.entry = true ∨ s.queueLoad r.cluster < 256) → recRead w p 0 64 s = .ok (bs, a) →
        let n := wbits (wordAt (leWords 8 bs) 1) 36 3
        let cs := ((leWords 8 bs).drop 3).take n
        (∀ b t, ((5 ≤ n ∧ b = a) ∨ (n < 5 ∧ condsReady w cs a = .ok (true, b))) → recState w p 1 b = .ok ((), t) →
          ∃ v, exec (.recordReady asid p) s = .next v ∧ v.mem = t.mem ∧ (v.cluster r.cluster).tasks =
            (t.cluster r.cluster).tasks ++ [⟨p, asid, j.id, wbits (wordAt (leWords 8 bs) 1) 32 3, t.now, none, false⟩]) ∧
        (∀ b, n < 5 → condsReady w cs a = .ok (false, b) → exec (.recordReady asid p) s = .next b))) ∧
    (∀ core asid k e, s.asidOfPair (pairOf (clusterOf core)) = some asid → s.mayClaim core = true →
      s.sourceCluster asid (clusterOf core) = some k → bestTask s.now (s.cluster k).tasks = some e →
      (∀ g table, e.image = some (g, table) → table.length = 1024 → e.soft = false →
        ∃ t, exec (.claimRecord core) s = .next t ∧ t.agent ⟨core, .main⟩ = g.goOn ∧
          bytesAt t.mem.bytes (tableAddr core 0) 1024 = table ∧ (t.cluster k).tasks = (s.cluster k).tasks.erase e) ∧
      (∀ g u, e.image = some g → e.soft = true → endJob (jobKey e.asid e.job) (Cause.soft).code true s = .ok ((), u) →
        exec (.claimRecord core) s = .next u) ∧
      (e.image = none →
        let key := jobKey e.asid e.job
        let a : AgentId := ⟨core, .main⟩
        let u := s.modCluster k fun c => { c with tasks := c.tasks.erase e }
        let w : Who := { u.whoOf e.asid key a with wgen := 0 }
        ∀ bs bad tail b c d f, recState w e.ptr 2 u = .ok ((), b) → recRead w e.ptr 0 64 b = .ok (bs, c) →
          headBad w (leWords 8 bs) c = .ok (bad, d) → readTail w e.ptr (leWords 8 bs) d = .ok (tail, f) →
          let v := ((f.setAgent a (f.freshTask e core (leWords 8 bs) tail)).draw e.asid 128).moveRec key e.ptr (.running core)
          (bad = false → exec (.claimRecord core) s = .next v ∧ (v.agent a).act = .running ∧ (v.agent a).task = some e.ptr ∧
            (v.agent a).ctx.pc = BitVec.ofNat 64 ((wordAt (leWords 8 bs) 0).toNat / 8 * 8)) ∧
          (∀ x, bad = true → trapAt a .illegal (wordAt (leWords 8 bs) 1) v = .ok ((), x) → exec (.claimRecord core) s = .next x))) ∧
    (∀ j, tabGet (jobKey j.asid j.id) s.jobs = some j →
      (s.finished (jobKey j.asid j.id) j = false → exec (.jobComplete j.asid j.id) s = .next s) ∧
      (∀ u, s.finished (jobKey j.asid j.id) j = true → j.det = false → flushJob j.asid (jobKey j.asid j.id) s = .ok ((), u) →
        let c := u.clearJob (jobKey j.asid j.id)
        let w : Who := { c.whoOf j.asid (jobKey j.asid j.id) ⟨0, .main⟩ with det := false }
        (∀ e, c.donepPlace w j.donep 8 = .error e → exec (.jobComplete j.asid j.id) s = .next (c.streamError j.stream j.slotIx e.code)) ∧
        (∀ pl v, c.donepPlace w j.donep 8 = .ok pl → finishAt w j.donep 0 (u.jobOutside (jobKey j.asid j.id)) pl c = .ok ((), v) →
          exec (.jobComplete j.asid j.id) s = .next v)) ∧
      (∀ pa u, s.finished (jobKey j.asid j.id) j = true → j.det = false → flushJob j.asid (jobKey j.asid j.id) s = .ok ((), u) →
        let c := u.clearJob (jobKey j.asid j.id)
        let w : Who := { c.whoOf j.asid (jobKey j.asid j.id) ⟨0, .main⟩ with det := false }
        hWin (c.handle j.asid (handleOf j.donep)) = 0 → c.donepPlace w j.donep 8 = .ok (.mem [(pa, 8)]) → pa + 8 ≤ 2 ^ 44 → c.ownedNot none (segLines [(pa, 8)]) = false →
        c.reservedAny (segLines [(pa, 8)]) = false →
        ∃ t, exec (.jobComplete j.asid j.id) s = .next t ∧ tabGet (jobKey j.asid j.id) t.jobs = none ∧
          bytesAt t.mem.bytes pa 8 = leBytes 8 1 ∧ pa ∈ t.mem.tags))

/-- R128, R140, R142, R143, R144, R146, R147, R423: a queue entry becomes READY; engine and copy unit take their destination at issue, make their
steps and rows, and complete; the licence's move parks a job and its return unparks it; and a moving job enters the twin's queue. That the
accumulators stand in the buffer of `PARKP` row by row is the model's choice (log entry 47). -/
def Obligations.EngineEvents : Prop :=
  ∀ (s : State) (k : Nat),
    (∀ id, exec (.jobQueueReady k id) s = .next (((s.cluster k).entries.filter fun q => q.id == id && q.st == .waiting).foldl
      (fun s q => s.attempt (testQ k q)) s)) ∧
    (∀ id q, ((s.cluster k).entries.filter fun q => q.id == id && q.st == .waiting) = [q] →
      (∀ t, condsReady (s.whoQ q) q.conds s = .ok (true, t) → exec (.jobQueueReady k id) s = .next (t.readyQ k q)) ∧
      (∀ t, condsReady (s.whoQ q) q.conds s = .ok (false, t) → exec (.jobQueueReady k id) s = .next t) ∧
      (∀ c u, condsReady (s.whoQ q) q.conds s = .error (.fails c []) → endQ k q c.code false s = .ok ((), u) →
        exec (.jobQueueReady k id) s = .next u)) ∧
    (∀ q, s.holdsLic k = true → (s.cluster k).eng = none → s.parkedJob k = none → s.readyJob k false = some q →
      (∀ c u, s.engineFault q = some c → endQ k q c.code false s = .ok ((), u) → exec (.engineIssue k) s = .next u) ∧
      (s.engineFault q = none → s.ownedNot (some q.key) (s.linesAt q 64 q.cLines) = false → s.reservedAny (s.linesAt q 64 q.cLines) = false →
        ∃ t, exec (.engineIssue k) s = .next t ∧ (t.cluster k).eng = some q.key ∧
          t.mem.bytes = s.mem.bytes ∧ ∀ l ∈ s.linesAt q 64 q.cLines, tabGet l t.mem.owned = some q.key)) ∧
    (∀ q, s.engineJob k = some q → s.holdsLic k = true → q.mi < q.mBlocks →
      let step (acc : List W32) : QJob := { q with ki := q.ki + 1, acc := acc }
      (∀ acc a, q.ki + 1 < q.kSteps → stepResult q s = .ok (acc, a) →
        exec (.engineStep k) s = .next ((a.modQ k q.key fun _ => step acc).countSteps k)) ∧
      (∀ acc a p b, q.ki + 1 = q.kSteps → stepResult q s = .ok (acc, a) →
        writeBlock (step acc) acc ((a.modQ k q.key fun _ => step acc).countSteps k) = .ok (p, b) →
        exec (.engineStep k) s = .next (b.modQ k q.key fun _ => p.nextBlock)) ∧
      (∀ p b, q.kSteps ≤ q.ki → writeBlock q q.acc s = .ok (p, b) → exec (.engineStep k) s = .next (b.modQ k q.key fun _ => p.nextBlock)) ∧
      (q.ki < q.kSteps → stepResult q s = .error .wait → exec (.engineStep k) s = .next s) ∧
      (∀ x, q.ki < q.kSteps → stepResult q s = .error (.ask x) → exec (.engineStep k) s = .next (s.askOutside x)) ∧
      (∀ c u, q.ki < q.kSteps → stepResult q s = .error (.fails c []) → endQ k q c.code true s = .ok ((), u) → exec (.engineStep k) s = .next u)) ∧
    (∀ q u, s.engineJob k = some q → q.mBlocks ≤ q.mi → endQ k q 0 true s = .ok ((), u) →
      exec (.engineComplete k) s = .next (u.licMoved (pairOf k))) ∧
    (∀ q, (s.cluster k).cpy = none → s.readyJob k true = some q → (q.handles = [] → s.copyFault q = none) →
      s.ownedNot (some q.key) (s.copyLines q) = false → s.reservedAny (s.copyLines q) = false →
      ∃ t, exec (.copyIssue k) s = .next t ∧ (t.cluster k).cpy = some q.key ∧ t.mem.bytes = s.mem.bytes ∧
        ∀ l ∈ s.copyLines q, tabGet l t.mem.owned = some q.key) ∧
    (∀ q dst, s.copyJob k = some q → q.rows < q.nRows → s.jobPlace q (q.toRow q.rows) q.len true = .ok dst →
      let next : QJob := { q with rows := q.rows + 1 }
      (∀ b c, q.fill = true → unitWrite q (q.toRow q.rows) q.fillRow dst s = .ok ((), b) →
        report q 0x50 (BitVec.ofNat 64 (q.rows + 1)) b = .ok ((), c) → exec (.copyRow k) s = .next (c.modQ k q.key fun _ => next)) ∧
      (∀ src bs a b c, q.fill = false → s.jobPlace q (q.fromRow q.rows) q.len false = .ok src →
        unitRead q q.len (q.fromRow q.rows) s = .ok (bs, a) → unitWrite q (q.toRow q.rows) (a.rowBytes src dst bs) dst a = .ok ((), b) →
        report q 0x50 (BitVec.ofNat 64 (q.rows + 1)) b = .ok ((), c) → exec (.copyRow k) s = .next (c.modQ k q.key fun _ => next))) ∧
    (∀ q xs ys, s.jobPlace q (q.fromRow q.rows) q.len false = .ok (.mem xs) → (∀ g ∈ xs ++ ys, g.1 + g.2 ≤ 2 ^ 44) →
      hWin (s.jobHandle q (q.fromRow q.rows)) = 0 → hWin (s.jobHandle q (q.toRow q.rows)) = 0 →
      s.ownedNot (some q.key) (segLines xs) = false → s.ownedNot (some q.key) (segLines ys) = false → s.reservedAny (segLines ys) = false →
      meets (segLines xs) s.mem.poison = false → s.hitRecs ys = [] →
      ∃ bs a b, unitRead q q.len (q.fromRow q.rows) s = .ok (bs, a) ∧
        unitWrite q (q.toRow q.rows) (a.rowBytes (.mem xs) (.mem ys) bs) (.mem ys) a = .ok ((), b) ∧
        ∀ y, byteAt b.mem.bytes y = byteAt (copyBytes s.mem.bytes (segAddrs xs) (segAddrs ys)) y) ∧
    (∀ q, s.copyJob k = some q → q.nRows ≤ q.rows → ∀ u, endQ k q 0 true s = .ok ((), u) → exec (.copyComplete k) s = .next u) ∧
    (∀ q sts, let u := s.takeOutQ k q
      (∀ x ∈ (u.cluster k).queue, x.key ≠ q.key) ∧ (∀ l, tabGet l u.mem.owned ≠ some q.key) ∧
      (∀ a b, flushQ q u = .ok ((), a) → writeDone (a.whoQ q) q.donew sts a = .ok ((), b) → q.note = false → q.copy = true →
        endQ k q sts true s = .ok ((), b.noteDone q sts)) ∧
      (∀ a, flushQ q u = .ok ((), a) → q.copy = true →
        endQ k q sts false s = .ok ((), (a.noteDone q sts).raiseUI q.pub.core q.owner q.task 1 (BitVec.ofNat 64 q.id))) ∧
      (∀ a, flushQ q u = .ok ((), a) → q.copy = false →
        endQ k q sts false s = .ok ((), ((a.noteDone q sts).raiseUI q.pub.core q.owner q.task 0 (BitVec.ofNat 64 q.id)).licSettle (pairOf k)))) ∧
    (∀ q p t, (s.pair (pairOf k)).moving.isSome = true → (s.pair (pairOf k)).holder = some (onDieU k) → s.engineJob k = some q →
      (∀ u, q.mBlocks ≤ q.mi → endQ k q 0 true s = .ok ((), u) → exec (.park k) s = .next (u.licMoved (pairOf k))) ∧
      (∀ a b, q.mi < q.mBlocks → (q.ki < q.kSteps → kStep k q s = .ok (p, t)) → (q.kSteps ≤ q.ki → p = q ∧ t = s) →
        unitWrites p [(p.word 11, (List.range 1024).flatMap fun i => leBytes 4 (p.acc.getD i 0).toNat)] t = .ok ((), a) →
        report p 0x60 (BitVec.ofNat 64 (p.mi + p.ni * 2 ^ 16 + p.ki % 2 ^ 16 * 2 ^ 32 + 2 ^ 63)) a = .ok ((), b) →
        let v := ((b.modCluster k Cluster.noFirst).modQ k p.key fun q => { q with st := .parked, prkd := true, first := true }).modCluster k
          fun c => { c with eng := none }
        exec (.park k) s = .next (v.licMoved (pairOf k)))) ∧
    (∀ q bs a, s.holdsLic k = true → (s.cluster k).eng = none → s.parkedJob k = some q → q ∈ (s.cluster k).queue →
      unitRead q 4096 (q.word 11) s = .ok (bs, a) → exec (.unpark k) s = .next ((a.modQ k q.key fun x =>
        { x with st := .running, acc := (splitElems 4 1024 bs).map fun y => BitVec.ofNat 32 y, first := false }).modCluster k fun c =>
          { c with eng := some q.key })) ∧
    (∀ q qs, (s.cluster k).incoming = q :: qs →
      ((s.queueUsed k < 64 ∨ q.from_ = some k) → exec (.jobMove k) s = .next ((s.modCluster k fun c =>
        { c with queue := insertQ { q with from_ := none } c.queue, incoming := qs }).licSettle (pairOf k))) ∧
      (64 ≤ s.queueUsed k → q.from_ ≠ some k → exec (.jobMove k) s = .next (s.licSettle (pairOf k))))


/-! ## Events from outside and of the plant -/

/-- R96, R117, R118, R119, R196, R197, R199, R207, R209, R211, R212: an outside access is performed at its home and answered, or waits; releases become
visible; replies and failures reach the agent that issued the access; soft errors; readings of thermal domains with their thresholds,
the throttle, refresh and ballast; and a stopped span is saved. The order in which a throttle step serves hot pairs and what follows
a save are the model's readings (log entry 58); that a package fault which cannot be carried out yet is tried again is its choice (log entry 105). -/
def Obligations.OutsideEvents : Prop :=
  ∀ (s : State),
    (∀ x segs, s.live x.asid = true → s.segsOf hubCaches x.asid x.va (outBytes x.op) (outWrites x.op) false = some segs →
      (s.outsideWaits (segLines segs) (outReads x.op) (outWrites x.op) = true → exec (.peerAccessArrive x) s = .next s) ∧
      (s.outsideWaits (segLines segs) (outReads x.op) (outWrites x.op) = false → s.mem.poison = [] →
        (∀ n, x.op = .read n → ∃ t, exec (.peerAccessArrive x) s = .next t ∧ t.mem = s.mem ∧
          t.fab.out = s.fab.out ++ [.reply x.asid (s.bytesOf segs) false]) ∧
        (∀ bs pa, x.op = .write bs → segs = [(pa, bs.length)] → s.hitRecs segs = [] → ∃ t, exec (.peerAccessArrive x) s = .next t ∧
          bytesAt t.mem.bytes pa bs.length = bs ∧ t.fab.out = s.fab.out ++ [.reply x.asid [] false] ∧
          ∀ y, y < pa ∨ pa + bs.length ≤ y → byteAt t.mem.bytes y = byteAt s.mem.bytes y) ∧
        (∀ n v pa, x.op = .add n v → segs = [(pa, n)] → s.hitRecs segs = [] → ∃ t, exec (.peerAccessArrive x) s = .next t ∧
          bytesAt t.mem.bytes pa n = leBytes n (leNat (bytesAt s.mem.bytes pa n) + v.toNat) ∧
          t.fab.out = s.fab.out ++ [.reply x.asid (bytesAt s.mem.bytes pa n) false]))) ∧
    (∀ line, ∃ t, exec (.releasePerformed line) s = .next t ∧ t.mem = s.mem ∧
      ∀ r, r ∈ t.fab.rels ↔ r ∈ s.fab.rels ∧ ¬(line ∈ r.lines ∧ s.performed r.cov = true)) ∧
    (∀ id x a data, s.extOp id = some x → x.agent = some a → s.nextReply x = true → x.op = .read data.length →
      (∃ n, (s.agent a).act = .asleep (.ext id) n) → ∀ bad, ∃ t, exec (.peerAccessReply id data bad) s = .next t ∧ t.extOp id = none ∧
        t.mem = s.mem ∧
        t.agent a = { s.agent a with
          act := .running, got := (s.agent a).got ++ [(x.ptr, x.op, if bad then .error .soft else .ok data)] }) ∧
    (∀ id x a, s.extOp id = some x → x.host = false → x.store = true → x.agent = some a → (s.agent a).act = .running →
      jobKey (s.agent a).asid (s.agent a).job = x.job → (s.agent a).task = x.task →
      (∀ b ∈ s.agents, b.1 ≠ a → b.2.task = none ∨ b.2.task ≠ x.task) →
      (s.agent a).err = none → ∃ t, exec (.peerStoreUnreachable id) s = .next t ∧ t.extOp id = none ∧ t.mem = s.mem ∧
        t.agent a = { s.agent a with err := some x.ptr }) ∧
    (∀ core, exec (.directoryHandlerTurn core) s = .next s) ∧
    (∀ a, exec (.softError (.cleanLine a)) s = .next s ∧ (∃ t, exec (.softError (.storedLine a)) s = .next t ∧ lineOf a ∈ t.mem.poison ∧
      t.mem.bytes = s.mem.bytes)) ∧
    (∀ a code, exec (.softError (.register a code)) s = .next (s.parityAt a code)) ∧
    (∀ core n g it, tabGet (core * 64 + n) s.groups = some g → g.unacked.head? = some it →
      exec (.softError (.routerBuffer core n)) s =
        .next (({ s with fab := { s.fab with items := s.fab.items.erase it } } : State).launch (gSlk g.desc) it)) ∧
    (∀ asid j, tabGet (jobKey asid j.id) s.jobs = some j → (∃ kc ∈ s.cores, ∃ i ∈ kc.2.images, i.job = jobKey asid j.id) →
      ∃ t, exec (.softError (.shadow asid j.id)) s = .next t ∧ tabGet (jobKey asid j.id) t.jobs = some { j with soft := true }) ∧
    (∀ asid job rec, ∃ t, exec (.softError (.taskImage asid job rec)) s = .next t ∧ t.mem = s.mem ∧ t.jobs = s.jobs ∧
      ∀ k, (t.cluster k).tasks = (s.cluster k).tasks.map fun e =>
        if e.image.isSome && e.ptr == rec && jobKey e.asid e.job == jobKey asid job then { e with soft := true } else e) ∧
    (∀ a, exec (.softError (.corrected a)) s = .next (s.modAgent a (·.countEvent 0x08 1))) ∧
    (let f : State := { s with dev := { s.dev with failing := true } };
      (∀ t, packageFault f = .ok ((), t) → exec (.softError .fabric) s = .next t ∧ t.dev.fault = true) ∧
      (packageFault f = .error .wait → exec (.softError .fabric) s = .next f) ∧
      (s.jobs = [] → ∃ t, packageFault f = .ok ((), t) ∧ t.dev.fault = true)) ∧
    (∀ d r, domainExists d = true → s.pairAt d = none →
      let old := s.thermal (domainKey d)
      (∀ x, old.lastTr = some x → s.now < x + 1000000 → ∃ t, exec (.thermalReading d r) s = .next t ∧
        t.thermal (domainKey d) = { old with reading := r }) ∧
      ((∀ x, old.lastTr = some x → x + 1000000 ≤ s.now) →
        (old.st = 0 → threshold d 1 ≤ r → r < threshold d 2 → ∃ t, exec (.thermalReading d r) s = .next t ∧
          t.thermal (domainKey d) = ⟨1, s.now, some s.now, r⟩) ∧
        (old.st < 2 → threshold d 2 ≤ r →
          let v : State := State.freeVacated { s with
            plant := { s.plant with doms := tabSet (domainKey d) ⟨2, s.now, some s.now, r⟩ s.plant.doms } }
          ∀ t, packageFault { v with dev := { v.dev with failing := true } } = .ok ((), t) → exec (.thermalReading d r) s = .next t ∧ t.dev.fault = true) ∧
        (old.st = 1 → r + 48 ≤ threshold d 1 → old.since + 200000 ≤ s.now → ∃ t, exec (.thermalReading d r) s = .next t ∧
          t.thermal (domainKey d) = ⟨0, s.now, some s.now, r⟩) ∧
        (old.st = 1 → threshold d 1 < r + 48 → r < threshold d 2 → ∃ t, exec (.thermalReading d r) s = .next t ∧
          t.thermal (domainKey d) = { old with reading := r }))) ∧
    (∀ p, s.plant.moving = none → p < s.dev.pairs → (s.pair p).tthrAt + 1000000 ≤ s.now →
      (∀ u, s.pairHot p = true → (s.hotDue.filter (· < p) ++ [p]).forM servePair s = .ok ((), u) →
        exec (.throttleStep p) s = .next u) ∧
      (s.pairHot p = true → (∀ q ∈ s.hotDue, p ≤ q) → s.coolPosition = none → exec (.throttleStep p) s =
        .next (({ s with plant := { s.plant with pendHot := setDel p s.plant.pendHot } } : State).raiseTthr p)) ∧
      (s.pairHot p = false → (s.pair p).tthr ≠ 0 → ∃ t, exec (.throttleStep p) s = .next t ∧ (t.pair p).tthr = (s.pair p).tthr - 1)) ∧
    (∀ stack chan, stack < 8 → chan < 32 → stack * 32 + chan ∉ s.dev.channelsOut →
      (tabGet (stack * 32 + chan) s.plant.refresh = none → ∃ t, exec (.hbmRefresh stack chan) s = .next t ∧
        tabGet (stack * 32 + chan) t.plant.refresh = some s.now ∧ t.mem = s.mem) ∧
      (∀ x, tabGet (stack * 32 + chan) s.plant.refresh = some x → (s.thermal (8192 + stack)).st = 0 →
        s.now < x + 3900 → exec (.hbmRefresh stack chan) s = .next s)) ∧
    (∀ row count, row < 264 → ∃ t b, exec (.ballastWindow row count) s = .next t ∧ tabGet row t.plant.ballast = some b ∧ b.prev = count ∧
      t.mem = s.mem) ∧
    (∀ asid id j, tabGet (jobKey asid id) s.jobs = some j →
      (∀ u, j.stage = .stopping → s.allStopped (jobKey asid id) = true → s.routersRest j = true → save (jobKey asid id) s = .ok ((), u) →
        exec (.saveComplete asid id) s = .next ((u.attempt migrateStep).attempt serveHot) ∧
        ((tabGet (jobKey asid id) u.jobs).isSome = true → (u.job (jobKey asid id)).stage = .off)) ∧
      (s.allStopped (jobKey asid id) = false → s.plant.moving = none → exec (.saveComplete asid id) s = .next s))

/-! ## The host -/

/-- R15, R43, R206, R214, R215, R216, R217, R221, R222, R317: start-up and what `BOOTST` shows; a partition goes live; job stream registers; the
aperture's two halves; `HERR` and the notice cells; a debug read of a scalar; writes of the management window; and attestation. That a write of a
stream's base makes slot 0 its head is the model's reading (log entry 31), as is which write of the aperture's upper half is dropped for its
alignment (log entry 69); what registers and memory hold at package reset where the manual gives nothing is its choice (log entries 2 and 3). -/
def Obligations.HostEvents : Prop :=
  ∀ (s : State),
    (∀ b, ∃ t, exec (.packageReset b) s = .next t ∧ t.mem = {} ∧ t.me = {} ∧ t.now = 0 ∧ t.jobs = [] ∧
      ((b.sigOk = false ∨ b.digestOk = false) → t.host.bootst = 2) ∧
      (b.sigOk = true → b.digestOk = true → b.version < b.rollback → t.host.bootst = 3) ∧
      (b.sigOk = true → b.digestOk = true → b.rollback ≤ b.version → (t.dev.pairs < 128 → t.host.bootst = 4) ∧
        (128 ≤ t.dev.pairs → t.host.bootst = 1)) ∧ (b.badPos = [] → t.dev.pairs = 256)) ∧
    (s.host.bootst = 1 →
      (∀ asid, asid < 256 → s.live asid = false →
        (s.pairsFree asid = true → ∃ t, exec (.partitionGoLive asid) s = .next t ∧ t.live asid = true ∧ tabGet asid t.jobCount = none ∧ t.mem = s.mem) ∧
        (s.pairsFree asid = false → exec (.partitionGoLive asid) s = .next s)) ∧
      (∀ st v, st < 64 → ∃ t x, exec (.jsregWrite st 0 v) s = .next t ∧ tabGet st t.streams = some x ∧
        x.base = BitVec.ofNat 64 (v.toNat / 64 * 64) ∧ x.head = 0 ∧ t.mem = s.mem) ∧
      (∀ st v, st < 64 → ∃ t x, exec (.jsregWrite st 1 v) s = .next t ∧ tabGet st t.streams = some x ∧ x.logn = wbits v 0 4 + 1 ∧
        x.asid = wbits v 8 8 ∧ x.sv = wbit v 16 ∧ (wbit v 63 = true → x.jerr = false) ∧ t.mem = s.mem) ∧
      (∀ off n, off + n ≤ 2 ^ 37 →
        (∀ segs, s.apertureSegs off n false = some segs → s.outsideWaits (segLines segs) true false = false →
          ∃ t, exec (.apertureRead off n) s = .next t ∧ t.host.rd = s.bytesOf segs ∧ t.host.rdBad = meets (segLines segs) s.mem.poison ∧
            t.mem = s.mem) ∧
        (s.apertureSegs off n false = none → ∃ t, exec (.apertureRead off n) s = .next t ∧ t.host.rd = List.replicate n 0xFF ∧
          t.host.herr[2] = true ∧ t.mem = s.mem)) ∧
      (∀ off bs pa, off + bs.length ≤ 2 ^ 36 → off < 2 ^ 36 → s.apertureSegs off bs.length true = some [(pa, bs.length)] → s.mem.poison = [] →
        s.hitRecs [(pa, bs.length)] = [] →
        s.outsideWaits (segLines [(pa, bs.length)]) false true = false → ∃ t, exec (.apertureWrite off bs) s = .next t ∧
          bytesAt t.mem.bytes pa bs.length = bs ∧ t.mem.tags = s.mem.tags) ∧
      (∀ off bs pa, 2 ^ 36 ≤ off → off + 8 ≤ 2 ^ 37 → off % 8 = 0 → s.host.apbase % 8 = 0 → bs.length = 8 →
        s.apertureSegs off 8 true = some [(pa, 8)] → s.mem.poison = [] → s.hitRecs [(pa, 8)] = [] → s.outsideWaits (segLines [(pa, 8)]) false true = false →
        ∃ t, exec (.apertureTaggedWrite off bs) s = .next t ∧ bytesAt t.mem.bytes pa 8 = bs ∧ pa ∈ t.mem.tags) ∧
      (∀ off bs, 2 ^ 36 ≤ off → off + bs.length ≤ 2 ^ 37 → (bs.length ≠ 8 ∨ off % 8 ≠ 0) →
        ∃ t, exec (.apertureTaggedWrite off bs) s = .next t ∧ t.host.herr[0] = true ∧ t.mem = s.mem) ∧
      (∀ v, ∃ t, exec (.herrClear v) s = .next t ∧ t.host.herr = s.host.herr &&& ~~~ (BitVec.ofNat 3 v.toNat) ∧ t.mem = s.mem) ∧
      (∀ core v, s.coreExists core = true →
        (wbit v 63 = true → ∃ t, exec (.hcellClear core v) s = .next t ∧ (t.core core).hpend = false ∧ t.mem = s.mem) ∧
        (wbit v 63 = false → exec (.hcellClear core v) s = .next s)) ∧
      (∀ core r g, s.coreExists core = true → r < 32 →
        (s.dbgAgent core (8 * r) = some g → exec (.dbgRead core (8 * r)) s = .next (s.hostWord (g.ctx.reg (BitVec.ofNat 5 r)))) ∧
        (s.dbgAgent core (8 * r) = none → exec (.dbgRead core (8 * r)) s = .next s.notPresent) ∧
        ((s.agent ⟨core, .main⟩).act = .idle → g ∈ s.slotAgents core → s.imageHolds g r = true → ∃ x ∈ s.slotAgents core,
          s.imageHolds x r = true ∧ exec (.dbgRead core (8 * r)) s = .next (s.hostWord (x.ctx.reg (BitVec.ofNat 5 r))))) ∧
      (∀ v, exec (.mgmtRegisterWrite 0x2008 v) s = .next { s with host := { s.host with apasid := wbits v 0 8 } } ∧
        exec (.mgmtRegisterWrite 0x2010 v) s = .next { s with host := { s.host with apbase := v.toNat } } ∧
        exec (.mgmtRegisterWrite 0x2020 v) s = .next { s with host := { s.host with frzsel := BitVec.ofNat 12 v.toNat } }) ∧
      (∀ i v, i < 8 → (s.command = none → ∃ t, exec (.mgmtRegisterWrite (0x30000 + 8 * i) v) s = .next t ∧
          t.host.hcmd = s.host.hcmd.set i v ∧ t.mem = s.mem) ∧
        (s.command.isSome = true → exec (.mgmtRegisterWrite (0x30000 + 8 * i) v) s = .next s)) ∧
      (∀ asid i v, asid < 256 → i < 12 → i ≠ 0 → s.live asid = false →
        ∃ t, exec (.mgmtRegisterWrite (0x10000 + 128 * asid + 8 * i) v) s = .next t ∧ t.pdWord asid i = pdMask i v ∧ t.mem = s.mem)) ∧
    (∀ asid, s.command = some (9, asid) → ∃ t, exec .attest s = .next t ∧ t.host.hres = BitVec.ofNat 64 (2 ^ 63) ∧ t.command = none ∧
      t.host.sig = (List.range 96).map (Config.attestByte (sha384 s.attestText)) ∧ t.mem = s.mem)

/-- R86, R91, R195, R198, R199, R203, R205, R219: the host commands. Each answers in `HRES` with `GO` cleared and vector 0 raised; a command with a
code of no meaning answers 2. The answers of 2 but for that and for a resume of a span that is not
pre-empted, and those of 1, are the model's choices (log entry 102). -/
def Obligations.CommandEvents : Prop :=
  ∀ (s : State),
    (∀ n, n < 256 → (s.answer n).command = none ∧ (s.answer n).host.hres = BitVec.ofNat 64 (n + 2 ^ 63) ∧
      (s.answer n).host.msix = s.host.msix ++ [0]) ∧
    (∀ asid, s.command = some (1, asid) →
      (s.spanArg asid = none → exec .preemptSpan s = .next (s.answer 2)) ∧
      (∀ key j, s.spanArg asid = some (key, j) → j.stage = .running →
        (s.canSave key = true → exec .preemptSpan s = .next ((s.preempt key .host none).answer 0) ∧
          ((s.preempt key .host none).job key).stage = .stopping) ∧
        (s.canSave key = false → exec .preemptSpan s = .next (s.answer 1))) ∧
      (∀ key j, s.spanArg asid = some (key, j) → j.stage = .off → j.why = .host → exec .preemptSpan s = .next ((s.noResume key).answer 0))) ∧
    (∀ asid, s.command = some (2, asid) →
      (s.spanArg asid = none → exec .resumeSpan s = .next (s.answer 2)) ∧
      (∀ key j, s.spanArg asid = some (key, j) → (j.stage = .running → exec .resumeSpan s = .next (s.answer 2)) ∧
        (j.stage = .off → j.why = .thermal → exec .resumeSpan s = .next (s.answer 0)) ∧
        (j.stage = .off → j.why = .host → s.host.pendResume = [] → exec .resumeSpan s = .next
          ((({ s with host := { s.host with pendResume := [key] } } : State).answer 0).attempt (tryResume key))))) ∧
    (s.command = none → s.host.pendResume = [] → exec .resumeSpan s = .next s) ∧
    (∀ asid, s.command = some (3, asid) → ∃ t, exec .translationShootdown s = .next t ∧ t.host.hres = BitVec.ofNat 64 (2 ^ 63) ∧
      (∀ e ∈ t.mem.tlb, e.asid ≠ asid) ∧ (∀ e ∈ t.mem.hcopies, e.asid ≠ asid) ∧ t.mem.bytes = s.mem.bytes) ∧
    (∀ asid, s.command = some (4, asid) →
      (s.commandArg < 512 → s.ownsCore asid (8 * s.commandArg) = true → s.frozenCluster s.commandArg = true →
        ∃ t, exec .thaw s = .next t ∧ t.host.hres = BitVec.ofNat 64 (2 ^ 63) ∧ (∀ c ∈ t.mem.frozen, clusterOf c ≠ s.commandArg) ∧
          (∀ c ∈ s.mem.frozen, clusterOf c ≠ s.commandArg → c ∈ t.mem.frozen) ∧ t.mem.bytes = s.mem.bytes) ∧
      (s.frozenCluster s.commandArg = false → exec .thaw s = .next (s.answer 2))) ∧
    (∀ asid, s.command = some (5, asid) →
      (s.commandArg < 16 → ∃ t, exec .declarePortOut s = .next t ∧ ((tabGet s.commandArg t.ord.inp).getD {}).removed = true ∧
        t.mem = s.mem) ∧
      (16 ≤ s.commandArg → exec .declarePortOut s = .next (s.answer 2))) ∧
    (∀ asid, s.command = some (6, asid) → ∃ t, exec .reenableDelivery s = .next t ∧ t.host.hres = BitVec.ofNat 64 (2 ^ 63) ∧
      tabGet asid t.ord.halted = none ∧ t.mem = s.mem) ∧
    (∀ asid, s.command = some (7, asid) →
      let mine := s.jobs.filter fun kj => kj.2.asid == asid && !kj.2.bag
      (mine = [] → exec .contain s = .next (s.answer 0)) ∧
      (∀ key j, mine = [(key, j)] → s.job key = j →
        (j.stage = .running → s.canSave key = true → exec .contain s = .next ((s.preempt key .host none).answer 0)) ∧
        (j.stage = .running → s.canSave key = false → exec .contain s = .next (s.answer 1)) ∧
        ((j.stage = .waiting ∨ j.stage = .resuming) → exec .contain s = .next s) ∧
        ((j.stage = .stopping ∨ j.stage = .off) → j.why = .thermal → exec .contain s = .next s) ∧
        (j.stage = .stopping → j.why = .host → exec .contain s = .next (s.answer 0)) ∧
        (j.stage = .off → j.why = .host → exec .contain s = .next ((s.noResume key).answer 0)))) ∧
    (∀ asid, s.command = some (8, asid) →
      (∀ t, s.live asid = true → tearDown asid s = .ok ((), t) →
        exec .tearDown s = .next t ∧ t.live asid = false ∧ t.host.hres = BitVec.ofNat 64 (2 ^ 63)) ∧
      (s.live asid = true → (s.jobs.filter fun kj => kj.2.asid == asid) = [] → ∃ t, tearDown asid s = .ok ((), t)) ∧
      (s.live asid = false → exec .tearDown s = .next (s.answer 2))) ∧
    (∀ c asid, s.command = some (c, asid) → (c = 0 ∨ 9 < c) → exec .hcmdUnknownCode s = .next (s.answer 2))
end

