-- ==== Sys2Proof/Laws/State.lean ====
section
/-! SUPPORT. What each update of the state does to each field: one lemma a field, so that no proof unfolds a record update. -/

namespace Sys2Proof.Machine

/-! ## `State.modCtx` -/

@[simp] theorem State.modCtx_cur (s : State) (f : Ctx → Ctx) : (s.modCtx f).cur = s.cur := rfl
@[simp] theorem State.modCtx_me (s : State) (f : Ctx → Ctx) : (s.modCtx f).me = { s.me with ctx := f s.me.ctx } := rfl
@[simp] theorem State.modCtx_unit (s : State) (f : Ctx → Ctx) : (s.modCtx f).unit = s.unit := rfl
@[simp] theorem State.modCtx_others (s : State) (f : Ctx → Ctx) : (s.modCtx f).others = s.others := rfl
@[simp] theorem State.modCtx_cores (s : State) (f : Ctx → Ctx) : (s.modCtx f).cores = s.cores := rfl
@[simp] theorem State.modCtx_clusters (s : State) (f : Ctx → Ctx) : (s.modCtx f).clusters = s.clusters := rfl
@[simp] theorem State.modCtx_pairs (s : State) (f : Ctx → Ctx) : (s.modCtx f).pairs = s.pairs := rfl
@[simp] theorem State.modCtx_twins (s : State) (f : Ctx → Ctx) : (s.modCtx f).twins = s.twins := rfl
@[simp] theorem State.modCtx_mem (s : State) (f : Ctx → Ctx) : (s.modCtx f).mem = s.mem := rfl
@[simp] theorem State.modCtx_caps (s : State) (f : Ctx → Ctx) : (s.modCtx f).caps = s.caps := rfl
@[simp] theorem State.modCtx_jobs (s : State) (f : Ctx → Ctx) : (s.modCtx f).jobs = s.jobs := rfl
@[simp] theorem State.modCtx_streams (s : State) (f : Ctx → Ctx) : (s.modCtx f).streams = s.streams := rfl
@[simp] theorem State.modCtx_jobCount (s : State) (f : Ctx → Ctx) : (s.modCtx f).jobCount = s.jobCount := rfl
@[simp] theorem State.modCtx_bagRot (s : State) (f : Ctx → Ctx) : (s.modCtx f).bagRot = s.bagRot := rfl
@[simp] theorem State.modCtx_lastTaken (s : State) (f : Ctx → Ctx) : (s.modCtx f).lastTaken = s.lastTaken := rfl
@[simp] theorem State.modCtx_hung (s : State) (f : Ctx → Ctx) : (s.modCtx f).hung = s.hung := rfl
@[simp] theorem State.modCtx_sumAt (s : State) (f : Ctx → Ctx) : (s.modCtx f).sumAt = s.sumAt := rfl
@[simp] theorem State.modCtx_pipes (s : State) (f : Ctx → Ctx) : (s.modCtx f).pipes = s.pipes := rfl
@[simp] theorem State.modCtx_groups (s : State) (f : Ctx → Ctx) : (s.modCtx f).groups = s.groups := rfl
@[simp] theorem State.modCtx_ord (s : State) (f : Ctx → Ctx) : (s.modCtx f).ord = s.ord := rfl
@[simp] theorem State.modCtx_fab (s : State) (f : Ctx → Ctx) : (s.modCtx f).fab = s.fab := rfl
@[simp] theorem State.modCtx_host (s : State) (f : Ctx → Ctx) : (s.modCtx f).host = s.host := rfl
@[simp] theorem State.modCtx_plant (s : State) (f : Ctx → Ctx) : (s.modCtx f).plant = s.plant := rfl
@[simp] theorem State.modCtx_dev (s : State) (f : Ctx → Ctx) : (s.modCtx f).dev = s.dev := rfl
@[simp] theorem State.modCtx_now (s : State) (f : Ctx → Ctx) : (s.modCtx f).now = s.now := rfl
@[simp] theorem State.modCtx_turns (s : State) (f : Ctx → Ctx) : (s.modCtx f).turns = s.turns := rfl
@[simp] theorem State.modCtx_free (s : State) (f : Ctx → Ctx) : (s.modCtx f).free = s.free := rfl

/-! ## `State.modChunk` -/

@[simp] theorem State.modChunk_cur (s : State) (f : Chunk → Chunk) : (s.modChunk f).cur = s.cur := rfl
@[simp] theorem State.modChunk_me (s : State) (f : Chunk → Chunk) : (s.modChunk f).me = { s.me with chunk := f s.me.chunk } := rfl
@[simp] theorem State.modChunk_unit (s : State) (f : Chunk → Chunk) : (s.modChunk f).unit = s.unit := rfl
@[simp] theorem State.modChunk_others (s : State) (f : Chunk → Chunk) : (s.modChunk f).others = s.others := rfl
@[simp] theorem State.modChunk_cores (s : State) (f : Chunk → Chunk) : (s.modChunk f).cores = s.cores := rfl
@[simp] theorem State.modChunk_clusters (s : State) (f : Chunk → Chunk) : (s.modChunk f).clusters = s.clusters := rfl
@[simp] theorem State.modChunk_pairs (s : State) (f : Chunk → Chunk) : (s.modChunk f).pairs = s.pairs := rfl
@[simp] theorem State.modChunk_twins (s : State) (f : Chunk → Chunk) : (s.modChunk f).twins = s.twins := rfl
@[simp] theorem State.modChunk_mem (s : State) (f : Chunk → Chunk) : (s.modChunk f).mem = s.mem := rfl
@[simp] theorem State.modChunk_caps (s : State) (f : Chunk → Chunk) : (s.modChunk f).caps = s.caps := rfl
@[simp] theorem State.modChunk_jobs (s : State) (f : Chunk → Chunk) : (s.modChunk f).jobs = s.jobs := rfl
@[simp] theorem State.modChunk_streams (s : State) (f : Chunk → Chunk) : (s.modChunk f).streams = s.streams := rfl
@[simp] theorem State.modChunk_jobCount (s : State) (f : Chunk → Chunk) : (s.modChunk f).jobCount = s.jobCount := rfl
@[simp] theorem State.modChunk_bagRot (s : State) (f : Chunk → Chunk) : (s.modChunk f).bagRot = s.bagRot := rfl
@[simp] theorem State.modChunk_lastTaken (s : State) (f : Chunk → Chunk) : (s.modChunk f).lastTaken = s.lastTaken := rfl
@[simp] theorem State.modChunk_hung (s : State) (f : Chunk → Chunk) : (s.modChunk f).hung = s.hung := rfl
@[simp] theorem State.modChunk_sumAt (s : State) (f : Chunk → Chunk) : (s.modChunk f).sumAt = s.sumAt := rfl
@[simp] theorem State.modChunk_pipes (s : State) (f : Chunk → Chunk) : (s.modChunk f).pipes = s.pipes := rfl
@[simp] theorem State.modChunk_groups (s : State) (f : Chunk → Chunk) : (s.modChunk f).groups = s.groups := rfl
@[simp] theorem State.modChunk_ord (s : State) (f : Chunk → Chunk) : (s.modChunk f).ord = s.ord := rfl
@[simp] theorem State.modChunk_fab (s : State) (f : Chunk → Chunk) : (s.modChunk f).fab = s.fab := rfl
@[simp] theorem State.modChunk_host (s : State) (f : Chunk → Chunk) : (s.modChunk f).host = s.host := rfl
@[simp] theorem State.modChunk_plant (s : State) (f : Chunk → Chunk) : (s.modChunk f).plant = s.plant := rfl
@[simp] theorem State.modChunk_dev (s : State) (f : Chunk → Chunk) : (s.modChunk f).dev = s.dev := rfl
@[simp] theorem State.modChunk_now (s : State) (f : Chunk → Chunk) : (s.modChunk f).now = s.now := rfl
@[simp] theorem State.modChunk_turns (s : State) (f : Chunk → Chunk) : (s.modChunk f).turns = s.turns := rfl
@[simp] theorem State.modChunk_free (s : State) (f : Chunk → Chunk) : (s.modChunk f).free = s.free := rfl

/-! ## `State.poke` -/

@[simp] theorem State.poke_cur (s : State) (a : Nat) (bs : List Byte) : (s.poke a bs).cur = s.cur := rfl
@[simp] theorem State.poke_me (s : State) (a : Nat) (bs : List Byte) : (s.poke a bs).me = s.me := rfl
@[simp] theorem State.poke_unit (s : State) (a : Nat) (bs : List Byte) : (s.poke a bs).unit = s.unit := rfl
@[simp] theorem State.poke_others (s : State) (a : Nat) (bs : List Byte) : (s.poke a bs).others = s.others := rfl
@[simp] theorem State.poke_cores (s : State) (a : Nat) (bs : List Byte) : (s.poke a bs).cores = s.cores := rfl
@[simp] theorem State.poke_clusters (s : State) (a : Nat) (bs : List Byte) : (s.poke a bs).clusters = s.clusters := rfl
@[simp] theorem State.poke_pairs (s : State) (a : Nat) (bs : List Byte) : (s.poke a bs).pairs = s.pairs := rfl
@[simp] theorem State.poke_twins (s : State) (a : Nat) (bs : List Byte) : (s.poke a bs).twins = s.twins := rfl
@[simp] theorem State.poke_mem (s : State) (a : Nat) (bs : List Byte) : (s.poke a bs).mem = { s.mem with bytes := setBytes a bs s.mem.bytes } := rfl
@[simp] theorem State.poke_caps (s : State) (a : Nat) (bs : List Byte) : (s.poke a bs).caps = s.caps := rfl
@[simp] theorem State.poke_jobs (s : State) (a : Nat) (bs : List Byte) : (s.poke a bs).jobs = s.jobs := rfl
@[simp] theorem State.poke_streams (s : State) (a : Nat) (bs : List Byte) : (s.poke a bs).streams = s.streams := rfl
@[simp] theorem State.poke_jobCount (s : State) (a : Nat) (bs : List Byte) : (s.poke a bs).jobCount = s.jobCount := rfl
@[simp] theorem State.poke_bagRot (s : State) (a : Nat) (bs : List Byte) : (s.poke a bs).bagRot = s.bagRot := rfl
@[simp] theorem State.poke_lastTaken (s : State) (a : Nat) (bs : List Byte) : (s.poke a bs).lastTaken = s.lastTaken := rfl
@[simp] theorem State.poke_hung (s : State) (a : Nat) (bs : List Byte) : (s.poke a bs).hung = s.hung := rfl
@[simp] theorem State.poke_sumAt (s : State) (a : Nat) (bs : List Byte) : (s.poke a bs).sumAt = s.sumAt := rfl
@[simp] theorem State.poke_pipes (s : State) (a : Nat) (bs : List Byte) : (s.poke a bs).pipes = s.pipes := rfl
@[simp] theorem State.poke_groups (s : State) (a : Nat) (bs : List Byte) : (s.poke a bs).groups = s.groups := rfl
@[simp] theorem State.poke_ord (s : State) (a : Nat) (bs : List Byte) : (s.poke a bs).ord = s.ord := rfl
@[simp] theorem State.poke_fab (s : State) (a : Nat) (bs : List Byte) : (s.poke a bs).fab = s.fab := rfl
@[simp] theorem State.poke_host (s : State) (a : Nat) (bs : List Byte) : (s.poke a bs).host = s.host := rfl
@[simp] theorem State.poke_plant (s : State) (a : Nat) (bs : List Byte) : (s.poke a bs).plant = s.plant := rfl
@[simp] theorem State.poke_dev (s : State) (a : Nat) (bs : List Byte) : (s.poke a bs).dev = s.dev := rfl
@[simp] theorem State.poke_now (s : State) (a : Nat) (bs : List Byte) : (s.poke a bs).now = s.now := rfl
@[simp] theorem State.poke_turns (s : State) (a : Nat) (bs : List Byte) : (s.poke a bs).turns = s.turns := rfl
@[simp] theorem State.poke_free (s : State) (a : Nat) (bs : List Byte) : (s.poke a bs).free = s.free := rfl

/-! ## `State.setTag` -/

@[simp] theorem State.setTag_cur (s : State) (a : Nat) (b : Bool) : (s.setTag a b).cur = s.cur := rfl
@[simp] theorem State.setTag_me (s : State) (a : Nat) (b : Bool) : (s.setTag a b).me = s.me := rfl
@[simp] theorem State.setTag_unit (s : State) (a : Nat) (b : Bool) : (s.setTag a b).unit = s.unit := rfl
@[simp] theorem State.setTag_others (s : State) (a : Nat) (b : Bool) : (s.setTag a b).others = s.others := rfl
@[simp] theorem State.setTag_cores (s : State) (a : Nat) (b : Bool) : (s.setTag a b).cores = s.cores := rfl
@[simp] theorem State.setTag_clusters (s : State) (a : Nat) (b : Bool) : (s.setTag a b).clusters = s.clusters := rfl
@[simp] theorem State.setTag_pairs (s : State) (a : Nat) (b : Bool) : (s.setTag a b).pairs = s.pairs := rfl
@[simp] theorem State.setTag_twins (s : State) (a : Nat) (b : Bool) : (s.setTag a b).twins = s.twins := rfl
@[simp] theorem State.setTag_mem (s : State) (a : Nat) (b : Bool) : (s.setTag a b).mem = { s.mem with tags := if b then setAdd a s.mem.tags else setDel a s.mem.tags } := rfl
@[simp] theorem State.setTag_caps (s : State) (a : Nat) (b : Bool) : (s.setTag a b).caps = s.caps := rfl
@[simp] theorem State.setTag_jobs (s : State) (a : Nat) (b : Bool) : (s.setTag a b).jobs = s.jobs := rfl
@[simp] theorem State.setTag_streams (s : State) (a : Nat) (b : Bool) : (s.setTag a b).streams = s.streams := rfl
@[simp] theorem State.setTag_jobCount (s : State) (a : Nat) (b : Bool) : (s.setTag a b).jobCount = s.jobCount := rfl
@[simp] theorem State.setTag_bagRot (s : State) (a : Nat) (b : Bool) : (s.setTag a b).bagRot = s.bagRot := rfl
@[simp] theorem State.setTag_lastTaken (s : State) (a : Nat) (b : Bool) : (s.setTag a b).lastTaken = s.lastTaken := rfl
@[simp] theorem State.setTag_hung (s : State) (a : Nat) (b : Bool) : (s.setTag a b).hung = s.hung := rfl
@[simp] theorem State.setTag_sumAt (s : State) (a : Nat) (b : Bool) : (s.setTag a b).sumAt = s.sumAt := rfl
@[simp] theorem State.setTag_pipes (s : State) (a : Nat) (b : Bool) : (s.setTag a b).pipes = s.pipes := rfl
@[simp] theorem State.setTag_groups (s : State) (a : Nat) (b : Bool) : (s.setTag a b).groups = s.groups := rfl
@[simp] theorem State.setTag_ord (s : State) (a : Nat) (b : Bool) : (s.setTag a b).ord = s.ord := rfl
@[simp] theorem State.setTag_fab (s : State) (a : Nat) (b : Bool) : (s.setTag a b).fab = s.fab := rfl
@[simp] theorem State.setTag_host (s : State) (a : Nat) (b : Bool) : (s.setTag a b).host = s.host := rfl
@[simp] theorem State.setTag_plant (s : State) (a : Nat) (b : Bool) : (s.setTag a b).plant = s.plant := rfl
@[simp] theorem State.setTag_dev (s : State) (a : Nat) (b : Bool) : (s.setTag a b).dev = s.dev := rfl
@[simp] theorem State.setTag_now (s : State) (a : Nat) (b : Bool) : (s.setTag a b).now = s.now := rfl
@[simp] theorem State.setTag_turns (s : State) (a : Nat) (b : Bool) : (s.setTag a b).turns = s.turns := rfl
@[simp] theorem State.setTag_free (s : State) (a : Nat) (b : Bool) : (s.setTag a b).free = s.free := rfl

/-! ## `State.modCore` -/

@[simp] theorem State.modCore_cur (s : State) (c : Nat) (f : Core → Core) : (s.modCore c f).cur = s.cur := rfl
@[simp] theorem State.modCore_me (s : State) (c : Nat) (f : Core → Core) : (s.modCore c f).me = s.me := rfl
@[simp] theorem State.modCore_unit (s : State) (c : Nat) (f : Core → Core) : (s.modCore c f).unit = s.unit := rfl
@[simp] theorem State.modCore_others (s : State) (c : Nat) (f : Core → Core) : (s.modCore c f).others = s.others := rfl
@[simp] theorem State.modCore_cores (s : State) (c : Nat) (f : Core → Core) : (s.modCore c f).cores = tabMod c {} f s.cores := rfl
@[simp] theorem State.modCore_clusters (s : State) (c : Nat) (f : Core → Core) : (s.modCore c f).clusters = s.clusters := rfl
@[simp] theorem State.modCore_pairs (s : State) (c : Nat) (f : Core → Core) : (s.modCore c f).pairs = s.pairs := rfl
@[simp] theorem State.modCore_twins (s : State) (c : Nat) (f : Core → Core) : (s.modCore c f).twins = s.twins := rfl
@[simp] theorem State.modCore_mem (s : State) (c : Nat) (f : Core → Core) : (s.modCore c f).mem = s.mem := rfl
@[simp] theorem State.modCore_caps (s : State) (c : Nat) (f : Core → Core) : (s.modCore c f).caps = s.caps := rfl
@[simp] theorem State.modCore_jobs (s : State) (c : Nat) (f : Core → Core) : (s.modCore c f).jobs = s.jobs := rfl
@[simp] theorem State.modCore_streams (s : State) (c : Nat) (f : Core → Core) : (s.modCore c f).streams = s.streams := rfl
@[simp] theorem State.modCore_jobCount (s : State) (c : Nat) (f : Core → Core) : (s.modCore c f).jobCount = s.jobCount := rfl
@[simp] theorem State.modCore_bagRot (s : State) (c : Nat) (f : Core → Core) : (s.modCore c f).bagRot = s.bagRot := rfl
@[simp] theorem State.modCore_lastTaken (s : State) (c : Nat) (f : Core → Core) : (s.modCore c f).lastTaken = s.lastTaken := rfl
@[simp] theorem State.modCore_hung (s : State) (c : Nat) (f : Core → Core) : (s.modCore c f).hung = s.hung := rfl
@[simp] theorem State.modCore_sumAt (s : State) (c : Nat) (f : Core → Core) : (s.modCore c f).sumAt = s.sumAt := rfl
@[simp] theorem State.modCore_pipes (s : State) (c : Nat) (f : Core → Core) : (s.modCore c f).pipes = s.pipes := rfl
@[simp] theorem State.modCore_groups (s : State) (c : Nat) (f : Core → Core) : (s.modCore c f).groups = s.groups := rfl
@[simp] theorem State.modCore_ord (s : State) (c : Nat) (f : Core → Core) : (s.modCore c f).ord = s.ord := rfl
@[simp] theorem State.modCore_fab (s : State) (c : Nat) (f : Core → Core) : (s.modCore c f).fab = s.fab := rfl
@[simp] theorem State.modCore_host (s : State) (c : Nat) (f : Core → Core) : (s.modCore c f).host = s.host := rfl
@[simp] theorem State.modCore_plant (s : State) (c : Nat) (f : Core → Core) : (s.modCore c f).plant = s.plant := rfl
@[simp] theorem State.modCore_dev (s : State) (c : Nat) (f : Core → Core) : (s.modCore c f).dev = s.dev := rfl
@[simp] theorem State.modCore_now (s : State) (c : Nat) (f : Core → Core) : (s.modCore c f).now = s.now := rfl
@[simp] theorem State.modCore_turns (s : State) (c : Nat) (f : Core → Core) : (s.modCore c f).turns = s.turns := rfl
@[simp] theorem State.modCore_free (s : State) (c : Nat) (f : Core → Core) : (s.modCore c f).free = s.free := rfl

/-! ## `State.modCluster` -/

@[simp] theorem State.modCluster_cur (s : State) (k : Nat) (f : Cluster → Cluster) : (s.modCluster k f).cur = s.cur := rfl
@[simp] theorem State.modCluster_me (s : State) (k : Nat) (f : Cluster → Cluster) : (s.modCluster k f).me = s.me := rfl
@[simp] theorem State.modCluster_unit (s : State) (k : Nat) (f : Cluster → Cluster) : (s.modCluster k f).unit = s.unit := rfl
@[simp] theorem State.modCluster_others (s : State) (k : Nat) (f : Cluster → Cluster) : (s.modCluster k f).others = s.others := rfl
@[simp] theorem State.modCluster_cores (s : State) (k : Nat) (f : Cluster → Cluster) : (s.modCluster k f).cores = s.cores := rfl
@[simp] theorem State.modCluster_clusters (s : State) (k : Nat) (f : Cluster → Cluster) : (s.modCluster k f).clusters = tabMod k {} f s.clusters := rfl
@[simp] theorem State.modCluster_pairs (s : State) (k : Nat) (f : Cluster → Cluster) : (s.modCluster k f).pairs = s.pairs := rfl
@[simp] theorem State.modCluster_twins (s : State) (k : Nat) (f : Cluster → Cluster) : (s.modCluster k f).twins = s.twins := rfl
@[simp] theorem State.modCluster_mem (s : State) (k : Nat) (f : Cluster → Cluster) : (s.modCluster k f).mem = s.mem := rfl
@[simp] theorem State.modCluster_caps (s : State) (k : Nat) (f : Cluster → Cluster) : (s.modCluster k f).caps = s.caps := rfl
@[simp] theorem State.modCluster_jobs (s : State) (k : Nat) (f : Cluster → Cluster) : (s.modCluster k f).jobs = s.jobs := rfl
@[simp] theorem State.modCluster_streams (s : State) (k : Nat) (f : Cluster → Cluster) : (s.modCluster k f).streams = s.streams := rfl
@[simp] theorem State.modCluster_jobCount (s : State) (k : Nat) (f : Cluster → Cluster) : (s.modCluster k f).jobCount = s.jobCount := rfl
@[simp] theorem State.modCluster_bagRot (s : State) (k : Nat) (f : Cluster → Cluster) : (s.modCluster k f).bagRot = s.bagRot := rfl
@[simp] theorem State.modCluster_lastTaken (s : State) (k : Nat) (f : Cluster → Cluster) : (s.modCluster k f).lastTaken = s.lastTaken := rfl
@[simp] theorem State.modCluster_hung (s : State) (k : Nat) (f : Cluster → Cluster) : (s.modCluster k f).hung = s.hung := rfl
@[simp] theorem State.modCluster_sumAt (s : State) (k : Nat) (f : Cluster → Cluster) : (s.modCluster k f).sumAt = s.sumAt := rfl
@[simp] theorem State.modCluster_pipes (s : State) (k : Nat) (f : Cluster → Cluster) : (s.modCluster k f).pipes = s.pipes := rfl
@[simp] theorem State.modCluster_groups (s : State) (k : Nat) (f : Cluster → Cluster) : (s.modCluster k f).groups = s.groups := rfl
@[simp] theorem State.modCluster_ord (s : State) (k : Nat) (f : Cluster → Cluster) : (s.modCluster k f).ord = s.ord := rfl
@[simp] theorem State.modCluster_fab (s : State) (k : Nat) (f : Cluster → Cluster) : (s.modCluster k f).fab = s.fab := rfl
@[simp] theorem State.modCluster_host (s : State) (k : Nat) (f : Cluster → Cluster) : (s.modCluster k f).host = s.host := rfl
@[simp] theorem State.modCluster_plant (s : State) (k : Nat) (f : Cluster → Cluster) : (s.modCluster k f).plant = s.plant := rfl
@[simp] theorem State.modCluster_dev (s : State) (k : Nat) (f : Cluster → Cluster) : (s.modCluster k f).dev = s.dev := rfl
@[simp] theorem State.modCluster_now (s : State) (k : Nat) (f : Cluster → Cluster) : (s.modCluster k f).now = s.now := rfl
@[simp] theorem State.modCluster_turns (s : State) (k : Nat) (f : Cluster → Cluster) : (s.modCluster k f).turns = s.turns := rfl
@[simp] theorem State.modCluster_free (s : State) (k : Nat) (f : Cluster → Cluster) : (s.modCluster k f).free = s.free := rfl

/-! ## `State.modPair` -/

@[simp] theorem State.modPair_cur (s : State) (k : Nat) (f : Pair → Pair) : (s.modPair k f).cur = s.cur := rfl
@[simp] theorem State.modPair_me (s : State) (k : Nat) (f : Pair → Pair) : (s.modPair k f).me = s.me := rfl
@[simp] theorem State.modPair_unit (s : State) (k : Nat) (f : Pair → Pair) : (s.modPair k f).unit = s.unit := rfl
@[simp] theorem State.modPair_others (s : State) (k : Nat) (f : Pair → Pair) : (s.modPair k f).others = s.others := rfl
@[simp] theorem State.modPair_cores (s : State) (k : Nat) (f : Pair → Pair) : (s.modPair k f).cores = s.cores := rfl
@[simp] theorem State.modPair_clusters (s : State) (k : Nat) (f : Pair → Pair) : (s.modPair k f).clusters = s.clusters := rfl
@[simp] theorem State.modPair_pairs (s : State) (k : Nat) (f : Pair → Pair) : (s.modPair k f).pairs = tabMod k {} f s.pairs := rfl
@[simp] theorem State.modPair_twins (s : State) (k : Nat) (f : Pair → Pair) : (s.modPair k f).twins = s.twins := rfl
@[simp] theorem State.modPair_mem (s : State) (k : Nat) (f : Pair → Pair) : (s.modPair k f).mem = s.mem := rfl
@[simp] theorem State.modPair_caps (s : State) (k : Nat) (f : Pair → Pair) : (s.modPair k f).caps = s.caps := rfl
@[simp] theorem State.modPair_jobs (s : State) (k : Nat) (f : Pair → Pair) : (s.modPair k f).jobs = s.jobs := rfl
@[simp] theorem State.modPair_streams (s : State) (k : Nat) (f : Pair → Pair) : (s.modPair k f).streams = s.streams := rfl
@[simp] theorem State.modPair_jobCount (s : State) (k : Nat) (f : Pair → Pair) : (s.modPair k f).jobCount = s.jobCount := rfl
@[simp] theorem State.modPair_bagRot (s : State) (k : Nat) (f : Pair → Pair) : (s.modPair k f).bagRot = s.bagRot := rfl
@[simp] theorem State.modPair_lastTaken (s : State) (k : Nat) (f : Pair → Pair) : (s.modPair k f).lastTaken = s.lastTaken := rfl
@[simp] theorem State.modPair_hung (s : State) (k : Nat) (f : Pair → Pair) : (s.modPair k f).hung = s.hung := rfl
@[simp] theorem State.modPair_sumAt (s : State) (k : Nat) (f : Pair → Pair) : (s.modPair k f).sumAt = s.sumAt := rfl
@[simp] theorem State.modPair_pipes (s : State) (k : Nat) (f : Pair → Pair) : (s.modPair k f).pipes = s.pipes := rfl
@[simp] theorem State.modPair_groups (s : State) (k : Nat) (f : Pair → Pair) : (s.modPair k f).groups = s.groups := rfl
@[simp] theorem State.modPair_ord (s : State) (k : Nat) (f : Pair → Pair) : (s.modPair k f).ord = s.ord := rfl
@[simp] theorem State.modPair_fab (s : State) (k : Nat) (f : Pair → Pair) : (s.modPair k f).fab = s.fab := rfl
@[simp] theorem State.modPair_host (s : State) (k : Nat) (f : Pair → Pair) : (s.modPair k f).host = s.host := rfl
@[simp] theorem State.modPair_plant (s : State) (k : Nat) (f : Pair → Pair) : (s.modPair k f).plant = s.plant := rfl
@[simp] theorem State.modPair_dev (s : State) (k : Nat) (f : Pair → Pair) : (s.modPair k f).dev = s.dev := rfl
@[simp] theorem State.modPair_now (s : State) (k : Nat) (f : Pair → Pair) : (s.modPair k f).now = s.now := rfl
@[simp] theorem State.modPair_turns (s : State) (k : Nat) (f : Pair → Pair) : (s.modPair k f).turns = s.turns := rfl
@[simp] theorem State.modPair_free (s : State) (k : Nat) (f : Pair → Pair) : (s.modPair k f).free = s.free := rfl

/-! ## `State.withReg` -/

@[simp] theorem State.withReg_cur (s : State) (r : Reg) (v : Word) : (s.withReg r v).cur = s.cur := rfl
@[simp] theorem State.withReg_me (s : State) (r : Reg) (v : Word) : (s.withReg r v).me = { s.me with ctx := s.me.ctx.setReg r v } := rfl
@[simp] theorem State.withReg_unit (s : State) (r : Reg) (v : Word) : (s.withReg r v).unit = s.unit := rfl
@[simp] theorem State.withReg_others (s : State) (r : Reg) (v : Word) : (s.withReg r v).others = s.others := rfl
@[simp] theorem State.withReg_cores (s : State) (r : Reg) (v : Word) : (s.withReg r v).cores = s.cores := rfl
@[simp] theorem State.withReg_clusters (s : State) (r : Reg) (v : Word) : (s.withReg r v).clusters = s.clusters := rfl
@[simp] theorem State.withReg_pairs (s : State) (r : Reg) (v : Word) : (s.withReg r v).pairs = s.pairs := rfl
@[simp] theorem State.withReg_twins (s : State) (r : Reg) (v : Word) : (s.withReg r v).twins = s.twins := rfl
@[simp] theorem State.withReg_mem (s : State) (r : Reg) (v : Word) : (s.withReg r v).mem = s.mem := rfl
@[simp] theorem State.withReg_caps (s : State) (r : Reg) (v : Word) : (s.withReg r v).caps = s.caps := rfl
@[simp] theorem State.withReg_jobs (s : State) (r : Reg) (v : Word) : (s.withReg r v).jobs = s.jobs := rfl
@[simp] theorem State.withReg_streams (s : State) (r : Reg) (v : Word) : (s.withReg r v).streams = s.streams := rfl
@[simp] theorem State.withReg_jobCount (s : State) (r : Reg) (v : Word) : (s.withReg r v).jobCount = s.jobCount := rfl
@[simp] theorem State.withReg_bagRot (s : State) (r : Reg) (v : Word) : (s.withReg r v).bagRot = s.bagRot := rfl
@[simp] theorem State.withReg_lastTaken (s : State) (r : Reg) (v : Word) : (s.withReg r v).lastTaken = s.lastTaken := rfl
@[simp] theorem State.withReg_hung (s : State) (r : Reg) (v : Word) : (s.withReg r v).hung = s.hung := rfl
@[simp] theorem State.withReg_sumAt (s : State) (r : Reg) (v : Word) : (s.withReg r v).sumAt = s.sumAt := rfl
@[simp] theorem State.withReg_pipes (s : State) (r : Reg) (v : Word) : (s.withReg r v).pipes = s.pipes := rfl
@[simp] theorem State.withReg_groups (s : State) (r : Reg) (v : Word) : (s.withReg r v).groups = s.groups := rfl
@[simp] theorem State.withReg_ord (s : State) (r : Reg) (v : Word) : (s.withReg r v).ord = s.ord := rfl
@[simp] theorem State.withReg_fab (s : State) (r : Reg) (v : Word) : (s.withReg r v).fab = s.fab := rfl
@[simp] theorem State.withReg_host (s : State) (r : Reg) (v : Word) : (s.withReg r v).host = s.host := rfl
@[simp] theorem State.withReg_plant (s : State) (r : Reg) (v : Word) : (s.withReg r v).plant = s.plant := rfl
@[simp] theorem State.withReg_dev (s : State) (r : Reg) (v : Word) : (s.withReg r v).dev = s.dev := rfl
@[simp] theorem State.withReg_now (s : State) (r : Reg) (v : Word) : (s.withReg r v).now = s.now := rfl
@[simp] theorem State.withReg_turns (s : State) (r : Reg) (v : Word) : (s.withReg r v).turns = s.turns := rfl
@[simp] theorem State.withReg_free (s : State) (r : Reg) (v : Word) : (s.withReg r v).free = s.free := rfl

/-! ## `State.noteReads` -/

@[simp] theorem State.noteReads_cur (s : State) (ls : List Nat) : (s.noteReads ls).cur = s.cur := rfl
@[simp] theorem State.noteReads_me (s : State) (ls : List Nat) : (s.noteReads ls).me = { s.me with chunk := { s.me.chunk with reads := ls.foldl (fun m l => setAdd l m) s.me.chunk.reads } } := rfl
@[simp] theorem State.noteReads_unit (s : State) (ls : List Nat) : (s.noteReads ls).unit = s.unit := rfl
@[simp] theorem State.noteReads_others (s : State) (ls : List Nat) : (s.noteReads ls).others = s.others := rfl
@[simp] theorem State.noteReads_cores (s : State) (ls : List Nat) : (s.noteReads ls).cores = s.cores := rfl
@[simp] theorem State.noteReads_clusters (s : State) (ls : List Nat) : (s.noteReads ls).clusters = s.clusters := rfl
@[simp] theorem State.noteReads_pairs (s : State) (ls : List Nat) : (s.noteReads ls).pairs = s.pairs := rfl
@[simp] theorem State.noteReads_twins (s : State) (ls : List Nat) : (s.noteReads ls).twins = s.twins := rfl
@[simp] theorem State.noteReads_mem (s : State) (ls : List Nat) : (s.noteReads ls).mem = s.mem := rfl
@[simp] theorem State.noteReads_caps (s : State) (ls : List Nat) : (s.noteReads ls).caps = s.caps := rfl
@[simp] theorem State.noteReads_jobs (s : State) (ls : List Nat) : (s.noteReads ls).jobs = s.jobs := rfl
@[simp] theorem State.noteReads_streams (s : State) (ls : List Nat) : (s.noteReads ls).streams = s.streams := rfl
@[simp] theorem State.noteReads_jobCount (s : State) (ls : List Nat) : (s.noteReads ls).jobCount = s.jobCount := rfl
@[simp] theorem State.noteReads_bagRot (s : State) (ls : List Nat) : (s.noteReads ls).bagRot = s.bagRot := rfl
@[simp] theorem State.noteReads_lastTaken (s : State) (ls : List Nat) : (s.noteReads ls).lastTaken = s.lastTaken := rfl
@[simp] theorem State.noteReads_hung (s : State) (ls : List Nat) : (s.noteReads ls).hung = s.hung := rfl
@[simp] theorem State.noteReads_sumAt (s : State) (ls : List Nat) : (s.noteReads ls).sumAt = s.sumAt := rfl
@[simp] theorem State.noteReads_pipes (s : State) (ls : List Nat) : (s.noteReads ls).pipes = s.pipes := rfl
@[simp] theorem State.noteReads_groups (s : State) (ls : List Nat) : (s.noteReads ls).groups = s.groups := rfl
@[simp] theorem State.noteReads_ord (s : State) (ls : List Nat) : (s.noteReads ls).ord = s.ord := rfl
@[simp] theorem State.noteReads_fab (s : State) (ls : List Nat) : (s.noteReads ls).fab = s.fab := rfl
@[simp] theorem State.noteReads_host (s : State) (ls : List Nat) : (s.noteReads ls).host = s.host := rfl
@[simp] theorem State.noteReads_plant (s : State) (ls : List Nat) : (s.noteReads ls).plant = s.plant := rfl
@[simp] theorem State.noteReads_dev (s : State) (ls : List Nat) : (s.noteReads ls).dev = s.dev := rfl
@[simp] theorem State.noteReads_now (s : State) (ls : List Nat) : (s.noteReads ls).now = s.now := rfl
@[simp] theorem State.noteReads_turns (s : State) (ls : List Nat) : (s.noteReads ls).turns = s.turns := rfl
@[simp] theorem State.noteReads_free (s : State) (ls : List Nat) : (s.noteReads ls).free = s.free := rfl

/-! ## `State.noteWrites` -/

@[simp] theorem State.noteWrites_cur (s : State) (ls : List Nat) : (s.noteWrites ls).cur = s.cur := rfl
@[simp] theorem State.noteWrites_me (s : State) (ls : List Nat) : (s.noteWrites ls).me = { s.me with chunk := { s.me.chunk with writes := ls.foldl (fun m l => setAdd l m) s.me.chunk.writes } } := rfl
@[simp] theorem State.noteWrites_unit (s : State) (ls : List Nat) : (s.noteWrites ls).unit = s.unit := rfl
@[simp] theorem State.noteWrites_others (s : State) (ls : List Nat) : (s.noteWrites ls).others = s.others := rfl
@[simp] theorem State.noteWrites_cores (s : State) (ls : List Nat) : (s.noteWrites ls).cores = s.cores := rfl
@[simp] theorem State.noteWrites_clusters (s : State) (ls : List Nat) : (s.noteWrites ls).clusters = s.clusters := rfl
@[simp] theorem State.noteWrites_pairs (s : State) (ls : List Nat) : (s.noteWrites ls).pairs = s.pairs := rfl
@[simp] theorem State.noteWrites_twins (s : State) (ls : List Nat) : (s.noteWrites ls).twins = s.twins := rfl
@[simp] theorem State.noteWrites_mem (s : State) (ls : List Nat) : (s.noteWrites ls).mem = s.mem := rfl
@[simp] theorem State.noteWrites_caps (s : State) (ls : List Nat) : (s.noteWrites ls).caps = s.caps := rfl
@[simp] theorem State.noteWrites_jobs (s : State) (ls : List Nat) : (s.noteWrites ls).jobs = s.jobs := rfl
@[simp] theorem State.noteWrites_streams (s : State) (ls : List Nat) : (s.noteWrites ls).streams = s.streams := rfl
@[simp] theorem State.noteWrites_jobCount (s : State) (ls : List Nat) : (s.noteWrites ls).jobCount = s.jobCount := rfl
@[simp] theorem State.noteWrites_bagRot (s : State) (ls : List Nat) : (s.noteWrites ls).bagRot = s.bagRot := rfl
@[simp] theorem State.noteWrites_lastTaken (s : State) (ls : List Nat) : (s.noteWrites ls).lastTaken = s.lastTaken := rfl
@[simp] theorem State.noteWrites_hung (s : State) (ls : List Nat) : (s.noteWrites ls).hung = s.hung := rfl
@[simp] theorem State.noteWrites_sumAt (s : State) (ls : List Nat) : (s.noteWrites ls).sumAt = s.sumAt := rfl
@[simp] theorem State.noteWrites_pipes (s : State) (ls : List Nat) : (s.noteWrites ls).pipes = s.pipes := rfl
@[simp] theorem State.noteWrites_groups (s : State) (ls : List Nat) : (s.noteWrites ls).groups = s.groups := rfl
@[simp] theorem State.noteWrites_ord (s : State) (ls : List Nat) : (s.noteWrites ls).ord = s.ord := rfl
@[simp] theorem State.noteWrites_fab (s : State) (ls : List Nat) : (s.noteWrites ls).fab = s.fab := rfl
@[simp] theorem State.noteWrites_host (s : State) (ls : List Nat) : (s.noteWrites ls).host = s.host := rfl
@[simp] theorem State.noteWrites_plant (s : State) (ls : List Nat) : (s.noteWrites ls).plant = s.plant := rfl
@[simp] theorem State.noteWrites_dev (s : State) (ls : List Nat) : (s.noteWrites ls).dev = s.dev := rfl
@[simp] theorem State.noteWrites_now (s : State) (ls : List Nat) : (s.noteWrites ls).now = s.now := rfl
@[simp] theorem State.noteWrites_turns (s : State) (ls : List Nat) : (s.noteWrites ls).turns = s.turns := rfl
@[simp] theorem State.noteWrites_free (s : State) (ls : List Nat) : (s.noteWrites ls).free = s.free := rfl

/-! ## `State.withRows` -/

@[simp] theorem State.withRows_cur (s : State) (t : TReg) (q : Nat) (vs : List Row) : (s.withRows t q vs).cur = s.cur := rfl
@[simp] theorem State.withRows_unit (s : State) (t : TReg) (q : Nat) (vs : List Row) : (s.withRows t q vs).unit = s.unit := rfl
@[simp] theorem State.withRows_others (s : State) (t : TReg) (q : Nat) (vs : List Row) : (s.withRows t q vs).others = s.others := rfl
@[simp] theorem State.withRows_cores (s : State) (t : TReg) (q : Nat) (vs : List Row) : (s.withRows t q vs).cores = s.cores := rfl
@[simp] theorem State.withRows_clusters (s : State) (t : TReg) (q : Nat) (vs : List Row) : (s.withRows t q vs).clusters = s.clusters := rfl
@[simp] theorem State.withRows_pairs (s : State) (t : TReg) (q : Nat) (vs : List Row) : (s.withRows t q vs).pairs = s.pairs := rfl
@[simp] theorem State.withRows_twins (s : State) (t : TReg) (q : Nat) (vs : List Row) : (s.withRows t q vs).twins = s.twins := rfl
@[simp] theorem State.withRows_mem (s : State) (t : TReg) (q : Nat) (vs : List Row) : (s.withRows t q vs).mem = s.mem := rfl
@[simp] theorem State.withRows_caps (s : State) (t : TReg) (q : Nat) (vs : List Row) : (s.withRows t q vs).caps = s.caps := rfl
@[simp] theorem State.withRows_jobs (s : State) (t : TReg) (q : Nat) (vs : List Row) : (s.withRows t q vs).jobs = s.jobs := rfl
@[simp] theorem State.withRows_streams (s : State) (t : TReg) (q : Nat) (vs : List Row) : (s.withRows t q vs).streams = s.streams := rfl
@[simp] theorem State.withRows_jobCount (s : State) (t : TReg) (q : Nat) (vs : List Row) : (s.withRows t q vs).jobCount = s.jobCount := rfl
@[simp] theorem State.withRows_bagRot (s : State) (t : TReg) (q : Nat) (vs : List Row) : (s.withRows t q vs).bagRot = s.bagRot := rfl
@[simp] theorem State.withRows_lastTaken (s : State) (t : TReg) (q : Nat) (vs : List Row) : (s.withRows t q vs).lastTaken = s.lastTaken := rfl
@[simp] theorem State.withRows_hung (s : State) (t : TReg) (q : Nat) (vs : List Row) : (s.withRows t q vs).hung = s.hung := rfl
@[simp] theorem State.withRows_sumAt (s : State) (t : TReg) (q : Nat) (vs : List Row) : (s.withRows t q vs).sumAt = s.sumAt := rfl
@[simp] theorem State.withRows_pipes (s : State) (t : TReg) (q : Nat) (vs : List Row) : (s.withRows t q vs).pipes = s.pipes := rfl
@[simp] theorem State.withRows_groups (s : State) (t : TReg) (q : Nat) (vs : List Row) : (s.withRows t q vs).groups = s.groups := rfl
@[simp] theorem State.withRows_ord (s : State) (t : TReg) (q : Nat) (vs : List Row) : (s.withRows t q vs).ord = s.ord := rfl
@[simp] theorem State.withRows_fab (s : State) (t : TReg) (q : Nat) (vs : List Row) : (s.withRows t q vs).fab = s.fab := rfl
@[simp] theorem State.withRows_host (s : State) (t : TReg) (q : Nat) (vs : List Row) : (s.withRows t q vs).host = s.host := rfl
@[simp] theorem State.withRows_plant (s : State) (t : TReg) (q : Nat) (vs : List Row) : (s.withRows t q vs).plant = s.plant := rfl
@[simp] theorem State.withRows_dev (s : State) (t : TReg) (q : Nat) (vs : List Row) : (s.withRows t q vs).dev = s.dev := rfl
@[simp] theorem State.withRows_now (s : State) (t : TReg) (q : Nat) (vs : List Row) : (s.withRows t q vs).now = s.now := rfl
@[simp] theorem State.withRows_turns (s : State) (t : TReg) (q : Nat) (vs : List Row) : (s.withRows t q vs).turns = s.turns := rfl
@[simp] theorem State.withRows_free (s : State) (t : TReg) (q : Nat) (vs : List Row) : (s.withRows t q vs).free = s.free := rfl

/-! ## Registers of a context (R47) -/

@[simp] theorem Ctx.setReg_zero (c : Ctx) (v : Word) : c.setReg 0 v = c := rfl

@[simp] theorem Ctx.reg_zero (c : Ctx) : c.reg 0 = 0 := rfl

/-- A register other than `s0` reads what was written to it. -/
theorem Ctx.reg_setReg_same (c : Ctx) {r : Reg} (v : Word) (h : r ≠ 0) : (c.setReg r v).reg r = v := by
  unfold Ctx.reg Ctx.setReg
  rw [if_neg h, if_neg h]
  simp

/-- A write leaves every other register alone. -/
theorem Ctx.reg_setReg_other (c : Ctx) {r q : Reg} (v : Word) (h : q ≠ r) : (c.setReg r v).reg q = c.reg q := by
  unfold Ctx.reg Ctx.setReg
  by_cases h0 : r = 0
  · simp [h0]
  · by_cases hq : q = 0
    · simp [hq]
    · rw [if_neg h0, if_neg hq, if_neg hq]
      exact Vector.getElem_set_ne r.isLt _ fun e => h (BitVec.eq_of_toNat_eq e.symm)

/-- A row reads what was written to it. -/
theorem Ctx.row_setRow_same (c : Ctx) {i : Nat} (v : Row) (h : i < 128) : (c.setRow i v).row i = v := by
  simp [Ctx.row, Ctx.setRow, h]

/-- A write leaves every other row alone. -/
theorem Ctx.row_setRow_other (c : Ctx) {i j : Nat} (v : Row) (h : j ≠ i) : (c.setRow i v).row j = c.row j := by
  unfold Ctx.row Ctx.setRow
  by_cases h0 : i < 128
  · by_cases hj : j < 128
    · simp [h0, hj, Vector.getElem_set_ne, Ne.symm h]
    · simp [hj]
  · simp [h0]

end Sys2Proof.Machine
end

