-- ==== Sys2Proof/Laws/Memory.lean ====
section
/-! SUPPORT. The sparse tables and the byte list: reading after writing, and that every operation on memory keeps its canonical form. -/

namespace Sys2Proof.Machine

/-! ## Tables -/

theorem tabGet_tabSet_same {α : Type} (k : Nat) (v : α) (m : Tab α) : tabGet k (tabSet k v m) = some v := by
  induction m with
  | nil => simp [tabSet, tabGet]
  | cons x m ih =>
    obtain ⟨k', v'⟩ := x
    simp only [tabSet]
    split
    · simp [tabGet]
    · split
      · simp [tabGet]
      · simp_all [tabGet]

theorem tabGet_tabSet_other {α : Type} {k k' : Nat} (v : α) (m : Tab α) (h : k' ≠ k) :
    tabGet k' (tabSet k v m) = tabGet k' m := by
  induction m with
  | nil => simp [tabSet, tabGet, h]
  | cons x m ih =>
    obtain ⟨k₂, v₂⟩ := x
    simp only [tabSet]
    split
    · simp [tabGet, h]
    · split
      · simp_all [tabGet]
      · simp only [tabGet, ih]

theorem tabGet_tabDel_other {α : Type} {k k' : Nat} (m : Tab α) (h : k' ≠ k) : tabGet k' (tabDel k m) = tabGet k' m := by
  induction m with
  | nil => rfl
  | cons x m ih =>
    obtain ⟨k₂, v₂⟩ := x
    simp only [tabDel]
    split
    · simp_all [tabGet]
    · simp only [tabGet, ih]

/-- Every key of a table is above a bound. -/
def tabAbove {α : Type} (k : Nat) (m : Tab α) : Prop := ∀ x ∈ m, k < x.1

theorem tabSorted_cons {α : Type} (k : Nat) (v : α) (m : Tab α) :
    tabSorted ((k, v) :: m) = true ↔ tabAbove k m ∧ tabSorted m = true := by
  induction m generalizing k v with
  | nil => simp [tabSorted, tabAbove]
  | cons x m ih =>
    obtain ⟨k', v'⟩ := x
    have e : tabSorted ((k, v) :: (k', v') :: m) = (decide (k < k') && tabSorted ((k', v') :: m)) := rfl
    rw [e, Bool.and_eq_true, decide_eq_true_iff, ih k' v']
    constructor
    · rintro ⟨h, ha, hs⟩
      refine ⟨?_, ha, hs⟩
      intro y hy
      rcases List.mem_cons.mp hy with rfl | hy
      · exact h
      · exact Nat.lt_trans h (ha y hy)
    · rintro ⟨ha, hb, hs⟩
      exact ⟨ha (k', v') (List.mem_cons_self ..), hb, hs⟩

theorem tabAbove_tabSet {α : Type} {b k : Nat} (v : α) (m : Tab α) (h : b < k) (hm : tabAbove b m) :
    tabAbove b (tabSet k v m) := by
  induction m with
  | nil => simpa [tabSet, tabAbove] using h
  | cons x m ih =>
    obtain ⟨k', v'⟩ := x
    have hx : b < k' := hm (k', v') (List.mem_cons_self ..)
    have hm' : tabAbove b m := fun y hy => hm y (List.mem_cons_of_mem _ hy)
    simp only [tabSet]
    split
    · intro y hy
      rcases List.mem_cons.mp hy with rfl | hy
      · exact h
      · exact hm y hy
    · split
      · intro y hy
        rcases List.mem_cons.mp hy with rfl | hy
        · exact h
        · exact hm' y hy
      · intro y hy
        rcases List.mem_cons.mp hy with rfl | hy
        · exact hx
        · exact ih hm' y hy

theorem tabSorted_tabSet {α : Type} (k : Nat) (v : α) (m : Tab α) (h : tabSorted m = true) :
    tabSorted (tabSet k v m) = true := by
  induction m with
  | nil => simp [tabSet, tabSorted]
  | cons x m ih =>
    obtain ⟨k', v'⟩ := x
    obtain ⟨ha, hs⟩ := (tabSorted_cons k' v' m).mp h
    simp only [tabSet]
    split
    · next hk =>
      refine (tabSorted_cons ..).mpr ⟨?_, h⟩
      intro y hy
      rcases List.mem_cons.mp hy with rfl | hy
      · exact hk
      · exact Nat.lt_trans hk (ha y hy)
    · split
      · next hk => subst hk; exact (tabSorted_cons ..).mpr ⟨ha, hs⟩
      · next h1 h2 => exact (tabSorted_cons ..).mpr ⟨tabAbove_tabSet v m (by omega) ha, ih hs⟩

theorem tabDel_subset {α : Type} (k : Nat) (m : Tab α) : ∀ x ∈ tabDel k m, x ∈ m := by
  induction m with
  | nil => simp [tabDel]
  | cons y m ih =>
    obtain ⟨k', v'⟩ := y
    simp only [tabDel]
    split
    · intro x hx; exact List.mem_cons_of_mem _ (ih x hx)
    · intro x hx
      rcases List.mem_cons.mp hx with rfl | hx
      · exact List.mem_cons_self ..
      · exact List.mem_cons_of_mem _ (ih x hx)

theorem tabSorted_tabDel {α : Type} (k : Nat) (m : Tab α) (h : tabSorted m = true) : tabSorted (tabDel k m) = true := by
  induction m with
  | nil => rfl
  | cons x m ih =>
    obtain ⟨k', v'⟩ := x
    obtain ⟨ha, hs⟩ := (tabSorted_cons k' v' m).mp h
    simp only [tabDel]
    split
    · exact ih hs
    · exact (tabSorted_cons ..).mpr ⟨fun y hy => ha y (tabDel_subset k m y hy), ih hs⟩

theorem tabGet_of_above {α : Type} {k : Nat} {m : Tab α} (h : tabAbove k m) : tabGet k m = none := by
  induction m with
  | nil => rfl
  | cons x m ih =>
    obtain ⟨k', v'⟩ := x
    have hx : k < k' := h (k', v') (List.mem_cons_self ..)
    have : k ≠ k' := by omega
    simp only [tabGet, this, if_false]
    exact ih fun y hy => h y (List.mem_cons_of_mem _ hy)

/-- A key taken out of a sorted table is gone. -/
theorem tabGet_tabDel_same {α : Type} (k : Nat) (m : Tab α) : tabGet k (tabDel k m) = none := by
  induction m with
  | nil => rfl
  | cons x m ih =>
    obtain ⟨k', v'⟩ := x
    simp only [tabDel]
    split
    · exact ih
    · next h => simp only [tabGet, h, if_false, ih]

/-! ## Bytes -/

/-- A byte reads what was written there. -/
theorem byteAt_setByte_same (a : Nat) (b : Byte) (m : List Host.Cell) : byteAt (setByte a b m) a = b := by
  unfold byteAt setByte
  split
  · next h => rw [tabGet_tabDel_same, h]; rfl
  · rw [tabGet_tabSet_same]; rfl

/-- A write leaves every other byte alone. -/
theorem byteAt_setByte_other {a a' : Nat} (b : Byte) (m : List Host.Cell) (h : a' ≠ a) :
    byteAt (setByte a b m) a' = byteAt m a' := by
  unfold byteAt setByte
  split
  · rw [tabGet_tabDel_other m h]
  · rw [tabGet_tabSet_other b m h]

/-- Bytes outside a written range are unchanged. -/
theorem byteAt_setBytes_other {a a' : Nat} (bs : List Byte) (m : List Host.Cell) (h : a' < a ∨ a + bs.length ≤ a') :
    byteAt (setBytes a bs m) a' = byteAt m a' := by
  induction bs generalizing a m with
  | nil => rfl
  | cons b bs ih =>
    simp only [List.length_cons] at h
    rw [setBytes, ih, byteAt_setByte_other b m (by omega)]
    omega

/-- A written range reads what was written. -/
theorem bytesAt_setBytes_same (a : Nat) (bs : List Byte) (m : List Host.Cell) :
    bytesAt (setBytes a bs m) a bs.length = bs := by
  induction bs generalizing a m with
  | nil => rfl
  | cons b bs ih =>
    rw [setBytes, List.length_cons, bytesAt, ih, byteAt_setBytes_other bs _ (by omega), byteAt_setByte_same]

/-- Every entry differs from what its address reads as unlisted. -/
theorem noIdle_iff (m : List Host.Cell) : noIdle m = true ↔ ∀ x ∈ m, x.2 ≠ unlisted x.1 := by
  induction m with
  | nil => simp [noIdle]
  | cons x m ih => obtain ⟨a, b⟩ := x; simp [noIdle, ih]

theorem mem_tabSet {α : Type} (k : Nat) (v : α) (m : Tab α) : ∀ x ∈ tabSet k v m, x = (k, v) ∨ x ∈ m := by
  induction m with
  | nil => simp [tabSet]
  | cons y m ih =>
    obtain ⟨k', v'⟩ := y
    simp only [tabSet]
    split
    · intro x hx
      rcases List.mem_cons.mp hx with rfl | hx
      · exact .inl rfl
      · exact .inr hx
    · split
      · intro x hx
        rcases List.mem_cons.mp hx with rfl | hx
        · exact .inl rfl
        · exact .inr (List.mem_cons_of_mem _ hx)
      · intro x hx
        rcases List.mem_cons.mp hx with rfl | hx
        · exact .inr (List.mem_cons_self ..)
        · exact (ih x hx).imp id (List.mem_cons_of_mem _)

theorem noIdle_setByte (a : Nat) (b : Byte) (m : List Host.Cell) (h : noIdle m = true) : noIdle (setByte a b m) = true := by
  rw [noIdle_iff] at h ⊢
  unfold setByte
  split
  · exact fun x hx => h x (tabDel_subset a m x hx)
  · next hb =>
    intro x hx
    rcases mem_tabSet a b m x hx with rfl | hx
    · exact hb
    · exact h x hx

theorem tabSorted_setByte (a : Nat) (b : Byte) (m : List Host.Cell) (h : tabSorted m = true) :
    tabSorted (setByte a b m) = true := by
  unfold setByte
  split
  · exact tabSorted_tabDel a m h
  · exact tabSorted_tabSet a b m h

/-- Writing bytes keeps the byte list sorted and without idle entries. -/
theorem setBytes_canonical (a : Nat) (bs : List Byte) (m : List Host.Cell) (hs : tabSorted m = true) (hn : noIdle m = true) :
    tabSorted (setBytes a bs m) = true ∧ noIdle (setBytes a bs m) = true := by
  induction bs generalizing a m with
  | nil => exact ⟨hs, hn⟩
  | cons b bs ih => exact ih (a + 1) (setByte a b m) (tabSorted_setByte a b m hs) (noIdle_setByte a b m hn)

/-! ## Tags -/

theorem risingFrom_cons (k : Nat) (m : List Nat) : risingFrom (k :: m) = true ↔ (∀ x ∈ m, k < x) ∧ risingFrom m = true := by
  induction m generalizing k with
  | nil => simp [risingFrom]
  | cons b m ih =>
    have e : risingFrom (k :: b :: m) = (decide (k < b) && risingFrom (b :: m)) := rfl
    rw [e, Bool.and_eq_true, decide_eq_true_iff]
    constructor
    · rintro ⟨h, hs⟩
      refine ⟨?_, hs⟩
      intro x hx
      rcases List.mem_cons.mp hx with rfl | hx
      · exact h
      · exact Nat.lt_trans h (((ih b).mp hs).1 x hx)
    · rintro ⟨h, hs⟩
      exact ⟨h b (List.mem_cons_self ..), hs⟩

theorem mem_setAdd (k : Nat) (m : List Nat) : ∀ x ∈ setAdd k m, x = k ∨ x ∈ m := by
  induction m with
  | nil => simp [setAdd]
  | cons y m ih =>
    simp only [setAdd]
    split
    · intro x hx
      rcases List.mem_cons.mp hx with rfl | hx
      · exact .inl rfl
      · exact .inr hx
    · split
      · exact fun x hx => .inr hx
      · intro x hx
        rcases List.mem_cons.mp hx with rfl | hx
        · exact .inr (List.mem_cons_self ..)
        · exact (ih x hx).imp id (List.mem_cons_of_mem _)

theorem risingFrom_setAdd (k : Nat) (m : List Nat) (h : risingFrom m = true) : risingFrom (setAdd k m) = true := by
  induction m with
  | nil => rfl
  | cons y m ih =>
    obtain ⟨ha, hs⟩ := (risingFrom_cons y m).mp h
    simp only [setAdd]
    split
    · next hk =>
      refine (risingFrom_cons ..).mpr ⟨?_, h⟩
      intro x hx
      rcases List.mem_cons.mp hx with rfl | hx
      · exact hk
      · exact Nat.lt_trans hk (ha x hx)
    · split
      · exact h
      · next h1 h2 =>
        refine (risingFrom_cons ..).mpr ⟨?_, ih hs⟩
        intro x hx
        rcases mem_setAdd k m x hx with rfl | hx
        · omega
        · exact ha x hx

theorem risingFrom_filter (p : Nat → Bool) (m : List Nat) (h : risingFrom m = true) : risingFrom (m.filter p) = true := by
  induction m with
  | nil => rfl
  | cons y m ih =>
    obtain ⟨ha, hs⟩ := (risingFrom_cons y m).mp h
    rw [List.filter_cons]
    split
    · exact (risingFrom_cons ..).mpr ⟨fun x hx => ha x (List.mem_filter.mp hx).1, ih hs⟩
    · exact ih hs

/-! ## The canonical form of memory -/

theorem Memory.wf_iff (m : Memory) :
    m.wf = true ↔ tabSorted m.bytes = true ∧ noIdle m.bytes = true ∧ risingFrom m.tags = true := by
  simp [Memory.wf, and_assoc]

/-- Memory that keeps its bytes and tags keeps its form. -/
theorem Memory.wf_congr {m m' : Memory} (hb : m'.bytes = m.bytes) (ht : m'.tags = m.tags) : m'.wf = m.wf := by
  simp [Memory.wf, hb, ht]

/-- Writing bytes keeps the form. -/
theorem poke_inv (s : State) (a : Nat) (bs : List Byte) (h : s.Inv) : (s.poke a bs).Inv := by
  obtain ⟨h1, h2, h3⟩ := (Memory.wf_iff _).mp h
  have := setBytes_canonical a bs s.mem.bytes h1 h2
  exact (Memory.wf_iff _).mpr ⟨this.1, this.2, h3⟩

/-- Writing a full tag keeps the form. -/
theorem setTag_inv (s : State) (a : Nat) (full : Bool) (h : s.Inv) : (s.setTag a full).Inv := by
  obtain ⟨h1, h2, h3⟩ := (Memory.wf_iff _).mp h
  refine (Memory.wf_iff _).mpr ⟨h1, h2, ?_⟩
  cases full
  · exact risingFrom_filter _ _ h3
  · exact risingFrom_setAdd a _ h3

/-- Writing segments keeps the form. -/
theorem pokeSegs_inv (s : State) (segs : List (Nat × Nat)) (bs : List Byte) (h : s.Inv) : (s.pokeSegs segs bs).Inv := by
  induction segs generalizing s bs with
  | nil => exact h
  | cons g gs ih => exact ih _ _ (poke_inv s g.1 _ h)

/-- A superblock replaced keeps the form. -/
theorem setSuperblock_inv (s : State) (sb : Nat) (data : List Byte) (full : List Nat) (h : s.Inv) :
    (s.setSuperblock sb data full).Inv := by
  have hp := poke_inv s (superblockAddr sb) data h
  obtain ⟨h1, h2, h3⟩ := (Memory.wf_iff _).mp hp
  refine (Memory.wf_iff _).mpr ⟨h1, h2, ?_⟩
  have : ∀ (xs m : List Nat), risingFrom m = true → risingFrom (xs.foldl (fun m a => setAdd a m) m) = true := by
    intro xs
    induction xs with
    | nil => exact fun m h => h
    | cons x xs ih => exact fun m h => ih _ (risingFrom_setAdd x m h)
  exact this full _ (risingFrom_filter _ _ h3)

/-- A state with the bytes and tags of another keeps its form. -/
theorem State.inv_congr {s t : State} (hb : t.mem.bytes = s.mem.bytes) (ht : t.mem.tags = s.mem.tags) (h : s.Inv) : t.Inv :=
  (Memory.wf_congr hb ht).trans h

/-- Poison copied leaves bytes and tags as they are. -/
theorem copyPoison_frame (s : State) (src dst n : Nat) :
    (s.copyPoison src dst n).mem.bytes = s.mem.bytes ∧ (s.copyPoison src dst n).mem.tags = s.mem.tags := by
  unfold State.copyPoison; split <;> exact ⟨rfl, rfl⟩

/-- Poison copied keeps the form. -/
theorem copyPoison_inv (s : State) (src dst n : Nat) (h : s.Inv) : (s.copyPoison src dst n).Inv :=
  State.inv_congr (copyPoison_frame s src dst n).1 (copyPoison_frame s src dst n).2 h

/-- A state with other spilled superblocks keeps its form. -/
theorem spills_inv (s : State) (m : List Spill) (h : s.Inv) : ({ s with mem := { s.mem with spills := m } } : State).Inv :=
  State.inv_congr (s := s) rfl rfl h

/-- A superblock spilled keeps the form. -/
theorem spill_inv (s : State) (sb job : Nat) (h : s.Inv) : (s.spill sb job).Inv := by
  unfold State.spill
  apply spills_inv
  split
  · exact copyPoison_inv _ _ _ _ (poke_inv s _ _ h)
  · exact h

/-- A state with other pins keeps its form. -/
theorem pins_inv (s : State) (m : Tab Nat) (h : s.Inv) : ({ s with mem := { s.mem with pins := m } } : State).Inv :=
  State.inv_congr (s := s) rfl rfl h

/-- A pin, with its spills and reloads, keeps the form. -/
theorem pinFor_inv (s : State) (job sb : Nat) (h : s.Inv) : (s.pinFor job sb).Inv := by
  unfold State.pinFor
  simp only
  split
  · refine pins_inv _ _ (copyPoison_inv _ _ _ _ (setSuperblock_inv _ sb _ _ (spills_inv _ _ ?_)))
    split
    · split
      · exact h
      · exact spill_inv s sb _ h
    · exact h
  · split
    · split
      · exact pins_inv _ _ (setSuperblock_inv _ sb _ _ (spill_inv s sb _ h))
      · exact h
    · exact pins_inv _ _ (setSuperblock_inv s sb _ _ h)

/-- Pinning what an access touches keeps the form. -/
theorem pinSegs_inv (s : State) (job : Nat) (segs : List (Nat × Nat)) (h : s.Inv) : (s.pinSegs job segs).Inv := by
  have hl : ∀ (ns : List Nat) (s : State), s.Inv → (ns.foldl (fun s sb => s.pinFor job sb) s).Inv := by
    intro ns
    induction ns with
    | nil => exact fun s h => h
    | cons n ns ih => exact fun s h => ih _ (pinFor_inv s job n h)
  refine hl _ _ (State.inv_congr (s := s) ?_ ?_ h) <;> unfold State.squashOthers <;> split <;> rfl

/-- Records whose fields become undefined keep the form. -/
theorem spoilRecords_inv (s : State) (xs : List HitRec) (h : s.Inv) : (s.spoilRecords xs).Inv := by
  unfold State.spoilRecords
  induction xs generalizing s with
  | nil => exact h
  | cons x xs ih => exact ih _ (pokeSegs_inv s _ _ h)

/-- A store by software keeps the form. -/
theorem softPoke_inv (s : State) (segs : List (Nat × Nat)) (bs : List Byte) (h : s.Inv) : (s.softPoke segs bs).Inv :=
  spoilRecords_inv _ _ (pokeSegs_inv s segs bs h)

end Sys2Proof.Machine
end

