-- ==== Sys2Proof/Laws/Words.lean ====
section
/-! SUPPORT. What the shared operations of the words do: one lemma for each, which proofs cite instead of unfolding it. -/

namespace Sys2Proof.Machine

/-! ## Computations -/

theorem bind_ok {α β : Type} {m : M α} {f : α → M β} {s t : State} {a : α} (h : m s = .ok (a, t)) : (m >>= f) s = f a t := by
  simp [bind, StateT.bind, Except.bind, h]

theorem bind_error {α β : Type} {m : M α} {f : α → M β} {s : State} {x : Stop} (h : m s = .error x) :
    (m >>= f) s = .error x := by
  simp [bind, StateT.bind, Except.bind, h]

/-- A computation of two parts completes exactly when each part does. -/
theorem bind_eq_ok {α β : Type} {m : M α} {f : α → M β} {s u : State} {b : β} :
    (m >>= f) s = .ok (b, u) ↔ ∃ a t, m s = .ok (a, t) ∧ f a t = .ok (b, u) := by
  simp only [bind, StateT.bind, Except.bind]
  constructor
  · intro h
    cases hm : m s with
    | error x => rw [hm] at h; cases h
    | ok at_ => rw [hm] at h; exact ⟨at_.1, at_.2, rfl, h⟩
  · rintro ⟨a, t, hm, hf⟩
    rw [hm]
    exact hf

@[simp] theorem pure_run {α : Type} (a : α) (s : State) : (pure a : M α) s = .ok (a, s) := rfl

@[simp] theorem getM_run {α : Type} (f : State → α) (s : State) : getM f s = .ok (f s, s) := rfl

@[simp] theorem modM_run (f : State → State) (s : State) : modM f s = .ok ((), f s) := rfl

@[simp] theorem get_run (s : State) : (get : M State) s = .ok (s, s) := rfl

theorem needM_ok {b : Bool} {x : Stop} {s : State} (h : b = true) : needM b x s = .ok ((), s) := by simp [needM, h]

theorem legalM_ok {b : Bool} {s : State} (h : b = true) : legalM b s = .ok ((), s) := by simp [legalM, h]

theorem systemM_ok {s : State} (h : s.me.ctx.tin = true) : systemM s = .ok ((), s) := by simp [systemM, Ctx.system, h]

theorem ownM_ok {s : State} (h : s.me.chunk.count = 0) :
    ownM s = .ok ((), { s with unit := { s.unit with own := true } }) := by simp [ownM, h]

theorem releaseM_ok {rel : Bool} {s : State} (h : s.me.err = none ∨ rel = false) : releaseM rel s = .ok ((), s) := by
  unfold releaseM
  rcases h with h | h
  · rw [h]
  · rw [h]; cases s.me.err <;> rfl

/-! ## The outcome of a word -/

/-- A word that is ready and whose computation completes ends in the state that the computation leaves. -/
theorem runWord_ok {s t : State} {i : Instr} {m : M Unit} (h : s.Ready i) (hm : m s = .ok ((), t)) :
    runWord i m s = .next t := by
  simp [runWord, h.1, h.2, hm]

/-- A word that is ready and whose computation stops keeps no effect of it. -/
theorem runWord_stop {s : State} {i : Instr} {m : M Unit} {x : Stop} (h : s.Ready i) (hm : m s = .error x) :
    runWord i m s = s.stopAt x := by
  simp [runWord, h.1, h.2, hm]

/-- A word that is ready and whose computation traps takes that trap. -/
theorem runWord_trap {s : State} {i : Instr} {m : M Unit} {c : Cause} {v : Word} (h : s.Ready i) (hm : m s = .error (.trap c v)) :
    runWord i m s = .next (s.takeTrap c v) :=
  (runWord_stop h hm).trans rfl

/-- A word that its agent may not run is ILLEGAL (R101, R231, R244). -/
theorem runWord_illegal {s : State} {i : Instr} {m : M Unit} (h : s.mayRun i = false) :
    runWord i m s = .next (s.applyRes (.trapped .illegal (s.unit.word.zeroExtend 64))) := by
  simp [runWord, h]

/-- Everything a word can do. -/
theorem runWord_cases (i : Instr) (m : M Unit) (s : State) :
    (∃ t, m s = .ok ((), t) ∧ runWord i m s = .next t) ∨
    (∃ x, m s = .error x ∧ runWord i m s = s.stopAt x) ∨
    (∃ c v, runWord i m s = .next (s.applyRes (.trapped c v))) := by
  unfold runWord
  split
  · split
    · exact .inr (.inr ⟨_, _, rfl⟩)
    · cases hm : m s with
      | ok x => exact .inl ⟨x.2, rfl, rfl⟩
      | error x => exact .inr (.inl ⟨x, rfl, rfl⟩)
  · exact .inr (.inr ⟨_, _, rfl⟩)

/-! ## Operands in plain registers -/

theorem State.Plain.of_mem {s : State} {rs : List Reg} (h : s.Plain rs) {r : Reg} (hr : r ∈ rs) :
    s.me.ctx.bindOf r.toNat = none := h r hr

theorem readS_plain {s : State} {r : Reg} (h : s.me.ctx.bindOf r.toNat = none) : readS r s = .ok (s.srcReg r, s) := by
  simp [readS, getM, bind, StateT.bind, h, Except.bind]

theorem writeS_plain {s : State} {r : Reg} {v : Word} (h : s.me.ctx.bindOf r.toNat = none) :
    writeS r v s = .ok ((), s.withReg r v) := by
  simp [writeS, getM, bind, StateT.bind, h, Except.bind, modM, State.withReg]

/-- With LA = 0 a result stands in its register at once. -/
theorem writeLate_now {s : State} {r : Reg} {v : Word} (h : s.me.ctx.bindOf r.toNat = none) :
    writeLate 0 r v s = .ok ((), s.nowReg r v) := by
  unfold writeLate State.nowReg
  rw [bind_ok (getM_run _ s), h]
  by_cases hr : r = 0
  · simp [hr]
  · simp only [hr, if_false]
    show lateM 0 _ s = _
    simp only [lateM, if_true, modM_run, State.land, State.viewReg]
    split <;> rfl

/-- A late result waits in flight for its window. -/
theorem writeLate_late {s : State} {la : BitVec 4} {r : Reg} {v : Word} (h : s.me.ctx.bindOf r.toNat = none) (hl : la ≠ 0)
    (hr : r ≠ 0) : writeLate la r v s = .ok ((), s.withLate (.scalar r v) la) := by
  have hl' : la.toNat ≠ 0 := fun e => hl (BitVec.eq_of_toNat_eq e)
  unfold writeLate
  rw [bind_ok (getM_run _ s), h]
  simp only [hr, if_false, lateM, modM_run, hl']
  rfl

/-- With nothing of its destination in flight, a result that stands at once is an ordinary one. -/
theorem landOlder_clear {s : State} {v : LateVal} (h : s.Clear v) : s.landOlder v = s := by
  have : s.me.ctx.lates.filter (fun l => meets l.val.dests v.dests) = [] :=
    List.filter_eq_nil_iff.mpr fun l hl => by simp [h l hl]
  simp [State.landOlder, this]

theorem nowReg_clear {s : State} {r : Reg} {v : Word} (h : s.Clear (.scalar r v)) : s.nowReg r v = s.withReg r v := by
  unfold State.nowReg
  split
  · next hr => subst hr; rfl
  · rw [landOlder_clear h]; rfl

theorem nowRows_clear {s : State} {t : TReg} {f : Nat} {vs : List Row} (h : s.Clear (.rows (indexRows t f vs))) :
    s.nowRows t f vs = s.withRows t f vs := by
  unfold State.nowRows
  rw [landOlder_clear h]; rfl

theorem readRows_plain {s : State} {t : TReg} {f n : Nat} (h : s.me.ctx.bindOf (32 + t.toNat) = none) :
    readRows t f n s = .ok (s.srcRows t f n, s) := by
  unfold readRows
  rw [bind_ok (getM_run _ s), h]
  rfl

theorem writeRows_plain {s : State} {t : TReg} {f : Nat} {vs : List Row} (h : s.me.ctx.bindOf (32 + t.toNat) = none) :
    writeRows t f vs s = .ok ((), s.withRows t f vs) := by
  unfold writeRows
  rw [bind_ok (getM_run _ s), h]
  rfl

/-- Rows that land: the context holds them, and nothing but the operand view changes beside. -/
theorem land_rows (xs : List (Nat × Row)) (s : State) (u : UnitSt) :
    { s.land (.rows xs) with unit := u } = { s.modCtx (fun c => xs.foldl (fun c x => c.setRow x.1 x.2) c) with unit := u } := by
  simp only [State.land]
  induction xs generalizing s with
  | nil => rfl
  | cons x xs ih =>
    rw [List.foldl_cons, ih]
    unfold State.viewRow
    split <;> rfl

/-- Bits of rows that land: each row the context holds by then takes the bits its mask names, and nothing but the operand view changes beside. -/
theorem land_lanes (xs : List (Nat × Row × Row)) (s : State) (u : UnitSt) :
    { s.land (.lanes xs) with unit := u } =
      { s.modCtx (fun c => xs.foldl (fun c x => c.setRow x.1 (maskRow (c.row x.1) x.2.1 x.2.2)) c) with unit := u } := by
  simp only [State.land]
  induction xs generalizing s with
  | nil => rfl
  | cons x xs ih =>
    rw [List.foldl_cons, ih]
    unfold State.viewRow
    split <;> rfl

theorem writeRowsLate_now {s : State} {t : TReg} {f : Nat} {vs : List Row} (h : s.me.ctx.bindOf (32 + t.toNat) = none) :
    writeRowsLate 0 t f vs s = .ok ((), s.nowRows t f vs) := by
  unfold writeRowsLate
  rw [bind_ok (getM_run _ s), h]
  show lateM 0 _ s = _
  simp only [lateM, if_true, modM_run]
  rw [land_rows]
  rfl

/-- Rows written late to a plain tile become one late result. -/
theorem writeRowsLate_late {s : State} {la : BitVec 4} {t : TReg} {f : Nat} {vs : List Row}
    (h : s.me.ctx.bindOf (32 + t.toNat) = none) (hl : la ≠ 0) :
    writeRowsLate la t f vs s = .ok ((), s.withLate (.rows (indexRows t f vs)) la) := by
  have hl' : la.toNat ≠ 0 := fun e => hl (BitVec.eq_of_toNat_eq e)
  unfold writeRowsLate
  rw [bind_ok (getM_run _ s), h]
  simp only [lateM, modM_run, hl', if_false]
  rfl

theorem unboundM_plain {s : State} {r : Reg} (h : s.me.ctx.bindOf r.toNat = none) : unboundM r s = .ok ((), s) := by
  unfold unboundM
  rw [bind_ok (getM_run _ s), h]
  rfl

/-- A scalar result does not change what a later source of the same word reads from an earlier register file. -/
theorem withReg_srcReg {s : State} {r q : Reg} {v : Word} (h : q ≠ r) : (s.withReg r v).srcReg q = s.srcReg q := by
  unfold State.srcReg
  simp only [State.withReg_unit, State.withReg_me]
  split
  · rfl
  · exact Ctx.reg_setReg_other _ _ h

theorem branchM_run (target : Word) (pops : Bool) (s : State) : branchM target pops s = .ok ((), s.branched target pops) := rfl

end Sys2Proof.Machine
end

