-- ==== Sys2Proof/Laws/Access.lean ====
section
/-! SUPPORT. What an ordinary access does: what a check depends on, the bytes a load brings, what a store holds in its chunk, and the traps of
failing checks. -/

namespace Sys2Proof.Machine

/-! ## What a check depends on: memory, the partition descriptors, the device and the capabilities -/

theorem phys_congr {s t : State} (hm : t.mem = s.mem) (hd : t.dev = s.dev) (a n : Nat) : t.phys a n = s.phys a n := by
  have hz : t.hbmsz = s.hbmsz := by rw [State.hbmsz, State.hbmsz, hd]
  unfold State.phys
  rw [hm, hz]

theorem pte_congr {s t : State} (hm : t.mem = s.mem) (hd : t.dev = s.dev) : t.pte = s.pte := by
  funext x
  unfold State.pte State.physNat
  rw [phys_congr hm hd]

theorem walk_congr {s t : State} (hm : t.mem = s.mem) (hh : t.host = s.host) (hd : t.dev = s.dev) (a v : Nat) :
    t.walk a v = s.walk a v := by
  have hn : t.nextTable = s.nextTable := by
    funext x i
    unfold State.nextTable
    rw [pte_congr hm hd]
  have hl : t.walkLeaf = s.walkLeaf := by
    funext x i
    unfold State.walkLeaf
    rw [pte_congr hm hd]
  have hw : t.pdWord = s.pdWord := by
    funext x i
    unfold State.pdWord
    rw [hh]
  unfold State.walk
  rw [hn, hl, hw]

theorem translate_congr {s t : State} (hm : t.mem = s.mem) (hh : t.host = s.host) (hd : t.dev = s.dev) (ks : List Nat) (a v : Nat)
    (w f : Bool) : t.translate ks a v w f = s.translate ks a v w f := by
  unfold State.translate State.cached
  rw [hm, show t.hbmsz = s.hbmsz from by rw [State.hbmsz, State.hbmsz, hd], walk_congr hm hh hd]

theorem translateRange_congr {s t : State} (ks : List Nat) (h : ∀ a v w f, t.translate ks a v w f = s.translate ks a v w f) (asid : Nat)
    (wr fe : Bool) : ∀ fuel va n, t.translateRange ks asid wr fe fuel va n = s.translateRange ks asid wr fe fuel va n := by
  intro fuel
  induction fuel with
  | zero => intros; rfl
  | succ k ih => intro va n; simp only [State.translateRange, h, ih]

theorem segsOf_congr {s t : State} (hm : t.mem = s.mem) (hh : t.host = s.host) (hd : t.dev = s.dev) (ks : List Nat) (a v n : Nat)
    (w f : Bool) : t.segsOf ks a v n w f = s.segsOf ks a v n w f :=
  translateRange_congr ks (translate_congr hm hh hd ks) a w f _ v n

theorem handle_congr {s t : State} (hm : t.mem = s.mem) (hh : t.host = s.host) (hd : t.dev = s.dev) (a h : Nat) :
    t.handle a h = s.handle a h := by
  simp only [State.handle, State.entryAddr, State.pdWord, phys_congr hm hd, hm, hh]

theorem check_congr {s t : State} (hm : t.mem = s.mem) (hh : t.host = s.host) (hd : t.dev = s.dev) (hc : t.caps = s.caps) (w : Who)
    (p : Word) (a : Acc) : t.check w p a = s.check w p a := by
  have h1 : ∀ e h, t.stepCap w e h = s.stepCap w e h := by intro e h; unfold State.stepCap State.holds; rw [hc]
  have h2 : ∀ e, t.placeOf w e p a = s.placeOf w e p a := by
    intro e; unfold State.placeOf; simp only [segsOf_congr hm hh hd]
  unfold State.check
  simp only [handle_congr hm hh hd, h1, h2]

/-- An access that reaches its place in one state reaches it in every state with the same memory and the same accessor. -/
theorem reaches_congr {s t : State} {p : Word} {a : Acc} {pa : Nat} (hm : t.mem = s.mem) (hh : t.host = s.host) (hd : t.dev = s.dev)
    (hc : t.caps = s.caps) (hw : t.who = s.who) (ha : t.me.asid = s.me.asid) (h : s.Reaches p a pa) : t.Reaches p a pa := by
  obtain ⟨h1, h2, h3, h4, h5, h6⟩ := h
  refine ⟨?_, ?_, h3, h4, ?_, ?_⟩
  · rw [hw, check_congr hm hh hd hc]; exact h1
  · rw [ha, handle_congr hm hh hd]; exact h2
  · simpa only [State.ownedAny, hm] using h5
  · rw [hm]; exact h6

end Sys2Proof.Machine

namespace Sys2Proof.Machine

/-! ## Places of package memory -/

theorem frozenSegs_low {s : State} {pa n : Nat} (h : pa < 2 ^ 44) : s.frozenSegs [(pa, n)] = false := by
  simp [State.frozenSegs, inSlices]; omega

theorem superblocks_low {pa n : Nat} (h : pa < 2 ^ 44) : superblocks (pa, n) = [] := by
  have : (decide (2 ^ 44 ≤ pa) && decide (pa < 2 ^ 45)) = false := by simp; omega
  simp only [superblocks, this, Bool.false_eq_true, if_false]

theorem swapLines_low {s : State} {job pa n : Nat} (h : pa < 2 ^ 44) : s.swapLines job [(pa, n)] = [] := by
  simp [State.swapLines, superblocks_low h]

theorem pinSegs_low {s : State} {job pa n : Nat} (h : pa < 2 ^ 44) : s.pinSegs job [(pa, n)] = s := by
  simp [State.pinSegs, swapLines_low h, superblocks_low h, State.squashOthers]

/-- No chunk meets an empty set of lines. -/
theorem meets_nil (b : List Nat) : meets [] b = false := rfl

theorem pinM_low {s : State} {pa n : Nat} (h : pa < 2 ^ 44) : pinM [(pa, n)] s = .ok ((), s) := by
  simp [pinM, swapLines_low h, pinSegs_low h, State.reserved, Agent.conflicts, meets_nil]

theorem needM_true {b : Bool} {x : Stop} {s : State} (h : b = true) : needM b x s = .ok ((), s) := by simp [needM, h]

theorem accessM_ok {s : State} {p : Word} {a : Acc} {pl : Place} (h : s.check s.who p a = .ok pl) :
    accessM p a s = .ok ((s.handle s.me.asid (handleOf p), pl), s) := by
  unfold accessM; rw [h]

theorem accessM_error {s : State} {p : Word} {a : Acc} {c : Cause} (h : s.check s.who p a = .error c) :
    accessM p a s = .error (.trap c p) := by
  unfold accessM; rw [h]

/-- Bytes of package memory that no job owns and no error has poisoned are read as the agent sees them; an ordinary word enters
their lines in the read set. -/
theorem loadSegs_low {s : State} {p : Word} {pa n : Nat} (h : pa < 2 ^ 44) (ho : s.ownedAny (segLines [(pa, n)]) = false)
    (hp : meets (segLines [(pa, n)]) s.mem.poison = false) :
    loadSegs [(pa, n)] p s = .ok (s.viewBytes [(pa, n)], if s.unit.own then s else s.noteReads (segLines [(pa, n)])) := by
  unfold loadSegs
  rw [bind_ok (getM_run _ s), bind_ok (needM_true (by simp [frozenSegs_low h])), bind_ok (getM_run _ s), bind_ok (needM_true (by simp [ho])),
    bind_ok (pinM_low h), bind_ok (getM_run _ s), bind_ok (needM_true (by simp [hp]))]
  rfl

/-- An ordinary load through the raw window. -/
theorem loadM_reaches {s : State} {p : Word} {a : Acc} {pa : Nat} (h : s.Reaches p a pa) :
    loadM p a s = .ok (s.viewBytes [(pa, a.n)], if s.unit.own then s else s.noteReads (segLines [(pa, a.n)])) := by
  obtain ⟨h1, h2, h3, -, h5, h6⟩ := h
  unfold loadM
  rw [bind_ok (accessM_ok h1)]
  simp only
  rw [bind_ok (loadSegs_low h3 h5 h6), if_pos h2]
  rfl

theorem loadM_error {s : State} {p : Word} {a : Acc} {c : Cause} (h : s.check s.who p a = .error c) :
    loadM p a s = .error (.trap c p) := by
  unfold loadM; exact bind_error (accessM_error h)

theorem storeM_error {s : State} {p : Word} {a : Acc} {bs : List Byte} {rel : Bool} {c : Cause}
    (h : s.check s.who p a = .error c) : storeM p a bs rel s = .error (.trap c p) := by
  have : stageM p a bs rel s = .error (.trap c p) := by unfold stageM; exact bind_error (accessM_error h)
  unfold storeM; exact bind_error this

/-- Lines of package memory claimed by an ordinary word. -/
theorem claimM_room {s : State} {p : Word} {pa n : Nat} (h : pa < 2 ^ 44) (ho : s.ownedAny (segLines [(pa, n)]) = false)
    (hr : s.Room pa n) : claimM [(pa, n)] p s = .ok ((), s.noteWrites (segLines [(pa, n)])) := by
  obtain ⟨hown, hroom⟩ := hr
  have : (decide (128 < (s.noteWrites (segLines [(pa, n)])).me.chunk.writes.length) && s.me.chunk.count != 0) = false := by
    rcases hroom with h | h
    · simp only [show ¬ 128 < (s.noteWrites (segLines [(pa, n)])).me.chunk.writes.length from by omega, decide_false, Bool.false_and]
    · simp [h]
  unfold claimM
  rw [bind_ok (getM_run _ s), bind_ok (needM_true (by simp [frozenSegs_low h])), bind_ok (getM_run _ s), bind_ok (needM_true (by simp [ho])),
    bind_ok (pinM_low h), bind_ok (getM_run _ s), if_neg (by simp [hown]), bind_ok (getM_run _ s), bind_ok (needM_true (by rw [this]; rfl))]
  rfl

/-- Lines of package memory claimed by a word that forms a chunk of its own. -/
theorem claimM_alone {s : State} {p : Word} {pa n : Nat} (h : pa < 2 ^ 44) (ho : s.ownedAny (segLines [(pa, n)]) = false)
    (hown : s.unit.own = true) (hr : s.reserved (segLines [(pa, n)]) = false) :
    claimM [(pa, n)] p s = .ok ((), s.squashOthers (segLines [(pa, n)])) := by
  unfold claimM
  rw [bind_ok (getM_run _ s), bind_ok (needM_true (by simp [frozenSegs_low h])), bind_ok (getM_run _ s), bind_ok (needM_true (by simp [ho])),
    bind_ok (pinM_low h), bind_ok (getM_run _ s), if_pos hown, bind_ok (getM_run _ s), bind_ok (needM_true (by simp [hr]))]
  rfl

/-- Bytes held by an ordinary store at one place. -/
def State.withHeld (s : State) (pa : Nat) (bs : List Byte) (rel : Bool) : State :=
  let ls := segLines [(pa, bs.length)]
  s.modChunk fun c => { c with
    writes := ls.foldl (fun m l => setAdd l m) c.writes
    held := holdSegs [(pa, bs.length)] bs c.held
    rel := if rel then ls.foldl (fun m l => setAdd l m) c.rel else c.rel }

/-- An ordinary store through the raw window is made ready by claiming its lines. -/
theorem stageM_reaches {s : State} {p : Word} {a : Acc} {pa : Nat} {bs : List Byte} {rel : Bool} (h : s.Reaches p a pa)
    (hr : s.Room pa a.n) : stageM p a bs rel s = .ok (.bytes [(pa, a.n)] bs, s.noteWrites (segLines [(pa, a.n)])) := by
  obtain ⟨h1, h2, h3, -, h5, h6⟩ := h
  unfold stageM
  rw [bind_ok (accessM_ok h1)]
  simp only [h2, if_true]
  rw [bind_ok (claimM_room h3 h5 hr)]
  rfl

/-- An ordinary store through the raw window. -/
theorem storeM_reaches {s : State} {p : Word} {a : Acc} {pa : Nat} {bs : List Byte} {rel : Bool} (h : s.Reaches p a pa)
    (hn : bs.length = a.n) (hr : s.Room pa a.n) : storeM p a bs rel s = .ok ((), s.withHeld pa bs rel) := by
  have hown := hr.1
  unfold storeM
  rw [bind_ok (stageM_reaches h hr), bind_ok (modM_run _ _)]
  cases rel
  · simp [State.applyPut, State.putSegs, State.noteWrites, State.withHeld, hown, hn, State.modChunk]
  · simp [State.applyPut, State.carryRelease, State.putSegs, State.noteWrites, State.withHeld, hown, hn, State.modChunk]

/-- Bytes that belong to no READY or RUNNING record are stored as they are (R31). -/
theorem softPoke_plain {s : State} {segs : List (Nat × Nat)} {bs : List Byte} (h : s.hitRecs segs = []) :
    s.softPoke segs bs = s.pokeSegs segs bs := by simp [State.softPoke, h, State.spoilRecords]

theorem tabGet_hold (pa : Nat) (bs : List Byte) : ∀ (n : Nat) (m : List Host.Cell) (a : Nat),
    tabGet a ((List.range n).foldl (fun m i => tabSet (pa + i) (bs.getD i 0) m) m) =
      if pa ≤ a ∧ a < pa + n then some (bs.getD (a - pa) 0) else tabGet a m := by
  intro n
  induction n with
  | zero => intro m a; rw [if_neg (by omega)]; rfl
  | succ n ih =>
    intro m a
    rw [List.range_succ, List.foldl_append]
    simp only [List.foldl_cons, List.foldl_nil]
    by_cases h : a = pa + n
    · subst h; rw [tabGet_tabSet_same]; simp
    · rw [tabGet_tabSet_other _ _ h, ih]
      by_cases h1 : pa ≤ a ∧ a < pa + n
      · rw [if_pos h1, if_pos ⟨h1.1, by omega⟩]
      · rw [if_neg h1, if_neg (by omega)]

theorem withHeld_view (s : State) (pa : Nat) (bs : List Byte) (rel : Bool) :
    (s.withHeld pa bs rel).viewBytes [(pa, bs.length)] = bs := by
  simp only [State.viewBytes, State.withHeld, State.modChunk, holdSegs, List.flatMap_cons, List.flatMap_nil, List.append_nil, tabGet_hold]
  apply List.ext_getElem
  · simp
  · intro i h1 h2
    simp at h1
    simp [h1]

theorem withHeld_view_other (s : State) (pa : Nat) (bs : List Byte) (rel : Bool) {a : Nat} (h : a < pa ∨ pa + bs.length ≤ a) :
    (s.withHeld pa bs rel).viewBytes [(a, 1)] = s.viewBytes [(a, 1)] := by
  simp only [State.viewBytes, State.withHeld, State.modChunk, holdSegs, List.flatMap_cons, List.flatMap_nil, List.append_nil, tabGet_hold]
  simp [List.range_succ]
  rw [if_neg (by omega)]

end Sys2Proof.Machine
end

