-- ==== Sys2Proof/Laws/PerInstr.lean ====
section
/-! SUPPORT. What holds of every instruction as syntax, one lemma per constructor: an event of the table has no word, and no operand limit
rules it out. -/

namespace Sys2Proof.Laws.EventWord

/-- An event is encoded by no word (0 stands for none), and every event is well-formed. -/
def Statement (i : Instr) : Prop := i.isEvent = true → encode i = 0 ∧ i.wf = true

theorem nop x0 : Statement (Instr.nop x0) := fun h => Bool.noConfusion h
theorem branch x0 : Statement (Instr.branch x0) := fun h => Bool.noConfusion h
theorem call x0 : Statement (Instr.call x0) := fun h => Bool.noConfusion h
theorem bcc x0 x1 x2 x3 : Statement (Instr.bcc x0 x1 x2 x3) := fun h => Bool.noConfusion h
theorem jr x0 x1 : Statement (Instr.jr x0 x1) := fun h => Bool.noConfusion h
theorem ret x0 : Statement (Instr.ret x0) := fun h => Bool.noConfusion h
theorem loop x0 x1 x2 : Statement (Instr.loop x0 x1 x2) := fun h => Bool.noConfusion h
theorem wait x0 x1 x2 x3 x4 : Statement (Instr.wait x0 x1 x2 x3 x4) := fun h => Bool.noConfusion h
theorem bar x0 : Statement (Instr.bar x0) := fun h => Bool.noConfusion h
theorem vote x0 : Statement (Instr.vote x0) := fun h => Bool.noConfusion h
theorem spawn x0 x1 : Statement (Instr.spawn x0 x1) := fun h => Bool.noConfusion h
theorem suspend x0 x1 x2 : Statement (Instr.suspend x0 x1 x2) := fun h => Bool.noConfusion h
theorem retire x0 : Statement (Instr.retire x0) := fun h => Bool.noConfusion h
theorem trap x0 x1 x2 : Statement (Instr.trap x0 x1 x2) := fun h => Bool.noConfusion h
theorem tret x0 : Statement (Instr.tret x0) := fun h => Bool.noConfusion h
theorem hcall x0 x1 x2 : Statement (Instr.hcall x0 x1 x2) := fun h => Bool.noConfusion h
theorem fence x0 : Statement (Instr.fence x0) := fun h => Bool.noConfusion h
theorem chunk x0 : Statement (Instr.chunk x0) := fun h => Bool.noConfusion h
theorem ld x0 x1 x2 x3 x4 x5 : Statement (Instr.ld x0 x1 x2 x3 x4 x5) := fun h => Bool.noConfusion h
theorem st x0 x1 x2 x3 x4 x5 : Statement (Instr.st x0 x1 x2 x3 x4 x5) := fun h => Bool.noConfusion h
theorem ldt x0 x1 x2 x3 x4 x5 x6 : Statement (Instr.ldt x0 x1 x2 x3 x4 x5 x6) := fun h => Bool.noConfusion h
theorem stt x0 x1 x2 x3 x4 x5 x6 : Statement (Instr.stt x0 x1 x2 x3 x4 x5 x6) := fun h => Bool.noConfusion h
theorem ldfe x0 x1 x2 x3 x4 : Statement (Instr.ldfe x0 x1 x2 x3 x4) := fun h => Bool.noConfusion h
theorem stfe x0 x1 x2 x3 x4 : Statement (Instr.stfe x0 x1 x2 x3 x4) := fun h => Bool.noConfusion h
theorem feset x0 x1 x2 : Statement (Instr.feset x0 x1 x2) := fun h => Bool.noConfusion h
theorem feq x0 x1 x2 : Statement (Instr.feq x0 x1 x2) := fun h => Bool.noConfusion h
theorem aadd x0 x1 x2 x3 x4 x5 : Statement (Instr.aadd x0 x1 x2 x3 x4 x5) := fun h => Bool.noConfusion h
theorem amin x0 x1 x2 x3 x4 x5 : Statement (Instr.amin x0 x1 x2 x3 x4 x5) := fun h => Bool.noConfusion h
theorem amax x0 x1 x2 x3 x4 x5 : Statement (Instr.amax x0 x1 x2 x3 x4 x5) := fun h => Bool.noConfusion h
theorem abit x0 x1 x2 x3 x4 x5 : Statement (Instr.abit x0 x1 x2 x3 x4 x5) := fun h => Bool.noConfusion h
theorem aswap x0 x1 x2 x3 x4 x5 : Statement (Instr.aswap x0 x1 x2 x3 x4 x5) := fun h => Bool.noConfusion h
theorem acas x0 x1 x2 x3 x4 x5 : Statement (Instr.acas x0 x1 x2 x3 x4 x5) := fun h => Bool.noConfusion h
theorem afadd x0 x1 x2 x3 x4 x5 : Statement (Instr.afadd x0 x1 x2 x3 x4 x5) := fun h => Bool.noConfusion h
theorem aagg x0 x1 x2 x3 x4 x5 : Statement (Instr.aagg x0 x1 x2 x3 x4 x5) := fun h => Bool.noConfusion h
theorem pref x0 x1 : Statement (Instr.pref x0 x1) := fun h => Bool.noConfusion h
theorem wback x0 x1 : Statement (Instr.wback x0 x1) := fun h => Bool.noConfusion h
theorem inval x0 x1 : Statement (Instr.inval x0 x1) := fun h => Bool.noConfusion h
theorem sbind x0 x1 x2 x3 x4 x5 : Statement (Instr.sbind x0 x1 x2 x3 x4 x5) := fun h => Bool.noConfusion h
theorem sfree x0 x1 : Statement (Instr.sfree x0 x1) := fun h => Bool.noConfusion h
theorem ssync x0 x1 x2 : Statement (Instr.ssync x0 x1 x2) := fun h => Bool.noConfusion h
theorem mxpub x0 x1 x2 : Statement (Instr.mxpub x0 x1 x2) := fun h => Bool.noConfusion h
theorem cppub x0 x1 x2 : Statement (Instr.cppub x0 x1 x2) := fun h => Bool.noConfusion h
theorem jobq x0 x1 x2 : Statement (Instr.jobq x0 x1 x2) := fun h => Bool.noConfusion h
theorem licacq x0 x1 x2 : Statement (Instr.licacq x0 x1 x2) := fun h => Bool.noConfusion h
theorem licrel x0 : Statement (Instr.licrel x0) := fun h => Bool.noConfusion h
theorem penq x0 x1 x2 x3 : Statement (Instr.penq x0 x1 x2 x3) := fun h => Bool.noConfusion h
theorem pdeq x0 x1 x2 : Statement (Instr.pdeq x0 x1 x2) := fun h => Bool.noConfusion h
theorem pdone x0 x1 x2 x3 : Statement (Instr.pdone x0 x1 x2 x3) := fun h => Bool.noConfusion h
theorem pstat x0 x1 x2 x3 : Statement (Instr.pstat x0 x1 x2 x3) := fun h => Bool.noConfusion h
theorem gsend x0 x1 x2 : Statement (Instr.gsend x0 x1 x2) := fun h => Bool.noConfusion h
theorem grecv x0 x1 x2 x3 : Statement (Instr.grecv x0 x1 x2 x3) := fun h => Bool.noConfusion h
theorem gstat x0 x1 x2 : Statement (Instr.gstat x0 x1 x2) := fun h => Bool.noConfusion h
theorem gcfg x0 x1 x2 : Statement (Instr.gcfg x0 x1 x2) := fun h => Bool.noConfusion h
theorem osend x0 x1 x2 : Statement (Instr.osend x0 x1 x2) := fun h => Bool.noConfusion h
theorem orecv x0 x1 x2 x3 : Statement (Instr.orecv x0 x1 x2 x3) := fun h => Bool.noConfusion h
theorem msend x0 x1 x2 : Statement (Instr.msend x0 x1 x2) := fun h => Bool.noConfusion h
theorem mrecv x0 x1 : Statement (Instr.mrecv x0 x1) := fun h => Bool.noConfusion h
theorem twx x0 x1 x2 x3 : Statement (Instr.twx x0 x1 x2 x3) := fun h => Bool.noConfusion h
theorem twxRd x0 x1 x2 : Statement (Instr.twxRd x0 x1 x2) := fun h => Bool.noConfusion h
theorem twxWr x0 x1 x2 : Statement (Instr.twxWr x0 x1 x2) := fun h => Bool.noConfusion h
theorem capgive x0 x1 x2 : Statement (Instr.capgive x0 x1 x2) := fun h => Bool.noConfusion h
theorem captake x0 x1 x2 : Statement (Instr.captake x0 x1 x2) := fun h => Bool.noConfusion h
theorem capq x0 x1 x2 : Statement (Instr.capq x0 x1 x2) := fun h => Bool.noConfusion h
theorem cycbeg x0 x1 : Statement (Instr.cycbeg x0 x1) := fun h => Bool.noConfusion h
theorem cycend x0 : Statement (Instr.cycend x0) := fun h => Bool.noConfusion h
theorem cycstat x0 x1 : Statement (Instr.cycstat x0 x1) := fun h => Bool.noConfusion h
theorem restst x0 x1 x2 x3 : Statement (Instr.restst x0 x1 x2 x3) := fun h => Bool.noConfusion h
theorem wgfence x0 : Statement (Instr.wgfence x0) := fun h => Bool.noConfusion h
theorem getsr x0 x1 x2 : Statement (Instr.getsr x0 x1 x2) := fun h => Bool.noConfusion h
theorem setsr x0 x1 x2 : Statement (Instr.setsr x0 x1 x2) := fun h => Bool.noConfusion h
theorem htld x0 x1 x2 : Statement (Instr.htld x0 x1 x2) := fun h => Bool.noConfusion h
theorem htwr x0 x1 x2 : Statement (Instr.htwr x0 x1 x2) := fun h => Bool.noConfusion h
theorem tsflush x0 : Statement (Instr.tsflush x0) := fun h => Bool.noConfusion h
theorem add x0 x1 x2 : Statement (Instr.add x0 x1 x2) := fun h => Bool.noConfusion h
theorem addImm x0 x1 x2 : Statement (Instr.addImm x0 x1 x2) := fun h => Bool.noConfusion h
theorem sub x0 x1 x2 : Statement (Instr.sub x0 x1 x2) := fun h => Bool.noConfusion h
theorem mul x0 x1 x2 : Statement (Instr.mul x0 x1 x2) := fun h => Bool.noConfusion h
theorem mulh x0 x1 x2 : Statement (Instr.mulh x0 x1 x2) := fun h => Bool.noConfusion h
theorem mulhU x0 x1 x2 : Statement (Instr.mulhU x0 x1 x2) := fun h => Bool.noConfusion h
theorem div x0 x1 x2 x3 : Statement (Instr.div x0 x1 x2 x3) := fun h => Bool.noConfusion h
theorem rem x0 x1 x2 x3 : Statement (Instr.rem x0 x1 x2 x3) := fun h => Bool.noConfusion h
theorem andR x0 x1 x2 : Statement (Instr.andR x0 x1 x2) := fun h => Bool.noConfusion h
theorem orR x0 x1 x2 : Statement (Instr.orR x0 x1 x2) := fun h => Bool.noConfusion h
theorem xorR x0 x1 x2 : Statement (Instr.xorR x0 x1 x2) := fun h => Bool.noConfusion h
theorem andn x0 x1 x2 : Statement (Instr.andn x0 x1 x2) := fun h => Bool.noConfusion h
theorem andImm x0 x1 x2 : Statement (Instr.andImm x0 x1 x2) := fun h => Bool.noConfusion h
theorem orImm x0 x1 x2 : Statement (Instr.orImm x0 x1 x2) := fun h => Bool.noConfusion h
theorem xorImm x0 x1 x2 : Statement (Instr.xorImm x0 x1 x2) := fun h => Bool.noConfusion h
theorem shl x0 x1 x2 : Statement (Instr.shl x0 x1 x2) := fun h => Bool.noConfusion h
theorem shr x0 x1 x2 : Statement (Instr.shr x0 x1 x2) := fun h => Bool.noConfusion h
theorem sra x0 x1 x2 : Statement (Instr.sra x0 x1 x2) := fun h => Bool.noConfusion h
theorem rot x0 x1 x2 : Statement (Instr.rot x0 x1 x2) := fun h => Bool.noConfusion h
theorem minS x0 x1 x2 x3 : Statement (Instr.minS x0 x1 x2 x3) := fun h => Bool.noConfusion h
theorem maxS x0 x1 x2 x3 : Statement (Instr.maxS x0 x1 x2 x3) := fun h => Bool.noConfusion h
theorem cmp x0 x1 x2 x3 : Statement (Instr.cmp x0 x1 x2 x3) := fun h => Bool.noConfusion h
theorem sel x0 x1 x2 x3 : Statement (Instr.sel x0 x1 x2 x3) := fun h => Bool.noConfusion h
theorem clz x0 x1 : Statement (Instr.clz x0 x1) := fun h => Bool.noConfusion h
theorem popc x0 x1 : Statement (Instr.popc x0 x1) := fun h => Bool.noConfusion h
theorem bfx x0 x1 x2 x3 : Statement (Instr.bfx x0 x1 x2 x3) := fun h => Bool.noConfusion h
theorem bfi x0 x1 x2 x3 : Statement (Instr.bfi x0 x1 x2 x3) := fun h => Bool.noConfusion h
theorem li x0 x1 : Statement (Instr.li x0 x1) := fun h => Bool.noConfusion h
theorem liHi x0 x1 : Statement (Instr.liHi x0 x1) := fun h => Bool.noConfusion h
theorem mov x0 x1 : Statement (Instr.mov x0 x1) := fun h => Bool.noConfusion h
theorem lea x0 x1 x2 : Statement (Instr.lea x0 x1 x2) := fun h => Bool.noConfusion h
theorem fadd x0 x1 x2 x3 x4 : Statement (Instr.fadd x0 x1 x2 x3 x4) := fun h => Bool.noConfusion h
theorem fsub x0 x1 x2 x3 x4 : Statement (Instr.fsub x0 x1 x2 x3 x4) := fun h => Bool.noConfusion h
theorem fmul x0 x1 x2 x3 x4 : Statement (Instr.fmul x0 x1 x2 x3 x4) := fun h => Bool.noConfusion h
theorem fma x0 x1 x2 x3 x4 x5 : Statement (Instr.fma x0 x1 x2 x3 x4 x5) := fun h => Bool.noConfusion h
theorem fdiv x0 x1 x2 x3 x4 x5 : Statement (Instr.fdiv x0 x1 x2 x3 x4 x5) := fun h => Bool.noConfusion h
theorem fsqrt x0 x1 x2 x3 x4 : Statement (Instr.fsqrt x0 x1 x2 x3 x4) := fun h => Bool.noConfusion h
theorem fmin x0 x1 x2 x3 : Statement (Instr.fmin x0 x1 x2 x3) := fun h => Bool.noConfusion h
theorem fmax x0 x1 x2 x3 : Statement (Instr.fmax x0 x1 x2 x3) := fun h => Bool.noConfusion h
theorem fcmp x0 x1 x2 x3 x4 : Statement (Instr.fcmp x0 x1 x2 x3 x4) := fun h => Bool.noConfusion h
theorem fcvt x0 x1 x2 x3 x4 : Statement (Instr.fcvt x0 x1 x2 x3 x4) := fun h => Bool.noConfusion h
theorem fclass x0 x1 x2 : Statement (Instr.fclass x0 x1 x2) := fun h => Bool.noConfusion h
theorem resacc x0 x1 x2 x3 x4 x5 : Statement (Instr.resacc x0 x1 x2 x3 x4 x5) := fun h => Bool.noConfusion h
theorem vadd x0 x1 x2 x3 x4 x5 : Statement (Instr.vadd x0 x1 x2 x3 x4 x5) := fun h => Bool.noConfusion h
theorem vsub x0 x1 x2 x3 x4 x5 : Statement (Instr.vsub x0 x1 x2 x3 x4 x5) := fun h => Bool.noConfusion h
theorem vmul x0 x1 x2 x3 x4 x5 : Statement (Instr.vmul x0 x1 x2 x3 x4 x5) := fun h => Bool.noConfusion h
theorem vfma x0 x1 x2 x3 x4 x5 : Statement (Instr.vfma x0 x1 x2 x3 x4 x5) := fun h => Bool.noConfusion h
theorem vmin x0 x1 x2 x3 x4 x5 : Statement (Instr.vmin x0 x1 x2 x3 x4 x5) := fun h => Bool.noConfusion h
theorem vmax x0 x1 x2 x3 x4 x5 : Statement (Instr.vmax x0 x1 x2 x3 x4 x5) := fun h => Bool.noConfusion h
theorem vand x0 x1 x2 x3 x4 x5 : Statement (Instr.vand x0 x1 x2 x3 x4 x5) := fun h => Bool.noConfusion h
theorem vor x0 x1 x2 x3 x4 x5 : Statement (Instr.vor x0 x1 x2 x3 x4 x5) := fun h => Bool.noConfusion h
theorem vxor x0 x1 x2 x3 x4 x5 : Statement (Instr.vxor x0 x1 x2 x3 x4 x5) := fun h => Bool.noConfusion h
theorem vshl x0 x1 x2 x3 x4 x5 x6 : Statement (Instr.vshl x0 x1 x2 x3 x4 x5 x6) := fun h => Bool.noConfusion h
theorem vcmp x0 x1 x2 x3 x4 x5 x6 : Statement (Instr.vcmp x0 x1 x2 x3 x4 x5 x6) := fun h => Bool.noConfusion h
theorem vsel x0 x1 x2 x3 x4 x5 : Statement (Instr.vsel x0 x1 x2 x3 x4 x5) := fun h => Bool.noConfusion h
theorem vcvt x0 x1 x2 x3 x4 x5 x6 : Statement (Instr.vcvt x0 x1 x2 x3 x4 x5 x6) := fun h => Bool.noConfusion h
theorem vdec x0 x1 x2 x3 x4 x5 : Statement (Instr.vdec x0 x1 x2 x3 x4 x5) := fun h => Bool.noConfusion h
theorem venc x0 x1 x2 x3 x4 x5 : Statement (Instr.venc x0 x1 x2 x3 x4 x5) := fun h => Bool.noConfusion h
theorem vbcast x0 x1 x2 x3 x4 : Statement (Instr.vbcast x0 x1 x2 x3 x4) := fun h => Bool.noConfusion h
theorem vperm x0 x1 x2 x3 x4 x5 : Statement (Instr.vperm x0 x1 x2 x3 x4 x5) := fun h => Bool.noConfusion h
theorem vsfu x0 x1 x2 x3 x4 x5 x6 : Statement (Instr.vsfu x0 x1 x2 x3 x4 x5 x6) := fun h => Bool.noConfusion h
theorem vred x0 x1 x2 x3 x4 x5 x6 : Statement (Instr.vred x0 x1 x2 x3 x4 x5 x6) := fun h => Bool.noConfusion h
theorem vscan x0 x1 x2 x3 x4 x5 x6 : Statement (Instr.vscan x0 x1 x2 x3 x4 x5 x6) := fun h => Bool.noConfusion h
theorem vhad x0 x1 x2 x3 x4 x5 x6 : Statement (Instr.vhad x0 x1 x2 x3 x4 x5 x6) := fun h => Bool.noConfusion h
theorem vsign x0 x1 x2 x3 x4 : Statement (Instr.vsign x0 x1 x2 x3 x4) := fun h => Bool.noConfusion h
theorem vchain x0 x1 x2 x3 : Statement (Instr.vchain x0 x1 x2 x3) := fun h => Bool.noConfusion h
theorem vmpld x0 x1 x2 x3 : Statement (Instr.vmpld x0 x1 x2 x3) := fun h => Bool.noConfusion h
theorem vrep x0 x1 x2 x3 x4 x5 : Statement (Instr.vrep x0 x1 x2 x3 x4 x5) := fun h => Bool.noConfusion h
theorem tzero x0 x1 x2 x3 : Statement (Instr.tzero x0 x1 x2 x3) := fun h => Bool.noConfusion h
theorem tmov x0 x1 x2 x3 x4 : Statement (Instr.tmov x0 x1 x2 x3 x4) := fun h => Bool.noConfusion h
theorem ttrans x0 x1 x2 x3 x4 : Statement (Instr.ttrans x0 x1 x2 x3 x4) := fun h => Bool.noConfusion h
theorem vins x0 x1 x2 x3 : Statement (Instr.vins x0 x1 x2 x3) := fun h => Bool.noConfusion h
theorem vext x0 x1 x2 x3 : Statement (Instr.vext x0 x1 x2 x3) := fun h => Bool.noConfusion h
theorem vdot x0 x1 x2 x3 x4 x5 : Statement (Instr.vdot x0 x1 x2 x3 x4 x5) := fun h => Bool.noConfusion h
theorem afaddHoldTimeout x0 : Statement (Instr.afaddHoldTimeout x0) := fun _ => ⟨rfl, rfl⟩
theorem stageQueueRoom x0 : Statement (Instr.stageQueueRoom x0) := fun _ => ⟨rfl, rfl⟩
theorem speedwellRoute x0 x1 x2 : Statement (Instr.speedwellRoute x0 x1 x2) := fun _ => ⟨rfl, rfl⟩
theorem deferredEffects x0 x1 : Statement (Instr.deferredEffects x0 x1) := fun _ => ⟨rfl, rfl⟩
theorem pipelineCoreMove x0 x1 : Statement (Instr.pipelineCoreMove x0 x1) := fun _ => ⟨rfl, rfl⟩
theorem groupItemArrive x0 : Statement (Instr.groupItemArrive x0) := fun _ => ⟨rfl, rfl⟩
theorem groupResultArrive x0 x1 : Statement (Instr.groupResultArrive x0 x1) := fun _ => ⟨rfl, rfl⟩
theorem groupAck x0 x1 : Statement (Instr.groupAck x0 x1) := fun _ => ⟨rfl, rfl⟩
theorem groupTimeout x0 x1 x2 : Statement (Instr.groupTimeout x0 x1 x2) := fun _ => ⟨rfl, rfl⟩
theorem lateNoticeArrive x0 x1 : Statement (Instr.lateNoticeArrive x0 x1) := fun _ => ⟨rfl, rfl⟩
theorem routeNoticeArrive x0 x1 x2 x3 : Statement (Instr.routeNoticeArrive x0 x1 x2 x3) := fun _ => ⟨rfl, rfl⟩
theorem slackWindow : Statement (Instr.slackWindow) := fun _ => ⟨rfl, rfl⟩
theorem orderedInject : Statement (Instr.orderedInject) := fun _ => ⟨rfl, rfl⟩
theorem orderedPacketArrive x0 x1 : Statement (Instr.orderedPacketArrive x0 x1) := fun _ => ⟨rfl, rfl⟩
theorem orderedBeacon x0 : Statement (Instr.orderedBeacon x0) := fun _ => ⟨rfl, rfl⟩
theorem orderedDeliver x0 : Statement (Instr.orderedDeliver x0) := fun _ => ⟨rfl, rfl⟩
theorem closeBeaconArrive x0 x1 : Statement (Instr.closeBeaconArrive x0 x1) := fun _ => ⟨rfl, rfl⟩
theorem watermarkStall x0 : Statement (Instr.watermarkStall x0) := fun _ => ⟨rfl, rfl⟩
theorem messageArrive x0 : Statement (Instr.messageArrive x0) := fun _ => ⟨rfl, rfl⟩
theorem lateResultLand x0 : Statement (Instr.lateResultLand x0) := fun _ => ⟨rfl, rfl⟩
theorem commitGrant x0 : Statement (Instr.commitGrant x0) := fun _ => ⟨rfl, rfl⟩
theorem userInterruptEntry x0 : Statement (Instr.userInterruptEntry x0) := fun _ => ⟨rfl, rfl⟩
theorem waitEvaluate x0 : Statement (Instr.waitEvaluate x0) := fun _ => ⟨rfl, rfl⟩
theorem waitTimeout x0 : Statement (Instr.waitTimeout x0) := fun _ => ⟨rfl, rfl⟩
theorem waitTableSummary : Statement (Instr.waitTableSummary) := fun _ => ⟨rfl, rfl⟩
theorem barComplete x0 x1 x2 : Statement (Instr.barComplete x0 x1 x2) := fun _ => ⟨rfl, rfl⟩
theorem voteCommit x0 x1 : Statement (Instr.voteCommit x0 x1) := fun _ => ⟨rfl, rfl⟩
theorem coreWake x0 x1 : Statement (Instr.coreWake x0 x1) := fun _ => ⟨rfl, rfl⟩
theorem coreGate x0 : Statement (Instr.coreGate x0) := fun _ => ⟨rfl, rfl⟩
theorem tableRecheckDone x0 : Statement (Instr.tableRecheckDone x0) := fun _ => ⟨rfl, rfl⟩
theorem presetLoad x0 : Statement (Instr.presetLoad x0) := fun _ => ⟨rfl, rfl⟩
theorem takeSlot x0 : Statement (Instr.takeSlot x0) := fun _ => ⟨rfl, rfl⟩
theorem spanPlace x0 x1 : Statement (Instr.spanPlace x0 x1) := fun _ => ⟨rfl, rfl⟩
theorem spanWait1ms x0 : Statement (Instr.spanWait1ms x0) := fun _ => ⟨rfl, rfl⟩
theorem bagRecordEnter x0 x1 : Statement (Instr.bagRecordEnter x0 x1) := fun _ => ⟨rfl, rfl⟩
theorem recordReady x0 x1 : Statement (Instr.recordReady x0 x1) := fun _ => ⟨rfl, rfl⟩
theorem claimRecord x0 : Statement (Instr.claimRecord x0) := fun _ => ⟨rfl, rfl⟩
theorem jobComplete x0 x1 : Statement (Instr.jobComplete x0 x1) := fun _ => ⟨rfl, rfl⟩
theorem jobQueueReady x0 x1 : Statement (Instr.jobQueueReady x0 x1) := fun _ => ⟨rfl, rfl⟩
theorem engineIssue x0 : Statement (Instr.engineIssue x0) := fun _ => ⟨rfl, rfl⟩
theorem engineStep x0 : Statement (Instr.engineStep x0) := fun _ => ⟨rfl, rfl⟩
theorem engineComplete x0 : Statement (Instr.engineComplete x0) := fun _ => ⟨rfl, rfl⟩
theorem copyIssue x0 : Statement (Instr.copyIssue x0) := fun _ => ⟨rfl, rfl⟩
theorem copyRow x0 : Statement (Instr.copyRow x0) := fun _ => ⟨rfl, rfl⟩
theorem copyComplete x0 : Statement (Instr.copyComplete x0) := fun _ => ⟨rfl, rfl⟩
theorem park x0 : Statement (Instr.park x0) := fun _ => ⟨rfl, rfl⟩
theorem unpark x0 : Statement (Instr.unpark x0) := fun _ => ⟨rfl, rfl⟩
theorem jobMove x0 : Statement (Instr.jobMove x0) := fun _ => ⟨rfl, rfl⟩
theorem felrilLinkDeath x0 : Statement (Instr.felrilLinkDeath x0) := fun _ => ⟨rfl, rfl⟩
theorem peerAccessArrive x0 : Statement (Instr.peerAccessArrive x0) := fun _ => ⟨rfl, rfl⟩
theorem releasePerformed x0 : Statement (Instr.releasePerformed x0) := fun _ => ⟨rfl, rfl⟩
theorem peerLoadTimeout x0 : Statement (Instr.peerLoadTimeout x0) := fun _ => ⟨rfl, rfl⟩
theorem directoryHandlerTurn x0 : Statement (Instr.directoryHandlerTurn x0) := fun _ => ⟨rfl, rfl⟩
theorem saveComplete x0 x1 : Statement (Instr.saveComplete x0 x1) := fun _ => ⟨rfl, rfl⟩
theorem thermalReading x0 x1 : Statement (Instr.thermalReading x0 x1) := fun _ => ⟨rfl, rfl⟩
theorem throttleStep x0 : Statement (Instr.throttleStep x0) := fun _ => ⟨rfl, rfl⟩
theorem hbmRefresh x0 x1 : Statement (Instr.hbmRefresh x0 x1) := fun _ => ⟨rfl, rfl⟩
theorem ballastWindow x0 x1 : Statement (Instr.ballastWindow x0 x1) := fun _ => ⟨rfl, rfl⟩
theorem softError x0 : Statement (Instr.softError x0) := fun _ => ⟨rfl, rfl⟩
theorem packageReset x0 : Statement (Instr.packageReset x0) := fun _ => ⟨rfl, rfl⟩
theorem partitionGoLive x0 : Statement (Instr.partitionGoLive x0) := fun _ => ⟨rfl, rfl⟩
theorem jsregWrite x0 x1 x2 : Statement (Instr.jsregWrite x0 x1 x2) := fun _ => ⟨rfl, rfl⟩
theorem apertureRead x0 x1 : Statement (Instr.apertureRead x0 x1) := fun _ => ⟨rfl, rfl⟩
theorem apertureWrite x0 x1 : Statement (Instr.apertureWrite x0 x1) := fun _ => ⟨rfl, rfl⟩
theorem apertureTaggedWrite x0 x1 : Statement (Instr.apertureTaggedWrite x0 x1) := fun _ => ⟨rfl, rfl⟩
theorem herrClear x0 : Statement (Instr.herrClear x0) := fun _ => ⟨rfl, rfl⟩
theorem hcellClear x0 x1 : Statement (Instr.hcellClear x0 x1) := fun _ => ⟨rfl, rfl⟩
theorem dbgRead x0 x1 : Statement (Instr.dbgRead x0 x1) := fun _ => ⟨rfl, rfl⟩
theorem mgmtRegisterWrite x0 x1 : Statement (Instr.mgmtRegisterWrite x0 x1) := fun _ => ⟨rfl, rfl⟩
theorem preemptSpan : Statement (Instr.preemptSpan) := fun _ => ⟨rfl, rfl⟩
theorem resumeSpan : Statement (Instr.resumeSpan) := fun _ => ⟨rfl, rfl⟩
theorem translationShootdown : Statement (Instr.translationShootdown) := fun _ => ⟨rfl, rfl⟩
theorem thaw : Statement (Instr.thaw) := fun _ => ⟨rfl, rfl⟩
theorem declarePortOut : Statement (Instr.declarePortOut) := fun _ => ⟨rfl, rfl⟩
theorem reenableDelivery : Statement (Instr.reenableDelivery) := fun _ => ⟨rfl, rfl⟩
theorem contain : Statement (Instr.contain) := fun _ => ⟨rfl, rfl⟩
theorem tearDown : Statement (Instr.tearDown) := fun _ => ⟨rfl, rfl⟩
theorem attest : Statement (Instr.attest) := fun _ => ⟨rfl, rfl⟩
theorem hcmdUnknownCode : Statement (Instr.hcmdUnknownCode) := fun _ => ⟨rfl, rfl⟩
theorem peerStoreUnreachable x0 : Statement (Instr.peerStoreUnreachable x0) := fun _ => ⟨rfl, rfl⟩
theorem peerAccessReply x0 x1 x2 : Statement (Instr.peerAccessReply x0 x1 x2) := fun _ => ⟨rfl, rfl⟩

end Sys2Proof.Laws.EventWord
end

