-- ==== Sys2Proof/Laws/Runs.lean ====
section
/-! SUPPORT. Whole computations shared by several words, and the tables of the state read after a change. -/

namespace Sys2Proof.Machine

/-! ## Words of one result -/

/-- A two-operand word on plain registers. -/
theorem binaryS_run {s : State} {f : Word → Word → Word} {d a b : Reg} (h : s.Plain [d, a, b]) :
    binaryS f d a b s = .ok ((), s.withReg d (f (s.srcReg a) (s.srcReg b))) := by
  unfold binaryS
  rw [bind_ok (readS_plain (h a (by simp))), bind_ok (readS_plain (h b (by simp))), writeS_plain (h d (by simp))]

/-- A one-operand word on plain registers. -/
theorem unaryS_run {s : State} {f : Word → Word} {d a : Reg} (h : s.Plain [d, a]) :
    unaryS f d a s = .ok ((), s.withReg d (f (s.srcReg a))) := by
  unfold unaryS
  rw [bind_ok (readS_plain (h a (by simp))), writeS_plain (h d (by simp))]

/-! ## Chunks of one word -/

/-- What an access reaches does not depend on whether the word forms a chunk of its own. -/
theorem alone_reaches {s : State} {p : Word} {a : Acc} {pa : Nat} (h : s.Reaches p a pa) : s.alone.Reaches p a pa :=
  reaches_congr (s := s) (t := s.alone) rfl rfl rfl rfl rfl rfl h

/-- The record of a publication is read whole before anything changes. -/
theorem recordM_run {s : State} {p : Word} {pa : Nat} (h : s.Reaches p { rd := true, wr := false, n := 128, align := 64 } pa) :
    recordM p s.alone = .ok (leWords 16 (s.viewBytes [(pa, 128)]), s.alone) := by
  unfold recordM
  rw [bind_ok (loadM_reaches (alone_reaches h))]
  rfl

/-! ## Tables read after a change -/

@[simp] theorem State.cluster_modCluster (s : State) (k : Nat) (f : Cluster → Cluster) : (s.modCluster k f).cluster k = f (s.cluster k) := by
  simp [State.modCluster, State.cluster, tabMod, tabGet_tabSet_same]

@[simp] theorem State.pair_modPair (s : State) (k : Nat) (f : Pair → Pair) : (s.modPair k f).pair k = f (s.pair k) := by
  simp [State.modPair, State.pair, tabMod, tabGet_tabSet_same]

@[simp] theorem State.core_modCore (s : State) (k : Nat) (f : Core → Core) : (s.modCore k f).core k = f (s.core k) := by
  simp [State.modCore, State.core, tabMod, tabGet_tabSet_same]

/-- An agent replaced is the agent read. -/
@[simp] theorem State.agent_setAgent (s : State) (a : AgentId) (g : Agent) : (s.setAgent a g).agent a = g := by
  unfold State.setAgent State.agent
  split
  · simp
  · simp [tabGet_tabSet_same]

/-- A job changed is the job read, where there is one. -/
theorem State.modJob_get {s : State} {key : Nat} {j : Job} (f : Job → Job) (h : tabGet key s.jobs = some j) :
    tabGet key (s.modJob key f).jobs = some (f j) := by
  simp [State.modJob, h, tabGet_tabSet_same]

/-- A pipeline changed is the pipeline read, where there is one. -/
theorem State.modPipe_get {s : State} {key : Nat} {x : Pipe} (f : Pipe → Pipe) (h : tabGet key s.pipes = some x) :
    tabGet key (s.modPipe key f).pipes = some (f x) := by
  simp [State.modPipe, h, tabGet_tabSet_same]

/-- A group slot changed is the slot read, where there is one. -/
theorem State.modGroup_get {s : State} {key : Nat} {g : GSlot} (f : GSlot → GSlot) (h : tabGet key s.groups = some g) :
    tabGet key (s.modGroup key f).groups = some (f g) := by
  simp [State.modGroup, h, tabGet_tabSet_same]

theorem mem_setAdd_self (k : Nat) (m : List Nat) : k ∈ setAdd k m := by
  induction m with
  | nil => simp [setAdd]
  | cons x m ih =>
    simp only [setAdd]
    split
    · simp
    · split
      · simp_all
      · simp [ih]

theorem not_mem_setDel (k : Nat) (m : List Nat) : k ∉ setDel k m := by simp [setDel]

end Sys2Proof.Machine
end

