-- ==== Sys2Proof/Tests/Slice0.lean ====
section
/-! SUPPORT. Tests: words of the manual decode to their instructions, ill-formed terms are refused, single words and events do on small
states what the manual says, and every statement's hypotheses are met together by a concrete state. -/

open Sys2Proof Sys2Proof.Machine

set_option Elab.async false

/-! ## Small states -/

/-- The main agent of core 0 at work for job 1 of address space 1, whose partition holds pair 0. Handle 1 names the first 64 KiB of the
address space, which a page cached by the clusters of the pair, and by the hub, puts at physical address 0. -/
def tBase : State := { State.reset with
  me := { act := .running, asid := 1, job := 1 }
  host := { bootst := 1, pdesc := [(1, [1, 0, 0, 0, 0, 0, 0, 0, 1, 0, 0, 0])] }
  mem := { hcopies := [⟨1, 1, [0, 0x10000, 0x80, 0]⟩], tlb := [4096, 4352, 4608].map fun k => ⟨k, 1, 0, 0, true, true⟩ }
  jobs := [(2 ^ 32 + 1, { asid := 1, id := 1, stage := .running, gangs := [0], ngang := 1, nstr := 1 })] }

/-- Registers of the current agent set. -/
def tRegs (xs : List (Reg × Word)) (s : State) : State := s.modCtx fun c => xs.foldl (fun c x => c.setReg x.1 x.2) c

/-- The context of the current agent changed, with the result of a word or an event looked at through `f`. -/
def tNext (r : Host.Outcome State Fault Refusal) (f : State → Bool) : Bool :=
  match r with
  | .next s => f s
  | .fault _ | .refused _ => false

/-- Bytes of memory changed. -/
def tPoke (bs : List Host.Cell) (s : State) : State :=
  { s with mem := { s.mem with bytes := bs.foldl (fun m x => setByte x.1 x.2 m) s.mem.bytes } }
/-- Lines owned by an engine job of another job. -/
def tOwn (ls : List Nat) (s : State) : State := { s with mem := { s.mem with owned := ls.map fun l => (l, 99) } }
/-- An operation of the device that goes through, with its answer and the state it leaves looked at through `f`. -/
def tRun {α : Type} (m : D α) (s : State) (f : α → State → Bool) : Bool :=
  match m s with
  | .ok x => f x.1 x.2
  | .error _ => false
/-- An operation of the device that an access fails with a cause. -/
def tFails {α : Type} (m : D α) (s : State) (c : Cause) : Bool :=
  match m s with
  | .error (.fails d []) => d == c
  | .ok _ | .error _ => false
/-- An operation of the device that must wait. -/
def tStops {α : Type} (m : D α) (s : State) : Bool :=
  match m s with
  | .error .wait => true
  | .ok _ | .error _ => false

/-- The answer of something that can fail, as the part of it that `f` looks at. -/
def tOk {ε α : Type} (r : Except ε α) (f : α → Bool) : Bool :=
  match r with
  | .ok a => f a
  | .error _ => false

/-! ## Words of the manual (R223, R227–R242 and the examples of the entries) -/

theorem test_words_control :
    decodeWord 0x80000000 = .ok (.nop 0) ∧
    decodeWord 0x81FFFFFF = .ok (.branch (-1)) ∧
    decodeWord 0x82000005 = .ok (.call 5) ∧
    decodeWord 0x03484FFD = .ok (.bcc .lt 8 9 (-3)) ∧
    decodeWord 0x84028000 = .ok (.jr 0 5) ∧
    decodeWord 0x84000001 = .ok (.ret 0) ∧
    decodeWord 0x85028002 = .ok (.loop 0 5 2) ∧
    decodeWord 0x8600A580 = .ok (.wait false false 0 20 22) ∧
    decodeWord 0x8605A600 = .ok (.wait false true 1 20 24) ∧
    decodeWord 0x87000000 = .ok (.bar 0) ∧
    decodeWord 0x88000000 = .ok (.vote 0) ∧
    decodeWord 0x89020000 = .ok (.spawn 0 4) ∧
    decodeWord 0x8A022000 = .ok (.suspend 0 4 8) ∧
    decodeWord 0x8B000000 = .ok (.retire 0) ∧
    decodeWord 0x8C020005 = .ok (.trap 0 4 5) ∧
    decodeWord 0x8D000000 = .ok (.tret 0) ∧
    decodeWord 0x8E0C0007 = .ok (.hcall 0 24 7) ∧
    decodeWord 0x8F000000 = .ok (.fence 0) ∧
    decodeWord 0x8F000001 = .ok (.chunk 0) := by decide +kernel

theorem test_words_memory :
    decodeWord 0x90006B38 = .ok (.ld 0 .rlx 3 11 .b 56) ∧
    decodeWord 0x90018A84 = .ok (.ld 0 .rlx 12 10 .w 4) ∧
    decodeWord 0x9101CA40 = .ok (.st 0 .rlx 14 10 .h 0) ∧
    decodeWord 0x910107CB = .ok (.st 0 .rlx 8 7 .d 11) ∧
    decodeWord 0x92003A00 = .ok (.ldt 0 .rlx 1 26 0 0 0) ∧
    decodeWord 0x920049A1 = .ok (.ldt 0 .rlx 2 9 2 4 1) ∧
    decodeWord 0x93008900 = .ok (.stt 0 .rlx 4 9 0 0 0) ∧
    decodeWord 0x940103C0 = .ok (.ldfe 0 .rlx 8 3 0) ∧
    decodeWord 0x9501C3C0 = .ok (.stfe 0 .rlx 14 3 0) ∧
    decodeWord 0x96018004 = .ok (.feset 0 3 true) ∧
    decodeWord 0x96028C01 = .ok (.feq 0 5 3) ∧
    decodeWord 0x9F020000 = .ok (.pref 0 4) ∧
    decodeWord 0x9F020001 = .ok (.wback 0 4) ∧
    decodeWord 0x9F020002 = .ok (.inval 0 4) ∧
    decodeWord 0xB2021400 = .ok (.htld 0 4 5) ∧
    decodeWord 0xB2021401 = .ok (.htwr 0 4 5) ∧
    decodeWord 0xB3000000 = .ok (.tsflush 0) := by decide +kernel

theorem test_words_atomic :
    decodeWord 0x97007B98 = .ok (.aadd 0 0 7 23 6 .d) ∧
    decodeWord 0x98003217 = .ok (.amin 0 0 3 4 5 .wu) ∧
    decodeWord 0x99003217 = .ok (.amax 0 0 3 4 5 .wu) ∧
    decodeWord 0x9A003215 = .ok (.abit 0 0 3 4 5 .or) ∧
    decodeWord 0x9B0C3214 = .ok (.aswap 0 6 3 4 5 .d) ∧
    decodeWord 0x9C0E531D = .ok (.acas 0 7 5 6 7 .w) ∧
    decodeWord 0x9D00A5B1 = .ok (.afadd 0 0 10 11 12 .bf16) ∧
    decodeWord 0x9E01AE64 = .ok (.aagg 0 0 26 28 25 .d) := by decide +kernel

theorem test_words_streams_jobs :
    decodeWord 0xA00A2000 = .ok (.sbind 0 20 8 0 false false) ∧
    decodeWord 0xA0000101 = .ok (.sfree 0 1) ∧
    decodeWord 0xA0028002 = .ok (.ssync 0 5 0) ∧
    decodeWord 0xA10DBC00 = .ok (.mxpub 0 27 15) ∧
    decodeWord 0xA2042400 = .ok (.cppub 0 8 9) ∧
    decodeWord 0xA302EC00 = .ok (.jobq 0 5 27) ∧
    decodeWord 0xA4028000 = .ok (.licacq 0 5 false) ∧
    decodeWord 0xA4000001 = .ok (.licrel 0) := by decide +kernel

theorem test_words_pipelines :
    decodeWord 0xA504AC00 = .ok (.penq 0 9 11 0) ∧
    decodeWord 0xA5060001 = .ok (.pdeq 0 12 0) ∧
    decodeWord 0xA5003002 = .ok (.pdone 0 12 0 false) ∧
    decodeWord 0xA5028007 = .ok (.pstat 0 5 0 1) := by decide +kernel

theorem test_words_groups_messages :
    decodeWord 0xA6001C10 = .ok (.gsend 0 7 1) ∧
    decodeWord 0xA70BEC10 = .ok (.grecv 0 23 27 1) ∧
    decodeWord 0xA7048051 = .ok (.gstat 0 9 5) ∧
    decodeWord 0xA8000C10 = .ok (.gcfg 0 3 1) ∧
    decodeWord 0xA9002408 = .ok (.osend 0 9 2) ∧
    decodeWord 0xA9048009 = .ok (.orecv 0 9 false 2) ∧
    decodeWord 0xAA021400 = .ok (.msend 0 4 5) ∧
    decodeWord 0xAA040001 = .ok (.mrecv 0 8) := by decide +kernel

theorem test_words_system :
    decodeWord 0xAB029804 = .ok (.twx 0 5 6 1) ∧
    decodeWord 0xAB028005 = .ok (.twxRd 0 5 1) ∧
    decodeWord 0xAB001806 = .ok (.twxWr 0 6 1) ∧
    decodeWord 0xAC021400 = .ok (.capgive 0 4 5) ∧
    decodeWord 0xAC04F001 = .ok (.captake 0 9 28) ∧
    decodeWord 0xAC031002 = .ok (.capq 0 6 4) ∧
    decodeWord 0xAD000000 = .ok (.cycbeg 0 false) ∧
    decodeWord 0xAD000001 = .ok (.cycend 0) ∧
    decodeWord 0xAD048002 = .ok (.cycstat 0 9) ∧
    decodeWord 0xAE052C00 = .ok (.restst 0 10 11 false) ∧
    decodeWord 0xAF000000 = .ok (.wgfence 0) ∧
    decodeWord 0xB0010004 = .ok (.getsr 0 2 4) ∧
    decodeWord 0xB1020054 = .ok (.setsr 0 4 84) ∧
    decodeWord 0xDE012030 = .ok (.resacc 0 1 2 0 0 .fp32) := by decide +kernel

theorem test_words_integer :
    decodeWord 0x40000000 = .ok (.add 0 0 0) ∧
    decodeWord 0xC1B03FFF = .ok (.addImm 22 0 16383) ∧
    decodeWord 0xC2190A00 = .ok (.sub 3 4 5) ∧
    decodeWord 0xC35AC800 = .ok (.mul 11 11 4) ∧
    decodeWord 0xC3190A01 = .ok (.mulh 3 4 5) ∧
    decodeWord 0xC3190A02 = .ok (.mulhU 3 4 5) ∧
    decodeWord 0xC4190A01 = .ok (.div 3 4 5 true) ∧
    decodeWord 0xC4190A03 = .ok (.rem 3 4 5 true) ∧
    decodeWord 0xC5190A00 = .ok (.andR 3 4 5) ∧
    decodeWord 0xC5739A01 = .ok (.orR 14 14 13) ∧
    decodeWord 0xC5190A02 = .ok (.xorR 3 4 5) ∧
    decodeWord 0xC5190A03 = .ok (.andn 3 4 5) ∧
    decodeWord 0xC6944007 = .ok (.andImm 18 17 7) ∧
    decodeWord 0xC7190040 = .ok (.orImm 3 4 64) ∧
    decodeWord 0xC8193FFF = .ok (.xorImm 3 4 16383) ∧
    decodeWord 0xC95ADA00 = .ok (.shl 11 11 13) ∧
    decodeWord 0xC9190A01 = .ok (.shr 3 4 5) ∧
    decodeWord 0xC9190A02 = .ok (.sra 3 4 5) ∧
    decodeWord 0xC9190A03 = .ok (.rot 3 4 5) ∧
    decodeWord 0xCA190A00 = .ok (.minS 3 4 5 false) ∧
    decodeWord 0xCA190A03 = .ok (.maxS 3 4 5 true) ∧
    decodeWord 0xCB190A05 = .ok (.cmp 3 4 5 .geu) ∧
    decodeWord 0xCC190A60 = .ok (.sel 3 4 5 6) ∧
    decodeWord 0xCD190000 = .ok (.clz 3 4) ∧
    decodeWord 0xCD190001 = .ok (.popc 3 4) ∧
    decodeWord 0xCE190203 = .ok (.bfx 3 4 8 3) ∧
    decodeWord 0xCF190203 = .ok (.bfi 3 4 8 3) ∧
    decodeWord 0xD01FFFFF = .ok (.li 3 524287) ∧
    decodeWord 0xD11CF135 = .ok (.liHi 3 323893) ∧
    decodeWord 0xD229C000 = .ok (.mov 5 7) ∧
    decodeWord 0xD3193FF0 = .ok (.lea 3 4 16368) := by decide +kernel

theorem test_words_float :
    decodeWord 0xD4CE6600 = .ok (.fadd 25 25 19 .rne .fp32) ∧
    decodeWord 0xD5CE7000 = .ok (.fsub 25 25 24 .rne .fp32) ∧
    decodeWord 0xD6631C00 = .ok (.fmul 12 12 14 .rne .fp32) ∧
    decodeWord 0xD7CC2510 = .ok (.fma 25 16 18 17 .rne .fp32) ∧
    decodeWord 0xD8843000 = .ok (.fdiv 16 16 24 0 .rne .fp32) ∧
    decodeWord 0xD931C000 = .ok (.fsqrt 6 7 0 .rne .fp32) ∧
    decodeWord 0xDA190A00 = .ok (.fmin 3 4 5 .fp32) ∧
    decodeWord 0xDA190A10 = .ok (.fmax 3 4 5 .fp32) ∧
    decodeWord 0xDB190A11 = .ok (.fcmp 3 4 5 .lt .fp64) ∧
    decodeWord 0xDC190012 = .ok (.fcvt 3 4 .fi64 .rtz .fp32) ∧
    decodeWord 0xDD190001 = .ok (.fclass 3 4 .fp64) := by decide +kernel

theorem test_words_vector :
    decodeWord 0xE0123030 = .ok (.vadd 1 2 3 0 0 .fp32) ∧
    decodeWord 0xE1123010 = .ok (.vsub 1 2 3 0 0 .i32) ∧
    decodeWord 0xE2123020 = .ok (.vmul 1 2 3 0 0 .bf16) ∧
    decodeWord 0xE3456E20 = .ok (.vfma 4 5 6 7 0 .bf16) ∧
    decodeWord 0xE4123008 = .ok (.vmin 1 2 3 0 0 .i16) ∧
    decodeWord 0xE4123009 = .ok (.vmax 1 2 3 0 0 .i16) ∧
    decodeWord 0xE5123000 = .ok (.vand 1 2 3 0 0 .i8) ∧
    decodeWord 0xE5123001 = .ok (.vor 1 2 3 0 0 .i8) ∧
    decodeWord 0xE5123002 = .ok (.vxor 1 2 3 0 0 .i8) ∧
    decodeWord 0xE6123012 = .ok (.vshl 1 2 3 0 0 .i32 .ra) ∧
    decodeWord 0xE7312012 = .ok (.vcmp 3 1 2 0 0 .i32 .lt) ∧
    decodeWord 0xE8345000 = .ok (.vsel 3 4 5 0 0 .i8) ∧
    decodeWord 0xE9211026 = .ok (.vcvt 2 1 1 0 0 .bf16 .fp32) ∧
    decodeWord 0xEA213030 = .ok (.vdec 2 1 3 0 0 .fp32) ∧
    decodeWord 0xEB122030 = .ok (.venc 1 2 2 0 0 .fp32) ∧
    decodeWord 0xEC548210 = .ok (.vbcast 5 9 1 0 .i32) ∧
    decodeWord 0xED123000 = .ok (.vperm 1 2 3 0 0 .i8) := by decide +kernel

theorem test_words_tile :
    decodeWord 0xEE340070 = .ok (.vsfu 3 4 0 0 1 .fp32 .exp2) ∧
    decodeWord 0xEF783630 = .ok (.vred 7 8 3 3 0 .fp32 .sum) ∧
    decodeWord 0xF0120231 = .ok (.vscan 1 2 0 1 0 .fp32 true) ∧
    decodeWord 0xF1120621 = .ok (.vhad 1 2 0 3 0 .bf16 .p32) ∧
    decodeWord 0xF2120030 = .ok (.vsign 1 2 0 0 .fp32) ∧
    decodeWord 0xF3010600 = .ok (.vchain 0 1 0 3) ∧
    decodeWord 0xF4000000 = .ok (.vmpld 0 0 0 0) ∧
    decodeWord 0xF5123030 = .ok (.vrep 1 2 3 0 0 .fp32) ∧
    decodeWord 0xF6000E00 = .ok (.tzero 0 7 0 .i8) ∧
    decodeWord 0xF6210E01 = .ok (.tmov 2 1 7 0 .i8) ∧
    decodeWord 0xF6210632 = .ok (.ttrans 2 1 3 0 .fp32) ∧
    decodeWord 0xF73400B0 = .ok (.vins 3 8 2 .fp32) ∧
    decodeWord 0xF73400B1 = .ok (.vext 3 8 2 .fp32) ∧
    decodeWord 0xF8123630 = .ok (.vdot 1 2 3 3 0 .fp32) := by decide +kernel

/-! ## Ill-formed terms, one for each check (R228, R229, R231 and the limits of the entries) -/

/-- Each of these terms breaks one limit. -/
def tIllControl : List Instr :=
  [.loop 0 5 0, .trap 0 4 0, .trap 0 4 10, .trap 0 4 19, .ld 0 .rel 1 2 .d 0, .st 0 .acq 1 2 .d 0, .ldt 0 .rel 1 2 0 0 0, .ldt 0 .rlx 1 2 3 1 0,
    .stt 0 .acq 1 2 0 0 0, .stt 0 .rlx 1 2 2 5 0, .ldfe 0 .rel 1 2 0, .stfe 0 .acq 1 2 0, .sbind 0 4 7 0 false false,
    .sbind 0 4 28 0 false false, .sbind 0 4 16 0 true false, .pdeq 0 31 0, .orecv 0 29 true 0, .mrecv 0 31, .restst 0 1 1 true,
    .bfx 1 2 32 32, .bfi 1 2 63 1]

/-- Each of these terms breaks one limit. -/
def tIllVector : List Instr :=
  [.resacc 0 1 2 7 1 .fp32, .resacc 0 1 2 0 0 .fp64, .resacc 0 1 2 0 0 .i32, .vadd 1 2 3 7 1 .i8, .vsub 1 2 3 4 4 .i8, .vmul 1 2 3 7 7 .i8,
    .vfma 1 2 3 1 7 .fp32, .vmin 1 2 3 7 1 .i8, .vmax 1 2 3 7 1 .i8, .vand 1 2 3 7 1 .i8, .vor 1 2 3 7 1 .i8, .vxor 1 2 3 7 1 .i8,
    .vshl 1 2 3 7 1 .i8 .l, .vshl 1 2 3 0 0 .fp32 .l, .vcmp 1 2 3 7 1 .i8 .eq, .vcmp 1 2 3 0 0 .i8 .bit, .vcmp 1 2 3 0 0 .i8 .nbit,
    .vcmp 1 2 3 0 0 .fp32 .ltu, .vcmp 1 2 3 0 0 .fp32 .geu, .vsel 1 2 3 7 1 .i8]

/-- Each of these terms breaks one limit. -/
def tIllRows : List Instr :=
  [.vcvt 1 2 0 7 1 .i8 .i16, .vcvt 1 2 2 0 0 .i8 .i16, .vdec 1 2 0 7 1 .fp32, .vdec 1 2 0 0 0 .i8, .vdec 1 2 4 0 0 .fp32, .venc 1 2 0 7 1 .fp32,
    .venc 1 2 0 0 0 .fp64, .venc 1 2 2 0 0 .bf16, .vbcast 1 2 7 1 .i8, .vperm 1 2 3 7 1 .i8, .vperm 1 2 3 0 0 .fp32, .vsfu 1 2 0 7 1 .fp32 .exp2,
    .vsfu 1 2 0 0 0 .fp64 .exp2, .vred 1 2 0 7 1 .i8 .sum, .vscan 1 2 0 7 1 .i8 false, .vhad 1 2 0 7 1 .fp32 .p32, .vhad 1 2 0 3 0 .i32 .p16,
    .vhad 1 2 0 2 0 .fp32 .p16, .vsign 1 2 7 1 .fp32, .vsign 1 2 0 0 .i32]

/-- Each of these terms breaks one limit. -/
def tIllTile : List Instr :=
  [.vchain 2 1 0 0, .vmpld 0 1 3 5, .vmpld 0 1 4 0, .vmpld 13 1 0 0, .vrep 1 2 4 0 0 .fp32, .vrep 1 2 0 7 1 .fp32, .tzero 1 7 1 .i8, .tmov 1 2 7 1 .i8,
    .ttrans 1 2 3 5 .fp32, .ttrans 1 2 7 0 .i8, .ttrans 1 2 2 0 .fp32, .vins 1 31 0 .fp32, .vext 1 31 0 .fp32, .vdot 1 2 3 7 1 .fp32]

theorem test_illFormed_refused :
    (tIllControl.all fun i => !i.wf) = true ∧ (tIllVector.all fun i => !i.wf) = true ∧ (tIllRows.all fun i => !i.wf) = true ∧
      (tIllTile.all fun i => !i.wf) = true := by decide +kernel

/-- An ill-formed word takes ILLEGAL: with `TVEC` set, its handler starts. -/
theorem test_illFormed_illegal :
    tNext (exec (.vrep 1 2 4 0 0 .fp32) (tBase.modCtx fun c => { c with tvec := 0x100 })) (fun t =>
      t.me.ctx.tin && t.me.ctx.cause == 1) = true := by decide +kernel

/-! ## Witnesses: scalar, floating and control words -/

theorem witness_ScalarArithmetic : tBase.Plain [1, 2, 3] ∧ ∀ i ∈ ([.sub 1 2 3, .mul 1 2 3, .mulh 1 2 3, .mulhU 1 2 3, .andR 1 2 3, .andImm 1 2 (-1),
    .andn 1 2 3, .orR 1 2 3, .orImm 1 2 0x40, .xorR 1 2 3, .xorImm 1 2 (-1), .shl 1 2 3, .shr 1 2 3, .sra 1 2 3] : List Instr),
    tBase.Ready i := by decide +kernel

theorem witness_ScalarCompare : tBase.Plain [1, 2, 3] ∧ ∀ i ∈ ([.add 1 2 3, .addImm 1 2 (-1), .minS 1 2 3 true, .maxS 1 2 3 false, .cmp 1 2 3 .geu,
    .mov 1 2, .rot 1 2 3] : List Instr), tBase.Ready i := by decide +kernel

/-- Operands for each case: a zero divisor, natural operands, the most negative number over -1, and signed operands. -/
theorem witness_DivRem :
    let z := tRegs [(2, 9), (3, 0)] tBase
    let n := tRegs [(2, 9), (3, 4)] tBase
    let m := tRegs [(2, 0x8000000000000000), (3, 0xFFFFFFFFFFFFFFFF)] tBase
    (z.Plain [1, 2, 3] ∧ z.Ready (.div 1 2 3 true) ∧ z.Ready (.rem 1 2 3 false) ∧ z.srcReg 3 = 0) ∧
    (n.Plain [1, 2, 3] ∧ n.Ready (.div 1 2 3 true) ∧ n.Ready (.div 1 2 3 false) ∧ n.Ready (.rem 1 2 3 true) ∧ n.srcReg 3 ≠ 0 ∧
      ¬(n.srcReg 2 = 0x8000000000000000 ∧ n.srcReg 3 = 0xFFFFFFFFFFFFFFFF)) ∧
    m.Plain [1, 2, 3] ∧ m.Ready (.div 1 2 3 false) ∧ m.Ready (.rem 1 2 3 false) ∧ m.srcReg 3 ≠ 0 ∧ m.srcReg 2 = 0x8000000000000000 ∧
      m.srcReg 3 = 0xFFFFFFFFFFFFFFFF := by decide +kernel

theorem witness_ScalarBits : tBase.Plain [1, 2, 3, 4] ∧ ∀ i ∈ ([.clz 1 2, .popc 1 2, .bfx 1 2 0 63, .bfi 1 2 32 31, .sel 1 2 3 4, .li 1 (-1),
    .liHi 1 5, .lea 1 2 (-16)] : List Instr), tBase.Ready i := by decide +kernel

theorem witness_RegisterFile : (1 : Reg) ≠ 0 ∧ (2 : Reg) ≠ 1 := by decide

theorem witness_IllegalWord : Instr.isEvent (.loop 0 5 0) = false ∧ Instr.wf (.loop 0 5 0) = false ∧
    ({ tBase with cur := ⟨0, .loader⟩ } : State).cur.kind ≠ .main ∧ Instr.inScalarSubset (.vadd 1 2 3 0 0 .i8) = false ∧
    Instr.isEvent (.vadd 1 2 3 0 0 .i8) = false := by decide +kernel

theorem witness_FloatResults : tBase.Plain [1, 2, 3, 4] ∧ (∀ i ∈ ([.fadd 1 2 3 .rne .fp32, .fsub 1 2 3 .rne .fp64, .fmul 1 2 3 .rtz .fp32,
    .fma 1 2 3 4 .rne .fp32, .fmin 1 2 3 .fp32, .fmax 1 2 3 .fp64, .fcmp 1 2 3 .lt .fp64, .fclass 1 2 .fp32, .fdiv 1 2 3 0 .rne .fp32,
    .fsqrt 1 2 0 .rne .fp64, .fcvt 1 2 .fi64 .rtz .fp32, .fcvt 1 2 .fi32 .rtz .fp32, .fcvt 1 2 .fn32 .rtz .fp32, .fcvt 1 2 .fn64 .rup .fp32, .fcvt 1 2 .i64f .rne .fp64, .fcvt 1 2 .i32f .rdn .fp32,
    .fcvt 1 2 .n64f .rne .fp64, .fcvt 1 2 .ff .rne .fp64, .fcvt 1 2 .ff .rne .fp32] : List Instr), tBase.Ready i) ∧
    isNan (precFmt .fp32) (floatOf .fp32 ((tRegs [(2, 0x7FC00000)] tBase).srcReg 2)) = true := by decide +kernel

theorem witness_FloatFormats : Fmt.fp32 ∈ [Fmt.fp64, Fmt.fp32, Fmt.bf16, Fmt.fp16] ∧ isNan .fp32 0x7F800001 = true ∧ 0x7F800001 < 2 ^ Fmt.fp32.width ∧
    isNan .fp32 0x3F800000 = false ∧ 0x3F800000 < 2 ^ Fmt.fp32.width ∧ isNan .fp16 0x7C01 = true ∧ 0x7C01 < 2 ^ Fmt.fp16.width ∧
    isNan .fp16 0xFC00 = false ∧ 0xFC00 < 2 ^ Fmt.fp16.width := by decide +kernel

/-- A core of a span in the RESID phase. -/
def tResid : State := { tBase with jobs := [(2 ^ 32 + 1, { asid := 1, id := 1, stage := .running, gangs := [0], ngang := 1, nstr := 1
                                                           span := { ph := 3, rspan := 0, tol := 0 } })] }

theorem witness_LateResults :
    let s := tResid
    s.Plain [1, 2, 3, 28, 29, 30] ∧ s.PlainTiles [1, 2, 3] ∧ (3 : BitVec 4) ≠ 0 ∧ (1 : Reg) ≠ 0 ∧ s.unit.own = false ∧ s.srcReg 28 = 0 ∧
    (∀ i ∈ ([.fdiv 1 2 3 3 .rne .fp32, .fsqrt 1 2 3 .rne .fp32, .vsfu 1 2 3 0 1 .fp32 .exp2, .vred 1 2 3 3 0 .fp32 .sum,
      .vscan 1 2 3 1 0 .fp32 true, .vhad 1 2 3 3 0 .bf16 .p32, .resacc 3 2 3 0 0 .fp32] : List Instr), s.Ready i) ∧
    s.me.task = none ∧ s.me.ctx.uiin = false ∧ (s.job s.myJob).span.ph = 3 ∧
    (∀ n ∈ [0, 2], let t := s.modCtx fun c => { c with lates := [⟨.scalar 1 7, n + 1⟩] }
      t.me.ctx.lates = [⟨.scalar 1 7, n + 1⟩] ∧ t.Plain [1]) ∧ s.Clear (.scalar 1 7) ∧ s.Clear (.rows (indexRows 1 0 [0])) := by decide +kernel

theorem witness_Branches :
    let s := tRegs [(2, 5), (3, 5)] tBase
    s.Plain [2, 3] ∧ s.Plain [31] ∧ (∀ i ∈ ([.nop 15, .branch (-1), .call 5, .bcc .eq 2 3 (-3), .bcc .ne 2 3 1] : List Instr), s.Ready i) ∧
    condHolds .eq (s.srcReg 2) (s.srcReg 3) = true ∧ condHolds .ne (s.srcReg 2) (s.srcReg 3) = false ∧ s.cur.kind = .main ∧
    offsetOf (8 : Word) % 8 = 0 := by decide +kernel

theorem witness_JumpsAndTraps :
    let s := tRegs [(2, 64), (3, 66), (31, 128)] tBase
    s.Plain [2] ∧ s.Plain [3] ∧ s.Plain [31] ∧ (∀ i ∈ ([.jr 0 2, .jr 0 3, .ret 0, .trap 0 2 5, .trap 0 2 18] : List Instr), s.Ready i) ∧
    (s.srcReg 2).toNat % 8 = 0 ∧ (s.srcReg 3).toNat % 8 ≠ 0 ∧ (s.srcReg 31).toNat % 8 = 0 ∧ Cause.ofCode 5 = some .handle ∧
    Cause.ofCode 18 = some .soft ∧ Cause.ofCode 10 = none ∧ Cause.ofCode 0 = none ∧ Cause.ofCode 19 = none := by decide +kernel

theorem witness_Loops :
    let l : LoopLevel := ⟨tBase.bundleAt tBase.me.ctx.pc 1, tBase.bundleAt tBase.me.ctx.pc 2, 5⟩
    let pairs : State := { tBase with unit := { paired := true } }
    let full := tBase.modCtx fun c => { c with loops := [l] }
    let bound := tBase.modCtx fun c => { c with binds := c.binds.set 1 (some ⟨5, false, 0, 0, 2, 8, false, 8, 2, 0⟩) }
    (∀ s ∈ [tBase, pairs, full, bound], s.Ready (.loop 0 5 2)) ∧ tBase.Plain [5] ∧ tBase.unit.paired = false ∧ pairs.Plain [5] ∧
    pairs.unit.paired = true ∧ levelFits l tBase.me.ctx.levels = true ∧ levelFits l pairs.me.ctx.levels = true ∧ full.Plain [5] ∧
    levelFits l full.me.ctx.levels = false ∧ (bound.me.ctx.bindOf 5).isSome = true ∧ tBase.me.ctx.reg 5 = 0 ∧ (tRegs [(5, 2)] tBase).me.ctx.reg 5 ≠ 0 ∧
    2 ≤ ((tRegs [(5, 2)] tBase).me.ctx.reg 5).toNat ∧ ((tRegs [(5, 1)] tBase).me.ctx.reg 5).toNat ≤ 1 ∧
    (tBase.modCtx fun c => { c with loopReq := [⟨l, none⟩] }).me.ctx.loopReq = [⟨l, none⟩] ∧ tBase.me.ctx.loops = [] := by decide +kernel

theorem witness_ChunkAndFence : tBase.Ready (.chunk 0) ∧ tBase.Ready (.fence 0) ∧ tBase.me.err = none ∧ tBase.allPerformed = true := by
  decide +kernel

/-- A main agent with a trap handler at 0x100. -/
def tVec : State := tBase.modCtx fun c => { c with tvec := 0x100 }

theorem witness_TrapEntry : tVec.me.chunk = {} ∧ tVec.me.ctx.lates = [] ∧ tVec.me.ctx.fatal .align = false := by decide +kernel

/-- The same inside its trap handler, and inside its user interrupt handler. -/
def tSys : State := tVec.modCtx fun c => { c with tin := true, aside := [([], [])] }
/-- Inside the user interrupt handler. -/
def tUser : State := tVec.modCtx fun c => { c with uiin := true, aside := [([], [])] }

theorem witness_TrapReturn : tSys.me.ctx.aside = [([], [])] ∧ tUser.me.ctx.aside = [([], [])] ∧ tSys.Ready (.tret 0) ∧ tSys.me.ctx.tin = true ∧ tUser.Ready (.tret 0) ∧ tUser.me.ctx.tin = false ∧
    tUser.me.ctx.uiin = true ∧ tVec.Ready (.tret 0) ∧ tVec.me.ctx.tin = false ∧ tVec.me.ctx.uiin = false := by decide +kernel

theorem witness_HostCall :
    let keeps : State := { tSys with me := { tSys.me with mark := .value 9 } }
    let opened : State := { tSys with me := { tSys.me with chunk := { count := 1 } } }
    tVec.Ready (.hcall 0 24 7) ∧ tVec.me.ctx.tin = false ∧
    (∀ s ∈ [tSys, keeps, opened], s.Ready (.hcall 0 24 7) ∧ s.me.ctx.tin = true ∧ s.Plain [24] ∧ s.me.err = none ∧ s.allPerformed = true ∧
      (s.core s.cur.core).hpend = false) ∧ tSys.me.chunk.count = 0 ∧ tSys.me.mark = .none ∧ keeps.me.chunk.count = 0 ∧
    keeps.me.mark = .value 9 ∧ opened.me.chunk.count ≠ 0 ∧ opened.me.mark = .none := by decide +kernel

/-! ## Witnesses: tile words -/

theorem witness_VectorArithmetic : tBase.PlainTiles [1, 2, 3] ∧ (∀ i ∈ ([.vadd 1 2 3 0 0 .fp32, .vsub 1 2 3 7 0 .i32, .vmul 1 2 3 0 7 .bf16,
    .vmin 1 2 3 0 0 .i16, .vmax 1 2 3 3 0 .fp32, .vand 1 2 3 0 0 .i8, .vor 1 2 3 0 0 .i8, .vxor 1 2 3 0 0 .i8, .vshl 1 2 3 0 0 .i32 .ra,
    .vfma 1 2 3 7 0 .bf16, .vsel 1 2 3 0 0 .i8] : List Instr), tBase.Ready i) ∧ 15 < LaneTy.lanes .i8 ∧ LaneTy.isFloat .i8 = false := by
  decide +kernel

theorem witness_VectorMoves : tBase.PlainTiles [1, 2, 3] ∧ tBase.Plain [9] ∧ ∀ i ∈ ([.tmov 1 2 7 0 .i8, .ttrans 1 2 3 0 .fp32, .tzero 1 7 0 .i8,
    .vbcast 1 9 1 0 .i32, .vrep 1 2 3 0 0 .fp32, .vcmp 1 2 3 0 0 .i32 .lt, .vcvt 1 2 1 0 0 .bf16 .fp32, .vperm 1 2 3 0 0 .i8,
    .vdot 1 2 3 3 0 .fp32] : List Instr), tBase.Ready i := by decide +kernel

theorem witness_LaneInsertExtract : tBase.PlainTiles [3] ∧ tBase.Plain [30, 31] ∧ tBase.Ready (.vins 3 30 2 .fp32) ∧
    tBase.Ready (.vext 3 30 7 .i8) := by decide +kernel

theorem witness_VectorLong : tBase.PlainTiles [1, 2] ∧ tBase.Plain [28, 29, 30] ∧ tBase.srcReg 28 = 0 ∧ ∀ i ∈ ([.vsfu 1 2 0 0 1 .fp32 .exp2,
    .vred 1 2 0 3 0 .fp32 .sum, .vscan 1 2 0 1 0 .fp32 true, .vhad 1 2 0 3 0 .bf16 .p32, .vsign 1 2 0 0 .fp32] : List Instr),
    tBase.Ready i := by decide +kernel

/-- A decode table with an entry that no table may hold. -/
def tBadTable : State := { tBase with mem := { tBase.mem with bytes := [(tableAddr 0 0, 1)] } }

theorem witness_TableCodes : tBase.PlainTiles [1, 2] ∧ tBase.rechecking = false ∧ tBase.Ready (.vdec 1 2 3 0 0 .fp32) ∧
    tBase.Ready (.venc 1 2 3 7 0 .fp32) ∧ tBase.tabBad = false ∧ tBadTable.rechecking = false ∧ tBadTable.Ready (.venc 1 2 3 7 0 .fp32) ∧
    tBadTable.tabBad = true := by decide +kernel

/-- The micro-program store locked, at user and at system privilege. -/
def tLocked (sys : Bool) : State := tBase.modCtx fun c => { c with mplk := true, tin := sys }

/-- Rows whose 32-bit elements are `VMIN` words. -/
def tMicro : State := tBase.modCtx fun c => c.setRow 0 (BitVec.ofNat 128 (0x64123631 + 0x64123631 * 2 ^ 32 + 0x64123631 * 2 ^ 64 +
  0x64123631 * 2 ^ 96))

theorem tMicro_elems : elemsOf 32 (tMicro.srcRows 0 0 1) = [0x64123631, 0x64123631, 0x64123631, 0x64123631] := by decide +kernel

theorem witness_MicroPrograms_load :
    let ws : List W32 := (elemsOf 32 (tMicro.srcRows 0 0 1)).map (BitVec.ofNat 32 ·)
    tMicro.Ready (.vmpld 0 0 0 0) ∧ tMicro.PlainTiles [0] ∧ (tMicro.me.ctx.mplk = true → tMicro.me.ctx.tin = true) ∧
      ∀ w ∈ ws, microWord w = true := by
  rw [tMicro_elems]; exact ⟨by decide +kernel, by decide +kernel, by decide +kernel, List.all_eq_true.mp (by decide +kernel)⟩

theorem witness_MicroPrograms :
    let s : State := tBase.modCtx fun c => { c with mp := Vector.replicate 16 0x64123031 }
    let slots := (List.range 2).map fun k => slotOp s.me.ctx (0 + k)
    (tLocked false).Ready (.vmpld 0 0 0 0) ∧ (tLocked false).me.ctx.mplk = true ∧ (tLocked false).me.ctx.tin = false ∧
    (tLocked true).me.ctx.tin = true ∧ s.Ready (.vchain 0 1 0 3) ∧ s.Ready (.vchain 0 1 2 3) ∧ s.Clear (.lanes [(0, 0, 0)]) ∧
    (∀ m ∈ slots, m.isSome = true) ∧ (∀ m ∈ slots.filterMap id, m.f.toNat + 3 + (m.n.toNat + 1) ≤ 8) ∧
    ∀ t ∈ ([0, 1, 2, 3, 4, 5, 6, 7, 8, 9, 10, 11, 12, 13, 14, 15] : List TReg), s.PlainTiles [t] := by decide +kernel

/-- A row whose first word may not stand in the store. -/
theorem witness_MicroPrograms_bad :
    let s := tBase.modCtx fun c => c.setRow 0 1
    s.Ready (.vmpld 0 0 0 0) ∧ s.PlainTiles [0] ∧ s.me.ctx.mplk = false ∧
    ((elemsOf 32 (s.srcRows 0 0 1)).map (BitVec.ofNat 32 ·)).find? (fun w => !microWord w) = some 1 := by decide +kernel

theorem witness_Residual : tResid.Ready (.resacc 0 1 2 0 0 .fp32) ∧ tResid.PlainTiles [1, 2] ∧ tResid.me.task = none ∧
    tResid.me.ctx.uiin = false ∧ (tResid.job tResid.myJob).span.ph = 3 ∧ tResid.me.ctx.rpart = none ∧
    tResid.Clear (.rpart 0) ∧ (tResid.modCtx fun c => { c with rpart := some 0, lates := [⟨.rpart 0, 2⟩] }).Ready (.resacc 0 1 2 0 0 .fp32) ∧
    (tResid.modCtx fun c => { c with rpart := some 0, lates := [⟨.rpart 0, 2⟩] }).me.ctx.lates = [⟨.rpart 0, 2⟩] ∧ tBase.Ready (.resacc 0 1 2 0 0 .fp32) ∧
    (tBase.job tBase.myJob).span.ph ≠ 3 := by decide +kernel

/-! ## Witnesses: memory -/

/-- A pointer through handle 1. -/
def tPtr (o : Nat) : Word := BitVec.ofNat 64 (2 ^ 52 + o)

/-- s2 points to byte 0x40 through handle 1, which is physical byte 0x40. -/
def tMem : State := tRegs [(2, tPtr 0x40), (3, 5)] tBase

/-- The access of `n` bytes that loads, stores and atomics make. -/
def tAcc (rd wr : Bool) (n : Nat) : Acc := { rd := rd, wr := wr, n := n, align := n }

theorem witness_LoadResult : (∀ i ∈ ([.ld 0 .rlx 1 2 .d 0, .ld 3 .acq 1 2 .b 0] : List Instr), tMem.Ready i) ∧ tMem.Plain [1, 2] ∧
    tMem.unit.own = false ∧ tMem.Reaches (ptrAdd (tMem.srcReg 2) 0) (tAcc true false 8) 0x40 ∧
    tMem.Reaches (ptrAdd (tMem.srcReg 2) 0) (tAcc true false 1) 0x40 := by decide +kernel

theorem witness_StoreResult : (∀ i ∈ ([.st 0 .rlx 1 2 .d 0, .st 0 .rel 1 2 .w 3] : List Instr), tMem.Ready i) ∧ tMem.Plain [1, 2] ∧
    tMem.me.err = none ∧ tMem.Room 0x40 8 ∧ tMem.Room 0x4C 4 ∧ tMem.Reaches (ptrAdd (tMem.srcReg 2) 0) (tAcc false true 8) 0x40 ∧
    tMem.Reaches (ptrAdd (tMem.srcReg 2) (3 * 4)) (tAcc false true 4) 0x4C := by decide +kernel

/-- Pointers that fail a check: an invalid entry, one byte past the bound, an odd address. -/
theorem witness_AccessTraps :
    let bad := tRegs [(2, BitVec.ofNat 64 (2 * 2 ^ 52))] tBase
    let past := tRegs [(2, tPtr 0x10000)] tBase
    let odd := tRegs [(2, tPtr 0x41)] tBase
    (∀ s ∈ [bad, past, odd], s.Plain [1, 2] ∧ s.Ready (.ld 0 .rlx 1 2 .d 0) ∧ s.Ready (.st 0 .rlx 1 2 .d 0) ∧ s.me.err = none) ∧
    bad.check bad.who (ptrAdd (bad.srcReg 2) 0) (tAcc true false 8) = .error .handle ∧
    past.check past.who (ptrAdd (past.srcReg 2) 0) (tAcc false true 8) = .error .bounds ∧
    odd.check odd.who (ptrAdd (odd.srcReg 2) 0) (tAcc true false 8) = .error .align ∧
    hValid (bad.handle 1 2) = false ∧ stepHandle (odd.handle 1 1) 1 (tAcc true false 8) = true ∧
    stepAlign (odd.handle 1 1) (tPtr 0x41) (tAcc true false 8) = false ∧ stepHandle (past.handle 1 1) 1 (tAcc true false 8) = true ∧
    stepAlign (past.handle 1 1) (tPtr 0x10000) (tAcc true false 8) = true ∧
    hBound (past.handle 1 1) < offsetOf (tPtr 0x10000) + 8 := by decide +kernel

theorem witness_TileLoadStore :
    let acc (rd wr : Bool) (n : Nat) : Acc := { rd := rd, wr := wr, n := n, align := 16 }
    tMem.Plain [2] ∧ tMem.PlainTiles [1] ∧ (∀ i ∈ ([.ldt 0 .rlx 1 2 3 0 0, .ldt 2 .acq 1 2 0 7 0, .stt 0 .rel 1 2 2 4 0] : List Instr),
      tMem.Ready i) ∧ tMem.unit.own = false ∧ tMem.me.err = none ∧ tMem.Room 0x40 64 ∧
    tMem.Reaches (ptrAdd (tMem.srcReg 2) 0) (acc true false 128) 0x40 ∧ tMem.Reaches (ptrAdd (tMem.srcReg 2) 0) (acc true false 16) 0x40 ∧
    tMem.Reaches (ptrAdd (tMem.srcReg 2) 0) (acc false true 64) 0x40 := by decide +kernel

theorem witness_FullEmpty :
    let acc (rd wr : Bool) : Acc := { rd := rd, wr := wr, n := 8, align := 8, raw := true, spaces := [0, 1, 2] }
    tMem.Plain [1, 2] ∧ tMem.Room 0x40 8 ∧ tMem.Clear (.scalar 1 0) ∧ (∀ i ∈ ([.ldfe 0 .rlx 1 2 0, .ldfe 2 .rlx 1 2 0, .stfe 0 .rel 1 2 0, .feset 0 2 true, .feq 0 1 2] : List Instr),
      tMem.Ready i) ∧ tMem.me.err = none ∧ tMem.Reaches (ptrAdd (tMem.srcReg 2) 0) (acc true true) 0x40 ∧
    tMem.Reaches (ptrAdd (tMem.srcReg 2) 0) (acc false true) 0x40 ∧ tMem.Reaches (tMem.srcReg 2) (acc false true) 0x40 ∧
    tMem.Reaches (tMem.srcReg 2) (acc true false) 0x40 := by decide +kernel

theorem witness_CacheHints :
    let acc : Acc := { rd := true, wr := false, n := 1, align := 1, ali := false, gen := false, cap := false }
    tMem.Plain [2] ∧ tBase.Plain [2] ∧ (∀ i ∈ ([.pref 0 2, .wback 0 2, .inval 0 2] : List Instr), tMem.Ready i ∧ tBase.Ready i) ∧
    tMem.check tMem.who (tMem.srcReg 2) acc = .ok (.mem [(0x40, 1)]) ∧ tBase.check tBase.who (tBase.srcReg 2) acc = .error .handle := by
  decide +kernel

/-- A descriptor at 0x40: 4 elements of 8 bytes in runs of 4, and one that names no element. -/
def tDesc (cnt : Byte) : State := { tMem with mem := { tMem.mem with bytes := [(0x48, cnt), (0x4C, 3), (0x58, 4)] } }

theorem witness_StreamControl :
    let acc : Acc := { rd := true, wr := false, n := 64, align := 64 }
    (∀ s ∈ [tDesc 4, tDesc 0], s.Plain [2] ∧ s.Ready (.sbind 0 2 8 0 false false) ∧ s.unit.own = false ∧ s.me.ctx.binds[0] = none ∧
      s.me.ctx.bindOf 8 = none ∧ s.Reaches (s.srcReg 2) acc 0x40) ∧
    (bindingOf (leWords 8 ((tDesc 4).viewBytes [(0x40, 64)])) 8 false false).isSome = true ∧
    bindingOf (leWords 8 ((tDesc 0).viewBytes [(0x40, 64)])) 8 false false = none ∧ tMem.Ready (.sfree 0 1) ∧ tMem.Ready (.ssync 0 2 0) ∧
    tMem.me.ctx.binds[1] = none ∧
    (let s := tBase.modCtx fun c => { c with binds := c.binds.set 1 (some ⟨8, false, 1, tPtr 0x40, 2, 8, false, 8, 2, 0⟩) }
     s.Ready (.sfree 0 1) ∧ s.me.ctx.binds[1] = some ⟨8, false, 1, tPtr 0x40, 2, 8, false, 8, 2, 0⟩) := by
  decide +kernel

/-- A binding of register 8 to two words at 0x40. -/
def tBind (out : Bool) (pos : Nat) : Binding := ⟨8, out, pos, tPtr 0x40, 2, 8, false, 8, 2, 0⟩
/-- With that binding in generator 1. -/
def tBound (out : Bool) (pos : Nat) : State := tBase.modCtx fun c => { c with binds := c.binds.set 1 (some (tBind out pos)) }

theorem witness_StreamElements :
    (let s := tBound false 1
     s.Ready (.mov 1 8) ∧ s.Plain [1] ∧ (1 : Reg) ≠ 0 ∧ s.unit.own = false ∧ s.unit.popped = [] ∧ s.me.ctx.bindOf 8 = some (1, tBind false 1) ∧
       (tBind false 1).out = false ∧ (tBind false 1).pos < (tBind false 1).cnt ∧
       s.Reaches ((tBind false 1).ptr 1) { rd := true, wr := false, n := 8, align := 8 } 0x48) ∧
    (let s := tBound false 2
     s.Ready (.mov 1 8) ∧ s.unit.popped = [] ∧ s.me.ctx.bindOf 8 = some (1, tBind false 2) ∧ (tBind false 2).cnt ≤ (tBind false 2).pos) ∧
    (let s := tBound true 0
     s.Ready (.mov 8 1) ∧ s.Plain [1] ∧ s.me.ctx.bindOf 8 = some (1, tBind true 0) ∧ (tBind true 0).out = true ∧ s.Room 0x40 8 ∧
       s.Reaches ((tBind true 0).ptr 0) { rd := false, wr := true, n := 8, align := 8 } 0x40) := by decide +kernel

/-- An open chunk that holds one byte, beside another agent whose chunk reads a line it does not touch. -/
def tChunk : State := { tBase with
  me := { tBase.me with chunk := { count := 2, held := [(0x40, 7)], writes := [1], ended := true } }
  others := [(4, { act := .running, chunk := { count := 1, reads := [9] } })] }

theorem witness_Chunks : tChunk.hitRecs (tChunk.me.chunk.held.map fun x => (x.1, 1)) = [] ∧ tChunk.me.chunk.count ≠ 0 ∧ tabSorted tChunk.me.chunk.held = true ∧ tChunk.me.chunk.stats = [] ∧
    (∀ kg ∈ tChunk.others, kg.2.conflicts tChunk.me.chunk.writes = false) := by decide +kernel

theorem witness_Atomics :
    let acc (n : Nat) : Acc := { rd := true, wr := true, n := n, align := n, raw := true, spaces := [0, 1, 2, 4] }
    tMem.Plain [1, 2, 3] ∧ tMem.me.err = none ∧ (∀ i ∈ ([.aadd 0 0 1 2 3 .d, .aagg 0 7 1 2 3 .w, .aswap 0 6 1 2 3 .d, .acas 0 7 1 2 3 .w,
      .amin 0 0 1 2 3 .ws, .amax 0 0 1 2 3 .du, .abit 0 0 1 2 3 .xor] : List Instr), tMem.Ready i) ∧
    tMem.Alone 0x40 8 ∧ tMem.Alone 0x40 4 ∧ tMem.Reaches (tMem.srcReg 2) (acc 8) 0x40 ∧ tMem.Reaches (tMem.srcReg 2) (acc 4) 0x40 := by
  decide +kernel

/-- A pair whose next sequence number is 2. -/
def tPair : State := { tMem with mem := { tMem.mem with bytes := [(0x48, 2)] } }

theorem witness_OrderedFloatAdd :
    let acc : Acc := { rd := true, wr := true, n := 16, align := 16, raw := true, cap := false, spaces := [0] }
    tPair.Plain [1, 2, 3] ∧ tPair.Ready (.afadd 0 0 1 2 3 .bf16) ∧ tPair.me.err = none ∧ tPair.me.mark = .none ∧ tPair.Alone 0x40 16 ∧
    (∀ kg ∈ tPair.others, kg.2.heldAdd = none) ∧ tPair.Reaches (tPair.srcReg 2) acc 0x40 ∧ tPair.peek 0x48 8 = 2 ∧
    (tRegs [(1, 2)] tPair).srcReg 1 = BitVec.ofNat 64 (tPair.peek 0x48 8) ∧ ((tRegs [(1, 1)] tPair).srcReg 1).toNat < tPair.peek 0x48 8 ∧
    tPair.peek 0x48 8 < ((tRegs [(1, 3)] tPair).srcReg 1).toNat := by decide +kernel

/-- s4 names entry 0x801, s5 entry 0x7FF, s6 entry 0xFFF. -/
def tEntry : State := tRegs [(4, BitVec.ofNat 64 (0x801 * 2 ^ 52)), (5, BitVec.ofNat 64 (0x7FF * 2 ^ 52)), (6, BitVec.ofNat 64 (0xFFF * 2 ^ 52))] tMem

theorem witness_HandlesAndStatistics :
    let acc (rd wr : Bool) : Acc := { rd := rd, wr := wr, n := 32, align := 32, raw := true }
    let t := tEntry.modCtx fun c => { c with tin := true }
    tEntry.Plain [4, 5, 6, 2] ∧ (∀ i ∈ ([.htld 0 4 2, .htwr 0 4 2, .htwr 0 5 2, .htwr 0 6 2, .tsflush 0] : List Instr), tEntry.Ready i) ∧
    tEntry.Room 0x40 32 ∧ tEntry.Reaches (tEntry.srcReg 2) (acc false true) 0x40 ∧ (tEntry.handle 1 0x801).length = 4 ∧
    handleOf (tEntry.srcReg 4) = 0x801 ∧ tEntry.Alone (tEntry.entryAddr 1 0x801) 32 ∧ tEntry.Reaches (tEntry.srcReg 2) (acc true false) 0x40 ∧
    tEntry.ownedAny (segLines [(tEntry.entryAddr 1 0x801, 32)]) = false ∧ tEntry.entryAddr 1 0x801 + 32 ≤ tEntry.hbmsz ∧
    handleOf (tEntry.srcReg 5) < 0x800 ∧ tEntry.me.ctx.tin = false ∧ t.Ready (.htwr 0 5 2) ∧ t.me.ctx.tin = true ∧
    t.Alone (t.entryAddr 1 0x7FF) 32 ∧ t.ownedAny (segLines [(t.entryAddr 1 0x7FF, 32)]) = false ∧ t.entryAddr 1 0x7FF + 32 ≤ t.hbmsz ∧
    handleOf (tEntry.srcReg 6) = 0xFFF ∧ tEntry.me.chunk = {} ∧ tEntry.statTrap tEntry.who (tEntry.core 0).stats = none ∧
    tEntry.ownedNot none (tEntry.statLines tEntry.who (tEntry.core 0).stats) = false ∧
    tEntry.reservedAny (tEntry.statLines tEntry.who (tEntry.core 0).stats) = false ∧
    tMem.statPlace tMem.who ⟨1, 1, tPtr 0x40, 0, 1, 0, 0⟩ 0x10 = .ok [(0x50, 8)] ∧ tMem.hitRecs [(0x50, 8)] = [] := by decide +kernel

/-! ## Witnesses: the step, waiting and tasks -/

theorem witness_RoundTrip : Instr.isEvent (.vhad 1 2 0 3 0 .bf16 .p32) = false ∧ Instr.wf (.vhad 1 2 0 3 0 .bf16 .p32) = true := by decide

/-- `WAIT` on one condition: that a job is done. Job 5 is, job 1 is not; s22 holds the limit. -/
def tWait (job limit : Word) : State := tRegs [(20, 4), (21, job), (22, limit)] tBase

/-- What `WAIT` needs before it reads its conditions. -/
def tWaits (s : State) : Bool :=
  decide (s.Ready (.wait false false 0 20 22)) && decide (s.Plain [22, 20, 21]) && kindGood (s.srcReg 20) && kindReserved (s.srcReg 20) &&
    s.cur.kind == .main && !s.me.ctx.inHandler && s.me.chunk.count == 0 && s.me.mark == .none

theorem witness_Waiting :
    tWaits (tWait 5 9) = true ∧ tWaits (tWait 1 0) = true ∧ tWaits (tWait 1 9) = true ∧ tWaits (tWait 1 (BitVec.allOnes 64)) = true ∧
    condsM (descriptors [4, 5]) (tWait 5 9).alone = .ok ([true], (tWait 5 9).alone) ∧
    condsM (descriptors [4, 1]) (tWait 1 0).alone = .ok ([false], (tWait 1 0).alone) ∧
    condsM (descriptors [4, 1]) (tWait 1 9).alone = .ok ([false], (tWait 1 9).alone) ∧ modeMet false [true] = true ∧
    modeMet false [false] = false ∧ (tWait 1 0).srcReg 22 = 0 ∧ (tWait 1 9).srcReg 22 ≠ 0 := by decide +kernel

theorem witness_Waiting_illegal :
    let s := tRegs [(20, 8)] tBase
    let r := tRegs [(20, 2 ^ 63 + 4)] tBase
    let h := tRegs [(20, 4), (22, 1)] tUser
    (∀ x ∈ [s, r, h], x.Ready (.wait false false 0 20 22) ∧ x.me.chunk.count = 0 ∧ x.Plain [22, 20, 21]) ∧ s.Ready (.wait false false 0 31 22) ∧
    s.Ready (.wait false false 0 20 21) ∧ 32 < 31 + 2 ∧
    (descriptors [s.srcReg 20, s.srcReg 21]).find? (fun c => !kindGood c.1) = some (8, 0) ∧
    (descriptors [r.srcReg 20, r.srcReg 21]).find? (fun c => !kindGood c.1) = none ∧
    (descriptors [r.srcReg 20, r.srcReg 21]).find? (fun c => !kindReserved c.1) = some (2 ^ 63 + 4, 0) ∧
    (descriptors [h.srcReg 20, h.srcReg 21]).find? (fun c => !kindGood c.1) = none ∧
    (descriptors [h.srcReg 20, h.srcReg 21]).find? (fun c => !kindReserved c.1) = none ∧ h.me.ctx.inHandler = true ∧ h.srcReg 22 ≠ 0 ∧
    ({ tWait 1 9 with me := { (tWait 1 9).me with mark := .value 1 } } : State).me.mark = .value 1 := by decide +kernel

/-- A strand that comes back to its barrier or vote once that has completed. -/
def tDone : State := { tBase with me := { tBase.me with mark := .done } }

/-- A gang of two strands. -/
def tTwo : State := { tBase with others := [(4, { act := .running, asid := 1, job := 1, gang := 512 })] }

theorem witness_Arrivals :
    (∀ s ∈ [tBase, tDone, tTwo], s.me.chunk.count = 0 ∧ s.me.task = none ∧ s.me.ctx.inHandler = false ∧ s.Ready (.bar 0) ∧ s.Ready (.vote 0)) ∧
    tDone.me.mark = .done ∧ tBase.me.mark = .none ∧ tTwo.me.mark = .none ∧ (tBase.alone.arrive .bar).barReady tBase.myJob 0 = true ∧
    (tTwo.alone.arrive .bar).barReady tTwo.myJob 0 = false ∧ (tBase.alone.arrive .vote).voteReady tBase.myJob = true ∧
    (tTwo.alone.arrive .vote).voteReady tTwo.myJob = false ∧ tUser.Ready (.bar 0) ∧ tUser.Ready (.vote 0) ∧ tUser.me.ctx.inHandler = true ∧ (tBase.arrive .bar).barReady (jobKey 1 1) 0 = true ∧
    (tBase.arrive .vote).voteReady (jobKey 1 1) = true ∧ (tBase.arrive .vote).openHelpers (jobKey 1 1) = [] := by decide +kernel

/-- A strand in a phase of a run. -/
def tPhase (ph : BitVec 2) : State := { tBase with jobs := [(2 ^ 32 + 1, { asid := 1, id := 1, stage := .running, gangs := [0], ngang := 1, nstr := 1, span := { ph := ph } })] }

theorem witness_CycleUnit :
    (∀ i ∈ ([.cycbeg 0 true, .wgfence 0, .cycend 0, .cycstat 0 9, .restst 0 9 0 true] : List Instr), (tPhase 0).Ready i ∧ (tPhase 1).Ready i) ∧
    (tPhase 0).me.task = none ∧ (tPhase 0).me.ctx.uiin = false ∧ (tPhase 0).mySpan.ph = 0 ∧ (tPhase 1).mySpan.ph = 1 ∧ tBase.Plain [9, 0] := by
  decide +kernel

/-- The residual and limit cases of the tally: at the tolerance, above it at the limit, above it below the limit. -/
theorem witness_CycleUnit_tally :
    fRel .fp32 .le (foldPartials [0x3F800000]).toNat 0x3F800000 = true ∧ fRel .fp32 .le (foldPartials [0x40000000]).toNat 0x3F800000 = false ∧
    (1 : BitVec 16) ≠ 0 ∧ (1 : BitVec 16).toNat ≤ ((0 : BitVec 16) + 1).toNat ∧ ((0 : BitVec 16) + 1).toNat < (2 : BitVec 16).toNat := by
  decide +kernel

/-- A task whose record is at 0x40. -/
def tTask : State := { tMem with me := { tMem.me with task := some (tPtr 0x40), gang := 0xFFF } }

theorem witness_Tasks :
    let acc : Acc := { rd := false, wr := true, n := 64, align := 64, raw := true, spaces := [0] }
    let v := (tTask.alone.modCore 0 fun k => { k with stats := [] }).modCtx fun c =>
      { c with binds := Vector.replicate 4 none, loops := [], loopReq := [], staged := {} }
    tBase.Ready (.retire 0) ∧ tTask.Ready (.retire 0) ∧ (∀ s ∈ [tBase, tTask], s.me.ctx.inHandler = false ∧ s.me.chunk = {} ∧
      s.me.ctx.lates = [] ∧ (s.core 0).stats = []) ∧ tBase.me.task = none ∧ tTask.me.task = some (tPtr 0x40) ∧ tTask.me.ctx.preset = none ∧
    tRun (recState tTask.who (tPtr 0x40) 3) v (fun _ u => u.cur == tTask.cur && u.me.ctx.preset.isNone) = true ∧ tUser.Ready (.retire 0) ∧ tUser.Ready (.spawn 0 2) ∧
    tUser.me.ctx.inHandler = true ∧ tMem.Ready (.spawn 0 2) ∧ tMem.Plain [2] ∧ tMem.me.ctx.inHandler = false ∧ tMem.Alone 0x40 64 ∧
    tMem.Reaches (tMem.srcReg 2) acc 0x40 ∧
    tRun (recWrite tMem.who (tMem.srcReg 2) 0x38 (leBytes 8 1)) (tMem.alone.squashOthers (segLines [(0x40, 64)])) (fun _ t =>
      tRun (recState tMem.who (tMem.srcReg 2) 0) t fun _ _ => true) = true := by decide +kernel

/-- The task at a yielding `WAIT` on one counter, with a suspend word of 0 in s22. -/
def tYield : State := tRegs [(20, 1), (21, tPtr 0x48), (22, 0)] tTask
/-- Whether a write-back of the task with suspend word `v` and these conditions goes through. -/
def tWrites (s : State) (v : Word) (cs : List Word) : Bool :=
  tRun ((s.writeBack v cs.length cs).forM fun x => recWrite s.who (tPtr 0x40) x.1 x.2) (s.alone.modCore s.cur.core fun k => { k with stats := [] })
    fun _ u => u.cur == s.cur && u.me.ctx.preset.isNone

theorem witness_Tasks_suspend :
    let zero := tRegs [(3, 0)] tTask
    tBase.Ready (.suspend 0 3 8) ∧ tBase.Plain [3] ∧ tBase.maySuspend = false ∧
    (∀ s ∈ [tTask, zero], s.Ready (.suspend 0 3 8) ∧ s.Plain [3] ∧ s.maySuspend = true ∧ s.me.chunk.count = 0) ∧
    suspendGood (tTask.srcReg 3) 8 = false ∧ suspendGood (zero.srcReg 3) 8 = true ∧ wbits (zero.srcReg 3) 36 3 = 0 ∧
    zero.me.task = some (tPtr 0x40) ∧ zero.me.ctx.lates = [] ∧ (zero.core 0).stats = [] ∧ tWrites zero (zero.srcReg 3) [] = true ∧
    tYield.Ready (.wait true false 0 20 22) ∧ tYield.Plain [22, 20, 21] ∧ kindReserved (tYield.srcReg 20) = true ∧
    tYield.rdycnt 1 = false ∧ kindOf (tYield.srcReg 20) = 1 ∧ tYield.maySuspend = true ∧ suspendGood (tYield.srcReg 22) 0 = true ∧
    wbits (tYield.srcReg 22) 36 3 = 0 ∧ tYield.cur.kind = .main ∧ tWrites tYield (tYield.srcReg 22) [tYield.srcReg 21] = true ∧
    tMem.check tMem.who (ptrAdd (tPtr 0x40) 8) { rd := false, wr := true, n := 8, align := 1, cap := false } = .ok (.mem [(0x48, 8)]) ∧
    hWin (tMem.handle 1 1) = 0 ∧ tMem.ownedNot none (segLines [(0x48, 8)]) = false ∧ tMem.reservedAny (segLines [(0x48, 8)]) = false ∧
    tMem.mem.poison = [] := by decide +kernel

/-! ## Witnesses: jobs, pipelines, groups, messages and the system -/

/-- A queue entry of cluster 0: an engine job that waits. -/
def tJob : QJob := ⟨0, 2 ^ 31, false, [], ⟨0, .main⟩, 1, 1, false, [], false, .waiting, 0, [], 0, 0, 0, [], 0, false, 0, 0, none, 0, 0, 0, none, false⟩

/-- Cluster 0 with a queue. -/
def tQueue (q : List QJob) (s : State) : State := s.modCluster 0 fun c => { c with queue := q, pubs := 64 }
/-- Pair 0 with a licence holder and pins. -/
def tLic (h : Option Bool) (pins : List Nat) : State := tBase.modPair 0 fun x => { x with holder := h, pins := pins }

theorem witness_JobWords :
    let acc : Acc := { rd := true, wr := false, n := 128, align := 64 }
    let full := tQueue (List.replicate 64 tJob) tMem
    let one := tQueue [tJob] tMem
    (∀ s ∈ [tMem, full, one], s.Plain [1, 2] ∧ s.Ready (.mxpub 0 1 2) ∧ s.Ready (.cppub 0 1 2) ∧ s.me.chunk = {} ∧ s.rechecking = false ∧
      s.Reaches (s.srcReg 2) acc 0x40 ∧ (s.pair 0).reqL = none ∧ (s.pair 0).reqU = none) ∧ tMem.Ready (.jobq 0 1 2) ∧
    tMem.queueUsed 0 < 64 ∧ one.queueUsed 0 < 64 ∧ 64 ≤ full.queueUsed 0 ∧
    (∀ s ∈ [tMem, one], ∀ y ∈ (s.cluster 0).queue, y.key ≠ (s.cluster 0).pubs * 512) ∧
    one.liveQ 1 (2 ^ 31) = some tJob ∧ one.liveQ 1 5 = none ∧ 5 < 2 ^ 31 := by decide +kernel

theorem witness_JobWords_licence :
    let mine := 2 ^ 32 + 1
    let asked := tBase.modPair 0 fun x => { x with reqL := some ⟨1, 0, false, []⟩, reqU := some ⟨1, 0, false, []⟩ }
    (∀ s ∈ [tBase, tLic (some false) [], tLic (some true) []], s.Ready (.licacq 0 1 true) ∧ s.Plain [1] ∧ s.me.task = none ∧ s.me.chunk.count = 0 ∧
      s.licReq 0 = none) ∧ (tBase.pair 0).moving = none ∧ (tBase.pair 0).holder = none ∧ ((tLic (some false) []).pair 0).moving = none ∧
    ((tLic (some false) []).pair 0).holder = some (onDieU 0) ∧
    ((tLic (some true) []).pair 0).holder = some (!onDieU 0) ∧ tTask.Ready (.licacq 0 1 true) ∧ tTask.me.task ≠ none ∧
    asked.Ready (.licacq 0 1 true) ∧ asked.me.chunk.count = 0 ∧ asked.licReq 0 ≠ none ∧
    (∀ s ∈ [tBase, tLic (some false) [5, mine], tLic (some false) [mine], tLic (some false) [5]], s.Ready (.licrel 0) ∧ s.me.task = none ∧
      s.me.chunk.count = 0) ∧ tBase.holdsLic 0 = false ∧
    (∀ s ∈ [tLic (some false) [5, mine], tLic (some false) [mine]], s.holdsLic 0 = true ∧ s.myJob ∈ (s.pair 0).pins) ∧
    (tLic (some false) [5]).holdsLic 0 = true ∧ (tLic (some false) [5]).myJob ∉ ((tLic (some false) [5]).pair 0).pins ∧
    setDel mine [5, mine] ≠ [] ∧ setDel mine [mine] = [] ∧
    ((tLic (some false) [mine]).cluster 0).eng = none ∧ ((tLic (some false) [mine]).pair 0).reqL = none ∧
    ((tLic (some false) [mine]).pair 0).reqU = none ∧ (tLic (some false) [mine]).engineWork 0 = false ∧
    (tLic (some false) [mine]).engineWork 256 = false := by decide +kernel

/-- A descriptor of two stages in memory, its pool at 0x800, and the pipeline table that names it. -/
def tPipeMem : List Host.Cell :=
  [(0x400, 2), (0x409, 8), (0x40E, 0x10), (0x441, 1), (0x442, 1), (0x451, 1), (0x452, 1), (0x2001, 4), (0x2006, 0x10)]
/-- The descriptor as its instructions read it. -/
def tPipeDesc : List Word := [2, tPtr 0x800, 0, 0, 0, 0, 0, 0, 0x10100, 0, 0x10100, 0]
/-- A record of slot `n` at a place. -/
def tRec (n : Nat) (at_ : PAt) : PRec := ⟨n, n, 0, 0, false, at_, n, [], 0⟩
/-- Pipeline 0 of address space 1 at work with these records; core 0 serves stage 0. -/
def tPipe (recs : List PRec) : Pipe := { desc := tPipeDesc, job := 2 ^ 32 + 1, seq := 16, arr := 16, recs := recs, assign := [(0, 0)] }
/-- The package with that pipeline. -/
def tPiped (recs : List PRec) : State := { tRegs [(2, tPtr 0x40), (3, tPtr 0x800)] tBase with
  host := { bootst := 1, pdesc := [(1, [1, 0, 0, 0, 0, 0x2000, 0, 0, 1, 0, 0, 0])] }
  mem := { tBase.mem with bytes := tPipeMem }
  pipes := [(16, tPipe recs)] }

/-- The records of each case: none, a full pool, a full first queue, one that is next, and one that core 0 has taken beside a full second queue. -/
def tFull (n i : Nat) : List PRec := (List.range n).map fun k => tRec k (.queue i)
/-- What the words of a pipeline find once its descriptor has been read. -/
def tPipeRead (s : State) : State := match pipeM 0 s.alone with
  | .ok x => x.2
  | .error _ => s

/-- What every word of a pipeline needs. -/
def tPipeReady (recs : List PRec) : Bool :=
  let s := tPiped recs
  let u := tPipeRead s
  decide (s.me.chunk = {}) && decide (pipeM 0 s.alone = .ok (16, u)) && decide (tabGet 16 u.pipes = some (tPipe recs)) && decide (u.me = s.me) &&
    decide (u.unit = s.alone.unit) && decide (u.cur = s.cur) && decide (s.Plain [1, 2]) && decide (s.Plain [4, 5, 3])

theorem witness_PipelineWords_read : tPipeReady [] = true ∧ tPipeReady (tFull 16 1) = true ∧ tPipeReady (tFull 4 0) = true ∧
    tPipeReady (tRec 0 (.core 0) :: (tFull 5 1).drop 1) = true ∧ tPipeReady [tRec 0 (.core 0)] = true ∧
    tPipeReady [tRec 0 (.queue 0)] = true := by decide +kernel

theorem witness_PipelineWords_penq :
    let acc : Acc := { rd := true, wr := false, n := 64, align := 64 }
    let slot : Acc := { rd := false, wr := true, n := 64, align := 64, raw := true, gen := false, cap := false, spaces := [0] }
    let u := tPipeRead (tPiped [])
    pRecord tPipeDesc = 64 ∧ (tPiped []).Ready (.penq 0 1 2 0) ∧ (tPiped (tFull 16 1)).Ready (.penq 0 1 2 0) ∧ (tPiped (tFull 4 0)).Ready (.penq 0 1 2 0) ∧
    u.who.det = false ∧ u.Reaches (tPtr 0x40) acc 0x40 ∧ (tPipe (tFull 16 1)).freeSlot = none ∧ (tPipe (tFull 4 0)).freeSlot = some 4 ∧
    (tPipe (tFull 4 0)).admits 0 = false ∧ (tPipe []).freeSlot = some 0 ∧ (tPipe []).admits 0 = true ∧ u.Alone 0x800 64 ∧
    u.Reaches ((tPipe []).slotPtr 0) slot 0x800 := by decide +kernel

theorem witness_PipelineWords_pdone_effects :
    let taken (b : List Host.Cell) : State := tPoke b ((tPiped [tRec 0 (.core 0)]).modCore 0 fun k => { k with deq := some ⟨0, tPtr 0x800⟩ })
    let bad := tPipeRead (taken [(0x80A, 1), (0x80B, 2)])
    (taken [(0x80A, 1), (0x80B, 2)]).Ready (.pdone 0 3 0 false) ∧ (bad.core 0).deq = some ⟨0, tPtr 0x800⟩ ∧
    effectKinds (wordAt (leWords 8 (bad.viewBytes [(0x800, 64)])) 1) = [2] ∧
    tRun (finishStage 16 0 (tRec 0 (.core 0)) false) (tPipeRead (taken [])) (fun _ _ => true) = true := by decide +kernel

/-- The read of the descriptor that `PSTAT` makes names no pipeline. -/
def tPipeStat : Bool := match pipeDescM 0 (tPiped []) with
  | .ok (ws, v) => decide (ws = tPipeDesc) && decide (v.me.ctx = (tPiped []).me.ctx) && decide (v.pipes = (tPiped []).pipes)
  | .error _ => false

theorem witness_PipelineWords_pdone :
    let acc : Acc := { rd := true, wr := false, n := 64, align := 64, raw := true }
    let taken (recs : List PRec) : State := (tPiped recs).modCore 0 fun k => { k with deq := some ⟨0, tPtr 0x800⟩ }
    let u := tPipeRead (taken [tRec 0 (.core 0)])
    (tPiped [tRec 0 (.queue 0)]).Ready (.pdeq 0 4 0) ∧ tabGet 0 (tPipe []).assign = some 0 ∧ (tPipe []).nextRec false 0 = none ∧
    (tPipe [tRec 0 (.queue 0)]).nextRec false 0 = some (tRec 0 (.queue 0)) ∧ (taken [tRec 0 (.core 0)]).Ready (.pdone 0 3 0 false) ∧
    (u.core 0).deq = some ⟨0, (taken []).srcReg 3⟩ ∧ u.Reaches (tPtr 0x800) acc 0x800 ∧
    effectKinds (wordAt (leWords 8 (u.viewBytes [(0x800, 64)])) 1) = [] ∧ (tPipe [tRec 0 (.core 0)]).needs (tRec 0 (.core 0)) false = some 1 ∧
    (tPipe [tRec 0 (.core 0)]).admits 1 = true ∧ (tPipe (tRec 0 (.core 0) :: (tFull 5 1).drop 1)).admits 1 = false ∧
    (tPiped []).Ready (.pstat 0 4 0 1) ∧ (tPiped []).Ready (.pstat 0 4 0 2) ∧ 1 < pStages tPipeDesc ∧ pStages tPipeDesc ≤ 2 ∧
    tPipeStat = true := by
  decide +kernel

/-- A core of a device, as a node address. -/
def tNode (core dev : Nat) : Word := BitVec.ofNat 64 (core + dev * 2 ^ 12 + 2 ^ 31)
/-- A group with one child whose round 0 waits. -/
def tParent : GSlot := { desc := [2 ^ 10 + 2 ^ 11 + 2 ^ 12 + 2 ^ 25, 0, 0, 0, tNode 1 0], job := 2 ^ 32 + 1, timers := [(0, 0)] }
/-- A group of one root node that contributes itself. -/
def tSlot : GSlot := { desc := [2 ^ 10 + 2 ^ 11 + 2 ^ 25], job := 2 ^ 32 + 1 }
/-- Group register 1 of core 0 in use. -/
def tGroup (g : GSlot) : State := { tRegs [(2, tPtr 0x80)] tBase with groups := [(1, g)] }

theorem witness_GroupWords :
    let img (rd : Bool) : Acc := { rd := rd, wr := !rd, n := 8320, align := 128, raw := true, spaces := [0, 1] }
    let s := tGroup tSlot
    let p := tGroup tParent
    s.Plain [1, 2] ∧ (∀ i ∈ ([.gsend 0 2 1, .grecv 0 1 2 1, .gstat 0 1 1, .gcfg 0 2 1] : List Instr), s.Ready i ∧ p.Ready i) ∧
    s.mySlot 1 = some tSlot ∧ p.mySlot 1 = some tParent ∧ tParent.operand 0 0 0 = none ∧ 0 ∈ gChildren tParent.desc ∧
    (s.srcReg 2).toNat % 128 = 0 ∧ s.me.chunk = {} ∧ s.Reaches (s.srcReg 2) (img true) 0x80 ∧ s.Reaches (s.srcReg 2) (img false) 0x80 ∧
    s.Alone 0x80 8320 ∧ p.Reaches (p.srcReg 2) (img true) 0x80 ∧ s.plant.soff ≤ 3 ∧ s.me.task = none ∧ s.unit.own = false ∧
    tBase.mySlot 1 = none ∧ tBase.Ready (.gsend 0 2 1) ∧ tBase.Ready (.grecv 0 1 2 1) := by decide +kernel

theorem witness_GroupWords_slots : ∀ g ∈ [tSlot, tParent], gSelf g.desc = true ∧ gKind g.desc ≤ 1 ∧ gChunks g.desc = 1 ∧ g.rnd = 0 ∧
    g.sending = false ∧ g.dead = false ∧ g.present = [] ∧ g.flushed = [] ∧ imageBytes g.desc = 8320 := by decide +kernel

theorem witness_GroupWords_gcfg :
    let acc : Acc := { rd := true, wr := false, n := 128, align := 128, raw := true }
    let s := tGroup tSlot
    let odd := tRegs [(2, tPtr 0x81)] s
    let good : State := { s with mem := { s.mem with bytes := [(0x81, 0x0C), (0x83, 2)] } }
    let r := tGroup { tSlot with present := [0], results := [⟨0, 0, 0, 0, false, 0, []⟩] }
    s.Reaches (s.srcReg 2) acc 0x80 ∧ good.Reaches (good.srcReg 2) acc 0x80 ∧ good.Ready (.gcfg 0 2 1) ∧ odd.Ready (.gcfg 0 2 1) ∧
    odd.check odd.who (odd.srcReg 2) acc = .error .align ∧ tTask.Ready (.gcfg 0 2 1) ∧ tTask.me.task ≠ none ∧
    groupGood (leWords 16 (s.viewBytes [(0x80, 128)])) false = false ∧ groupGood (leWords 16 (good.viewBytes [(0x80, 128)])) false = true ∧
    r.Ready (.grecv 0 1 2 1) ∧ r.mySlot 1 = some { tSlot with present := [0], results := [⟨0, 0, 0, 0, false, 0, []⟩] } := by decide +kernel

theorem witness_GroupWords_images :
    ({ tSlot with present := [0], results := [⟨0, 0, 0, 0, false, 0, []⟩] } : GSlot).images 0 = resultImage ⟨0, 0, 0, 0, false, 0, []⟩ ∧
    (resultImage ⟨0, 0, 0, 0, false, 0, []⟩).length = imageBytes tSlot.desc := by
  have h : gChunks tSlot.desc = 1 := by decide +kernel
  have n : imageBytes tSlot.desc = 8320 := by decide +kernel
  have b : ((List.range 64).flatMap fun _ => List.replicate 128 (0 : Byte)).length = 8192 := by
    rw [List.length_flatMap]
    simp only [List.length_replicate, List.map_const', List.length_range, List.sum_replicate, smul_eq_mul]
  have w : (wordBytes 8 (0 : Word)).length = 8 := rfl
  have l : (leBytes 8 (0 % 2 ^ 32 + 2 ^ 32 * bitNat false + 2 ^ 40 * 0)).length = 8 := rfl
  refine ⟨by simp [GSlot.images, h], ?_⟩
  simp only [n, resultImage, List.length_append, List.length_replicate, tabGet, Option.getD_none, b, w, l]

/-- A channel 2 of address space 1 with device 0 as its one member; s4 names core 1 of this device, s5 holds a payload. -/
def tChan : State := { tRegs [(4, 2 ^ 31 + 1), (5, 7)] tBase with host := { tBase.host with chans := [(18, ⟨[0], []⟩)] } }
/-- A packet of that channel. -/
def tPacket : OPacket := ⟨1, 2, 0, 5, 0, 1, 9, none⟩

theorem witness_Messages :
    let inb := tChan.modCore 0 fun k => { k with inbox := [(7, 8)] }
    let got : State := { tChan with ord := { tChan.ord with queues := [(18, [tPacket])] } }
    let halted : State := { tChan with ord := { tChan.ord with halted := [(1, 5)] } }
    let other : State := { tBase with host := { tBase.host with chans := [(18, ⟨[7], []⟩)] } }
    let handler := tChan.modCtx fun c => { c with uiin := true }
    tChan.Plain [8, 9, 4, 5] ∧ tChan.Plain [10, 11] ∧ tChan.me.chunk.count = 0 ∧ (∀ s ∈ [tChan, got, halted, other, handler, inb], ∀ i ∈ ([.msend 0 4 5, .mrecv 0 8, .osend 0 5 2, .orecv 0 8 false 2,
      .orecv 0 8 true 2] : List Instr), s.Ready i) ∧
    nodeGood (tChan.srcReg 4) = true ∧ nodeGood (tChan.srcReg 5) = false ∧ tChan.inFlight.length < 8 ∧ (tChan.core 0).inbox = [] ∧
    (inb.core 0).inbox = [(7, 8)] ∧ (∀ s ∈ [tChan, got, halted], s.channel 1 2 = some ⟨[0], []⟩ ∧ s.me.ctx.inHandler = false) ∧
    (Channel.mk [0] []).members.contains tChan.dev.devId = true ∧ tChan.me.err = none ∧ tabGet 1 tChan.ord.halted = none ∧
    tabGet 18 tChan.ord.queues = none ∧ tabGet 1 got.ord.halted = none ∧ tabGet 18 got.ord.queues = some [tPacket] ∧
    tabGet 1 halted.ord.halted = some 5 ∧ tBase.channel 1 2 = none ∧ other.channel 1 2 = some ⟨[7], []⟩ ∧
    (Channel.mk [7] []).members.contains other.dev.devId = false ∧ other.me.ctx.inHandler = false ∧ handler.me.ctx.inHandler = true := by
  decide +kernel

/-- Handle 2 tracks a writer capability, in a given state; s3 points through it, s4 names the loader of core 0. -/
def tCap (c : CapState) : State := { tRegs [(3, BitVec.ofNat 64 (2 * 2 ^ 52)), (4, 4)] tBase with
  mem := { tBase.mem with hcopies := [⟨1, 2, [0, 0x1000, 0x280, 0]⟩] }
  caps := [(4098, c)] }

theorem witness_TwinsAndCapabilities :
    let job := 2 ^ 32 + 1
    let a : AgentId := ⟨0, .main⟩
    (∀ c ∈ [CapState.free, .held a job, .offered a job, .held ⟨9, .main⟩ job], (tCap c).capState 1 2 = some c ∧ (tCap c).me.chunk.count = 0 ∧
      (tCap c).me.task = none ∧ (tCap c).Plain [1, 3, 4] ∧ ∀ i ∈ ([.twx 0 1 3 2, .twxRd 0 1 2, .twxWr 0 3 2, .captake 0 1 3, .capgive 0 3 4,
      .capq 0 1 3] : List Instr), (tCap c).Ready i) ∧ (tCap .free).cur = a ∧ (tCap .free).myJob = job ∧ CapState.held ⟨9, .main⟩ job ≠ .free ∧
    CapState.held ⟨9, .main⟩ job ≠ .held a job ∧ tMem.capState 1 1 = none ∧ (tCap (.held a job)).writingVia 2 = false ∧
    AgentKind.ofCode (wbits 4 2 2) = some .loader ∧ (tCap (.held a job)).inMySpan (wbits 4 4 12) = true ∧ (3 : BitVec 2) ≠ 2 ∧
    ({ tBase with twins := [(tBase.twinKey 2, ⟨5, 9⟩)] } : State).twins = [(tBase.twinKey 2, ⟨5, 9⟩)] ∧ (9 : Nat) ≠ tBase.me.asid := by
  decide +kernel

theorem witness_StateRegisters :
    (∀ i ∈ ([.getsr 0 1 0x008, .getsr 0 1 0x000, .getsr 0 1 0x3FF, .setsr 0 2 0x010, .setsr 0 2 0x015, .setsr 0 2 0x013, .setsr 0 2 0x060,
      .setsr 0 2 0x01A, .setsr 0 2 0x021, .setsr 0 2 0x023, .setsr 0 2 0x050, .setsr 0 2 0x053, .setsr 0 2 0x000] : List Instr),
      tBase.Ready i ∧ tSys.Ready i) ∧ tBase.Plain [1, 2] ∧ tSys.Plain [1, 2] ∧ tBase.cur.kind = .main ∧ tSys.cur.kind = .main ∧
    srExists 0x008 = true ∧ srExists 0x000 = true ∧ srExists 0x3FF = false ∧ tSys.me.ctx.tin = true ∧ tSys.me.chunk.count = 0 ∧
    tBase.me.ctx.tin = false ∧ wbits (tSys.srcReg 2) 0 3 ≠ 7 ∧ srWritable 0x000 = false := by decide +kernel

theorem witness_StateRegisters_more :
    let one := tRegs [(2, 1)] tBase
    let task : State := { tBase with me := { tBase.me with task := some 0x1000 } }
    (∀ i ∈ ([.getsr 0 1 0x050, .getsr 0 1 0x053, .setsr 0 2 0x024, .setsr 0 2 0x027, .setsr 0 2 0x054] : List Instr),
      tBase.Ready i ∧ one.Ready i ∧ task.Ready i) ∧ one.Plain [1, 2] ∧ task.Plain [1, 2] ∧ one.cur.kind = .main ∧ task.cur.kind = .main ∧
    wbits (tBase.srcReg 2) 0 2 = 0 ∧ wbits (one.srcReg 2) 0 2 ≠ 0 ∧ one.mySpan.ph = 0 ∧ tBase.me.task = none ∧ task.me.task ≠ none ∧
    tBase.me.ctx.countsTime 0 = false := by decide +kernel

/-! ## Witnesses: events of agents, pipelines, groups and the ordered class -/

/-- The strand of core 0 with another chunk, act or context. -/
def tAct (k : Act) (s : State) : State := { s with me := { s.me with act := k } }
/-- A time later. -/
def tLater (n : Nat) (s : State) : State := { s with now := n }

/-- A chunk of one store that waits for its grant. -/
def tEnded : State := { tBase with me := { tBase.me with chunk := { count := 1, ended := true, held := [(0x40, 5)], writes := [1] } } }

theorem witness_AgentEvents :
    let a : AgentId := ⟨0, .main⟩
    let late := (tBase.modCtx fun c => { c with lates := [⟨.scalar 1 7, 0⟩] }).agent a
    let ui (x : BitVec 4) := (tBase.modCtx fun c => { c with uip := x, uien := x }).agent a
    let gated := (tBase.modCtx fun c => { c with dirty := 2 ^ 5 }).modCore 0 fun k => { k with gated := true }
    late.ctx.lates = [⟨.scalar 1 7, 0⟩] ∧ late.ctx.bindOf 1 = none ∧ (1 : Reg) ≠ 0 ∧
    (tEnded.agent a).chunk.ended = true ∧ (tEnded.agent a).chunk.count ≠ 0 ∧ (tEnded.agent a).chunk.stats = [] ∧
    (tEnded.focus a).reserved (tEnded.agent a).chunk.writes = false ∧ (tEnded.focus a).hitRecs ((tEnded.agent a).chunk.held.map fun x => (x.1, 1)) = [] ∧ tabSorted (tEnded.agent a).chunk.held = true ∧
    (∀ x ∈ ([1, 2] : List (BitVec 4)), (ui x).act = .running ∧ (ui x).mark = .none ∧ (ui x).got = [] ∧ (ui x).ctx.uiPending = true ∧ (ui x).ctx.inHandler = false ∧
      (ui x).chunk.count = 0) ∧ (ui 1).ctx.uip[0] = true ∧ (ui 2).ctx.uip[0] = false ∧ (ui 2).ctx.uip[1] = true ∧
    (gated.core 0).gated = true ∧ hasDirtyBit 5 = true ∧
    (gated.job (jobKey (gated.agent a).asid (gated.agent a).job)).volatile 5 = false ∧ (gated.agent a).parity = none ∧
    tBase.coreExists 8 = true ∧ tBase.coreEmpty 8 = true ∧ ((tLater 20000 tBase).core 8).idle + 20000 ≤ (tLater 20000 tBase).now ∧
    ((tBase.modCtx fun c => { c with preset := some 1 }).agent a).ctx.preset = some 1 ∧ (tBase.agent a).chunk.count = 0 ∧
    ((tBase.modCtx fun c => { c with preset := some 1 }).focus a).reserved (tableLines 0) = false := by decide +kernel

/-- The strand asleep in a `WAIT` for the end of a job. -/
def tWaiting (job : Word) (d : Option Nat) : State := tAct (.asleep (.wait [(4, job)] false d 4) 0) tBase
/-- Whether that `WAIT`, looked at at time `n`, finds its mode met or not. -/
def tLooks (job : Word) (d : Option Nat) (n : Nat) (met : Bool) : Bool :=
  let s := tLater n (tWaiting job d)
  (s.agent ⟨0, .main⟩).act == .asleep (.wait [(4, job)] false d 4) 0 && (match s.lookAt ⟨0, .main⟩ [(4, job)] with
    | .ok bs => bs == [met] && modeMet false bs == met
    | .error _ => false)
/-- An outside load that a strand awaits. -/
def tLoad : ExtOp := ⟨3, some ⟨0, .main⟩, 1, 2 ^ 32 + 1, none, false, 2, 0, 0, .read 8, tPtr 0x40, false, true, [], 0⟩
/-- The strand asleep in that load. -/
def tLoading : State := { tAct (.asleep (.ext 3) 0) tBase with fab := { exts := [tLoad] }, now := 1000000 }

theorem witness_WaitEvents :
    let a : AgentId := ⟨0, .main⟩
    let hold := tLater 1000000 (tAct (.asleep (.hold 0x40 .fp32 1 5 (tPtr 0x40) 0) 0) tBase)
    tLooks 5 none 0 true = true ∧ tLooks 1 none 0 false = true ∧ tLooks 5 (some 0) 0 true = true ∧ tLooks 1 (some 0) 0 false = true ∧
    tLooks 5 (some 0) 100 true = true ∧ tLooks 1 (some 1) 0 false = true ∧ (tLater 0 (tWaiting 5 (some 0))).tick = 0 ∧
    0 < (tLater 100 (tWaiting 5 (some 0))).tick ∧ (tLater 0 (tWaiting 1 (some 1))).tick < 1 ∧
    agentOfKey 0 = a ∧ (hold.agent a).act = .asleep (.hold 0x40 .fp32 1 5 (tPtr 0x40) 0) 0 ∧ 0 + 1000000 ≤ hold.now ∧
    ((tAct (.asleep (.penq 0) 0) (tPiped [])).agent a).act = .asleep (.penq 0) 0 ∧ (tAct (.asleep (.penq 0) 0) (tPiped [])).queueOpen a 1 (.penq 0) = true ∧
    (tLoading.agent a).act = .asleep (.ext 3) 0 ∧ tLoading.extOp 3 = some tLoad ∧ tLoad.host = false ∧ tLoad.since + 1000000 ≤ tLoading.now := by
  decide +kernel

theorem witness_WaitEvents_hung :
    let s : State := { tWaiting 1 none with now := 10000, hung := [2 ^ 32 + 1] }
    let u : State := { s with sumAt := s.now, hung := [s.myJob] }
    (tLater 10000 tBase).sumAt + 10000 ≤ (tLater 10000 tBase).now ∧ (tLater 10000 tBase).hung = [] ∧ tBase.now < tBase.sumAt + 10000 ∧
    s.sumAt + 10000 ≤ s.now ∧ s.jobs = [(s.myJob, s.job s.myJob)] ∧ s.quiet s.myJob (s.job s.myJob) = true ∧ s.myJob ∈ s.hung ∧ s.me.act ≠ .idle ∧
    u.listed s.cur s.me = some 4 := by decide +kernel

/-- Stages of a commuting set, and stages that may have two cores. -/
def tDescOf (stage : Word) : List Word := [2, tPtr 0x800, 0, 0, 0, 0, 0, 0, stage, 0, stage, 0]
/-- A pipeline with such a descriptor. -/
def tPipedOf (stage : Word) (recs : List PRec) : State :=
  { tPiped [] with pipes := [(16, { tPipe recs with desc := tDescOf stage, assign := [(0, 0), (1, 0)] })], now := 10000 }
/-- A record on its way out of the pipeline. -/
def tOut (left : List Nat) : PRec := { tRec 0 (.settling none) with left := left }

theorem witness_PipelineEvents :
    let x (s : State) := s.pipe 16
    let r := tPipedOf 0x10110 [tRec 0 (.router 0)]
    let out := tPipedOf 0x10110 [tOut [1]]
    let eff := tPipedOf 0x10100 [tOut []]
    let mv := tPipedOf 0x20100 [tRec 0 (.queue 1)]
    (∀ s ∈ [r, out, eff, mv], tabGet (pipeKey 1 0) s.pipes = some (x s) ∧ s.isOff (x s).job = false) ∧
    (x out).settles = some (tOut [1], none) ∧ pSet (x out).desc (tOut [1]).stage ≠ 0 ∧ pSet (x out).desc (tOut [1]).stage ∈ (tOut [1]).left ∧
    (mv.job (x mv).job).det = false ∧ (x mv).movedAt + 10000 ≤ mv.now ∧ (x mv).coreMove = some (0, 1) ∧
    (((x mv).assign.filter fun a => (tabGet a.1 (x mv).moves).getD a.2 == 0).map (·.1)).getLast? = some 1 := by decide +kernel

/-- A record that leaves with its effects: none, one that no log takes, and one whose line an engine job owns. -/
theorem witness_PipelineEvents_effects :
    let good := tPipedOf 0x10100 [tOut []]
    let bad := tPoke [(0x80A, 1), (0x80B, 1)] good
    let own := tOwn [32] good
    (∀ s ∈ [good, bad, own], tabGet (pipeKey 1 0) s.pipes = some (s.pipe 16) ∧ s.isOff (s.pipe 16).job = false ∧
      (s.pipe 16).settles = some (tOut [], none) ∧ pSet (s.pipe 16).desc (tOut []).stage = 0) ∧
    tRun (settleEffects 16 (tOut [])) good (fun e t => e.isNone && tRun (moveOn 16 (tOut []) none)
      (t.modPipe 16 fun y => y.modRec 0 fun z => { z with left := 0 :: z.left }) fun _ _ => true) = true ∧
    tRun (settleEffects 16 (tOut [])) bad (fun e t => e == some .handle &&
      tRun (endJob (bad.pipe 16).job Cause.handle.code true) t fun _ _ => true) = true ∧
    tStops (settleEffects 16 (tOut [])) own = true := by decide +kernel

theorem witness_PipelineEvents_write :
    let good := tPipedOf 0x10100 [tOut []]
    let ws := [0, 0, tPtr 0x40, 5, 0, 0, 0, 0]
    tRun (writeAt (good.whoPipe 16 (tOut [])) true (wordAt ws 2) { rd := false, wr := true, n := 8, align := 8, cap := false }
      (wordBytes 8 (wordAt ws 3))) good (fun _ t => tRun (performAll 16 (tOut []) ws []) t fun e _ => e.isNone) = true := by decide +kernel

theorem witness_PipelineEvents_route :
    let s := tPipedOf 0x10110 [tRec 0 (.router 0)]
    let sent (s : State) : State := match (s.pipe 16).routable (s.fixedOrder 16) 0 with
      | some (r, i, _) => s.modPipe 16 (·.toQueue r.slot i)
      | none => s
    ((s.pipe 16).routable (s.fixedOrder 16) 0).isSome = true ∧ tRun (stampSlot 16 0) (sent s) (fun _ _ => true) = true ∧
    tStops (stampSlot 16 0) (sent (tOwn [32] s)) = true := by decide +kernel

/-- The head of a result from core 1 to group 1 of a core. -/
def tItem (node : Word) : GItem := ⟨node, 1, 1, tNode 1 0, none, none, .down, 0, 0, .head 0 0 false 0⟩
/-- A leaf whose parent is core 1. -/
def tLeaf : GSlot := { desc := [2 ^ 11 + 2 ^ 25, tNode 1 0], job := 2 ^ 32 + 1 }
/-- Items and acknowledgements in the fabric. -/
def tFab (items acks : List GItem) (s : State) : State := { s with fab := { s.fab with items := items, acks := acks } }

/-- With every port trained and no link dead, every node can be reached. -/
theorem reaches_all (s : State) (a : Word) (h : s.dev.lanes = 0x8888888888888888) (hd : s.fab.deadPorts = []) : s.reaches a = true := by
  have all : ∀ p : Fin 16, wbits 0x8888888888888888 (4 * p.val) 4 ≠ 0 := by decide
  have hp := all ⟨Config.hopPort (nodePod a) (nodeDev a) % 16, Nat.mod_lt _ (by decide)⟩
  simp only [State.reaches, State.linked, State.portLanes, h, hd]
  simpa using Or.inr hp

theorem witness_GroupEvents_far :
    let far := tItem (tNode 0 1)
    let s := tFab [far] [] (tGroup tLeaf)
    s.isHere far.src = true ∧ far ∈ s.fab.items ∧ s.isHere far.node = false ∧ s.reaches far.node = true :=
  ⟨by decide +kernel, by decide +kernel, by decide +kernel, reaches_all _ _ rfl rfl⟩

theorem witness_GroupEvents_items :
    let near := tItem (tNode 0 0)
    let s := tFab [near] [near] (tGroup tLeaf)
    let u := tFab [] [near] (tGroup { tLeaf with unacked := [near] })
    s.slot 0 1 = some tLeaf ∧ nodeCore near.node = 0 ∧ near.group = 1 ∧ s.isHere near.src = true ∧ near ∈ s.fab.items ∧
    s.isHere near.node = true ∧ s.nodeOff (0 * 64 + 1) near = false ∧ s.tooEarly near = false ∧ tLeaf.job / 2 ^ 32 = near.asid ∧
    tLeaf.dead = false ∧ near.dir = .down ∧ gRoot tLeaf.desc = false ∧ sameNode (gParent tLeaf.desc) near.src = true ∧ gKind tLeaf.desc = 0 ∧
    tLeaf.knowsResult near = false ∧ gChildren tLeaf.desc = [] ∧ tabGet (0 * 64 + 1) u.groups = some { tLeaf with unacked := [near] } ∧
    ([near] : List GItem).find? u.fab.acks.contains = some near ∧ tLeaf.held = [] ∧ tLeaf.parked = [] ∧
    (∀ kg ∈ u.groups, kg.1 / 64 = 0 → kg.2.held = []) ∧ ([near] : List GItem).erase near = [] := by decide +kernel

/-- A head sent to another device is the one thing that may be acknowledged. -/
theorem witness_GroupEvents_ackers :
    let far := tItem (tNode 0 1)
    let g : GSlot := { tLeaf with unacked := [far] }
    let s := tGroup g
    tabGet (0 * 64 + 1) s.groups = some g ∧ g.unacked.find? s.fab.acks.contains = none ∧ s.ackers g ≠ [] ∧
    ∀ kg ∈ s.groups, kg.1 / 64 = 0 → kg.2.held = [] := by
  refine ⟨by decide +kernel, by decide +kernel, ?_, by decide +kernel⟩
  have h : (tGroup { tLeaf with unacked := [tItem (tNode 0 1)] }).farAcks (tItem (tNode 0 1)) = true := by
    have hh : (tGroup { tLeaf with unacked := [tItem (tNode 0 1)] }).isHere (tItem (tNode 0 1)).node = false := by decide +kernel
    unfold State.farAcks
    rw [hh, reaches_all (tGroup { tLeaf with unacked := [tItem (tNode 0 1)] }) _ rfl rfl]
    rfl
  simp [State.ackers, h, List.eraseDups_cons]

/-- A root with two children, of which the second has sent the head of two blocks, and maybe the first block. -/
def tStaging (blocks : Tab (List Byte)) : GSlot :=
  { desc := [2 ^ 10 + 2 ^ 11 + 2 ^ 12 + 2 ^ 13 + 2 ^ 25, 0, 0, 0, tNode 1 0, tNode 2 0], job := 2 ^ 32 + 1, rnd := 1,
    ops := [⟨0, 0, 8, 1, 1, false, [(0, [])]⟩, ⟨0, 0, 1, 3, 1, false, blocks⟩] }

/-- The example of the chapter: before the head of child 0 the root holds one block of child 1, and takes no second one (R183). -/
theorem test_staging_slot : (tGroup (tStaging [])).stages 1 (tStaging []) 0 0 1 0 = true ∧
    (tGroup (tStaging [(0, [])])).stages 1 (tStaging [(0, [])]) 0 0 1 1 = false := by decide +kernel

theorem witness_GroupEvents :
    let res : GSlot := { tLeaf with results := [⟨0, 0, 0, 0, false, 0, []⟩] }
    let late : State := { tGroup tLeaf with fab := { lates := [(0, 1, 1, true)] } }
    let time := tLater 5120 (tGroup tParent)
    let slack (xs : List Nat) : State := { tLater 50000 tBase with plant := { soff := 1, slacks := xs } }
    let hot := tLater 50000 (tBase.modPair 0 fun x => { x with tthr := 1 })
    (tGroup res).slot 0 1 = some res ∧ res.arriving = some 0 ∧ gSelf res.desc = true ∧ res.dead = false ∧
    ((tGroup res).agent ⟨0, .main⟩).asid = res.job / 2 ^ 32 ∧ ((tGroup res).modCtx fun c => { c with uien := 4 }).me.ctx.uien[2] = true ∧
    time.slot 0 1 = some tParent ∧ (tParent.timers.find? fun t => t.1 % 1024 == 0 && t.2 + 2 ^ (gToe tParent.desc + 9) ≤ time.tick &&
      (expected tParent.desc).any fun i => (tParent.operand (t.1 / 1024) 0 i).isNone) = some (0, 0) ∧
    late.slot 0 1 = some tLeaf ∧ (late.fab.lates.find? fun x => x.1 == 0 && x.2.1 == 1) = some (0, 1, tLeaf.job / 2 ^ 32, true) ∧
    gSelf tLeaf.desc = true ∧ 0 ∈ gChildren tParent.desc ∧
    (∀ xs ∈ [[3000], [100]], (slack xs).plant.slackAt + 50000 ≤ (slack xs).now ∧ ((slack xs).pairs.any fun p => p.2.tthr != 0) = false ∧
      (slack xs).plant.slacks ≠ []) ∧ 2000 * 1 < 3000 ∧ 100 < 500 * 1 ∧ hot.plant.slackAt + 50000 ≤ hot.now ∧
    (hot.pairs.any fun p => p.2.tthr != 0) = true := by decide +kernel

/-- An ordered class whose input ports are all out of the minima. -/
def tCut : Ordered := { inp := (List.range 16).map fun p => (p, { removed := true }) }

/-- A package with one packet here and time `n`. -/
def tHeld (n : Nat) : State := { tBase with ord := { tCut with local_ := [tPacket] }, now := n }

theorem witness_OrderedEvents_delivery :
    let full : State := { tHeld 6 with ord := { (tHeld 6).ord with queues := [(18, List.replicate 64 tPacket)] } }
    (∀ s ∈ [tHeld 6, full, tHeld 0], s.ord.local_ = [tPacket] ∧ tabGet 1 s.ord.halted = none) ∧ tPacket.asid = 1 ∧
    tPacket.stamp < (tHeld 6).deliveryMark ∧ tPacket.stamp < full.deliveryMark ∧
    ((tabGet (queueKey tPacket) (tHeld 6).ord.queues).getD []).length < 64 ∧ 64 ≤ ((tabGet (queueKey tPacket) full.ord.queues).getD []).length ∧
    (tHeld 0).deliveryMark ≤ tPacket.stamp := by decide +kernel

/-- The same with the packet's queue full for longer than the limit, and the strand asleep in `ORECV`. -/
def tStall : State := { tHeld 200000000 with
  ord := { tCut with local_ := [tPacket], queues := [(18, List.replicate 64 tPacket)], fullAt := [(18, 0)] } }

theorem witness_OrderedEvents_stall : tStall.live 1 = true ∧ tabGet 1 tStall.ord.halted = none ∧ tStall.stalledMark 1 = some 5 ∧
    (tAct (.asleep .orecv 0) tStall).me.asid = 1 ∧ (tAct (.asleep .orecv 0) tStall).me.act = .asleep .orecv 0 := by
  have h : tStall.inPorts = [] := by decide +kernel
  have k : (tStall.ord.local_.filter fun x => queueKey x == 18) = [tPacket] := by decide +kernel
  have f : (tStall.ord.fullAt.find? fun f => f.1 / 16 == 1 && f.2 + tStall.stallLimit 1 ≤ tStall.now &&
      64 ≤ ((tabGet f.1 tStall.ord.queues).getD []).length) = some (18, 0) := by decide +kernel
  refine ⟨by decide +kernel, rfl, ?_, rfl, rfl⟩
  rw [State.stalledMark, h]
  simp only [List.find?_nil, f, k]
  simp [List.mergeSort_singleton, tPacket]

/-- A message on its way from core 1 to core 0. -/
def tMsg : Msg := ⟨1, tNode 1 0, 0, 7⟩
/-- It as the fabric holds it. -/
def tFlight : Flight := ⟨none, 2 ^ 32 + 1, none, tMsg, tNode 0 0, none⟩
/-- The fabric with it. -/
def tSent : State := { tBase with fab := { msgs := [tFlight] } }

theorem witness_OrderedEvents :
    let inj : Inject := ⟨tPacket, []⟩
    let s : State := { tBase with ord := { inject := [inj], inp := [(3, { frozen := true }), (4, { frozen := true, stuck := true })] }, now := 256 }
    (s.ord.inject.find? fun x => s.performed x.cov) = some inj ∧ tPacket.tag = none ∧ s.linked 0 = true ∧
    ((tabGet 0 s.ord.inp).getD {}).frozen = false ∧ ((tabGet 0 s.ord.inp).getD {}).removed = false ∧
    ((tabGet 0 s.ord.inp).getD {}).stuck = false ∧ s.flushPorts.sends 0 = true ∧ (s.flushPorts.outPort 0).sentAt + 256 ≤ s.flushPorts.now ∧
    (tBase.flushPorts.outPort 0).sentAt + 256 > tBase.flushPorts.now ∧ ((tabGet 3 s.ord.inp).getD {}).frozen = true ∧
    ((tabGet 3 s.ord.inp).getD {}).stuck = false ∧ ((tabGet 4 s.ord.inp).getD {}).stuck = true ∧ 0 ∉ s.fab.deadPorts ∧
    tSent.isHere tMsg.src = true ∧ tSent.fab.msgs = [tFlight] ∧ tFlight.msg = tMsg ∧ tFlight.id = none ∧ tSent.hasBox tMsg = true ∧
    tSent.boxOpen tMsg.core = true := by decide +kernel

/-! ## Witnesses: events of the dispatcher, the units, the world outside and the host -/

/-- Memory contents. -/
def tBytes (bs : List Host.Cell) (tags : List Nat) (s : State) : State := { s with mem := { s.mem with bytes := bs, tags := tags } }
/-- Another job in the table. -/
def tWith (j : Job) (s : State) : State := { s with jobs := tabSet (jobKey j.asid j.id) j s.jobs }

/-- Stream 0 at 0x1000 with a full slot: a span of one gang, or of two (`b` = 1), with its completion word at 0x3000. -/
def tStream (b : Byte) (wait : Option Nat) : State :=
  { tBytes ((if b = 0 then [] else [(0x1001, b)]) ++ [(0x1019, 0x30), (0x101E, 0x10)]) [0x1000] tBase with
    streams := [(0, { base := 0x1000, logn := 1, asid := 1, sv := true, waitAt := wait })] }

theorem witness_DispatchEvents_take :
    let s := tStream 0 none
    let u := tStream 1 (some 0)
    let bad := tPoke [(0x1018, 1)] s
    let x (s : State) := (tabGet 0 s.streams).getD {}
    let ws (b : Byte) (d : Nat) : List Word := [b.zeroExtend 64 * 256, 0, 0, tPtr d, 0, 0, 0, 0]
    (∀ t ∈ [s, u, bad], tabGet 0 t.streams = some (x t)) ∧ s.headSlot 0 = .slot 0x1000 (ws 0 0x3000) ∧ u.headSlot 0 = .slot 0x1000 (ws 1 0x3000) ∧
    bad.headSlot 0 = .slot 0x1000 (ws 0 0x3001) ∧ u.mustWait 0 (x u) (ws 1 0x3000) = true ∧ s.mustWait 0 (x s) (ws 0 0x3000) = false ∧
    bad.mustWait 0 (x bad) (ws 0 0x3001) = false ∧ s.nextStream = some 0 ∧ bad.nextStream = some 0 ∧
    (s.freeSlot 0 (x s) 0x1000).donepCheck 1 (ws 0 0x3000) = .ok (.mem [(0x3000, 8)]) ∧
    (bad.freeSlot 0 (x bad) 0x1000).donepCheck 1 (ws 0 0x3001) = .error .align ∧ jKind (ws 0 0x3000) = 0 ∧
    jGangs (ws 0 0x3000) ≤ (s.clustersOf 1).length ∧ (x u).waitAt = some 0 ∧ 0 + 1000000 ≤ (tLater 1000000 u).now ∧ u.now < 0 + 1000000 := by
  decide +kernel

/-- A span that waits for its place on cluster 256, with its kernel header at 0x2000, or at an odd address. -/
def tSpan (entry : Nat) : Job := { asid := 1, id := 2, donep := tPtr 0x3000, gangs := [256], ngang := 1, nstr := 1, entry := tPtr entry }
/-- Its header: version 1, and a loader image of 8 bytes. -/
def tKernel (entry : Nat) : State :=
  tWith (tSpan entry) (tBytes [(0x2018, 1), (0x2029, 0x40), (0x202E, 0x10), (0x2038, 8)] [] tBase)

theorem witness_DispatchEvents_place :
    let good := tKernel 0x2000
    let bad := tKernel 0x2001
    (∀ e ∈ [0x2000, 0x2001], tabGet (jobKey 1 2) (tKernel e).jobs = some (tSpan e) ∧ (tSpan e).bag = false ∧ (tSpan e).stage = .waiting ∧
      (∀ k ∈ (tSpan e).gangs, (tKernel e).usable k = true) ∧ (∀ c ∈ (tSpan e).cores, (tKernel e).vacant c = true) ∧
      ∀ c ∈ (tSpan e).cores, ((tKernel e).agent ⟨c, .main⟩).task = none) ∧ tFails (readKernel (tSpan 0x2001)) bad .align = true ∧
    tRun (completeWith (jobKey 1 2) (tSpan 0x2001) Cause.align.code) bad (fun _ _ => true) = true ∧
    tRun (readKernel (tSpan 0x2000)) good (fun x u => imageLen x.1 false != 0 && tabGet (jobKey 1 2) u.jobs == some (tSpan 0x2000)) = true ∧
    (tSpan 0x2000).gangs = [256] ∧ (tSpan 0x2000).nstr = 1 := by decide +kernel

/-- A bag whose next record is at 0x4000. -/
def tBag (next : Word) : Job := { asid := 1, id := 3, bag := true, stage := .running, next := some next, donep := tPtr 0x3000 }
/-- It, with `LINK` of the record: 0, the record itself, or another. -/
def tLinked (next : Word) (bs : List Host.Cell) : State := tWith (tBag next) (tBytes bs [] tBase)

theorem witness_DispatchEvents_enter :
    let ends (p : Word) (c : Cause) : Bool :=
      let s := tLinked p []
      decide (s.queueLoad (s.nextCluster 1) < 256) && tRun (endJob (jobKey 1 3) c.code true) s fun _ _ => true
    let links (bs : List Host.Cell) (l : Word) : Bool :=
      let j := tBag (tPtr 0x4000)
      let s := tLinked (tPtr 0x4000) bs
      let w := s.recWho j
      decide (tabGet (jobKey 1 3) s.jobs = some j) && decide (s.queueLoad (s.nextCluster 1) < 256) &&
        tRun (recRead w (tPtr 0x4000) 0 64) s fun bs a => wordAt (leWords 8 bs) 2 == l &&
          tRun (recWrite w (tPtr 0x4000) 0x38 (leBytes 8 3)) a fun _ b => tRun (recState w (tPtr 0x4000) 0) b fun _ u =>
            tabGet (jobKey 1 3) u.jobs == some j
    (tPtr 0x4001).toNat % 64 ≠ 0 ∧ ends (tPtr 0x4001) .align = true ∧ ends 0 .handle = true ∧
    tFails (recRead ((tLinked 0 []).recWho (tBag 0)) 0 0 64) (tLinked 0 []) .handle = true ∧
    (tPtr 0x4000).toNat % 64 = 0 ∧ links [] 0 = true ∧ links [(0x4011, 0x40), (0x4016, 0x10)] (tPtr 0x4000) = true ∧
    links [(0x4011, 0x50), (0x4016, 0x10)] (tPtr 0x5000) = true ∧ tPtr 0x5000 ≠ 0 ∧ tPtr 0x5000 ∉ tPtr 0x4000 :: (tBag 0).taken := by
  decide +kernel

/-- The same bag with its record taken: `NCOND` in byte 0xC, and a condition at 0x5000. -/
def tTaken (n : Byte) : State := tWith { tBag 0 with next := none, recs := [{ ptr := tPtr 0x4000, at_ := .waiting, cluster := 0, entry := true }] }
  (tBytes (if n = 0 then [] else [(0x400C, n), (0x4019, 0x50), (0x401E, 0x10)]) [] tBase)
/-- A task queue entry for it. -/
def tEnt (image : Option (Agent × List Byte)) : TaskEnt := ⟨tPtr 0x4000, 1, 3, 0, 0, image, false⟩
/-- Cluster 0 with that entry. -/
def tQueued (image : Option (Agent × List Byte)) : State := (tTaken 0).modCluster 0 fun c => { c with tasks := [tEnt image] }

theorem witness_DispatchEvents_ready :
    let cond (s : State) (n : Nat) (b : Bool) : Bool := match s.waitingRec 1 (tPtr 0x4000) with
      | some (j, r) =>
        let w := s.recWho j
        r.entry && tRun (recRead w (tPtr 0x4000) 0 64) s fun bs a => wbits (wordAt (leWords 8 bs) 1) 36 3 == n &&
          (decide (5 ≤ n) || tRun (condsReady w (((leWords 8 bs).drop 3).take n)) a fun c _ => c == b) &&
          tRun (recState w (tPtr 0x4000) 1) a fun _ _ => true
      | none => false
    cond (tTaken 0) 0 true = true ∧ cond (tTaken 0x50) 5 true = true ∧ cond (tTaken 0x10) 1 false = true := by decide +kernel

/-- A record spawned that waits while every entry of its cluster is in use. -/
theorem witness_DispatchEvents_full :
    let s := (tWith { tBag 0 with next := none, recs := [{ ptr := tPtr 0x4000, at_ := .waiting, cluster := 0, entry := false }] } tBase).modCluster 0 fun c =>
      { c with tasks := List.replicate 256 (tEnt none) }
    ((s.waitingRec 1 (tPtr 0x4000)).any fun x => !x.2.entry && x.2.cluster == 0) = true ∧ 256 ≤ s.queueLoad 0 := by decide +kernel

theorem witness_DispatchEvents_claim :
    let img := some (({ act := .stopped } : Agent), List.replicate 1024 (0 : Byte))
    (∀ i ∈ [none, img], (tQueued i).asidOfPair (pairOf (clusterOf 4)) = some 1 ∧ (tQueued i).mayClaim 4 = true ∧
      (tQueued i).sourceCluster 1 (clusterOf 4) = some 0 ∧ bestTask (tQueued i).now ((tQueued i).cluster 0).tasks = some (tEnt i) ∧
      (tEnt i).soft = false) ∧ (List.replicate 1024 (0 : Byte)).length = 1024 := by
  decide +kernel

/-- A stopped task whose image is damaged. -/
theorem witness_DispatchEvents_soft :
    let e : TaskEnt := { tEnt (some (({ act := .stopped } : Agent), [])) with soft := true }
    let s := (tTaken 0).modCluster 0 fun c => { c with tasks := [e] }
    s.asidOfPair (pairOf (clusterOf 4)) = some 1 ∧ s.mayClaim 4 = true ∧ s.sourceCluster 1 (clusterOf 4) = some 0 ∧
    bestTask s.now (s.cluster 0).tasks = some e ∧ e.soft = true ∧ e.image.isSome = true ∧
    tRun (endJob (jobKey e.asid e.job) Cause.soft.code true) s (fun _ _ => true) = true := by decide +kernel

/-- A record whose head is sound, and one with a live register and no tail. -/
theorem witness_DispatchEvents_start :
    let starts (s : State) (f : State → Who → List Byte → Bool → List Word → State → Bool) : Bool :=
      let u := s.modCluster 0 fun c => { c with tasks := c.tasks.erase (tEnt none) }
      let w : Who := { u.whoOf 1 (jobKey 1 3) ⟨4, .main⟩ with wgen := 0 }
      tRun (recState w (tPtr 0x4000) 2) u fun _ b => tRun (recRead w (tPtr 0x4000) 0 64) b fun bs c =>
        tRun (headBad w (leWords 8 bs)) c fun bad d => tRun (readTail w (tPtr 0x4000) (leWords 8 bs)) d fun tail v => f u w bs bad tail v
    starts (tQueued none) (fun _ _ _ bad _ _ => !bad) = true ∧
    starts (tPoke [(0x4008, 1)] (tQueued none)) (fun _ _ bs bad tail f => bad &&
      tRun (trapAt ⟨4, .main⟩ .illegal (wordAt (leWords 8 bs) 1)) (((f.setAgent ⟨4, .main⟩ (f.freshTask (tEnt none) 4 (leWords 8 bs) tail)).draw 1 128).moveRec
        (jobKey 1 3) (tPtr 0x4000) (.running 4)) fun _ _ => true) = true := by decide +kernel

/-- A job with nothing left to do. -/
def tOver : Job := { asid := 1, id := 4, stage := .running, donep := tPtr 0x3000 }

theorem witness_DispatchEvents_complete :
    let s := tWith tOver tBase
    tabGet (jobKey 1 4) s.jobs = some tOver ∧ s.finished (jobKey 1 4) tOver = true ∧ tOver.det = false ∧
    s.finished (2 ^ 32 + 1) (s.job (2 ^ 32 + 1)) = false ∧
    tRun (flushJob 1 (jobKey 1 4)) s (fun _ u =>
      let c := u.clearJob (jobKey 1 4)
      let w : Who := { c.whoOf 1 (jobKey 1 4) ⟨0, .main⟩ with det := false }
      tRun (finishAt w tOver.donep 0 (u.jobOutside (jobKey 1 4)) (.mem [(0x3000, 8)])) c (fun _ _ => true) &&
      decide (c.donepPlace w tOver.donep 8 = .ok (.mem [(0x3000, 8)]) ∧ hWin (c.handle 1 (handleOf tOver.donep)) = 0 ∧
        c.ownedNot none (segLines [(0x3000, 8)]) = false ∧ c.reservedAny (segLines [(0x3000, 8)]) = false)) = true := by decide +kernel

theorem witness_DispatchEvents_complete_fails :
    let b := { tOver with donep := tPtr 0x3004 }
    let s := tWith b tBase
    tabGet (jobKey 1 4) s.jobs = some b ∧ s.finished (jobKey 1 4) b = true ∧ b.det = false ∧
    tRun (flushJob 1 (jobKey 1 4)) s (fun _ u =>
      let c := u.clearJob (jobKey 1 4)
      c.donepPlace { c.whoOf 1 (jobKey 1 4) ⟨0, .main⟩ with det := false } b.donep 8 == .error .align) = true := by decide +kernel

/-- A tile-task of one block and `k` + 1 steps: A and B at 0, C at 0x2000, its parking buffer at 0x8000, its word at 0x3000. -/
def tTask1 (k : Nat) : List Word :=
  [0, BitVec.ofNat 64 (k * 2 ^ 32), tPtr 0, tPtr 0, tPtr 0x2000, BitVec.ofNat 64 (128 * 2 ^ 42), 0, 0, 0, 0, tPtr 0x3000, tPtr 0x8000, 0, 0, 0, 0]
/-- A queue entry with some words in a state. -/
def tQJob (ws : List Word) (st : JobSt) : QJob := { tJob with words := ws, st := st, atRecord := tPtr 0x9000 }
/-- Cluster 0 holds the licence; its engine runs the first entry, or stands idle. -/
def tEngine (q : QJob) (runs : Bool) : State :=
  (tLic (some false) []).modCluster 0 fun c => { c with queue := [q], eng := if runs then some q.key else none }

theorem witness_EngineEvents_ready :
    let conds (p : Word) : QJob := tQJob ([2 ^ 14, 0, 0, 0, 0, 0, p] ++ List.replicate 9 0) .waiting
    let s (q : QJob) := tEngine q false
    let ready (q : QJob) (b : Bool) := tRun (condsReady ((s q).whoQ q) q.conds) (s q) fun c _ => c == b
    (∀ q ∈ [tJob, conds (tPtr 0x5000), conds 0], ((s q).cluster 0).entries.filter (fun x => x.id == q.id && x.st == .waiting) = [q]) ∧
    ready tJob true = true ∧ ready (conds (tPtr 0x5000)) false = true ∧
    tFails (condsReady ((s (conds 0)).whoQ (conds 0)) (conds 0).conds) (s (conds 0)) .handle = true ∧
    tRun (endQ 0 (conds 0) Cause.handle.code false) (s (conds 0)) (fun _ _ => true) = true := by decide +kernel

theorem witness_EngineEvents_issue :
    let q := tQJob (tTask1 0) .ready
    let bad := tQJob ((tTask1 0).set 2 0) .ready
    (∀ x ∈ [q, bad], (tEngine x false).holdsLic 0 = true ∧ ((tEngine x false).cluster 0).eng = none ∧ (tEngine x false).parkedJob 0 = none ∧
      (tEngine x false).readyJob 0 false = some x) ∧ (tEngine q false).engineFault q = none ∧
    (tEngine q false).ownedNot (some q.key) ((tEngine q false).linesAt q 64 q.cLines) = false ∧
    (tEngine q false).reservedAny ((tEngine q false).linesAt q 64 q.cLines) = false ∧ (tEngine bad false).engineFault bad = some .handle ∧
    tRun (endQ 0 bad Cause.handle.code false) (tEngine bad false) (fun _ _ => true) = true := by decide +kernel

/-- Whether the next step of a job can be made and its block written. -/
def tSteps (s : State) (q : QJob) : Bool := tRun (stepResult q) s fun acc a =>
  let step : QJob := { q with ki := q.ki + 1, acc := acc }
  tRun (writeBlock step acc) ((a.modQ 0 q.key fun _ => step).countSteps 0) fun _ _ => true

theorem witness_EngineEvents_step :
    let two := tQJob (tTask1 1) .running
    let one := tQJob (tTask1 0) .running
    let held := tOwn [0] (tEngine one true)
    let left : QJob := { one with ki := 1 }
    let bad := tQJob ((tTask1 0).set 2 (tPtr (2 ^ 40))) .running
    (∀ q ∈ [two, one], (tEngine q true).engineJob 0 = some q ∧ (tEngine q true).holdsLic 0 = true ∧ q.mi < q.mBlocks ∧
      tSteps (tEngine q true) q = true) ∧ two.ki + 1 < two.kSteps ∧ one.ki + 1 = one.kSteps ∧
    (tEngine left true).engineJob 0 = some left ∧ (tEngine left true).holdsLic 0 = true ∧ left.mi < left.mBlocks ∧ left.kSteps ≤ left.ki ∧
    tRun (writeBlock left left.acc) (tEngine left true) (fun _ _ => true) = true ∧ one.ki < one.kSteps ∧ held.engineJob 0 = some one ∧
    held.holdsLic 0 = true ∧ tStops (stepResult one) held = true ∧ (tEngine bad true).engineJob 0 = some bad ∧
    (tEngine bad true).holdsLic 0 = true ∧ bad.mi < bad.mBlocks ∧ tFails (stepResult bad) (tEngine bad true) .page = true ∧
    tRun (endQ 0 bad Cause.page.code true) (tEngine bad true) (fun _ _ => true) = true := by decide +kernel

/-- A job that transforms A, whose tensor header stands on another device. -/
theorem witness_EngineEvents_ask :
    let q := tQJob ((tTask1 0).set 0 (2 ^ 9)) .running
    let t := tEngine q true
    let s : State := { t with mem := { t.mem with
      hcopies := [⟨1, 1, [0, 0x10000, 0x880, BitVec.ofNat 64 (2 * 2 ^ 52)]⟩, ⟨1, 2, [0, 0x1000, 0x84 + 2 ^ 32, 0]⟩] } }
    s.engineJob 0 = some q ∧ s.holdsLic 0 = true ∧ q.mi < q.mBlocks ∧
    (match stepResult q s with
      | .error (.ask x) => x.dev == 1 && x.ptr == BitVec.ofNat 64 (2 * 2 ^ 52)
      | .ok _ | .error _ => false) = true := by decide +kernel

theorem witness_EngineEvents_end :
    let done : QJob := { tQJob (tTask1 0) .running with mi := 1 }
    let parked := tQJob (tTask1 0) .parked
    let full := tQueue (List.replicate 64 tJob) tBase
    let into (s : State) (from_ : Option Nat) := s.modCluster 0 fun c => { c with incoming := [{ tJob with from_ := from_ }] }
    (tEngine done true).engineJob 0 = some done ∧ done.mBlocks ≤ done.mi ∧ tRun (endQ 0 done 0 true) (tEngine done true) (fun _ _ => true) = true ∧
    (tEngine parked false).holdsLic 0 = true ∧ ((tEngine parked false).cluster 0).eng = none ∧
    (tEngine parked false).parkedJob 0 = some parked ∧ parked ∈ ((tEngine parked false).cluster 0).queue ∧
    tRun (unitRead parked 4096 (parked.word 11)) (tEngine parked false) (fun _ _ => true) = true ∧
    (∀ s ∈ [into tBase none, into full (some 0), into full (some 256)], (s.cluster 0).incoming.length = 1) ∧ (into tBase none).queueUsed 0 < 64 ∧
    64 ≤ (into full (some 256)).queueUsed 0 ∧ (some 256 : Option Nat) ≠ some 0 := by decide +kernel

/-- The licence moves while a job has its last step to make, one more, or only its block to write, or when it is past. -/
theorem witness_EngineEvents_park :
    let moves (q : QJob) := (tEngine q true).modPair 0 fun x => { x with moving := some .release }
    let one := tQJob (tTask1 0) .running
    let two := tQJob (tTask1 1) .running
    let left : QJob := { one with ki := 1 }
    let past : QJob := { one with mi := 1 }
    let parks (p : QJob) (t : State) : Bool :=
      tRun (unitWrites p [(p.word 11, (List.range 1024).flatMap fun i => leBytes 4 (p.acc.getD i 0).toNat)]) t fun _ a =>
        tRun (report p 0x60 (BitVec.ofNat 64 (p.mi + p.ni * 2 ^ 16 + p.ki % 2 ^ 16 * 2 ^ 32 + 2 ^ 63))) a fun _ _ => true
    (∀ q ∈ [one, two, left, past], ((moves q).pair (pairOf 0)).moving.isSome = true ∧ ((moves q).pair (pairOf 0)).holder = some (onDieU 0) ∧
      (moves q).engineJob 0 = some q) ∧
    past.mBlocks ≤ past.mi ∧ tRun (endQ 0 past 0 true) (moves past) (fun _ _ => true) = true ∧
    (∀ q ∈ [one, two], q.mi < q.mBlocks ∧ q.ki < q.kSteps ∧ tRun (kStep 0 q) (moves q) parks = true) ∧
    left.mi < left.mBlocks ∧ left.kSteps ≤ left.ki ∧ parks left (moves left) = true := by
  decide +kernel

/-- A copy job of one row of 64 bytes from 0x100 to 0x200. -/
def tCopy (st : JobSt) (rows : Nat) : QJob := { tJob with
  copy := true, st := st, rows := rows, words := [0, tPtr 0x100, tPtr 0x200, 2 ^ 32 + 64, 0, 0, 0, 0, 0, tPtr 0x3000] ++ List.replicate 6 0 }
/-- Cluster 0 with it. -/
def tCopies (q : QJob) (runs : Bool) : State := tBase.modCluster 0 fun c => { c with queue := [q], cpy := if runs then some q.key else none }

/-- The end of a job: its statistics, its completion word and its release. -/
theorem witness_EngineEvents_release :
    let q := tCopy .running 1
    let u := (tCopies q true).takeOutQ 0 q
    q.note = false ∧ q.copy = true ∧ (tQJob (tTask1 0) .running).copy = false ∧
    tRun (flushQ q) u (fun _ a => tRun (writeDone (a.whoQ q) q.donew 0) a fun _ _ => true) = true := by decide +kernel

theorem witness_EngineEvents_copy :
    let ready := tCopy .ready 0
    let run := tCopy .running 0
    let past := tCopy .running 1
    let s := tCopies ready false
    let u := tCopies run true
    (s.cluster 0).cpy = none ∧ s.readyJob 0 true = some ready ∧ s.copyFault ready = none ∧ s.ownedNot (some ready.key) (s.copyLines ready) = false ∧
    s.reservedAny (s.copyLines ready) = false ∧ u.copyJob 0 = some run ∧ run.rows < run.nRows ∧ run.fill = false ∧
    u.jobPlace run (run.fromRow run.rows) run.len false = .ok (.mem [(0x100, 64)]) ∧
    u.jobPlace run (run.toRow run.rows) run.len true = .ok (.mem [(0x200, 64)]) ∧ hWin (u.jobHandle run (run.fromRow run.rows)) = 0 ∧
    hWin (u.jobHandle run (run.toRow run.rows)) = 0 ∧ u.ownedNot (some run.key) (segLines [(0x100, 64)]) = false ∧
    u.ownedNot (some run.key) (segLines [(0x200, 64)]) = false ∧ u.reservedAny (segLines [(0x200, 64)]) = false ∧
    meets (segLines [(0x100, 64)]) u.mem.poison = false ∧ u.hitRecs [(0x200, 64)] = [] ∧
    (∀ g ∈ ([(0x100, 64)] ++ [(0x200, 64)] : List (Nat × Nat)), g.1 + g.2 ≤ 2 ^ 44) ∧
    (tCopies past true).copyJob 0 = some past ∧ past.nRows ≤ past.rows ∧ tRun (endQ 0 past 0 true) (tCopies past true) (fun _ _ => true) = true := by
  decide +kernel

/-- A row that is copied, and one that is filled. -/
theorem witness_EngineEvents_row :
    let run := tCopy .running 0
    let fill : QJob := { run with words := run.words.set 0 1 }
    let u := tCopies run true
    let v := tCopies fill true
    let src : Place := .mem [(0x100, 64)]
    let dst : Place := .mem [(0x200, 64)]
    tRun (unitRead run run.len (run.fromRow 0)) u (fun bs a => tRun (unitWrite run (run.toRow 0) (a.rowBytes src dst bs) dst) a fun _ b =>
      tRun (report run 0x50 1) b fun _ _ => true) = true ∧ fill.fill = true ∧ v.copyJob 0 = some fill ∧ fill.rows < fill.nRows ∧
    v.jobPlace fill (fill.toRow 0) fill.len true = .ok dst ∧
    tRun (unitWrite fill (fill.toRow 0) fill.fillRow dst) v (fun _ b => tRun (report fill 0x50 1) b fun _ _ => true) = true := by decide +kernel

theorem witness_OutsideEvents_access :
    let owned := tOwn [1] tBase
    (∀ op ∈ ([.read 8, .write [1, 2, 3, 4, 5, 6, 7, 8], .add 8 1] : List OutOp),
      tBase.segsOf hubCaches 1 0x40 (outBytes op) (outWrites op) false = some [(0x40, 8)] ∧
      tBase.outsideWaits (segLines [(0x40, 8)]) (outReads op) (outWrites op) = false ∧
      owned.segsOf hubCaches 1 0x40 (outBytes op) (outWrites op) false = some [(0x40, 8)] ∧
      owned.outsideWaits (segLines [(0x40, 8)]) (outReads op) (outWrites op) = true) ∧ tBase.live 1 = true ∧ owned.live 1 = true ∧
    tBase.mem.poison = [] ∧ tBase.hitRecs [(0x40, 8)] = [] := by decide +kernel

theorem witness_OutsideEvents_replies :
    let store : ExtOp := { tLoad with op := .write [1], store := true }
    let s : State := { tBase with fab := { exts := [store] } }
    let g : GSlot := { tLeaf with unacked := [tItem (tNode 0 0)] }
    let j := tBase.job (2 ^ 32 + 1)
    let shadow := tBase.modCore 0 fun k => { k with images := [⟨2 ^ 32 + 1, [], [], none, none⟩] }
    tLoading.extOp 3 = some tLoad ∧ tLoad.agent = some ⟨0, .main⟩ ∧ tLoading.nextReply tLoad = true ∧
    tLoad.op = .read (List.replicate 8 (0 : Byte)).length ∧ (tLoading.agent ⟨0, .main⟩).act = .asleep (.ext 3) 0 ∧
    s.extOp 3 = some store ∧ store.host = false ∧ store.agent = some ⟨0, .main⟩ ∧ (s.agent ⟨0, .main⟩).act = .running ∧
    jobKey (s.agent ⟨0, .main⟩).asid (s.agent ⟨0, .main⟩).job = store.job ∧ (s.agent ⟨0, .main⟩).task = store.task ∧ (∀ b ∈ s.agents, b.1 ≠ ⟨0, .main⟩ → b.2.task = none ∨ b.2.task ≠ store.task) ∧ (s.agent ⟨0, .main⟩).err = none ∧ tabGet (0 * 64 + 1) (tGroup g).groups = some g ∧
    g.unacked.head? = some (tItem (tNode 0 0)) ∧ tabGet (jobKey 1 j.id) shadow.jobs = some j ∧
    (∃ kc ∈ shadow.cores, ∃ i ∈ kc.2.images, i.job = jobKey 1 j.id) := by
  refine ⟨by decide +kernel, rfl, by decide +kernel, rfl, rfl, by decide +kernel, rfl, rfl, rfl, rfl, rfl, by decide +kernel, rfl, rfl, rfl, by decide +kernel, ?_⟩
  exact ⟨_, .head _, _, .head _, by decide +kernel⟩

/-- HBM stack 0 in a thermal state since time 0, at time `now`. -/
def tHeat (st : Nat) (last : Option Nat) (now : Nat) : State := { tBase with plant := { doms := [(8192, { st := st, lastTr := last })] }, now := now }

theorem witness_OutsideEvents_heat :
    let d : Domain := .stack 0
    domainExists d = true ∧ (∀ s ∈ [tHeat 0 (some 0) 5, tHeat 0 none 5, tHeat 1 (some 0) 1000000], s.pairAt d = none) ∧
    ((tHeat 0 (some 0) 5).thermal (domainKey d)).lastTr = some 0 ∧ (tHeat 0 (some 0) 5).now < 0 + 1000000 ∧
    ((tHeat 0 none 5).thermal (domainKey d)).lastTr = none ∧ ((tHeat 0 none 5).thermal (domainKey d)).st = 0 ∧ threshold d 1 ≤ 1360 ∧
    (1519 : Int) < threshold d 2 ∧ threshold d 2 ≤ 1520 ∧ ((tHeat 1 (some 0) 1000000).thermal (domainKey d)).st = 1 ∧
    ((tHeat 1 (some 0) 1000000).thermal (domainKey d)).lastTr = some 0 ∧ 0 + 1000000 ≤ (tHeat 1 (some 0) 1000000).now ∧
    (1312 : Int) + 48 ≤ threshold d 1 ∧ threshold d 1 < 1313 + 48 ∧ ((tHeat 1 (some 0) 1000000).thermal (domainKey d)).since + 200000 ≤ 1000000 := by
  decide +kernel

/-- A package fault has arisen and waits. -/
def tFailing (s : State) : State := { s with dev := { s.dev with failing := true } }
/-- A strand whose open chunk stored a line on which another agent's one-instruction chunk holds a reservation. -/
def tHeldUp : State := { tBase with
  me := { tBase.me with chunk := { count := 1, writes := [9] } }
  others := [(4, { act := .running, asid := 2, chunk := { count := 1, limit := 1, reads := [9] } })] }

theorem witness_OutsideEvents_plant :
    let hot : State := { tBase with plant := { doms := [(0, { st := 1 })] }, now := 1000000 }
    let full : State := { hot with dev := { hot.dev with badPos := (List.range 8).flatMap fun g => (List.range 33).map fun y => g * 64 + y } }
    let cool := tLater 1000000 (tBase.modPair 0 fun x => { x with tthr := 1 })
    let ref : State := { tBase with plant := { refresh := [(0, 5)] }, now := 3904 }
    let none_ : State := { tBase with jobs := [] }
    (∀ s ∈ [hot, full, cool], s.plant.moving = none ∧ 0 < s.dev.pairs ∧ (s.pair 0).tthrAt + 1000000 ≤ s.now) ∧ hot.pairHot 0 = true ∧
    tRun ((hot.hotDue.filter (· < 0) ++ [0]).forM servePair) hot (fun _ _ => true) = true ∧ (∀ q ∈ full.hotDue, 0 ≤ q) ∧ full.pairHot 0 = true ∧ full.coolPosition = none ∧
    cool.pairHot 0 = false ∧ (cool.pair 0).tthr ≠ 0 ∧ 7 * 32 + 31 ∉ tBase.dev.channelsOut ∧ tabGet (7 * 32 + 31) tBase.plant.refresh = none ∧
    tabGet (0 * 32 + 0) ref.plant.refresh = some 5 ∧ (ref.thermal (8192 + 0)).st = 0 ∧ ref.now < 5 + 3900 ∧ (263 : Nat) < 264 ∧
    none_.jobs = [] ∧ tRun packageFault (tFailing tBase) (fun _ _ => true) = true ∧ tStops packageFault (tFailing tHeldUp) = true ∧
    tRun packageFault (tFailing (State.freeVacated
      { tBase with plant := { tBase.plant with doms := tabSet (domainKey (.stack 0)) ⟨2, 0, some 0, 1520⟩ [] } })) (fun _ _ => true) = true := by
  decide +kernel

theorem witness_OutsideEvents_saved :
    let stop := tWith { asid := 1, id := 1, stage := .stopping, gangs := [0], ngang := 1, nstr := 1 } (tAct .stopped tBase)
    (stop.job (jobKey 1 1)).stage = .stopping ∧ tabGet (jobKey 1 1) stop.jobs = some (stop.job (jobKey 1 1)) ∧
    stop.allStopped (jobKey 1 1) = true ∧ stop.routersRest (stop.job (jobKey 1 1)) = true ∧
    tRun (save (jobKey 1 1)) stop (fun _ u => (tabGet (jobKey 1 1) u.jobs).isSome) = true ∧ tBase.allStopped (jobKey 1 1) = false ∧
    tBase.plant.moving = none ∧ tabGet (jobKey 1 1) tBase.jobs = some (tBase.job (jobKey 1 1)) := by decide +kernel

/-- Start-up with every check passed and these bad positions. -/
def tBoot (bad : List (Nat × Nat)) (version : Nat) : BootInput := ⟨version, 1, true, true, [], bad, [], Vector.replicate 16 .eight⟩
/-- Every position of rows 1 to 18 of the 8 groups. -/
def tBadRows : List (Nat × Nat) := (List.range 8).flatMap fun g => (List.range 18).map fun y => (g, y + 1)

theorem witness_HostEvents_boot :
    (tBoot [] 0).version < (tBoot [] 0).rollback ∧ (tBoot [] 1).rollback ≤ (tBoot [] 1).version ∧ (tBoot [] 1).sigOk = true ∧
    (tBoot [] 1).digestOk = true ∧ (tBoot [] 1).badPos = [] ∧ { tBoot [] 1 with sigOk := false }.sigOk = false ∧
    128 ≤ (tBase.boot (tBoot [] 1)).dev.pairs ∧ (tBase.boot (tBoot tBadRows 1)).dev.pairs < 128 := by decide +kernel

/-- Partition 2 written but not live, with a pair. -/
def tDesc2 (pair : Nat) : State :=
  { tBase with host := { tBase.host with pdesc := tBase.host.pdesc ++ [(2, [0, 0, 0, 0, 0, 0, 0, 0, BitVec.ofNat 64 (2 ^ pair), 0, 0, 0])] } }
/-- The window with the host's address space. -/
def tHost : State := { tBase with host := { tBase.host with apasid := 1 } }

/-- A core without a strand, with images of two jobs in its slots. -/
def tImaged : State := ({ tBase with me := {} } : State).modCore 0 fun k => { k with
  images := [1, 2].map fun i => ⟨2 ^ 32 + i, [(.main, { asid := 1, job := i })], [], none, none⟩ }

theorem witness_HostEvents :
    let waits (s : State) (n : Nat) (rd wr : Bool) := s.outsideWaits (segLines [(0x40, n)]) rd wr
    tBase.host.bootst = 1 ∧ (∀ p ∈ [0, 1], (tDesc2 p).host.bootst = 1 ∧ (tDesc2 p).live 2 = false) ∧ (tDesc2 1).pairsFree 2 = true ∧
    (tDesc2 0).pairsFree 2 = false ∧ tHost.host.bootst = 1 ∧ tHost.apertureSegs 0x40 8 false = some [(0x40, 8)] ∧
    waits tHost 8 true false = false ∧ tBase.apertureSegs 0x40 8 false = none ∧ tHost.apertureSegs 0x40 3 true = some [(0x40, 3)] ∧
    tHost.mem.poison = [] ∧ tHost.hitRecs [(0x40, 3)] = [] ∧ tHost.hitRecs [(0x40, 8)] = [] ∧ waits tHost 3 false true = false ∧ 2 ^ 36 ≤ 2 ^ 36 + 0x40 ∧ (2 ^ 36 + 0x40) % 8 = 0 ∧ tHost.host.apbase % 8 = 0 ∧
    tHost.apertureSegs (2 ^ 36 + 0x40) 8 true = some [(0x40, 8)] ∧ waits tHost 8 false true = false ∧ (2 ^ 36 + 0x41) % 8 ≠ 0 ∧
    tBase.coreExists 0 = true ∧ wbit (BitVec.ofNat 64 (2 ^ 63)) 63 = true ∧ wbit 0 63 = false ∧ tBase.dbgAgent 0 0 = some tBase.me ∧
    tBase.dbgAgent 8 0 = none ∧ (tImaged.agent ⟨0, .main⟩).act = .idle ∧ (tImaged.slotAgents 0).length = 2 ∧
    (∀ g ∈ tImaged.slotAgents 0, tImaged.imageHolds g 0 = true) ∧ tBase.coreExists 8 = true ∧ tBase.command = none ∧
    ({ tBase with host := { tBase.host with hcmd := [2 ^ 63] } } : State).command.isSome = true ∧ tBase.live 0 = false := by decide +kernel

/-- A command of the host for address space 1 with its first argument. -/
def tCmd (code : Nat) (arg : Word) (s : State) : State :=
  { s with host := { s.host with hcmd := [BitVec.ofNat 64 (code + 2 ^ 8 + 2 ^ 63), arg, 0, 0, 0, 0, 0, 0] } }

theorem witness_HostEvents_attest : (tCmd 9 0 tBase).command = some (9, 1) := by decide +kernel

theorem witness_CommandEvents_spans :
    let img (j : Nat) : Image := ⟨j, [], [], none, none⟩
    let full (s : State) := s.modCore 0 fun k => { k with images := [img 7, img 8] }
    let off := tWith { asid := 1, id := 1, stage := .off, gangs := [0], ngang := 1, nstr := 1 } (tAct .idle tBase)
    let hot := tWith { asid := 1, id := 1, stage := .off, gangs := [0], ngang := 1, nstr := 1, why := .thermal } (tAct .idle tBase)
    let key := jobKey 1 1
    (∀ c ∈ [1, 2, 7], (tCmd c 1 tBase).command = some (c, 1)) ∧ (tCmd 1 5 tBase).spanArg 1 = none ∧ (tCmd 2 5 tBase).spanArg 1 = none ∧
    (tCmd 1 5 tBase).command = some (1, 1) ∧ (tCmd 2 5 tBase).command = some (2, 1) ∧
    (tCmd 1 1 tBase).spanArg 1 = some (key, tBase.job key) ∧ (tBase.job key).stage = .running ∧ (tCmd 1 1 tBase).canSave key = true ∧
    (tCmd 1 1 (full tBase)).spanArg 1 = some (key, tBase.job key) ∧ (tCmd 1 1 (full tBase)).canSave key = false ∧
    (tCmd 1 1 (full tBase)).command = some (1, 1) ∧ (tCmd 2 1 tBase).spanArg 1 = some (key, tBase.job key) ∧
    (tCmd 2 1 off).spanArg 1 = some (key, off.job key) ∧ (tCmd 2 1 off).command = some (2, 1) ∧ (off.job key).stage = .off ∧
    (off.job key).why = .host ∧ (tCmd 1 1 off).spanArg 1 = some (key, off.job key) ∧ (tCmd 1 1 off).command = some (1, 1) ∧
    (tCmd 2 1 hot).spanArg 1 = some (key, hot.job key) ∧ (hot.job key).stage = .off ∧ (hot.job key).why = .thermal ∧
    (tCmd 2 1 hot).command = some (2, 1) ∧ (tCmd 2 1 off).host.pendResume = [] ∧ tBase.command = none ∧ tBase.host.pendResume = [] := by decide +kernel

theorem witness_CommandEvents :
    let dead : State := { tBase with host := { bootst := 1 } }
    let frozen : State := { tBase with mem := { tBase.mem with frozen := [0] } }
    (∀ c ∈ [3, 4, 5, 6, 7, 8, 0, 10, 255], (tCmd c 0 tBase).command = some (c, 1)) ∧ (tCmd 4 0 frozen).command = some (4, 1) ∧
    (tCmd 4 0 frozen).commandArg < 512 ∧ (tCmd 4 0 frozen).ownsCore 1 (8 * (tCmd 4 0 frozen).commandArg) = true ∧
    (tCmd 4 0 frozen).frozenCluster (tCmd 4 0 frozen).commandArg = true ∧ (tCmd 4 0 tBase).frozenCluster (tCmd 4 0 tBase).commandArg = false ∧
    (tCmd 5 15 tBase).commandArg < 16 ∧ 16 ≤ (tCmd 5 16 tBase).commandArg ∧ (tCmd 8 0 tBase).live 1 = true ∧
    tRun (tearDown 1) (tCmd 8 0 tBase) (fun _ _ => true) = true ∧
    ((({ tCmd 8 0 tBase with jobs := [] } : State).jobs.filter fun kj => kj.2.asid == 1) = []) ∧ (tCmd 8 0 dead).live 1 = false ∧
    (tCmd 8 0 dead).command = some (8, 1) := by decide +kernel

/-- The one span of the partition in a stage. -/
def tStage (st : JobStage) (why : OffWhy) : State :=
  tWith { asid := 1, id := 1, stage := st, gangs := [0], ngang := 1, nstr := 1, why := why } (tCmd 7 0 tBase)

theorem witness_CommandEvents_contain :
    let mine (s : State) := s.jobs.filter fun kj => kj.2.asid == 1 && !kj.2.bag
    let full := (tStage .running .host).modCore 0 fun k => { k with images := [⟨7, [], [], none, none⟩, ⟨8, [], [], none, none⟩] }
    (∀ s ∈ [tStage .running .host, full, tStage .waiting .host, tStage .resuming .host, tStage .stopping .thermal, tStage .off .thermal,
      tStage .stopping .host, tStage .off .host], s.command = some (7, 1) ∧ mine s = [(jobKey 1 1, s.job (jobKey 1 1))]) ∧
    (∀ p ∈ [((.waiting, .host) : JobStage × OffWhy), (.resuming, .host), (.stopping, .thermal), (.stopping, .host), (.off, .host)],
      ((tStage p.1 p.2).job (jobKey 1 1)).stage = p.1 ∧ ((tStage p.1 p.2).job (jobKey 1 1)).why = p.2) ∧
    ((tStage .running .host).job (jobKey 1 1)).stage = .running ∧ (tStage .running .host).canSave (jobKey 1 1) = true ∧
    full.canSave (jobKey 1 1) = false ∧ mine { tCmd 7 0 tBase with jobs := [] } = [] ∧
    ({ tCmd 7 0 tBase with jobs := [] } : State).command = some (7, 1) := by decide +kernel

/-! ## Witnesses: the step -/

/-- A main agent about to issue the bundle at 0x100 of handle 1. -/
def tIssue (bundle : Nat) : State :=
  { (tBase.modCtx fun c => { c with pc := tPtr 0x100 }) with mem := { tBase.mem with bytes := setBytes 0x100 (leBytes 8 bundle) [] } }
/-- The state in which its bundle is fetched. -/
def tOpened (s : State) : State := ({ s with now := s.now + 10, unit := { second := s.me.ctx.slot } } : State).openChunk
/-- The fetch of a bundle, with the state it leaves looked at through `f`. -/
def tFetched (s : State) (f : List Byte → State → Bool) : Bool :=
  match fetchM (tOpened s) with
  | .ok (.ok bs, c) => f bs c
  | .ok (.error _, _) | .error _ => false
/-- `ADD s1, s2, s3` as a lone word. -/
def tLone : Nat := 0xC0088600

theorem witness_StepRunsWord :
    let s := tIssue tLone
    let p := tIssue (0x40088600 * 2 ^ 32)
    let e : State := { tBase with turns := [⟨5, [], .event .waitTableSummary⟩] }
    (∀ x ∈ [s, p], x.Issues) ∧ tFetched s (fun bs _ => bs == leBytes 8 tLone) = true ∧ leNat (leBytes 8 tLone) % 2 ^ 32 / 2 ^ 31 = 1 ∧
    s.me.ctx.slot = false ∧ decodeWord tLone = .ok (.add 1 2 3) ∧
    tFetched p (fun bs c => bs == leBytes 8 (0x40088600 * 2 ^ 32) && c.me.chunk.count == 0) = true ∧
    (0x40088600 * 2 ^ 32) % 2 ^ 32 / 2 ^ 30 = 0 ∧ 0x40088600 * 2 ^ 32 / 2 ^ 32 / 2 ^ 30 = 1 ∧ decodeWord 0 = .ok (.nop 0) ∧
    decodeWord 0x40088600 = .ok (.add 1 2 3) ∧
    e.turns = [⟨5, [], .event .waitTableSummary⟩] ∧ e.dev.failing = false ∧ e.dev.fault = false ∧ Instr.isEvent .waitTableSummary = true := by decide +kernel

/-- Both words of the pair complete. -/
theorem witness_StepRunsWord_pair :
    tFetched (tIssue (0x40088600 * 2 ^ 32)) (fun _ c =>
      let v := ({ c with unit := { c.unit with paired := true, view := some (c.me.ctx.regs, c.me.ctx.tiles) } } : State).withWord 0 false
      tNext (exec (.nop 0) v) fun t => decide (t.unit.res = .done) && !lastArrival v t &&
        tNext (exec (.add 1 2 3) (t.ageLates.withWord 0x40088600 true)) fun x => decide (x.unit.res = .done) && (!x.unit.own || !x.grantWaits)) = true := by decide +kernel

/-- States in which each way of moving on is met. -/
theorem witness_StepRunsWord_moves :
    let t := tBase
    let taken : State := { tBase with unit := { taken := some (tPtr 0x40, false) } }
    let second : State := { tBase with unit := { second := true } }
    (∀ x ∈ [t, taken, second], x.me.ctx.lates = [] ∧ x.unit.own = false ∧ x.unit.ends = false ∧ x.me.chunk.count + 2 < x.me.chunk.limit ∧
      x.me.ctx.loops = [] ∧ x.me.ctx.loopReq = []) ∧ taken.unit.taken = some (tPtr 0x40, false) ∧ t.unit.taken = none ∧
    t.unit.paired = false ∧ t.unit.second = false ∧ second.unit.second = true := by decide +kernel

theorem witness_StepKeepsInv : State.reset.Inv ∧ tNext (step State.reset) (fun _ => true) = true ∧
    (tIssue tLone).Inv ∧ tNext (step (tIssue tLone)) (fun _ => true) = true := by decide +kernel

/-! ## Results of single words, by hand from the rules and worked examples -/

/-- A result register after a word. -/
def tReg (i : Instr) (xs : List (Reg × Word)) (d : Reg) (v : Word) : Bool := tNext (exec i (tRegs xs tBase)) fun t => t.me.ctx.reg d == v

/-- R274, R366, R297, R355: sums wrap; the most negative number over -1 overflows to itself; a zero divisor gives all ones and the dividend. -/
theorem test_scalar_integer :
    tReg (.add 1 2 3) [(2, 0xFFFFFFFFFFFFFFFF), (3, 2)] 1 1 ∧ tReg (.addImm 1 2 (-1)) [(2, 0)] 1 0xFFFFFFFFFFFFFFFF ∧
    tReg (.sub 1 2 3) [(2, 1), (3, 2)] 1 0xFFFFFFFFFFFFFFFF ∧ tReg (.mulh 1 2 3) [(2, 0xFFFFFFFFFFFFFFFF), (3, 2)] 1 0xFFFFFFFFFFFFFFFF ∧
    tReg (.mulhU 1 2 3) [(2, 0xFFFFFFFFFFFFFFFF), (3, 2)] 1 1 ∧ tReg (.div 1 2 3 false) [(2, 0xFFFFFFFFFFFFFFF9), (3, 2)] 1 0xFFFFFFFFFFFFFFFD ∧
    tReg (.rem 1 2 3 false) [(2, 0xFFFFFFFFFFFFFFF9), (3, 2)] 1 0xFFFFFFFFFFFFFFFF ∧ tReg (.add 0 2 3) [(2, 1), (3, 2)] 0 0 := by decide +kernel

/-- R287, R352, R279, R280: counting, fields, rotation and selection. -/
theorem test_scalar_bits :
    tReg (.clz 1 2) [(2, 0)] 1 64 ∧ tReg (.clz 1 2) [(2, 1)] 1 63 ∧ tReg (.popc 1 2) [(2, 0xF0F)] 1 8 ∧ tReg (.bfx 1 2 8 3) [(2, 0xABCD)] 1 0xB ∧
    tReg (.bfi 1 2 8 3) [(1, 0xFFFF), (2, 0x5)] 1 0xF5FF ∧ tReg (.rot 1 2 3) [(2, 0x8000000000000001), (3, 1)] 1 3 ∧
    tReg (.sra 1 2 3) [(2, 0x8000000000000000), (3, 63)] 1 0xFFFFFFFFFFFFFFFF ∧ tReg (.shl 1 2 3) [(2, 1), (3, 64)] 1 1 := by decide +kernel

/-- The worked example of the divide with LA = 2: 6.0 / 2.0 is 3.0, and the old value stays until two more words complete (R99). -/
theorem test_divide_late :
    tNext (exec (.fdiv 5 3 4 2 .rne .fp64) (tRegs [(3, 0x4018000000000000), (4, 0x4000000000000000), (5, 0x3FF0000000000000)] tBase)) (fun t =>
      t.me.ctx.reg 5 == 0x3FF0000000000000 && t.me.ctx.lates == [⟨.scalar 5 0x4008000000000000, 3⟩]) = true ∧
    tReg (.fadd 6 5 5 .rne .fp64) [(5, 0x3FF0000000000000)] 6 0x4000000000000000 := by decide +kernel

/-- R62, R66: FP32 results: 1.0 + 2^-24 ties to even; a product with 0 times infinity is the canonical NaN. -/
theorem test_float_words :
    tReg (.fadd 1 2 3 .rne .fp32) [(2, 0x3F800000), (3, 0x33800000)] 1 0x3F800000 ∧
    tReg (.fadd 1 2 3 .rup .fp32) [(2, 0x3F800000), (3, 0x33800000)] 1 0x3F800001 ∧
    tReg (.fmul 1 2 3 .rne .fp32) [(2, 0), (3, 0x7F800000)] 1 0x7FC00000 ∧ tReg (.fsqrt 1 2 0 .rne .fp32) [(2, 0x40800000)] 1 0x40000000 ∧
    tReg (.fcvt 1 2 .fi32 .rtz .fp32) [(2, 0xC0200000)] 1 0xFFFFFFFFFFFFFFFE ∧ tReg (.fcmp 1 2 3 .lt .fp32) [(2, 0x7FC00000), (3, 0)] 1 0 := by
  decide +kernel

/-- R116, R227, R323, R371: a byte load extends with zeros; a store of a word is held in the chunk and is not committed yet. -/
theorem test_load_store :
    tNext (exec (.ld 0 .rlx 1 2 .b 0) { tMem with mem := { tMem.mem with bytes := [(0x40, 0xFE), (0x41, 1)] } }) (fun t => t.me.ctx.reg 1 == 0xFE) = true ∧
    tNext (exec (.ld 0 .rlx 1 2 .h 0) { tMem with mem := { tMem.mem with bytes := [(0x40, 0xFE), (0x41, 1)] } }) (fun t => t.me.ctx.reg 1 == 0x1FE) = true ∧
    tNext (exec (.st 0 .rlx 3 2 .w 1) tMem) (fun t => t.viewBytes [(0x44, 4)] == [5, 0, 0, 0] && byteAt t.mem.bytes 0x44 == 0) = true := by
  decide +kernel

/-- R110, R276, R113: `AADD` gives the old value and adds at once; in the worked example of the fixed sum the add of q = 0 gives 1.0 and word 1
becomes 1. -/
theorem test_atomics :
    tNext (exec (.aadd 0 0 1 2 3 .d) { tMem with mem := { tMem.mem with bytes := [(0x40, 7)] } }) (fun t =>
      t.me.ctx.reg 1 == 7 && byteAt t.mem.bytes 0x40 == 12) = true ∧
    tNext (exec (.afadd 0 0 1 2 3 .fp32) { tRegs [(3, 0x33800000)] tMem with mem := { tMem.mem with bytes := [(0x42, 0x80), (0x43, 0x3F)] } }) (fun t =>
      bytesAt t.mem.bytes 0x40 16 == [0, 0, 0x80, 0x3F, 0, 0, 0, 0, 1, 0, 0, 0, 0, 0, 0, 0]) = true := by decide +kernel

/-- R188, R190: an odd address is ALIGN; the handler at `TVEC` starts with the cause, the address and the place of the word. -/
theorem test_trap_entry :
    tNext (exec (.ld 0 .rlx 1 2 .d 0) ((tRegs [(2, tPtr 0x41)] tMem).modCtx fun c => { c with tvec := tPtr 0x200, pc := tPtr 0x100 })) (fun t =>
      t.me.ctx.cause == 3 && t.me.ctx.tval == tPtr 0x41 && t.me.ctx.tpc == tPtr 0x100 && t.me.ctx.pc == tPtr 0x200 && t.me.ctx.tin) = true := by
  decide +kernel

/-- R265, R279, R282: a branch target counts in bundles; `CALL` leaves the next bundle in s31. -/
theorem test_control :
    tNext (exec (.branch (-2)) (tBase.modCtx fun c => { c with pc := tPtr 0x100 })) (fun t => t.unit.taken == some (tPtr 0xF0, false)) = true ∧
    tNext (exec (.call 5) (tBase.modCtx fun c => { c with pc := tPtr 0x100 })) (fun t =>
      t.unit.taken == some (tPtr 0x128, false) && t.me.ctx.reg 31 == tPtr 0x108) = true := by decide +kernel

/-- A state with rows of tiles 2 and 3. -/
def tRows (x y : Row) : State := tBase.modCtx fun c => ((c.setRow 16 x).setRow 24 y)
/-- Row 0 of tile 1 after a word. -/
def tRow (i : Instr) (s : State) (v : Row) : Bool := tNext (exec i s) fun t => t.me.ctx.row 8 == v

/-- R383, R384, R397: lanes wrap on their own; a maximum of signed lanes; a lane select by its mask. -/
theorem test_vector_words :
    tRow (.vadd 1 2 3 0 0 .i8) (tRows 0x01FF 0x0102) 0x0201 ∧ tRow (.vsub 1 2 3 0 0 .i32) (tRows 0 1) 0xFFFFFFFF ∧
    tRow (.vmax 1 2 3 0 0 .i16) (tRows 0xFFFF0001 0x00010000) 0x00010001 ∧
    tRow (.vfma 1 2 3 0 0 .fp32) ((tRows 0x40000000 0x40400000).modCtx fun c => c.setRow 8 0x3F800000) 0x40E00000 ∧
    tRow (.vand 1 2 3 0 0 .i8) (tRows 0xF0F0 0xFF00) 0xF000 := by decide +kernel

/-- R99, R391: a narrow conversion that lands late leaves what was written meanwhile in the lanes it keeps. -/
theorem test_late_lanes :
    ((tBase.modCtx fun c => c.setRow 8 0x2222).land (.lanes [(8, 0x1111, 0xFF)])).me.ctx.row 8 = 0x2211 := by decide +kernel

/-- A queue of a deterministic job holds a record back while a lower `SEQ` may still come to it (R155, R349). -/
theorem test_next_record :
    let x := tPipe [tRec 1 (.queue 1), tRec 0 (.core 0)]
    x.nextRec true 1 = none ∧ x.nextRec false 1 = some (tRec 1 (.queue 1)) := by decide +kernel

/-- Superblock 0 of core 0's slice, pinned by job 2, which is off; its line is poisoned, and an open chunk of another core has read it. -/
def tSwap : State := { tWith { asid := 1, id := 2, stage := .off } tBase with
  mem := { tBase.mem with bytes := [(2 ^ 44, 7)], pins := [(0, 2 ^ 32 + 2)], poison := [2 ^ 38] }
  others := [(4, { act := .running, asid := 1, job := 1, chunk := { count := 1, reads := [2 ^ 38] } })] }

/-- An access by job 1 spills the superblock and pins it afresh, with zeros and no poison, and the chunk runs again; the access by job 2 finds its
bytes and the poison again (R89, R197, R201). -/
theorem test_superblock_swap :
    let s := tSwap.pinSegs (2 ^ 32 + 1) [(2 ^ 44, 8)]
    let t := s.pinSegs (2 ^ 32 + 2) [(2 ^ 44, 8)]
    s.mem.spills.length = 1 ∧ byteAt s.mem.bytes (2 ^ 44) = 0 ∧ s.mem.poison.contains (2 ^ 38) = false ∧
    (s.agent ⟨1, .main⟩).chunk.count = 0 ∧ byteAt t.mem.bytes (2 ^ 44) = 7 ∧ t.mem.poison.contains (2 ^ 38) = true ∧
    tabGet 0 t.mem.pins = some (2 ^ 32 + 2) := by decide +kernel

/-- R168, R169, R40: the worked example of the fold: 1.0 + 2^-24 + 2^-24 in order is 1.0. -/
theorem test_fold_order : foldPartials [0x3F800000, 0x33800000, 0x33800000] = 0x3F800000 := by decide +kernel

/-- A word placed after reset runs as the first instruction: `LI s3, -1`, and as the second word of a bundle `ADD`. -/
theorem test_placed_words :
    tNext (step (State.reset.withFetchWord 32 0xD01FFFFF)) (fun t => t.me.ctx.reg 3 == 0xFFFFFFFFFFFFFFFF && t.me.ctx.slot) = true ∧
    tNext (step (State.reset.withFetchWord 32 0x40088600)) (fun t => !t.me.ctx.slot && t.me.chunk.count == 1) = true := by decide +kernel
end

section
/-! Scalar integer words on plain registers (R264, R333): what each form's computation leaves, the values it writes as the rules state
them, and from both the statements about products, comparisons and bit fields. -/

namespace Sys2Proof.Machine

/-! ## Computations of the scalar forms -/

theorem State.Plain.subset {s : State} {rs qs : List Reg} (h : s.Plain rs) (hq : qs ⊆ rs) : s.Plain qs := fun r hr => h r (hq hr)

/-- A word whose arm of `exec` runs `m` ends in the state that `m` leaves. -/
theorem exec_ok {s t : State} {i : Instr} {m : M Unit} (harm : exec i s = runWord i m s) (h : s.Ready i) (hm : m s = .ok ((), t)) :
    exec i s = .next t :=
  harm.trans (runWord_ok h hm)

/-- A word that updates a plain register from its old value and one source. -/
theorem updateS_run {s : State} {f : Word → Word → Word} {d a : Reg} (h : s.Plain [d, a]) :
    updateS f d a s = .ok ((), s.withReg d (f (s.srcReg d) (s.srcReg a))) := by
  have hd := h.of_mem (r := d) (by simp)
  unfold updateS
  rw [bind_ok (unboundM_plain hd), bind_ok (readS_plain hd), bind_ok (readS_plain (h.of_mem (r := a) (by simp))), writeS_plain hd]

/-- A word of two sources on plain registers writes `d` and nothing else. -/
theorem exec_binaryS {s : State} {i : Instr} (f : Word → Word → Word) {d a b : Reg}
    (harm : exec i s = runWord i (binaryS f d a b) s) (hp : s.Plain [d, a, b]) (h : s.Ready i) :
    exec i s = .next (s.withReg d (f (s.srcReg a) (s.srcReg b))) :=
  exec_ok harm h (binaryS_run hp)

/-- A word of one source on plain registers writes `d` and nothing else. -/
theorem exec_unaryS {s : State} {i : Instr} (f : Word → Word) {d a : Reg} (harm : exec i s = runWord i (unaryS f d a) s)
    (hp : s.Plain [d, a]) (h : s.Ready i) : exec i s = .next (s.withReg d (f (s.srcReg a))) :=
  exec_ok harm h (unaryS_run hp)

/-! ## Values -/

/-- R360: a rotation by a count below 64 joins the two shifted parts. -/
theorem rotateLeft_shiftCount (x y : Word) :
    x.rotateLeft (shiftCount y) = (x <<< (y.toNat % 64)) ||| (x >>> (64 - y.toNat % 64)) := by
  rw [BitVec.rotateLeft_def, shiftCount, Nat.mod_mod]

/-- R240: not below is at least, signed. -/
theorem condHolds_ge (x y : Word) : condHolds .ge x y = y.sle x := BitVec.sle_eq_not_slt.symm

/-- R240: not below is at least, as natural numbers. -/
theorem condHolds_geu (x y : Word) : condHolds .geu x y = y.ule x := (BitVec.ule_eq_not_ult y x).symm

/-- The bits of a number below `n + 1` are its lowest bit and, one place up, those of its half. -/
theorem length_filter_testBit_succ (x n : Nat) :
    ((List.range (n + 1)).filter x.testBit).length = x % 2 + ((List.range n).filter (x / 2).testBit).length := by
  have hhalf : x.testBit ∘ Nat.succ = (x / 2).testBit := funext (Nat.testBit_succ x)
  rw [List.range_succ_eq_map, List.filter_cons, List.filter_map, hhalf, Nat.testBit_zero]
  rcases Nat.mod_two_eq_zero_or_one x with h | h <;> simp [h, Nat.add_comm]

/-- R352: `setBits` counts the places below `n` that hold a 1. -/
theorem setBits_eq_length_filter (x n : Nat) : setBits x n = ((List.range n).filter x.testBit).length := by
  induction n generalizing x with
  | zero => rfl
  | succ n ih => rw [setBits, ih, length_filter_testBit_succ]

/-- R287: the count of leading zeros bounds the operand on both sides; a zero operand has 64. -/
theorem leadingZeros_spec (x : Word) :
    ∃ n : Nat, leadingZeros x = BitVec.ofNat 64 n ∧ n ≤ 64 ∧ x.toNat < 2 ^ (64 - n) ∧ (n < 64 → 2 ^ (63 - n) ≤ x.toNat) := by
  by_cases hx : x = 0
  · exact ⟨64, if_pos hx, le_rfl, by simp [hx], fun h => absurd h (lt_irrefl 64)⟩
  · have hne : x.toNat ≠ 0 := fun h => hx (BitVec.eq_of_toNat_eq h)
    have hlog : x.toNat.log2 < 64 := (Nat.log2_lt hne).mpr x.isLt
    have htop : 64 - (63 - x.toNat.log2) = x.toNat.log2 + 1 := by omega
    have hlow : 63 - (63 - x.toNat.log2) = x.toNat.log2 := by omega
    refine ⟨63 - x.toNat.log2, if_neg hx, by omega, ?_, fun _ => ?_⟩
    · rw [htop]; exact Nat.lt_log2_self
    · rw [hlow]; exact Nat.log2_self_le hne

/-- A pointer put together from a handle and an offset. -/
theorem toNat_ofNat_ptr {h o : Nat} (hh : h < 2 ^ 12) (ho : o < 2 ^ 52) : (BitVec.ofNat 64 (h * 2 ^ 52 + o)).toNat = h * 2 ^ 52 + o := by
  rw [BitVec.toNat_ofNat]
  omega

/-- R326: a moved pointer keeps its handle, and its offset wraps modulo 2^52. -/
theorem ptrMove_spec (p : Word) (v : Int) :
    handleOf (ptrMove p v) = handleOf p ∧ (offsetOf (ptrMove p v) : Int) = ((offsetOf p : Int) + v) % 2 ^ 52 := by
  have hh : handleOf p < 2 ^ 12 := Nat.mod_lt _ (by decide)
  have ho : (((offsetOf p : Int) + v) % 2 ^ 52).toNat < 2 ^ 52 := by omega
  have hp := toNat_ofNat_ptr hh ho
  constructor
  · show (ptrMove p v).toNat / 2 ^ 52 % 2 ^ 12 = _
    rw [ptrMove, hp]
    omega
  · show (((ptrMove p v).toNat / 2 ^ 0 % 2 ^ 52 : Nat) : Int) = _
    rw [ptrMove, hp]
    omega

/-! ## The words with computations of their own -/

/-- R363: every source is read, and the third chooses. -/
theorem exec_sel_plain {s : State} {d a b c : Reg} (hp : s.Plain [d, a, b, c]) (h : s.Ready (.sel d a b c)) :
    exec (.sel d a b c) s = .next (s.withReg d (if s.srcReg c ≠ 0 then s.srcReg a else s.srcReg b)) := by
  refine exec_ok rfl h ?_
  rw [bind_ok (readS_plain (hp.of_mem (r := a) (by simp))), bind_ok (readS_plain (hp.of_mem (r := b) (by simp))),
    bind_ok (readS_plain (hp.of_mem (r := c) (by simp))), writeS_plain (hp.of_mem (r := d) (by simp)), ite_not]

/-- R327: the immediate joins the old value from below. -/
theorem exec_liHi_plain {s : State} {d : Reg} {l : BitVec 19} (hp : s.Plain [d]) (h : s.Ready (.liHi d l)) :
    exec (.liHi d l) s = .next (s.withReg d ((s.srcReg d <<< 19) ||| l.zeroExtend 64)) := by
  have hd := hp.of_mem (r := d) (by simp)
  refine exec_ok rfl h ?_
  rw [bind_ok (unboundM_plain hd), bind_ok (readS_plain hd), writeS_plain hd]

/-! ## The statements -/

/-- Settles O4: each word is one of the plain forms, and its value is as `leadingZeros_spec`, `setBits_eq_length_filter` and
`ptrMove_spec` say. -/
theorem scalarBits : Obligations.ScalarBits := by
  unfold Obligations.ScalarBits
  intro s d a b c p w i l hp
  have hda : s.Plain [d, a] := hp.subset (by simp)
  refine ⟨fun h => ?clz, fun h => ?popc, exec_unaryS (extractField p w) rfl hda, fun h => exec_ok rfl h (updateS_run hda),
    exec_sel_plain hp, fun h => exec_ok rfl h (writeS_plain (hp.of_mem (by simp))), exec_liHi_plain (hp.subset (by simp)),
    fun h => ?lea⟩
  case clz =>
    obtain ⟨n, hn, hbounds⟩ := leadingZeros_spec (s.srcReg a)
    refine ⟨n, ?_, hbounds⟩
    rw [exec_unaryS leadingZeros rfl hda h, hn]
  case popc =>
    have hcount : setBits (s.srcReg a).toNat 64 = ((List.range 64).filter fun k => (s.srcReg a).getLsbD k).length :=
      setBits_eq_length_filter _ 64
    rw [exec_unaryS (fun x => BitVec.ofNat 64 (setBits x.toNat 64)) rfl hda h, hcount]
  case lea => exact ⟨_, exec_unaryS (ptrMove · i.toInt) rfl hda h, ptrMove_spec _ _⟩

/-- Settles O1: every word computes one function of two registers, or of one register and its immediate, on plain registers. -/
theorem scalarArithmetic : Obligations.ScalarArithmetic := by
  unfold Obligations.ScalarArithmetic
  intro s d a b i hp
  have hda : s.Plain [d, a] := hp.subset (by simp)
  exact ⟨exec_binaryS (· - ·) rfl hp, exec_binaryS (· * ·) rfl hp, exec_binaryS mulHigh rfl hp, exec_binaryS mulHighU rfl hp,
    exec_binaryS (· &&& ·) rfl hp, exec_unaryS (· &&& sext14 i) rfl hda, exec_binaryS (· &&& ~~~·) rfl hp,
    exec_binaryS (· ||| ·) rfl hp, exec_unaryS (· ||| sext14 i) rfl hda,
    exec_binaryS (· ^^^ ·) rfl hp, exec_unaryS (· ^^^ sext14 i) rfl hda,
    exec_binaryS (· <<< shiftCount ·) rfl hp, exec_binaryS (· >>> shiftCount ·) rfl hp,
    exec_binaryS (fun x y => x.sshiftRight (shiftCount y)) rfl hp⟩

/-- Settles O2: the same forms, with the conditions of R240 and the two parts of a rotation. -/
theorem scalarCompare : Obligations.ScalarCompare := by
  unfold Obligations.ScalarCompare
  intro s d a b i u c hp
  have hda : s.Plain [d, a] := hp.subset (by simp)
  refine ⟨exec_binaryS (· + ·) rfl hp, exec_unaryS (· + sext14 i) rfl hda, exec_binaryS (minOf u) rfl hp,
    exec_binaryS (maxOf u) rfl hp, fun h => ?cmp, exec_unaryS (fun x => x) rfl hda, fun h => ?rot⟩
  case cmp =>
    rw [exec_binaryS (fun x y => boolWord (condHolds c x y)) rfl hp h]
    cases c with
    | ge => rw [condHolds_ge]; rfl
    | geu => rw [condHolds_geu]; rfl
    | eq | ne | lt | ltu | bit | nbit => rfl
  case rot => rw [exec_binaryS (fun x y => x.rotateLeft (shiftCount y)) rfl hp h, rotateLeft_shiftCount]

end Sys2Proof.Machine
end

section
/-! Quotient and remainder (R297, R355): away from a zero divisor, the model's values are the machine-word division and remainder of the
library, natural or signed. -/

namespace Sys2Proof.Machine

/-! ## Values -/

/-- R297: a zero divisor gives all ones in both forms. -/
theorem quotient_zero (u : Bool) (x : Word) : quotient u x 0 = BitVec.allOnes 64 := if_pos rfl

/-- R297: the natural quotient; it is at most the dividend, so its 64 bits hold it. -/
theorem quotient_natural {x y : Word} (hy : y ≠ 0) : quotient true x y = x / y := by
  rw [quotient, if_neg hy, if_pos rfl, ← BitVec.toNat_udiv, BitVec.ofNat_toNat, BitVec.setWidth_eq]

/-- R297: the signed quotient, truncated toward zero and then to 64 bits. -/
theorem quotient_signed {x y : Word} (hy : y ≠ 0) : quotient false x y = x.sdiv y := by
  rw [quotient, if_neg hy, if_neg Bool.false_ne_true]
  apply BitVec.eq_of_toInt_eq
  rw [BitVec.toInt_ofInt, BitVec.toInt_sdiv]

/-- R355: a zero divisor gives the dividend in both forms. -/
theorem remainder_zero (u : Bool) (x : Word) : remainder u x 0 = x := if_pos rfl

/-- R355: the natural remainder. -/
theorem remainder_natural {x y : Word} (hy : y ≠ 0) : remainder true x y = x % y := by
  rw [remainder, if_neg hy, if_pos rfl, ← BitVec.toNat_umod, BitVec.ofNat_toNat, BitVec.setWidth_eq]

/-- R355: the signed remainder, with the sign of the dividend. -/
theorem remainder_signed {x y : Word} (hy : y ≠ 0) : remainder false x y = x.srem y := by
  rw [remainder, if_neg hy, if_neg Bool.false_ne_true, ← BitVec.toInt_srem, BitVec.ofInt_toInt]

/-! ## The cases of the rules -/

/-- R297: the cases of `DIV`; only the most negative number over -1 has a quotient that 64 signed bits do not hold. -/
theorem quotient_spec (u : Bool) (x y : Word) :
    (y = 0 → quotient u x y = 0xFFFFFFFFFFFFFFFF) ∧
    (y ≠ 0 → u = true → (quotient u x y).toNat = x.toNat / y.toNat) ∧
    (y ≠ 0 → u = false → x = 0x8000000000000000 → y = 0xFFFFFFFFFFFFFFFF → quotient u x y = 0x8000000000000000) ∧
    (y ≠ 0 → u = false → ¬(x = 0x8000000000000000 ∧ y = 0xFFFFFFFFFFFFFFFF) →
      (quotient u x y).toInt = x.toInt.tdiv y.toInt) := by
  refine ⟨?zero, ?natural, ?corner, ?signed⟩
  case zero => rintro rfl; exact quotient_zero u x
  case natural => rintro hy rfl; rw [quotient_natural hy, BitVec.toNat_udiv]
  case corner => rintro hy rfl rfl rfl; rw [quotient_signed hy]; decide
  case signed =>
    rintro hy rfl hfits
    rw [quotient_signed hy]
    exact BitVec.toInt_sdiv_of_ne_or_ne x y (not_and_or.mp hfits)

/-- R355: the cases of `REM`; the most negative number over -1 needs none of its own, since its remainder 0 is that of the integers. -/
theorem remainder_spec (u : Bool) (x y : Word) :
    (y = 0 → remainder u x y = x) ∧
    (y ≠ 0 → u = true → (remainder u x y).toNat = x.toNat % y.toNat) ∧
    (y ≠ 0 → u = false → (remainder u x y).toInt = x.toInt.tmod y.toInt) := by
  refine ⟨?zero, ?natural, ?signed⟩
  case zero => rintro rfl; exact remainder_zero u x
  case natural => rintro hy rfl; rw [remainder_natural hy, BitVec.toNat_umod]
  case signed => rintro hy rfl; rw [remainder_signed hy, BitVec.toInt_srem]

/-! ## The statement -/

/-- Settles O3: both words are of the plain two-source form, and their values are as `quotient_spec` and `remainder_spec` say. -/
theorem divRem : Obligations.DivRem := by
  unfold Obligations.DivRem
  intro s d a b u hp
  exact ⟨fun h => ⟨_, exec_binaryS (quotient u) rfl hp h, quotient_spec u _ _⟩,
    fun h => ⟨_, exec_binaryS (remainder u) rfl hp h, remainder_spec u _ _⟩⟩

end Sys2Proof.Machine
end

section
/-! Outcomes of single words, beside `exec_ok`: a word that traps or stops, and what the small checks of a word do when they fail. -/

namespace Sys2Proof.Machine

/-- A word whose arm of `exec` runs `m` takes the trap that `m` raises. -/
theorem exec_trap {s : State} {i : Instr} {m : M Unit} {c : Cause} {v : Word} (harm : exec i s = runWord i m s) (h : s.Ready i)
    (hm : m s = .error (.trap c v)) : exec i s = .next (s.takeTrap c v) :=
  harm.trans (runWord_trap h hm)

/-- A word whose arm of `exec` runs `m` stops as `m` does. -/
theorem exec_stop {s : State} {i : Instr} {m : M Unit} {x : Stop} (harm : exec i s = runWord i m s) (h : s.Ready i)
    (hm : m s = .error x) : exec i s = s.stopAt x :=
  harm.trans (runWord_stop h hm)

theorem needM_error {b : Bool} {x : Stop} {s : State} (h : b = false) : needM b x s = .error x := by simp [needM, h]

@[simp] theorem trapM_run {α : Type} (c : Cause) (v : Word) (s : State) : (trapM c v : M α) s = .error (.trap c v) := rfl

@[simp] theorem streamM_run {α : Type} (code : Nat) (s : State) :
    (streamM code : M α) s = .error (.trap .stream (BitVec.ofNat 64 code)) := rfl

@[simp] theorem illegalM_run {α : Type} (s : State) : (illegalM : M α) s = .error (.trap .illegal (s.unit.word.zeroExtend 64)) := rfl

theorem legalM_error {b : Bool} {s : State} (h : b = false) :
    legalM b s = .error (.trap .illegal (s.unit.word.zeroExtend 64)) := by simp [legalM, h]

theorem systemM_error {s : State} (h : s.me.ctx.tin = false) : systemM s = .error (.trap .priv (s.unit.word.zeroExtend 64)) := by
  simp [systemM, Ctx.system, h]

theorem ownM_again {s : State} (h : s.me.chunk.count ≠ 0) : ownM s = .error .again := by simp [ownM, h]

/-- A word that forms a chunk of its own starts on `s.alone`. -/
theorem ownM_alone {s : State} (h : s.me.chunk.count = 0) : ownM s = .ok ((), s.alone) := ownM_ok h

theorem unboundM_bound {s : State} {r : Reg} {i : Fin 4} {b : Binding} (h : s.me.ctx.bindOf r.toNat = some (i, b)) :
    unboundM r s = .error (.trap .stream (BitVec.ofNat 64 b.code)) := by
  unfold unboundM
  rw [bind_ok (getM_run _ s), h]
  rfl

/-- A check made only under a condition lets the word go on where it passes under that condition. -/
theorem guarded_ok {α : Type} {b : Prop} [Decidable b] {g : M Unit} {k : Unit → M α} {s : State} (h : b → g s = .ok ((), s)) :
    (if b then g >>= fun r => k r else k ()) s = k () s := by
  split
  · next hb => rw [bind_ok (h hb)]
  · rfl

/-- The registers of a context are read from its register file alone. -/
theorem Ctx.reg_congr {c d : Ctx} (h : c.regs = d.regs) (r : Reg) : c.reg r = d.reg r := by simp only [Ctx.reg, h]

/-! ## The banks of `s24`–`s31` (R60, R191) -/

/-- The bank put in place of `s24`–`s31` is what they hold. -/
theorem Ctx.upper_setUpper (c : Ctx) (v : Vector Word 8) : (c.setUpper v).upper = v := by
  apply Vector.ext
  intro i hi
  simp [Ctx.upper, Ctx.setUpper]

/-- Registers below `s24` are not banked. -/
theorem Ctx.reg_setUpper_low (c : Ctx) (v : Vector Word 8) {r : Reg} (h : r.toNat < 24) : (c.setUpper v).reg r = c.reg r := by
  have h24 : ¬ 24 ≤ r.toNat := by omega
  simp [Ctx.reg, Ctx.setUpper, h24]

/-- Registers from `s24` on read the bank put in their place. -/
theorem Ctx.reg_setUpper_high (c : Ctx) (v : Vector Word 8) {r : Reg} (h : 24 ≤ r.toNat) :
    (c.setUpper v).reg r = v[r.toNat - 24]'(by have := r.isLt; omega) := by
  have h0 : r ≠ 0 := by rintro rfl; exact absurd h (by decide)
  rw [Ctx.reg, if_neg h0]
  simp [Ctx.setUpper, h]

/-! ## Pointers of bundles do not look at a context -/

@[simp] theorem bundlePtr_modCtx (s : State) (f : Ctx → Ctx) (p : Word) : (s.modCtx f).bundlePtr p = s.bundlePtr p := by
  unfold State.bundlePtr; rfl

@[simp] theorem bundleAt_modCtx (s : State) (f : Ctx → Ctx) (p : Word) (n : Int) : (s.modCtx f).bundleAt p n = s.bundleAt p n := by
  unfold State.bundleAt; simp

end Sys2Proof.Machine
end

section
/-! Control flow, loops, fences and the two handlers (R60, R188–R192, R277–R282, R286, R303, R317, R322, R330–R332, R358, R381, R382). -/

namespace Sys2Proof.Machine

/-! ## Registers and illegal words -/

/-- Settles O5: a write replaces one place of the register file, and none for `s0`. -/
theorem registerFile : Obligations.RegisterFile := by
  unfold Obligations.RegisterFile
  intro s r q v
  have hkeep : (s.me.ctx.setReg r v).tiles = s.me.ctx.tiles ∧ (s.me.ctx.setReg r v).pc = s.me.ctx.pc ∧
      (s.me.ctx.setReg r v).tcause = s.me.ctx.tcause ∧ (s.me.ctx.setReg r v).uimask = s.me.ctx.uimask := by
    unfold Ctx.setReg; split <;> exact ⟨rfl, rfl, rfl, rfl⟩
  obtain ⟨htiles, hpc, htcause, huimask⟩ := hkeep
  exact ⟨rfl, rfl, Ctx.reg_setReg_same _ v, Ctx.reg_setReg_other _ v, htiles, hpc, htcause, huimask, rfl, rfl⟩

/-- Every arm of the dispatch but those of the events runs its word by the conventions of `runWord`. -/
theorem exec_word (i : Instr) (hword : i.isEvent = false) (s : State) : ∃ m, exec i s = runWord i m s := by
  cases i with
  | nop la => exact ⟨pure (), rfl⟩
  | branch o => exact ⟨getM (fun s => s.bundleAt s.me.ctx.pc o.toInt) >>= fun t => branchM t true, rfl⟩
  | chunk la => exact ⟨modM fun s => { s with unit := { s.unit with ends := true } }, rfl⟩
  | sfree la n => exact ⟨modM fun s => s.modCtx fun c => if (c.binds[n.toNat]).isNone then c else
      { c with binds := c.binds.set n.toNat none n.isLt, dirty := c.dirty ||| 2 ^ (48 + n.toNat) }, rfl⟩
  | afaddHoldTimeout | stageQueueRoom | speedwellRoute | deferredEffects | pipelineCoreMove | groupItemArrive | groupResultArrive
    | groupAck | groupTimeout | lateNoticeArrive | routeNoticeArrive | slackWindow | orderedInject | orderedPacketArrive
    | orderedBeacon | orderedDeliver | closeBeaconArrive | watermarkStall | messageArrive | lateResultLand | commitGrant
    | userInterruptEntry | waitEvaluate | waitTimeout | waitTableSummary | barComplete | voteCommit | coreWake | coreGate
    | tableRecheckDone | presetLoad | takeSlot | spanPlace | spanWait1ms | bagRecordEnter | recordReady | claimRecord | jobComplete
    | jobQueueReady | engineIssue | engineStep | engineComplete | copyIssue | copyRow | copyComplete | park | unpark | jobMove
    | felrilLinkDeath | peerAccessArrive | releasePerformed | peerLoadTimeout | directoryHandlerTurn | saveComplete | thermalReading
    | throttleStep | hbmRefresh | ballastWindow | softError | packageReset | partitionGoLive | jsregWrite | apertureRead
    | apertureWrite | apertureTaggedWrite | herrClear | hcellClear | dbgRead | mgmtRegisterWrite | preemptSpan | resumeSpan
    | translationShootdown | thaw | declarePortOut | reenableDelivery | contain | tearDown | attest | hcmdUnknownCode
    | peerStoreUnreachable | peerAccessReply => cases hword
  | _ => exact ⟨_, rfl⟩

/-- Settles O6: the conventions that hold for every word look at operand limits and the scalar subset before anything else. -/
theorem illegalWord : Obligations.IllegalWord := by
  unfold Obligations.IllegalWord
  intro s i hword hbad
  obtain ⟨m, hm⟩ := exec_word i hword s
  rw [hm]
  refine runWord_illegal ?_
  rcases hbad with hwf | ⟨hkind, hsub⟩
  · simp [State.mayRun, hwf]
  · simp [State.mayRun, hsub, hkind]

/-! ## Branches -/

/-- R265: a bundle pointer moved by whole bundles keeps its handle, and its offset wraps modulo 2^52. -/
theorem bundleAt_spec {s : State} (hk : s.cur.kind = .main) (p : Word) (n : Int) :
    handleOf (s.bundleAt p n) = handleOf p ∧ (s.bundleAt p n).toNat % 8 = 0 ∧
      (offsetOf p % 8 = 0 → (offsetOf (s.bundleAt p n) : Int) = ((offsetOf p : Int) + 8 * n) % 2 ^ 52) := by
  have hh : handleOf p < 2 ^ 12 := Nat.mod_lt _ (by decide)
  have ho : (((offsetOf p : Int) + 8 * n) % 2 ^ 52).toNat < 2 ^ 52 := by omega
  have hq := toNat_ofNat_ptr hh ho
  have hb : (s.bundleAt p n).toNat = (handleOf p * 2 ^ 52 + (((offsetOf p : Int) + 8 * n) % 2 ^ 52).toNat) / 8 * 8 := by
    rw [State.bundleAt, State.bundlePtr, if_pos hk, hq, BitVec.toNat_ofNat]
    omega
  refine ⟨?handle, by omega, fun h8 => ?offset⟩
  case handle =>
    show (s.bundleAt p n).toNat / 2 ^ 52 % 2 ^ 12 = _
    omega
  case offset =>
    show (((s.bundleAt p n).toNat / 2 ^ 0 % 2 ^ 52 : Nat) : Int) = _
    omega

/-- Settles O10: each branch is `branchM` to its target, and pointers of bundles move as `bundleAt_spec` says. -/
theorem branches : Obligations.Branches := by
  unfold Obligations.Branches
  intro s o q c a b la
  refine ⟨fun h => exec_ok (m := pure ()) rfl h rfl,
    fun h => exec_ok (m := getM (fun s => s.bundleAt s.me.ctx.pc o.toInt) >>= fun t => branchM t true) rfl h rfl,
    fun h hp => exec_ok rfl h ?call, fun h hp hc => exec_ok rfl h ?taken,
    fun h hp hc => exec_ok rfl h ?untaken, fun p n hk => bundleAt_spec hk p n⟩
  case call =>
    rw [bind_ok (getM_run _ s), bind_ok (getM_run _ s), bind_ok (writeS_plain (hp.of_mem (by simp)))]
    rfl
  case taken =>
    rw [bind_ok (readS_plain (hp.of_mem (r := a) (by simp))), bind_ok (readS_plain (hp.of_mem (r := b) (by simp))),
      bind_ok (getM_run _ s), if_pos hc]
    rfl
  case untaken =>
    rw [bind_ok (readS_plain (hp.of_mem (r := a) (by simp))), bind_ok (readS_plain (hp.of_mem (r := b) (by simp))),
      bind_ok (getM_run _ s), if_neg (by simp [hc])]
    rfl

/-- R322: a jump to a bundle, where its pointer is aligned. -/
theorem jumpM_aligned {s : State} {a : Reg} (hp : s.Plain [a]) (h8 : (s.srcReg a).toNat % 8 = 0) :
    jumpM a s = .ok ((), s.branched (s.bundlePtr (s.srcReg a)) true) := by
  unfold jumpM
  rw [bind_ok (readS_plain (hp.of_mem (by simp))), bind_ok (needM_ok (by simpa using h8)), bind_ok (getM_run _ s)]
  rfl

/-- R322: ALIGN where its pointer is not. -/
theorem jumpM_unaligned {s : State} {a : Reg} (hp : s.Plain [a]) (h8 : (s.srcReg a).toNat % 8 ≠ 0) :
    jumpM a s = .error (.trap .align (s.srcReg a)) := by
  unfold jumpM
  rw [bind_ok (readS_plain (hp.of_mem (by simp))), bind_error (needM_error (by simpa using h8))]

/-- R244, R381: a `TRAP` of an unassigned cause breaks its operand limit. -/
theorem trap_wf_false (la : BitVec 4) (a : Reg) {code : BitVec 8} (h : Cause.ofCode code.toNat = none) :
    (Instr.trap la a code).wf = false := by
  have : ∀ code : BitVec 8, Cause.ofCode code.toNat = none → (Instr.trap 0 0 code).wf = false := by decide
  exact this code h

/-- Settles O11: the two jumps are `jumpM`, and `TRAP` raises what its code names. -/
theorem jumpsAndTraps : Obligations.JumpsAndTraps := by
  unfold Obligations.JumpsAndTraps
  intro s la a code
  refine ⟨fun h hp h8 => exec_ok rfl h (jumpM_aligned hp h8), fun h hp h8 => exec_trap rfl h (jumpM_unaligned hp h8),
    fun h hp h8 => exec_ok rfl h (jumpM_aligned hp h8), fun k h hp hk => exec_trap rfl h ?named, fun hnone => ?unnamed⟩
  case named =>
    rw [bind_ok (readS_plain (hp.of_mem (by simp))), hk]
    rfl
  case unnamed =>
    exact illegalWord s _ rfl (.inl (trap_wf_false la a hnone))

/-! ## Loops (R330, R331) -/

/-- `LOOP` on a plain register whose level fits asks for it, with the count it read where it stands in a pair. -/
theorem loop_run {s : State} {la : BitVec 4} {a : Reg} {n : BitVec 10} (h : s.Ready (.loop la a n)) (hp : s.Plain [a])
    (hfit : levelFits ⟨s.bundleAt s.me.ctx.pc 1, s.bundleAt s.me.ctx.pc n.toNat, a⟩ s.me.ctx.levels = true) :
    exec (.loop la a n) s = .next (s.modCtx fun c => { c with loopReq := c.loopReq ++
      [⟨⟨s.bundleAt s.me.ctx.pc 1, s.bundleAt s.me.ctx.pc n.toNat, a⟩, if s.unit.paired then some (s.srcReg a) else none⟩] }) := by
  have ha := hp.of_mem (r := a) (by simp)
  refine exec_ok rfl h ?_
  rw [bind_ok (unboundM_plain ha), bind_ok (readS_plain ha), bind_ok (getM_run _ s), bind_ok (getM_run _ s), bind_ok (legalM_ok hfit)]
  rfl

/-- A level that does not fit is ILLEGAL. -/
theorem loop_illegal {s : State} {la : BitVec 4} {a : Reg} {n : BitVec 10} (h : s.Ready (.loop la a n)) (hp : s.Plain [a])
    (hfit : levelFits ⟨s.bundleAt s.me.ctx.pc 1, s.bundleAt s.me.ctx.pc n.toNat, a⟩ s.me.ctx.levels = false) :
    exec (.loop la a n) s = .next (s.takeTrap .illegal (s.unit.word.zeroExtend 64)) := by
  have ha := hp.of_mem (r := a) (by simp)
  refine exec_trap rfl h ?_
  rw [bind_ok (unboundM_plain ha), bind_ok (readS_plain ha), bind_ok (getM_run _ s), bind_ok (getM_run _ s),
    bind_error (legalM_error hfit)]

/-- A count of 0, kept or read now (log entry 8), skips the body. -/
theorem pushLoops_skip {s : State} {r : LoopReq} {c : Ctx} {q : Word} (h : r.count.getD (c.reg r.level.cnt) = 0) :
    pushLoops s [r] (c, q) = (c, s.bundleAt r.level.last 1) := by
  simp [pushLoops, h]

/-- Any other count enters it. -/
theorem pushLoops_enter {s : State} {r : LoopReq} {c : Ctx} {q : Word} (h : r.count.getD (c.reg r.level.cnt) ≠ 0) :
    pushLoops s [r] (c, q) = ({ c with loops := r.level :: c.loops }, r.level.first) := by
  simp only [pushLoops]
  rw [if_neg h]

/-- A bundle that ends with one `LOOP` and no level in use does what that `LOOP` asks. -/
theorem endBundle_one {s : State} {r : LoopReq} (hl : s.me.ctx.loops = []) (hr : s.me.ctx.loopReq = [r]) :
    let v := r.count.getD (s.me.ctx.reg r.level.cnt)
    let t := s.endBundle
    t.me.ctx.loopReq = [] ∧ t.me.ctx.slot = false ∧ t.me.ctx.regs = s.me.ctx.regs ∧ t.mem = s.mem ∧
      (v = 0 → t.me.ctx.pc = s.bundleAt r.level.last 1 ∧ t.me.ctx.loops = []) ∧
      (v ≠ 0 → t.me.ctx.pc = r.level.first ∧ t.me.ctx.loops = [r.level]) := by
  intro v t
  have ht : t = s.modCtx fun _ =>
      let x := pushLoops s [r] ({ s.me.ctx with loops := [] }, s.bundleAt s.me.ctx.pc 1)
      { x.1 with loopReq := [], pc := x.2, slot := false } := by
    simp only [t, State.endBundle, hl, endLoops, hr, Option.getD_none]
  rw [ht]
  by_cases hv : v = 0
  · simp only [pushLoops_skip (c := { s.me.ctx with loops := [] }) hv]
    exact ⟨rfl, rfl, rfl, rfl, fun _ => ⟨rfl, rfl⟩, fun h => absurd hv h⟩
  · simp only [pushLoops_enter (c := { s.me.ctx with loops := [] }) hv]
    exact ⟨rfl, rfl, rfl, rfl, fun h => absurd h hv, fun _ => ⟨rfl, rfl⟩⟩

/-- Settles O12: `loop_run` and `loop_illegal` give the word, `endLoops` and `pushLoops` the end of its bundle. -/
theorem loops : Obligations.Loops := by
  unfold Obligations.Loops
  refine ⟨fun s la a n h => ⟨?lone, ?paired, loop_illegal h, ?bound⟩, fun l x y zs => ⟨rfl, ?fits, rfl⟩, fun s r c q => ?push,
    fun c l ls pc => ⟨?beyond, ?again, ?last, rfl⟩, fun s r hl hr => ?bundle⟩
  case lone => intro hp hfit hu; rw [loop_run h hp hfit, hu]; rfl
  case paired => intro hp hfit hu; rw [loop_run h hp hfit, hu]; rfl
  case bound => intro i b hb; exact exec_trap rfl h (bind_error (unboundM_bound hb))
  case fits => simp [levelFits]
  case push =>
    obtain ⟨l, _ | v⟩ := r
    · exact ⟨pushLoops_skip (r := ⟨l, none⟩), pushLoops_enter (r := ⟨l, none⟩), fun _ h0 => by rw [h0]; rfl⟩
    · exact ⟨pushLoops_skip (r := ⟨l, some v⟩), pushLoops_enter (r := ⟨l, some v⟩), nofun⟩
  case beyond => intro h; simp [endLoops, h]
  case again => intro h h2; have : ¬ (c.reg l.cnt).toNat ≤ 1 := by omega
                simp [endLoops, h, this]
  case last => intro h h1; simp [endLoops, h, h1]
  case bundle => obtain ⟨l, _ | v⟩ := r <;> exact endBundle_one hl hr

/-! ## Fences -/

/-- A fence with every outside access performed and none failed lets its word go on. -/
theorem fenceM_ok {s : State} (herr : s.me.err = none) (hall : s.allPerformed = true) : fenceM s = .ok ((), s) := by
  unfold fenceM
  rw [bind_ok (releaseM_ok (.inl herr)), bind_ok (getM_run _ s), if_pos hall]
  rfl

/-- Settles O13: both words mark their unit as one that ends its chunk. -/
theorem chunkAndFence : Obligations.ChunkAndFence := by
  unfold Obligations.ChunkAndFence
  intro s la
  exact ⟨fun h => exec_ok (m := modM fun s => { s with unit := { s.unit with ends := true } }) rfl h rfl,
    fun h herr hall => exec_ok rfl h (bind_ok (fenceM_ok herr hall))⟩

/-! ## Traps -/

/-- Without a late result in flight nothing lands. -/
theorem landAll_nil {s : State} (h : s.me.ctx.lates = []) : s.landAll = s := by simp [State.landAll, h]

/-- Without an open chunk there is nothing to grant. -/
theorem grant_closed {s : State} (h : s.me.chunk.count = 0) : s.grant = s := by simp [State.grant, h]

/-- No reservation stands against an empty set of lines. -/
theorem reserved_nil (s : State) : s.reserved [] = false := by
  simp [State.reserved, Agent.conflicts, meets_nil]

/-- The grant of an empty chunk waits for nothing. -/
theorem grantWaits_empty {s : State} (h : s.me.chunk = {}) : s.grantWaits = false := by
  simp [State.grantWaits, State.grantLines, h, reserved_nil]

/-- What stands before a trap where no chunk is open and no late result in flight: the agent runs, and nothing but its marks has changed. -/
theorem beforeTrap_closed {s : State} (k : Cause) (v : Word) (hc : s.me.chunk = {}) (hl : s.me.ctx.lates = []) :
    ∃ b, s.beforeTrap k v = b ∧ b.me.ctx = s.me.ctx ∧ b.me.act = .running ∧ b.cur = s.cur ∧ b.mem = s.mem ∧ b.others = s.others ∧
      b.jobs = s.jobs ∧ b.host = s.host := by
  refine ⟨_, rfl, ?_⟩
  unfold State.beforeTrap
  rw [landAll_nil hl, grant_closed (by simp [hc])]
  exact ⟨rfl, rfl, rfl, rfl, rfl, rfl, rfl⟩

/-- R188–R191: a trap that is not fatal, with nothing of the chunk and no late result standing, enters the handler. -/
theorem takeTrap_enter {s : State} {k : Cause} (v : Word) (hc : s.me.chunk = {}) (hl : s.me.ctx.lates = [])
    (hf : s.me.ctx.fatal k = false) : s.takeTrap k v = ((s.beforeTrap k v).enterTrap k v s.unitPtr).endAs (.trapped k v) := by
  obtain ⟨b, hb, hctx, -⟩ := beforeTrap_closed k v hc hl
  rw [State.takeTrap, grantWaits_empty hc, if_neg (by simp), hb, hctx, if_neg (by simp [hf])]

/-- The handler's context (R190, R191). -/
def Ctx.entered (c : Ctx) (bank : Vector Word 8) (vec : Word) (k : Cause) (v tpc : Word) : Ctx :=
  { ((c.recordTrap k v tpc).setUpper bank).setAside with trapSave := c.upper, tin := true, pc := vec, slot := false }

/-- What the handler starts with and what it keeps. -/
theorem Ctx.entered_fields (c : Ctx) (bank : Vector Word 8) (vec : Word) (k : Cause) (v tpc : Word) :
    let h := c.entered bank vec k v tpc
    h.tin = true ∧ h.pc = vec ∧ h.slot = false ∧ h.tpc = tpc ∧ h.tval = v ∧ h.cause = BitVec.ofNat 8 k.code ∧ h.dbl = c.tin ∧
      h.regs = (c.setUpper bank).regs ∧ h.trapSave = c.upper ∧ h.tiles = c.tiles ∧ h.tvec = c.tvec ∧ h.uimask = c.uimask ∧
      h.binds = c.binds ∧ h.loops = [] ∧ h.aside = (c.loops, c.loopReq) :: c.aside := by
  simp only [Ctx.entered, Ctx.setAside, Ctx.setUpper, Ctx.recordTrap, Ctx.uimask, and_self]

/-- Of its own agent a trap's entry changes the context alone. -/
theorem enterTrap_me (s : State) (k : Cause) (v tpc : Word) : (s.enterTrap k v tpc).me =
    { s.me with ctx := s.me.ctx.entered (s.handlerBank v tpc) (s.bundlePtr s.me.ctx.tvec) k v tpc } := rfl

/-- A unit's result is no part of its agent. -/
@[simp] theorem State.endAs_me (s : State) (r : UnitRes) : (s.endAs r).me = s.me := rfl

@[simp] theorem State.endAs_mem (s : State) (r : UnitRes) : (s.endAs r).mem = s.mem := rfl

@[simp] theorem State.endAs_others (s : State) (r : UnitRes) : (s.endAs r).others = s.others := rfl

@[simp] theorem State.endAs_jobs (s : State) (r : UnitRes) : (s.endAs r).jobs = s.jobs := rfl

@[simp] theorem State.endAs_host (s : State) (r : UnitRes) : (s.endAs r).host = s.host := rfl

/-- What the entry leaves alone beside its own agent and the count of free values. -/
theorem enterTrap_frame (s : State) (k : Cause) (v tpc : Word) : (s.enterTrap k v tpc).mem = s.mem ∧
    (s.enterTrap k v tpc).others = s.others ∧ (s.enterTrap k v tpc).jobs = s.jobs ∧ (s.enterTrap k v tpc).host = s.host := by
  simp only [State.enterTrap, State.draw, State.modCtx_mem, State.modCtx_others, State.modCtx_jobs, State.modCtx_host, and_self]

/-- Settles O14: `takeTrap_enter` names the state, and each part of it is a field of the entered context. -/
theorem trapEntry : Obligations.TrapEntry := by
  unfold Obligations.TrapEntry
  refine ⟨fun c k => by simp [Ctx.fatal, or_assoc], fun s k v hc hl hf => ?_⟩
  obtain ⟨b, hb, hctx, hact, hcur, hmem, hothers, hjobs, hhost⟩ := beforeTrap_closed k v hc hl
  obtain ⟨fmem, fothers, fjobs, fhost⟩ := enterTrap_frame b k v s.unitPtr
  have hvec : b.bundlePtr b.me.ctx.tvec = s.bundlePtr s.me.ctx.tvec := by rw [State.bundlePtr, State.bundlePtr, hcur, hctx]
  have hme : (s.takeTrap k v).me =
      { b.me with ctx := s.me.ctx.entered (b.handlerBank v s.unitPtr) (s.bundlePtr s.me.ctx.tvec) k v s.unitPtr } := by
    rw [takeTrap_enter v hc hl hf, hb, State.endAs_me, enterTrap_me, hvec, hctx]
  intro t
  have hframe : t.mem = s.mem ∧ t.others = s.others ∧ t.jobs = s.jobs ∧ t.host = s.host := by
    rw [show t = _ from takeTrap_enter v hc hl hf, hb]
    simp only [State.endAs_mem, State.endAs_others, State.endAs_jobs, State.endAs_host, fmem, hmem, fothers, hothers, fjobs, hjobs, fhost,
      hhost, and_self]
  obtain ⟨tmem, tothers, tjobs, thost⟩ := hframe
  obtain ⟨tin, pc, slot, tpc, tval, cause, dbl, regs, save, tiles, tvec, uimask, binds, loops, aside⟩ :=
    s.me.ctx.entered_fields (b.handlerBank v s.unitPtr) (s.bundlePtr s.me.ctx.tvec) k v s.unitPtr
  have hdbl : s.me.ctx.tin = false := (Bool.or_eq_false_iff.mp hf).2
  have hreg : ∀ r, t.me.ctx.reg r = (s.me.ctx.setUpper (b.handlerBank v s.unitPtr)).reg r := fun r => by
    rw [show t.me = _ from hme]; exact Ctx.reg_congr regs r
  rw [show t.me = _ from hme] at hreg ⊢
  refine ⟨tin, pc, slot, tpc, tval, cause, dbl.trans hdbl, ?s24, ?s25, save, fun r hr => ?low, tiles, tvec, uimask, binds, loops, aside,
    hact, tmem, tothers, tjobs, thost⟩
  case s24 => rw [hreg, Ctx.reg_setUpper_high _ _ (by decide)]; simp [State.handlerBank]
  case s25 => rw [hreg, Ctx.reg_setUpper_high _ _ (by decide)]; simp [State.handlerBank]
  case low => rw [hreg, Ctx.reg_setUpper_low _ _ hr]

/-- The bank replaced leaves the levels as they are. -/
@[simp] theorem Ctx.setUpper_aside (c : Ctx) (v : Vector Word 8) : (c.setUpper v).aside = c.aside := by simp only [Ctx.setUpper]

@[simp] theorem Ctx.setUpper_cause (c : Ctx) (v : Vector Word 8) : (c.setUpper v).cause = c.cause := by simp only [Ctx.setUpper]

@[simp] theorem Ctx.setUpper_dbl (c : Ctx) (v : Vector Word 8) : (c.setUpper v).dbl = c.dbl := by simp only [Ctx.setUpper]

/-- R332: the loop levels that an entry set aside come back, whatever bank stands with them. -/
theorem takeBack_cons {c : Ctx} {x : List LoopLevel × List LoopReq} {xs : List (List LoopLevel × List LoopReq)} (h : c.aside = x :: xs)
    (v : Vector Word 8) : (c.setUpper v).takeBack = { c.setUpper v with loops := x.1, loopReq := x.2, aside := xs } := by
  simp [Ctx.takeBack, h]

/-- What comes back beside the levels is as it was. -/
theorem takeBack_regs (c : Ctx) : c.takeBack.regs = c.regs ∧ c.takeBack.cause = c.cause ∧ c.takeBack.dbl = c.dbl := by
  unfold Ctx.takeBack; split <;> exact ⟨rfl, rfl, rfl⟩

/-- R188: `TIN` is bit 11 of `TCAUSE`. -/
theorem tcause_leave {c d : Ctx} (hc : d.cause = c.cause) (hd : d.dbl = c.dbl) (ht : c.tin = true) (hd' : d.tin = false) :
    d.tcause = c.tcause - 2 ^ 11 := by
  have hcause := c.cause.isLt
  unfold Ctx.tcause
  rw [hc, hd, ht, hd']
  apply BitVec.eq_of_toNat_eq
  cases c.dbl <;> simp [bitNat] <;> omega

/-- A return's context and control: the levels' waiting `LOOP`s are cut down to those of the bundle that resumes (R332). -/
theorem returnTo_spec (s : State) (p : Word) :
    (s.returnTo p).me.ctx = { s.me.ctx with
      loopReq := s.me.ctx.loopReq.filter fun r => wbit p 2 && r.level.first == s.bundleAt (s.bundlePtr p) 1 } ∧
    (s.returnTo p).unit.taken = some (s.bundlePtr p, wbit p 2) ∧ (s.returnTo p).mem = s.mem := ⟨rfl, rfl, rfl⟩

/-- R192: what a return gives back: the bank `v`, the levels set aside, and control. -/
theorem handlerReturn_spec (s : State) (f : Ctx → Ctx) (v : Vector Word 8) (p : Word) (hregs : (f s.me.ctx).regs = (s.me.ctx.setUpper v).regs)
    (hl : ∀ x xs, s.me.ctx.aside = x :: xs → (f s.me.ctx).loops = x.1 ∧ (f s.me.ctx).aside = xs ∧ (f s.me.ctx).loopReq = x.2) :
    let t := (s.modCtx f).returnTo p
    t.me.ctx.upper = v ∧ t.unit.taken = some (s.bundlePtr p, wbit p 2) ∧ (∀ r : Reg, r.toNat < 24 → t.me.ctx.reg r = s.me.ctx.reg r) ∧
      t.mem = s.mem ∧ ∀ x xs, s.me.ctx.aside = x :: xs → t.me.ctx.loops = x.1 ∧ t.me.ctx.aside = xs ∧
        t.me.ctx.loopReq = x.2.filter fun r => wbit p 2 && r.level.first == s.bundleAt (s.bundlePtr p) 1 := by
  obtain ⟨hctx, htaken, hmem⟩ := returnTo_spec (s.modCtx f) p
  simp only [State.modCtx_me, bundlePtr_modCtx, bundleAt_modCtx] at hctx htaken
  intro t
  have hreg : t.me.ctx.regs = (s.me.ctx.setUpper v).regs := by simp only [t, hctx, hregs]
  refine ⟨?_, htaken, fun r hr => ?_, hmem, fun x xs hx => ?_⟩
  · rw [← Ctx.upper_setUpper s.me.ctx v, Ctx.upper, Ctx.upper, hreg]
  · rw [← Ctx.reg_setUpper_low s.me.ctx v hr, Ctx.reg, Ctx.reg, hreg]
  · obtain ⟨h1, h2, h3⟩ := hl x xs hx
    simp only [t, hctx, h1, h2, h3, and_self]

/-- What `TRET` gives back of the context of the trap handler. -/
def Ctx.trapBack (c : Ctx) : Ctx :=
  { (c.setUpper c.trapSave).takeBack with tin := false, dirty := c.dirty ||| 0xFF000000 ||| srDirty 0x10 }

/-- What it gives back of the context of the user interrupt handler. -/
def Ctx.interruptBack (c : Ctx) : Ctx :=
  { (c.setUpper c.uiSave).takeBack with uiin := false, dirty := c.dirty ||| 0xFF000000 ||| srDirty 0x15 }

theorem trapReturn_eq (s : State) : s.trapReturn = (s.modCtx Ctx.trapBack).returnTo s.me.ctx.tpc := rfl

theorem interruptReturn_eq (s : State) : s.interruptReturn = (s.modCtx Ctx.interruptBack).returnTo s.me.ctx.uiPc := rfl

theorem Ctx.trapBack_levels {c : Ctx} {x : List LoopLevel × List LoopReq} {xs : List (List LoopLevel × List LoopReq)}
    (h : c.aside = x :: xs) : c.trapBack.loops = x.1 ∧ c.trapBack.aside = xs ∧ c.trapBack.loopReq = x.2 := by
  simp only [Ctx.trapBack, takeBack_cons h, and_self]

theorem Ctx.interruptBack_levels {c : Ctx} {x : List LoopLevel × List LoopReq} {xs : List (List LoopLevel × List LoopReq)}
    (h : c.aside = x :: xs) : c.interruptBack.loops = x.1 ∧ c.interruptBack.aside = xs ∧ c.interruptBack.loopReq = x.2 := by
  simp only [Ctx.interruptBack, takeBack_cons h, and_self]

/-- Settles O15: `TRET` returns from the innermost handler, and `handlerReturn_spec` says what the return gives back. -/
theorem trapReturn : Obligations.TrapReturn := by
  unfold Obligations.TrapReturn
  intro s la h
  obtain ⟨hregs, hcause, hdbl⟩ := takeBack_regs (s.me.ctx.setUpper s.me.ctx.trapSave)
  refine ⟨fun ht => ⟨exec_ok rfl h ?trun, ?_⟩, fun ht hu => ⟨exec_ok rfl h ?urun, ?_⟩, fun ht hu => exec_trap rfl h ?none⟩
  case trun => rw [bind_ok (getM_run _ s), if_pos ht]; rfl
  case urun => rw [bind_ok (getM_run _ s), if_neg (by simp [ht]), if_pos hu]; rfl
  case none => rw [bind_ok (getM_run _ s), if_neg (by simp [ht]), if_neg (by simp [hu])]; rfl
  · rw [trapReturn_eq]
    obtain ⟨hupper, htaken, hlow, hmem, hback⟩ := handlerReturn_spec s Ctx.trapBack s.me.ctx.trapSave s.me.ctx.tpc hregs
      fun x xs hx => Ctx.trapBack_levels hx
    exact ⟨rfl, hupper, htaken, hlow, tcause_leave (hcause.trans (Ctx.setUpper_cause _ _)) (hdbl.trans (Ctx.setUpper_dbl _ _)) ht rfl, hmem, hback⟩
  · rw [interruptReturn_eq]
    exact ⟨rfl, handlerReturn_spec s Ctx.interruptBack s.me.ctx.uiSave s.me.ctx.uiPc
      (takeBack_regs (s.me.ctx.setUpper s.me.ctx.uiSave)).1 fun x xs hx => Ctx.interruptBack_levels hx⟩

/-! ## The host notice -/

/-- Settles O16: the notice is posted behind a fence; in an open chunk `HCALL` stops with its operand kept. -/
theorem hostCall : Obligations.HostCall := by
  unfold Obligations.HostCall
  intro s la a c h
  refine ⟨fun hu => exec_trap rfl h (bind_error (systemM_error hu)), fun ht hp hc herr hall hfree => ?post,
    fun ht hp hc herr hmark => ⟨exec_stop (x := .keep (s.srcReg a)) rfl h ?keep, rfl, ?ended⟩⟩
  case post =>
    have hfence : fenceM s.alone = .ok ((), s.alone) := fenceM_ok herr hall
    refine ⟨(s.alone.modCore s.cur.core fun k => { k with hcode := c, harg := s.me.mark.kept (s.srcReg a), hpend := true }).msix 1,
      exec_ok rfl h ?_, ?_, ?_, fun v hv => ?_, fun hv => ?_, rfl, rfl, rfl⟩
    · have hfree : (s.alone.core s.cur.core).hpend = false := hfree
      rw [bind_ok (systemM_ok ht), bind_ok (readS_plain (hp.of_mem (by simp))), bind_ok (getM_run _ s),
        bind_ok (releaseM_ok (.inl herr)), bind_ok (getM_run _ s), bind_ok (needM_ok (by simp [hc])), bind_ok (ownM_alone hc),
        bind_ok hfence, bind_ok (getM_run _ _), bind_ok (needM_ok (by simpa using hfree))]
      rfl
    all_goals simp only [State.msix, State.core, State.modCore, tabMod, tabGet_tabSet_same, Option.getD_some]
    · rw [hv]; rfl
    · cases hm : s.me.mark with
      | value v => exact absurd hm (hv v)
      | none | done | left | again | trap => rfl
  case keep =>
    rw [bind_ok (systemM_ok ht), bind_ok (readS_plain (hp.of_mem (by simp))), bind_ok (getM_run _ s),
      bind_ok (releaseM_ok (.inl herr)), bind_ok (getM_run _ s), bind_error (needM_error (by simpa using hc)), hmark]
    rfl
  case ended =>
    simp [State.applyRes, State.endChunk, hc]

end Sys2Proof.Machine
end

section
/-! Tile instructions (R48, R52, R99, R165, R379–R416): reading and writing rows of plain tiles, the lanes of a row, and the results of the
words that stand at once or wait for their window. -/

namespace Sys2Proof.Machine

/-! ## The shared forms on plain tiles -/

theorem State.PlainTiles.of_mem {s : State} {ts : List TReg} (h : s.PlainTiles ts) {t : TReg} (ht : t ∈ ts) :
    s.me.ctx.bindOf (32 + t.toNat) = none := h t ht

theorem keptRows_run (t : TReg) (f n : Nat) (s : State) :
    keptRows t f n s = .ok ((List.range n).map fun k => s.me.ctx.row (rowIx t (f + k)), s) := rfl

theorem tile2_run {i : Instr} {s : State} {td ta tb : TReg} {n f : BitVec 3} (h : s.PlainTiles [td, ta, tb]) :
    tile2 i td ta tb n f s = .ok ((), s.withRows td f.toNat
      (tileRows i (s.srcRows ta f.toNat (n.toNat + 1)) (s.srcRows tb f.toNat (n.toNat + 1)) [])) := by
  unfold tile2
  rw [bind_ok (readRows_plain (h.of_mem (t := ta) (by simp))), bind_ok (readRows_plain (h.of_mem (t := tb) (by simp))),
    writeRows_plain (h.of_mem (t := td) (by simp))]
  rfl

theorem tile3_run {i : Instr} {s : State} {td ta tb : TReg} {n f : BitVec 3} (h : s.PlainTiles [td, ta, tb]) :
    tile3 i td ta tb n f s = .ok ((), s.withRows td f.toNat
      (tileRows i (s.srcRows ta f.toNat (n.toNat + 1)) (s.srcRows tb f.toNat (n.toNat + 1)) (s.srcRows td f.toNat (n.toNat + 1)))) := by
  unfold tile3
  rw [bind_ok (readRows_plain (h.of_mem (t := ta) (by simp))), bind_ok (readRows_plain (h.of_mem (t := tb) (by simp))),
    bind_ok (readRows_plain (h.of_mem (t := td) (by simp))), writeRows_plain (h.of_mem (t := td) (by simp))]
  rfl

theorem tile1_run {i : Instr} {s : State} {td ta : TReg} {n f : BitVec 3} (h : s.PlainTiles [td, ta]) :
    tile1 i td ta n f s = .ok ((), s.withRows td f.toNat (tileRows i (s.srcRows ta f.toNat (n.toNat + 1)) []
      ((List.range (n.toNat + 1)).map fun k => s.me.ctx.row (rowIx td (f.toNat + k))))) := by
  unfold tile1
  rw [bind_ok (readRows_plain (h.of_mem (t := ta) (by simp))), bind_ok (keptRows_run td f.toNat _ s),
    writeRows_plain (h.of_mem (t := td) (by simp))]
  rfl

/-! ## Lanes (R48) -/

/-- Lane `j` of a packed list is its entry `j`. -/
theorem packLanes_lane (w : Nat) : ∀ (xs : List Nat) (j : Nat), packLanes w xs / 2 ^ (w * j) % 2 ^ w = xs.getD j 0 % 2 ^ w
  | [], j => by simp [packLanes]
  | x :: xs, 0 => by simp [packLanes, Nat.add_mod]
  | x :: xs, j + 1 => by
    have hpos : 0 < 2 ^ w := Nat.two_pow_pos w
    have hhead : packLanes w (x :: xs) / 2 ^ w = packLanes w xs := by
      rw [packLanes, Nat.add_mul_div_left _ _ hpos, Nat.div_eq_of_lt (Nat.mod_lt _ hpos), Nat.zero_add]
    rw [Nat.mul_succ, Nat.add_comm, pow_add, ← Nat.div_div_eq_div_mul, hhead, packLanes_lane w xs j]
    rfl

/-- A lane of a row built from lanes. -/
theorem laneOf_rowOf (w : Nat) (xs : List Nat) (j : Nat) (h : w * (j + 1) ≤ 128) : laneOf w (rowOf w xs) j = xs.getD j 0 % 2 ^ w := by
  have hdvd : 2 ^ (w * j) * 2 ^ w ∣ 2 ^ 128 := by rw [← pow_add]; exact pow_dvd_pow 2 h
  rw [← packLanes_lane, laneOf, rowOf, BitVec.toNat_ofNat, ← Nat.mod_mul_right_div_self, ← Nat.mod_mul_right_div_self,
    Nat.mod_mod_of_dvd _ hdvd]

/-- The lanes of a row lie within its 128 bits. -/
theorem width_mul_lanes (lt : LaneTy) {j : Nat} (h : j < lt.lanes) : lt.width * (j + 1) ≤ 128 := by
  have hl : lt.width * lt.lanes = 128 := by cases lt <;> rfl
  exact (Nat.mul_le_mul_left _ h).trans hl.le

theorem laneOf_lt (w : Nat) (r : Row) (j : Nat) : laneOf w r j < 2 ^ w := Nat.mod_lt _ (Nat.two_pow_pos w)

/-- Lane `j` of a lane-wise result (R387). -/
theorem laneOf_rows2 (lt : LaneTy) (g : Nat → Nat → Nat) (x y : Row) {j : Nat} (h : j < lt.lanes) :
    laneOf lt.width (rows2 lt g x y) j = g (laneOf lt.width x j) (laneOf lt.width y j) % 2 ^ lt.width := by
  have hj : j < 128 / lt.width := h
  rw [rows2, laneOf_rowOf _ _ _ (width_mul_lanes lt h)]
  simp [lanesOf, List.getD_eq_getElem?_getD, hj]

/-- Settles O17: every word is `tile2` or `tile3`, and the lanes of its rows are those of `laneOf_rows2`. -/
theorem vectorArithmetic : Obligations.VectorArithmetic := by
  unfold Obligations.VectorArithmetic
  refine ⟨fun s td ta tb n f lt k hp => ⟨fun h => exec_ok rfl h (tile2_run hp), fun h => exec_ok rfl h (tile2_run hp),
    fun h => exec_ok rfl h (tile2_run hp), fun h => exec_ok rfl h (tile2_run hp), fun h => exec_ok rfl h (tile2_run hp),
    fun h => exec_ok rfl h (tile2_run hp), fun h => exec_ok rfl h (tile2_run hp), fun h => exec_ok rfl h (tile2_run hp),
    fun h => exec_ok rfl h (tile2_run hp), fun h => exec_ok rfl h (tile3_run hp), fun h => exec_ok rfl h (tile3_run hp)⟩,
    fun lt x y j hj => ⟨fun g => laneOf_rows2 lt g x y hj, fun hint => ⟨?add, ?mul, ?sub⟩⟩⟩
  case add => simp [laneAdd, laneOp, hint]
  case mul => simp [laneMul, laneOp, hint]
  case sub =>
    have hx := laneOf_lt lt.width x j
    have hy := laneOf_lt lt.width y j
    simp only [laneSub, laneOp, hint, Bool.false_eq_true, if_false, Nat.mod_add_mod]
    rw [Nat.sub_add_cancel (by omega), Nat.add_mod_right, Nat.mod_eq_of_lt hx]

/-! ## Copies, spreads, comparisons, conversions and permutations -/

/-- Settles O18: the words of `tileRows` by their shared form, the others by reading and writing rows of plain tiles. -/
theorem vectorMoves : Obligations.VectorMoves := by
  unfold Obligations.VectorMoves
  intro s td ta tb n f k lt dst c r hp hr
  have hd := hp.of_mem (t := td) (by simp)
  have ha := hp.of_mem (t := ta) (by simp)
  have hb := hp.of_mem (t := tb) (by simp)
  have hda : s.PlainTiles [td, ta] := fun t ht => hp t (by simp only [List.mem_cons] at ht ⊢; tauto)
  refine ⟨fun h => exec_ok rfl h (tile1_run hda), fun h => exec_ok rfl h (tile1_run hda), fun h => exec_ok rfl h (writeRows_plain hd),
    fun h => exec_ok rfl h ?bcast, fun h => exec_ok rfl h ?rep, fun h => exec_ok rfl h (tile2_run hp),
    fun h => exec_ok rfl h (tile1_run hda), fun h => exec_ok rfl h ?perm, fun h => exec_ok rfl h ?dot⟩
  case bcast => rw [bind_ok (readS_plain (hr.of_mem (by simp))), writeRows_plain hd]; rfl
  case rep => rw [bind_ok (readRows_plain ha), writeRows_plain hd]; rfl
  case perm => rw [bind_ok (readRows_plain ha), bind_ok (readRows_plain hb), writeRows_plain hd]; rfl
  case dot => rw [bind_ok (readRows_plain ha), bind_ok (readRows_plain hb), writeRows_plain hd]; rfl

/-- Settles O19: one lane put into the kept row, or read from it. -/
theorem laneInsertExtract : Obligations.LaneInsertExtract := by
  unfold Obligations.LaneInsertExtract
  intro s td r f lt hp hr
  have hd := hp.of_mem (t := td) (by simp)
  have hr0 := hr.of_mem (r := r) (by simp)
  have hr1 := hr.of_mem (r := r + 1) (by simp)
  refine ⟨fun h => exec_ok rfl h ?ins, fun h => exec_ok rfl h ?ext⟩
  case ins => rw [bind_ok (readS_plain hr0), bind_ok (readS_plain hr1), bind_ok (keptRows_run td f.toNat 1 s), writeRows_plain hd]; rfl
  case ext => rw [bind_ok (readS_plain hr1), bind_ok (readRows_plain hd), writeS_plain hr0]; rfl

/-! ## Long-latency tile instructions -/

/-- The keys of R379 with a seed of 0. -/
theorem keysM_zero {s : State} (h : s.Plain [28, 29, 30]) (h0 : s.srcReg 28 = 0) :
    keysM s = .ok ((0, (s.srcReg 29).toNat, (s.srcReg 30).toNat), s) := by
  unfold keysM
  rw [bind_ok (readS_plain (h.of_mem (r := 28) (by simp))), bind_ok (readS_plain (h.of_mem (r := 29) (by simp))),
    bind_ok (readS_plain (h.of_mem (r := 30) (by simp))), if_pos h0]
  rfl

/-- Settles O20: each word writes its rows by `writeRowsLate` without a window. -/
theorem vectorLong : Obligations.VectorLong := by
  unfold Obligations.VectorLong
  intro s td ta n f lt fn op excl pts hp hk h0
  have hd := hp.of_mem (t := td) (by simp)
  have ha := hp.of_mem (t := ta) (by simp)
  refine ⟨fun h => exec_ok rfl h ?sfu, fun h => exec_ok rfl h ?red, fun h => exec_ok rfl h ?scan, fun h => exec_ok rfl h ?had,
    fun h => exec_ok rfl h ?sign⟩
  case sfu => rw [bind_ok (readRows_plain ha), writeRowsLate_now hd]; rfl
  case red => rw [bind_ok (readRows_plain ha), writeRowsLate_now hd]; rfl
  case scan => rw [bind_ok (readRows_plain ha), writeRowsLate_now hd]; rfl
  case had => rw [bind_ok (readRows_plain ha), bind_ok (keysM_zero hk h0), writeRowsLate_now hd]; rfl
  case sign => rw [bind_ok (readRows_plain ha), bind_ok (keysM_zero hk h0), writeRows_plain hd]; rfl

/-! ## Decode tables (R68–R72) -/

/-- A table that no re-check runs on is read, and its lines join the read set. -/
theorem tableReadyM_ok {s : State} (h : s.rechecking = false) : tableReadyM s = .ok ((), s.noteTable) := by
  simp [tableReadyM, h]

/-- Reading the table changes the read set alone. -/
theorem noteTable_frame (s : State) : s.noteTable.me.ctx = s.me.ctx ∧ s.noteTable.unit = s.unit ∧ s.noteTable.tableEntry = s.tableEntry := by
  unfold State.noteTable
  split
  · exact ⟨rfl, rfl, rfl⟩
  · exact ⟨rfl, rfl, rfl⟩

theorem noteTable_table (s : State) : s.noteTable.table = s.table := by
  rw [State.table, State.table, (noteTable_frame s).2.2]

theorem noteTable_srcRow (s : State) : s.noteTable.srcRow = s.srcRow := by
  obtain ⟨hctx, hunit, -⟩ := noteTable_frame s
  funext i
  rw [State.srcRow, State.srcRow, hctx, hunit]

theorem noteTable_srcRows (s : State) (t : TReg) (f n : Nat) : s.noteTable.srcRows t f n = s.srcRows t f n := by
  rw [State.srcRows, State.srcRows, noteTable_srcRow]

theorem tableGoodM_run (s : State) : tableGoodM s = if s.tabBad then .error (.trap .fpe 1) else .ok ((), s) := rfl

/-- Settles O21: both words read the table first; `VENC` then looks at `TABBAD`. -/
theorem tableCodes : Obligations.TableCodes := by
  unfold Obligations.TableCodes
  intro s td ta k n f lt hp hre
  obtain ⟨hctx, -, hentry⟩ := noteTable_frame s
  have hd : s.noteTable.me.ctx.bindOf (32 + td.toNat) = none := hctx ▸ hp.of_mem (t := td) (by simp)
  have ha : s.noteTable.me.ctx.bindOf (32 + ta.toNat) = none := hctx ▸ hp.of_mem (t := ta) (by simp)
  have hbad : s.noteTable.tabBad = s.tabBad := by rw [State.tabBad, State.tabBad, noteTable_table]
  refine ⟨fun h => exec_ok rfl h ?dec, fun h hgood => exec_ok rfl h ?enc, fun h hb => exec_trap rfl h ?bad⟩
  case dec =>
    rw [bind_ok (tableReadyM_ok hre), bind_ok (readRows_plain ha), bind_ok (getM_run _ _), writeRows_plain hd, noteTable_srcRows, hentry]
    rfl
  case enc =>
    rw [bind_ok (tableReadyM_ok hre), bind_ok (readRows_plain ha), bind_ok ((tableGoodM_run _).trans (if_neg (by simp [hbad, hgood]))),
      bind_ok (keptRows_run td f.toNat _ _), bind_ok (getM_run _ _), writeRows_plain hd, noteTable_srcRows, noteTable_table, hctx]
    rfl
  case bad =>
    rw [bind_ok (tableReadyM_ok hre), bind_ok (readRows_plain ha), bind_error ((tableGoodM_run _).trans (if_pos (by simp [hbad, hb])))]

/-! ## Micro-programs (R391, R403) -/

theorem lateM_now (v : LateVal) (s : State) : lateM 0 v s = .ok ((), s.landNow v) := rfl

theorem lateM_late {la : BitVec 4} (h : la ≠ 0) (v : LateVal) (s : State) : lateM la.toNat v s = .ok ((), s.withLate v la) := by
  have hla : la.toNat ≠ 0 := fun e => h (BitVec.eq_of_toNat_eq e)
  simp only [lateM, modM_run, if_neg hla]
  rfl

/-- A chain of legal operations on plain tiles ends in one late result. -/
theorem vchain_run {s t : State} {first last la : BitVec 4} {p : BitVec 3}
    (hs : ∀ m ∈ (List.range (last.toNat - first.toNat + 1)).map fun k => slotOp s.me.ctx (first.toNat + k), m.isSome = true)
    (hf : ∀ m ∈ ((List.range (last.toNat - first.toNat + 1)).map fun k => slotOp s.me.ctx (first.toNat + k)).filterMap id,
      m.f.toNat + p.toNat + (m.n.toNat + 1) ≤ 8)
    (hp : ∀ t : TReg, s.PlainTiles [t])
    (ht : lateM la.toNat (.lanes (runChain s.srcRow (p.toNat + 1)
      (((List.range (last.toNat - first.toNat + 1)).map fun k => slotOp s.me.ctx (first.toNat + k)).filterMap id))) s = .ok ((), t))
    (h : s.Ready (.vchain first last la p)) : exec (.vchain first last la p) s = .next t := by
  have hfind : ∀ ts : List TReg, ts.find? (fun t => (s.me.ctx.bindOf (32 + t.toNat)).isSome) = none := fun ts => by
    rw [List.find?_eq_none]
    intro t _
    simp [(hp t).of_mem (List.mem_singleton.mpr rfl)]
  refine exec_ok rfl h ?_
  rw [bind_ok (getM_run _ s), bind_ok (legalM_ok (List.all_eq_true.mpr hs)),
    bind_ok (legalM_ok (List.all_eq_true.mpr fun m hm => decide_eq_true (p := m.f.toNat + p.toNat + rowCount m.n ≤ 8) (hf m hm))), hfind]
  exact ht

/-- The context with words in consecutive slots of the micro-program store (R403). -/
def Ctx.storeSlots (c : Ctx) (first : BitVec 4) (ws : List W32) : Ctx :=
  { c with
    mp := Vector.ofFn fun i : Fin 16 =>
      if first.toNat ≤ i.val && i.val < first.toNat + ws.length then ws.getD (i.val - first.toNat) 0 else c.mp[i]
    dirty := c.dirty ||| 2 ^ 65 }

theorem Ctx.storeSlots_regs (c : Ctx) (first : BitVec 4) (ws : List W32) :
    (c.storeSlots first ws).regs = c.regs ∧ (c.storeSlots first ws).tiles = c.tiles := by simp only [Ctx.storeSlots, and_self]

theorem Ctx.storeSlots_mp (c : Ctx) (first : BitVec 4) (ws : List W32) (i : Fin 16) : (c.storeSlots first ws).mp[i] =
    if first.toNat ≤ i.val ∧ i.val < first.toNat + ws.length then ws.getD (i.val - first.toNat) 0 else c.mp[i] := by
  simp [Ctx.storeSlots]

/-- Settles O22: the store's words are looked at before any slot changes, and a chain is one late result. -/
theorem microPrograms : Obligations.MicroPrograms := by
  unfold Obligations.MicroPrograms
  intro s first last ta p n f ws slots
  refine ⟨fun h hp hl hall => ⟨s.modCtx fun c => c.storeSlots first ws, exec_ok rfl h ?load, (Ctx.storeSlots_regs _ _ _).1,
      (Ctx.storeSlots_regs _ _ _).2, s.modCtx_mem _, fun i => Ctx.storeSlots_mp _ _ _ i⟩,
    fun h hm hu => exec_trap rfl h ?priv, fun w h hp hl hw => exec_trap rfl h ?illegal,
    fun h hs hf hp => ⟨vchain_run hs hf hp (lateM_now _ s) h, fun hclear => ?clear⟩,
    fun la hla h hs hf hp => vchain_run hs hf hp (lateM_late hla _ s) h⟩
  case load =>
    have hnone : List.find? (!microWord ·) (List.map (BitVec.ofNat 32 ·) (elemsOf 32 (s.srcRows ta f.toNat (rowCount n)))) = none := List.find?_eq_none.mpr fun w hw => by simp [hall w hw]
    rw [bind_ok (getM_run _ s), guarded_ok fun hm => systemM_ok (hl hm), bind_ok (readRows_plain (hp.of_mem (by simp)))]
    simp only [hnone]
    rfl
  case priv => rw [bind_ok (getM_run _ s), if_pos hm, bind_error (systemM_error hu)]
  case illegal =>
    rw [bind_ok (getM_run _ s), guarded_ok fun hm => systemM_ok (hl hm), bind_ok (readRows_plain (hp.of_mem (by simp)))]
    have hw : List.find? (!microWord ·) (List.map (BitVec.ofNat 32 ·) (elemsOf 32 (s.srcRows ta f.toNat (rowCount n)))) = some w := hw
    simp only [hw]
    rfl
  case clear =>
    rw [State.landNow, landOlder_clear hclear, land_lanes]
    rfl

/-! ## Residuals (R165, R356) -/

/-- A residual joined to what stands in `RPART` (R165). -/
def joinPart (q : Option W32) (r : W32) : W32 :=
  match q with
  | some q => BitVec.ofNat 32 (fAdd .fp32 .rne q.toNat r.toNat)
  | none => r

theorem land_rpart (s : State) (r : W32) : s.land (.rpart r) = s.modCtx fun c => { c with rpart := some (joinPart c.rpart r) } := rfl

/-- The only late result in flight, a residual, lands before another one. -/
theorem landOlder_rpart {s : State} {q r : W32} {k : Nat} (h : s.me.ctx.lates = [⟨.rpart q, k⟩]) :
    s.landOlder (.rpart r) = (s.modCtx fun c => { c with lates := [] }).land (.rpart q) := by
  simp [State.landOlder, h, LateVal.dests, meets, State.modCtx]

/-- Settles O23: a residual is a late result without a window, which joins what stands in `RPART`. -/
theorem residual : Obligations.Residual := by
  unfold Obligations.Residual
  intro s ta tb n f lt h hp r join
  have hjoin : join = joinPart := by funext q r; cases q <;> rfl
  rw [hjoin]
  have ha := hp.of_mem (t := ta) (by simp)
  have hb := hp.of_mem (t := tb) (by simp)
  have hrun (hleg : (s.me.task.isNone && !s.me.ctx.uiin) = true) (hph : ((s.job s.myJob).span.ph == 3) = true) :
      exec (.resacc 0 ta tb n f lt) s = .next (s.landNow (.rpart
        (residualOf lt (s.srcRows ta f.toNat (n.toNat + 1)) (s.srcRows tb f.toNat (n.toNat + 1))))) := by
    refine exec_ok rfl h ?_
    rw [bind_ok (getM_run _ s), bind_ok (legalM_ok hleg), bind_ok (getM_run _ s), bind_ok (legalM_ok hph), bind_ok (readRows_plain ha),
      bind_ok (readRows_plain hb)]
    rfl
  refine ⟨fun ht hu hph hclear => ?alone, fun q k ht hu hph hl => ?older, fun hill => exec_trap rfl h ?illegal⟩
  case alone =>
    rw [hrun (by simp [ht, hu]) (by simp [hph]), State.landNow, landOlder_clear hclear, land_rpart]
    rfl
  case older =>
    rw [hrun (by simp [ht, hu]) (by simp [hph]), State.landNow, landOlder_rpart hl, land_rpart, land_rpart]
    rfl
  case illegal =>
    rcases hill with ht | hu | hph
    · rw [bind_ok (getM_run _ s), bind_error (legalM_error (by simp [Option.isNone_iff_eq_none, ht]))]
    · rw [bind_ok (getM_run _ s), bind_error (legalM_error (by simp [hu]))]
    · rw [bind_ok (getM_run _ s)]
      by_cases hleg : (s.me.task.isNone && !s.me.ctx.uiin) = true
      · rw [bind_ok (legalM_ok hleg), bind_ok (getM_run _ s), bind_error (legalM_error (beq_eq_false_iff_ne.mpr hph))]
      · rw [bind_error (legalM_error (by simpa using hleg))]

end Sys2Proof.Machine
end

section
/-! Late results (R99): what stays in flight as results land, and the words whose results wait for their window. -/

namespace Sys2Proof.Machine

/-! ## What landing leaves in flight -/

/-- Storing segments is no matter of the agent. -/
theorem pokeSegs_me (s : State) (segs : List (Nat × Nat)) (bs : List Byte) : (s.pokeSegs segs bs).me = s.me := by
  induction segs generalizing s bs with
  | nil => rfl
  | cons g gs ih => rw [State.pokeSegs, ih, State.poke_me]

theorem spoilRecords_me (s : State) (xs : List HitRec) : (s.spoilRecords xs).me = s.me := by
  unfold State.spoilRecords
  induction xs generalizing s with
  | nil => rfl
  | cons x xs ih => rw [List.foldl_cons, ih]; exact pokeSegs_me _ _ _

theorem softPoke_me (s : State) (segs : List (Nat × Nat)) (bs : List Byte) : (s.softPoke segs bs).me = s.me := by
  rw [State.softPoke, spoilRecords_me, pokeSegs_me]

theorem putSegs_ctx (s : State) (segs : List (Nat × Nat)) (bs : List Byte) : (s.putSegs segs bs).me.ctx = s.me.ctx := by
  unfold State.putSegs
  split
  · dsimp only
    split
    · rw [softPoke_me]
    · exact congrArg Agent.ctx (softPoke_me s segs bs)
  · rfl

/-- A store applied leaves the late results in flight alone. -/
theorem applyPut_lates (s : State) (x : Put) : (s.applyPut x).me.ctx.lates = s.me.ctx.lates := by
  cases x with
  | bytes segs bs => exact congrArg Ctx.lates (putSegs_ctx s segs bs)
  | table segs bs => simpa [State.applyPut] using congrArg Ctx.lates (putSegs_ctx s segs bs)
  | preset | nothing | outside => rfl

@[simp] theorem State.viewReg_me (s : State) (r : Reg) (v : Word) : (s.viewReg r v).me = s.me := by
  unfold State.viewReg; split <;> rfl

@[simp] theorem State.viewRow_me (s : State) (i : Nat) (v : Row) : (s.viewRow i v).me = s.me := by
  unfold State.viewRow; split <;> rfl

@[simp] theorem Ctx.setReg_lates (c : Ctx) (r : Reg) (v : Word) : (c.setReg r v).lates = c.lates := by
  unfold Ctx.setReg; split <;> simp only

@[simp] theorem Ctx.setRow_lates (c : Ctx) (i : Nat) (v : Row) : (c.setRow i v).lates = c.lates := by
  unfold Ctx.setRow; split <;> simp only

/-- A fold of steps that each keep the results in flight keeps them. -/
theorem foldl_lates {α : Type} (f : State → α → State) (hf : ∀ s x, (f s x).me.ctx.lates = s.me.ctx.lates) (xs : List α) (s : State) :
    (xs.foldl f s).me.ctx.lates = s.me.ctx.lates := by
  induction xs generalizing s with
  | nil => rfl
  | cons x xs ih => rw [List.foldl_cons, ih, hf]

/-- A result that lands takes no other one out of flight. -/
theorem land_lates (s : State) (v : LateVal) : (s.land v).me.ctx.lates = s.me.ctx.lates := by
  cases v with
  | scalar r x => simp [State.land]
  | rows rs => exact foldl_lates _ (fun s x => by simp) rs s
  | lanes rs => exact foldl_lates _ (fun s x => by simp) rs s
  | rpart x => rfl
  | append code xs => exact foldl_lates _ applyPut_lates xs s

/-- After the older results of a destination have landed, those of other destinations are in flight still (R99, rule 7). -/
theorem landOlder_lates (s : State) (v : LateVal) :
    (s.landOlder v).me.ctx.lates = s.me.ctx.lates.filter fun l => !meets l.val.dests v.dests := by
  unfold State.landOlder
  dsimp only
  split
  · next h =>
    rw [List.isEmpty_iff, List.filter_eq_nil_iff] at h
    exact (List.filter_eq_self.mpr fun l hl => by simpa using h l hl).symm
  · exact foldl_lates (fun s (l : Late) => s.land l.val) (fun s l => land_lates s l.val) _ _

/-! ## Windows -/

/-- A single late result ages. -/
theorem ageLates_single {s : State} {d : Reg} {v : Word} {n : Nat} (h : s.me.ctx.lates = [⟨.scalar d v, n + 1⟩]) :
    s.ageLates = (s.modCtx fun c => { c with lates := c.lates.map fun l => { l with left := l.left - 1 } }).landDue := by
  simp [State.ageLates, h]

/-- What is due of a single late result. -/
theorem landDue_single {s : State} {d : Reg} {v : Word} {n : Nat} (h : s.me.ctx.lates = [⟨.scalar d v, n⟩]) :
    s.landDue = if n = 0 then (s.modCtx fun c => { c with lates := [] }).land (.scalar d v)
      else s.modCtx fun c => { c with lates := [⟨.scalar d v, n⟩] } := by
  by_cases hn : n = 0 <;> simp [State.landDue, dueNow, h, hn]

/-- Settles O9: the words wait as `writeLate_late` and its kin say, and a single result ages as `landDue_single` says. -/
theorem lateResults : Obligations.LateResults := by
  unfold Obligations.LateResults
  refine ⟨fun s d a b td ta tb la n f r p lt fn op excl pts hp ht hla hd h0 => ?words, fun s d v n hl hp hd => ?age,
    fun s d v t f vs => ⟨nowReg_clear, nowRows_clear, fun hd => ⟨?reads, ?clear⟩⟩⟩
  case words =>
    have hkeys : s.Plain [28, 29, 30] := fun q hq => hp q (by simp only [List.mem_cons] at hq ⊢; tauto)
    have pd := hp.of_mem (r := d) (by simp)
    have pa := hp.of_mem (r := a) (by simp)
    have pb := hp.of_mem (r := b) (by simp)
    have td' := ht.of_mem (t := td) (by simp)
    have ta' := ht.of_mem (t := ta) (by simp)
    have tb' := ht.of_mem (t := tb) (by simp)
    refine ⟨fun h => exec_ok rfl h ?div, fun h => exec_ok rfl h ?sqrt, fun h => exec_ok rfl h ?sfu, fun h => exec_ok rfl h ?red,
      fun h => exec_ok rfl h ?scan, fun h => exec_ok rfl h ?had, fun htask hu hph h => exec_ok rfl h ?res⟩
    case div => rw [bind_ok (readS_plain pa), bind_ok (readS_plain pb), writeLate_late pd hla hd]; rfl
    case sqrt => rw [bind_ok (readS_plain pa), writeLate_late pd hla hd]; rfl
    case sfu => rw [bind_ok (readRows_plain ta'), writeRowsLate_late td' hla]; rfl
    case red => rw [bind_ok (readRows_plain ta'), writeRowsLate_late td' hla]; rfl
    case scan => rw [bind_ok (readRows_plain ta'), writeRowsLate_late td' hla]; rfl
    case had => rw [bind_ok (readRows_plain ta'), bind_ok (keysM_zero hkeys h0), writeRowsLate_late td' hla]; rfl
    case res =>
      rw [bind_ok (getM_run _ s), bind_ok (legalM_ok (by simp [htask, hu])), bind_ok (getM_run _ s), bind_ok (legalM_ok (by simp [hph])),
        bind_ok (readRows_plain ta'), bind_ok (readRows_plain tb'), lateM_late hla]
      rfl
  case age =>
    have hage := ageLates_single hl
    have haged : (s.modCtx fun c => { c with lates := c.lates.map fun l => { l with left := l.left - 1 } }).me.ctx.lates =
        [⟨.scalar d v, n⟩] := by simp [hl]
    rw [landDue_single haged] at hage
    refine ⟨fun hn => ?wait, fun hn => ?land⟩
    case wait =>
      rw [hage, if_neg hn]
      simp
    case land =>
      rw [hage, if_pos hn, land_lates]
      simp only [State.land, State.viewReg_me, State.modCtx_me]
      exact ⟨trivial, Ctx.reg_setReg_same _ v hd, fun q hq => by rw [Ctx.reg_setReg_other _ v hq]; exact Ctx.reg_congr rfl q⟩
  case reads =>
    rw [State.nowReg, if_neg hd]
    exact Ctx.reg_setReg_same _ v hd
  case clear =>
    intro l hl
    have hlates : (s.nowReg d v).me.ctx.lates = s.me.ctx.lates.filter fun l => !meets l.val.dests (LateVal.scalar d v).dests := by
      rw [State.nowReg, if_neg hd, ← landOlder_lates]
      simp
    rw [hlates] at hl
    simpa using (List.mem_filter.mp hl).2

end Sys2Proof.Machine
end

section
/-! Floating formats (R63–R67, R294, R298–R311): the classes of an unpacked pattern, NaN operands, values that a format holds, rounding to an
integer, and the scalar floating words. -/

namespace Sys2Proof.Machine

/-! ## Patterns -/

/-- A bit set: nothing changes where it was set, and it is added where it was not. -/
theorem or_two_pow (x k : Nat) : x ||| 2 ^ k = if x / 2 ^ k % 2 = 1 then x else x + 2 ^ k := by
  have hone : ∀ y : Nat, y ||| 1 = if y % 2 = 1 then y else y + 1 := fun y => by
    have hdiv : (y ||| 1) / 2 = y / 2 := by rw [Nat.or_div_two]; simp
    have hmod : (y ||| 1) % 2 = 1 := by rw [Nat.or_mod_two_eq_one]; exact .inr rfl
    split <;> omega
  have hdiv : (x ||| 2 ^ k) / 2 ^ k = x / 2 ^ k ||| 1 := by
    rw [Nat.or_div_two_pow, Nat.div_self (Nat.two_pow_pos k)]
  have hmod : (x ||| 2 ^ k) % 2 ^ k = x % 2 ^ k := by rw [Nat.or_mod_two_pow, Nat.mod_self, Nat.or_zero]
  rw [← Nat.div_add_mod (x ||| 2 ^ k) (2 ^ k), hdiv, hmod, hone]
  split
  · exact Nat.div_add_mod x _
  · rw [Nat.mul_add, Nat.mul_one, Nat.add_right_comm, Nat.div_add_mod]

/-- A pattern is its sign, its exponent and its fraction. -/
theorem pattern_eq (f : Fmt) {x : Nat} (h : x < 2 ^ f.width) :
    x = withSign f (x / f.signBit % 2 == 1) (x / 2 ^ f.fb % 2 ^ f.eb * 2 ^ f.fb + x % 2 ^ f.fb) := by
  have hsign : x / f.signBit < 2 := by
    rw [Fmt.signBit, Nat.div_lt_iff_lt_mul (Nat.two_pow_pos _), Nat.mul_comm, ← pow_succ]
    exact h
  have hbody : x / 2 ^ f.fb % 2 ^ f.eb * 2 ^ f.fb + x % 2 ^ f.fb = x % f.signBit := by
    rw [Fmt.signBit, Nat.add_comm f.eb, pow_add, Nat.mod_mul, Nat.add_comm, Nat.mul_comm]
  have hx := Nat.div_add_mod x f.signBit
  rw [hbody, withSign]
  generalize x / f.signBit = sgn at *
  rcases (show sgn = 0 ∨ sgn = 1 by omega) with h0 | h1
  · rw [h0] at hx; simp [h0]; omega
  · rw [h1] at hx; simp [h1]; omega

/-- The three kinds of patterns (R63). -/
theorem unpack_special {f : Fmt} {x : Nat} (h : x / 2 ^ f.fb % 2 ^ f.eb = 2 ^ f.eb - 1) : unpack f x =
    if x % 2 ^ f.fb = 0 then .inf (x / f.signBit % 2 == 1) else .nan (x / f.signBit % 2 == 1) (x % 2 ^ f.fb * 2 ^ (52 - f.fb)) := by
  simp [unpack, h]

theorem unpack_subnormal {f : Fmt} {x : Nat} (h : x / 2 ^ f.fb % 2 ^ f.eb ≠ 2 ^ f.eb - 1) (h0 : x / 2 ^ f.fb % 2 ^ f.eb = 0) :
    unpack f x = .fin (x / f.signBit % 2 == 1) (x % 2 ^ f.fb) (1 - (f.bias : Int) - f.fb) := by
  unfold unpack
  simp only
  rw [if_neg h, if_pos h0]

theorem unpack_normal {f : Fmt} {x : Nat} (h : x / 2 ^ f.fb % 2 ^ f.eb ≠ 2 ^ f.eb - 1) (h0 : x / 2 ^ f.fb % 2 ^ f.eb ≠ 0) :
    unpack f x = .fin (x / f.signBit % 2 == 1) (2 ^ f.fb + x % 2 ^ f.fb) ((x / 2 ^ f.fb % 2 ^ f.eb : Nat) - (f.bias : Int) - f.fb) := by
  unfold unpack
  simp only
  rw [if_neg h, if_neg h0]

/-! ## Rounding what a format holds -/

/-- A magnitude with no more than the fraction's bits above the least exponent is packed as it is. -/
theorem roundPack_exact {f : Fmt} {mode : RMode} {neg : Bool} {m : Nat} {e : Int} (hm : m ≠ 0)
    (hlog : Nat.log2 m ≤ f.fb) (hbase : 1 - (f.bias : Int) - f.fb ≤ e) (hnorm : e = 1 - (f.bias : Int) - f.fb ∨ Nat.log2 m = f.fb)
    (hfin : (e - (1 - (f.bias : Int) - f.fb)).toNat * 2 ^ f.fb + m < f.infBits) :
    roundPack f mode neg m e = withSign f neg ((e - (1 - (f.bias : Int) - f.fb)).toNat * 2 ^ f.fb + m) := by
  have hq : max (e + Nat.log2 m - f.fb) (1 - (f.bias : Int) - f.fb) = e := by omega
  unfold roundPack
  simp only
  rw [if_neg hm, hq, if_pos le_rfl, Int.sub_self, if_neg (by simpa using hfin)]
  simp

/-- Rounding a value that the format holds gives its pattern in every mode (R66). -/
theorem pack_unpack (f : Fmt) (r : RMode) {x : Nat} (hx : x < 2 ^ f.width) (hn : isNan f x = false) : pack f r (unpack f x) = x := by
  have heq := pattern_eq f hx
  have hfr : x % 2 ^ f.fb < 2 ^ f.fb := Nat.mod_lt _ (Nat.two_pow_pos _)
  have hex : x / 2 ^ f.fb % 2 ^ f.eb < 2 ^ f.eb := Nat.mod_lt _ (Nat.two_pow_pos _)
  by_cases hmax : x / 2 ^ f.fb % 2 ^ f.eb = 2 ^ f.eb - 1
  · rw [unpack_special hmax]
    by_cases h0 : x % 2 ^ f.fb = 0
    · rw [hmax, h0] at heq
      rw [if_pos h0]
      exact heq.symm
    · rw [isNan, unpack_special hmax, if_neg h0] at hn
      cases hn
  by_cases hsub : x / 2 ^ f.fb % 2 ^ f.eb = 0
  · rw [unpack_subnormal hmax hsub]
    rw [hsub, Nat.zero_mul, Nat.zero_add] at heq
    by_cases h0 : x % 2 ^ f.fb = 0
    · rw [h0] at heq ⊢
      rw [pack, roundPack, if_pos rfl]
      exact heq.symm
    · have hinf : 2 ^ f.fb ≤ f.infBits := Nat.le_mul_of_pos_left _ (by omega)
      rw [pack, roundPack_exact h0 ((Nat.log2_lt h0).mpr hfr).le le_rfl (.inl rfl) (by simp; omega), Int.sub_self]
      simpa using heq.symm
  · have hlog : Nat.log2 (2 ^ f.fb + x % 2 ^ f.fb) = f.fb :=
      (Nat.log2_eq_iff (by omega)).mpr ⟨by omega, by rw [pow_succ]; omega⟩
    have hexp : (((x / 2 ^ f.fb % 2 ^ f.eb : Nat) : Int) - (f.bias : Int) - f.fb - (1 - (f.bias : Int) - f.fb)).toNat =
        x / 2 ^ f.fb % 2 ^ f.eb - 1 := by omega
    have hbody : (x / 2 ^ f.fb % 2 ^ f.eb - 1) * 2 ^ f.fb + (2 ^ f.fb + x % 2 ^ f.fb) =
        x / 2 ^ f.fb % 2 ^ f.eb * 2 ^ f.fb + x % 2 ^ f.fb := by
      obtain ⟨k, hk⟩ := Nat.exists_eq_succ_of_ne_zero hsub
      rw [hk]
      simp only [Nat.succ_sub_one, Nat.succ_mul]
      omega
    have hlt : x / 2 ^ f.fb % 2 ^ f.eb * 2 ^ f.fb + x % 2 ^ f.fb < f.infBits := by
      have := Nat.mul_le_mul_right (2 ^ f.fb) (show x / 2 ^ f.fb % 2 ^ f.eb + 1 ≤ 2 ^ f.eb - 1 by omega)
      rw [Nat.succ_mul] at this
      exact lt_of_lt_of_le (by omega) this
    rw [unpack_normal hmax hsub, pack, roundPack_exact (by omega) hlog.le (by omega) (.inr hlog) (by rw [hexp, hbody]; exact hlt), hexp, hbody]
    exact heq.symm

/-! ## NaN operands (R65) -/

/-- A NaN in its own format, quieted. -/
theorem packNan_unpack {f : Fmt} (h1 : 1 ≤ f.fb) {x : Nat} (hx : x < 2 ^ f.width) {n : Bool} {p : Nat}
    (h : unpack f x = .nan n p) : packNan f n p = x ||| 2 ^ (f.fb - 1) := by
  have hmax : x / 2 ^ f.fb % 2 ^ f.eb = 2 ^ f.eb - 1 := by
    by_contra hmax
    by_cases hsub : x / 2 ^ f.fb % 2 ^ f.eb = 0
    · rw [unpack_subnormal hmax hsub] at h; cases h
    · rw [unpack_normal hmax hsub] at h; cases h
  have heq := pattern_eq f hx
  have hfb : 2 ^ f.fb = 2 ^ (f.fb - 1) * 2 := by rw [← pow_succ, Nat.sub_add_cancel h1]
  have hquiet : x / 2 ^ (f.fb - 1) % 2 = x % 2 ^ f.fb / 2 ^ (f.fb - 1) := by rw [hfb, Nat.mod_mul_right_div_self]
  rw [unpack_special hmax] at h
  split at h
  · cases h
  · injection h with hneg hpay
    have hfr : p / 2 ^ (52 - f.fb) % 2 ^ f.fb = x % 2 ^ f.fb := by
      rw [← hpay, Nat.mul_div_cancel _ (Nat.two_pow_pos _), Nat.mod_mod]
    have hbit := Nat.mod_lt (x / 2 ^ (f.fb - 1)) (show 0 < 2 by decide)
    rw [hmax, hneg] at heq
    rw [or_two_pow, packNan]
    simp only [hfr, hquiet]
    rw [hquiet] at hbit
    rw [Nat.mod_eq_of_lt hbit]
    split
    · exact heq.symm
    · conv_rhs => rw [heq]
      cases n <;> simp [withSign, Fmt.infBits] <;> omega

/-- A NaN is unpacked as one. -/
theorem isNan_unpack {f : Fmt} {x : Nat} (h : isNan f x = true) : ∃ n p, unpack f x = .nan n p := by
  unfold isNan at h
  split at h
  · next n p hu => exact ⟨n, p, hu⟩
  · cases h
  · cases h

/-- The first of the operands of an addition is a NaN. -/
theorem fAdd_nan_left {f : Fmt} (h1 : 1 ≤ f.fb) (r : RMode) {a : Nat} (b : Nat) (ha : a < 2 ^ f.width)
    (hn : isNan f a = true) : fAdd f r a b = a ||| 2 ^ (f.fb - 1) := by
  obtain ⟨n, p, hu⟩ := isNan_unpack hn
  rw [← packNan_unpack h1 ha hu]
  simp [fAdd, hu, firstNan]

/-- Only the second is. -/
theorem fAdd_nan_right {f : Fmt} (h1 : 1 ≤ f.fb) (r : RMode) {a b : Nat} (hb : b < 2 ^ f.width)
    (hna : isNan f a = false) (hn : isNan f b = true) : fAdd f r a b = b ||| 2 ^ (f.fb - 1) := by
  obtain ⟨n, p, hu⟩ := isNan_unpack hn
  have hfirst : firstNan [unpack f a, unpack f b] = some (n, p) := by
    rw [hu]
    cases h : unpack f a with
    | nan n' p' => simp [isNan, h] at hna
    | inf n' => rfl
    | fin n' m e => rfl
  rw [← packNan_unpack h1 hb hu]
  simp [fAdd, hfirst]

/-- Settles O8: each format has at least one fraction bit. -/
theorem floatFormats : Obligations.FloatFormats := by
  unfold Obligations.FloatFormats
  refine ⟨fun f r a b hf ha hb => ?_, fun f r x _ hx hn => pack_unpack f r hx hn⟩
  have hfb : 1 ≤ f.fb := by
    simp only [List.mem_cons, List.not_mem_nil, or_false] at hf
    rcases hf with rfl | rfl | rfl | rfl <;> decide
  exact ⟨fAdd_nan_left hfb r b ha, fAdd_nan_right hfb r hb⟩

/-! ## Classes (R299) -/

/-- The number of the class of a pattern. -/
def classOf (f : Fmt) (x : Nat) : Nat :=
  match unpack f x with
  | .inf neg => if neg then 0 else 7
  | .nan _ _ => if x / 2 ^ (f.fb - 1) % 2 = 0 then 8 else 9
  | .fin neg m _ => if m = 0 then (if neg then 3 else 4) else if m < 2 ^ f.fb then (if neg then 2 else 5) else (if neg then 1 else 6)

/-- `FCLASS` sets the bit of the class. -/
theorem fClass_eq {f : Fmt} (h1 : 1 ≤ f.fb) (x : Nat) : fClass f x = 2 ^ classOf f x := by
  have hfb : 2 ^ f.fb = 2 ^ (f.fb - 1) * 2 := by rw [← pow_succ, Nat.sub_add_cancel h1]
  have hquiet : x / 2 ^ (f.fb - 1) % 2 = x % 2 ^ f.fb / 2 ^ (f.fb - 1) := by rw [hfb, Nat.mod_mul_right_div_self]
  have hfr : x % 2 ^ f.fb < 2 ^ f.fb := Nat.mod_lt _ (Nat.two_pow_pos _)
  unfold fClass classOf
  by_cases hmax : x / 2 ^ f.fb % 2 ^ f.eb = 2 ^ f.eb - 1
  · rw [unpack_special hmax]
    by_cases h0 : x % 2 ^ f.fb = 0 <;> simp only [hmax, h0, hquiet, if_true, if_false] <;> split <;> rfl
  by_cases hsub : x / 2 ^ f.fb % 2 ^ f.eb = 0
  · have hmax0 : ¬ 0 = 2 ^ f.eb - 1 := hsub ▸ hmax
    rw [unpack_subnormal hmax hsub]
    by_cases h0 : x % 2 ^ f.fb = 0 <;> simp only [hsub, hmax0, h0, hfr, if_true, if_false] <;> split <;> rfl
  · have hm0 : ¬ 2 ^ f.fb + x % 2 ^ f.fb = 0 := by omega
    have hm : ¬ 2 ^ f.fb + x % 2 ^ f.fb < 2 ^ f.fb := by omega
    rw [unpack_normal hmax hsub]
    simp only [hmax, hsub, hm0, hm, if_false]
    split <;> rfl

/-- What each class says of its pattern. -/
theorem classOf_spec (f : Fmt) (x : Nat) : classOf f x < 10 ∧
    (classOf f x = 0 ↔ unpack f x = .inf true) ∧ (classOf f x = 1 ↔ ∃ m e, unpack f x = .fin true m e ∧ 2 ^ f.fb ≤ m) ∧
    (classOf f x = 2 ↔ ∃ m e, unpack f x = .fin true m e ∧ 0 < m ∧ m < 2 ^ f.fb) ∧ (classOf f x = 3 ↔ ∃ e, unpack f x = .fin true 0 e) ∧
    (classOf f x = 4 ↔ ∃ e, unpack f x = .fin false 0 e) ∧
    (classOf f x = 5 ↔ ∃ m e, unpack f x = .fin false m e ∧ 0 < m ∧ m < 2 ^ f.fb) ∧
    (classOf f x = 6 ↔ ∃ m e, unpack f x = .fin false m e ∧ 2 ^ f.fb ≤ m) ∧ (classOf f x = 7 ↔ unpack f x = .inf false) ∧
    (classOf f x = 8 ↔ isNan f x = true ∧ x / 2 ^ (f.fb - 1) % 2 = 0) ∧
    (classOf f x = 9 ↔ isNan f x = true ∧ x / 2 ^ (f.fb - 1) % 2 = 1) := by
  have hpos : 0 < 2 ^ f.fb := Nat.two_pow_pos _
  unfold classOf isNan
  cases hu : unpack f x with
  | inf neg => cases neg <;> simp
  | nan neg p =>
    rcases Nat.mod_two_eq_zero_or_one (x / 2 ^ (f.fb - 1)) with h | h <;> simp [h]
  | fin neg m e =>
    rcases Nat.eq_zero_or_pos m with rfl | h0
    · cases neg <;> simp [hpos]
    · by_cases hm : m < 2 ^ f.fb <;> cases neg <;> simp [hm, h0, h0.ne'] <;> omega

/-! ## Rounding to an integer (R66, R67) -/

/-- At an exponent of 0 or more nothing rounds. -/
theorem roundInt_up (r : RMode) (neg : Bool) (m k : Nat) : roundInt r neg m (k : Int) = (if neg then -(m : Int) else m) * 2 ^ k := by
  unfold roundInt
  cases neg <;> simp

/-- Below it the magnitude is the quotient, or one more where the mode rounds up. -/
theorem roundInt_down (r : RMode) (neg : Bool) (m k : Nat) : roundInt r neg m (-(k : Int)) =
    (if neg then -1 else 1) * ((m / 2 ^ k + bitNat (roundsUp r neg (m / 2 ^ k % 2 == 1) (m % 2 ^ k) k) : Nat) : Int) := by
  rcases Nat.eq_zero_or_pos k with rfl | hpos
  · have hno : ∀ odd, roundsUp r neg odd 0 0 = false := fun odd => by cases r <;> simp [roundsUp]
    unfold roundInt
    cases neg <;> simp [Nat.mod_one, hno, bitNat]
  · have hneg : ¬ (0 : Int) ≤ -(k : Int) := by omega
    unfold roundInt
    simp only [if_neg hneg, Int.neg_neg, Int.toNat_natCast]
    cases roundsUp r neg (m / 2 ^ k % 2 == 1) (m % 2 ^ k) k <;> cases neg <;> simp [bitNat]

/-- The quotient of a negated number, rounded down. -/
theorem neg_ediv_eq (m : Nat) {d : Nat} (hd : 0 < d) : -(m : Int) / d = -((m / d + bitNat (m % d != 0) : Nat) : Int) := by
  have hm := Nat.div_add_mod m d
  have hlt := Nat.mod_lt m hd
  rw [Int.ediv_eq_iff_of_pos (by exact_mod_cast hd)]
  generalize m / d = q at *
  generalize m % d = r at *
  subst hm
  rcases Nat.eq_zero_or_pos r with rfl | hr
  · simp [bitNat]
    constructor <;> nlinarith
  · have : (r != 0) = true := by simp; omega
    simp only [this, bitNat, if_true]
    push_cast
    constructor <;> nlinarith

/-- R66: what rounding to an integer does in each mode. -/
theorem roundInt_modes (neg : Bool) (m k : Nat) :
    let v : Int := if neg then -(m : Int) else m
    roundInt .rdn neg m (-(k : Int)) = v / 2 ^ k ∧ roundInt .rup neg m (-(k : Int)) = -(-v / 2 ^ k) ∧
      roundInt .rtz neg m (-(k : Int)) = v.tdiv (2 ^ k) := by
  have hfloor := neg_ediv_eq m (Nat.two_pow_pos k)
  push_cast at hfloor
  simp only [roundInt_down, roundsUp]
  refine ⟨?_, ?_, ?_⟩ <;> cases neg
  · simp [bitNat]
  · simp [hfloor, bitNat]
  · simp [hfloor, bitNat]
  · simp [bitNat]
  · simp [bitNat]
  · simp [bitNat, Int.neg_tdiv]

/-- The magnitude that a mode rounds to. -/
theorem roundInt_natAbs (r : RMode) (neg : Bool) (m k : Nat) : (roundInt r neg m (-(k : Int))).natAbs =
    m / 2 ^ k + bitNat (roundsUp r neg (m / 2 ^ k % 2 == 1) (m % 2 ^ k) k) := by
  rw [roundInt_down, Int.natAbs_mul, Int.natAbs_natCast]
  cases neg <;> simp

/-- R66: ties away from zero. -/
theorem roundInt_rna (neg : Bool) (m k : Nat) : (roundInt .rna neg m (-(k : Int))).natAbs = (2 * m + 2 ^ k) / 2 ^ (k + 1) := by
  have hm := Nat.div_add_mod m (2 ^ k)
  have hlt := Nat.mod_lt m (Nat.two_pow_pos k)
  rw [roundInt_natAbs, pow_succ, roundsUp]
  generalize m / 2 ^ k = q at *
  generalize m % 2 ^ k = rem at *
  generalize 2 ^ k = d at *
  have hsum : 2 * m + d = 2 * rem + d + d * 2 * q := by rw [← hm]; ring
  rw [hsum, Nat.add_mul_div_left _ _ (by omega)]
  by_cases hup : 2 * rem ≥ d
  · rw [show (2 * rem + d) / (d * 2) = 1 from Nat.div_eq_of_lt_le (by omega) (by omega)]
    simp [hup, bitNat]; omega
  · rw [Nat.div_eq_of_lt (by omega)]
    simp [hup, bitNat]

/-- R66: to the nearest, ties to even. -/
theorem roundInt_rne (neg : Bool) (m k : Nat) :
    let q := (roundInt .rne neg m (-(k : Int))).natAbs
    2 * m ≤ 2 * q * 2 ^ k + 2 ^ k ∧ 2 * q * 2 ^ k ≤ 2 * m + 2 ^ k ∧
      (2 * m = 2 * q * 2 ^ k + 2 ^ k ∨ 2 * q * 2 ^ k = 2 * m + 2 ^ k → q % 2 = 0) := by
  have hm := Nat.div_add_mod m (2 ^ k)
  have hlt := Nat.mod_lt m (Nat.two_pow_pos k)
  simp only [roundInt_natAbs, roundsUp]
  generalize m / 2 ^ k = q at *
  generalize m % 2 ^ k = rem at *
  generalize 2 ^ k = d at *
  by_cases hup : (decide (2 * rem > d) || (2 * rem == d && q % 2 == 1)) = true
  · simp only [hup, bitNat, if_true]
    have : 2 * (q + 1) * d = 2 * (d * q) + 2 * d := by ring
    simp at hup
    omega
  · simp only [hup, bitNat, Bool.false_eq_true, if_false]
    have : 2 * (q + 0) * d = 2 * (d * q) := by ring
    simp at hup
    omega

/-! ## The scalar floating words -/

theorem binaryF_run {s : State} {p : Prec} {g : Nat → Nat → Nat} {d a b : Reg} (h : s.Plain [d, a, b]) :
    binaryF p g d a b s = .ok ((), s.withReg d (floatWord (g (floatOf p (s.srcReg a)) (floatOf p (s.srcReg b))))) := by
  unfold binaryF
  rw [bind_ok (readS_plain (h.of_mem (r := a) (by simp))), bind_ok (readS_plain (h.of_mem (r := b) (by simp))),
    writeS_plain (h.of_mem (r := d) (by simp))]

/-- The bits of a 32-bit integer operand, signed. -/
theorem toSigned_low (v : Word) : toSigned 32 (v.toNat % 2 ^ 32) = (BitVec.ofNat 32 v.toNat).toInt := by
  rw [toSigned, BitVec.toInt_eq_toNat_cond, BitVec.toNat_ofNat]
  split <;> split <;> omega

/-- Settles O7: each word computes one function of its operands; the classes are those of `classOf`, the rounding that of `roundInt_down`. -/
theorem floatResults : Obligations.FloatResults := by
  unfold Obligations.FloatResults
  refine ⟨fun s d a b c r p rel hp => ?words, fun s d a sel r p hp h => ?cvt, fun neg m k => ⟨fun r => roundInt_up r neg m k, ?down⟩⟩
  case words =>
    have h3 : s.Plain [d, a, b] := fun q hq => hp q (by simp only [List.mem_cons] at hq ⊢; tauto)
    have pd := hp.of_mem (r := d) (by simp)
    have pa := hp.of_mem (r := a) (by simp)
    have pb := hp.of_mem (r := b) (by simp)
    have pc := hp.of_mem (r := c) (by simp)
    refine ⟨fun h => exec_ok rfl h (binaryF_run h3), fun h => exec_ok rfl h (binaryF_run h3), fun h => exec_ok rfl h (binaryF_run h3),
      fun h => exec_ok rfl h ?fma, fun h => exec_ok rfl h (binaryF_run h3), fun h => exec_ok rfl h (binaryF_run h3),
      fun h => ?cmp, fun h => ⟨classOf (precFmt p) (floatOf p (s.srcReg a)), exec_ok rfl h ?cls, classOf_spec _ _⟩,
      fun h => exec_ok rfl h ?div, fun h => exec_ok rfl h ?sqrt⟩
    case fma => rw [bind_ok (readS_plain pa), bind_ok (readS_plain pb), bind_ok (readS_plain pc), writeS_plain pd]; rfl
    case cmp =>
      rw [exec_ok rfl h (binaryF_run h3)]
      cases hrel : fRel (precFmt p) rel (floatOf p (s.srcReg a)) (floatOf p (s.srcReg b)) <;> simp [bitNat, floatWord]
    case cls =>
      rw [bind_ok (readS_plain pa), writeS_plain pd, fClass_eq (by cases p <;> decide)]
      rfl
    case div => rw [bind_ok (readS_plain pa), bind_ok (readS_plain pb), writeLate_now pd]; rfl
    case sqrt => rw [bind_ok (readS_plain pa), writeLate_now pd]; rfl
  case cvt =>
    refine exec_ok rfl h ?_
    rw [bind_ok (readS_plain (hp.of_mem (r := a) (by simp))), writeS_plain (hp.of_mem (r := d) (by simp))]
    congr 3
    cases sel with
    | ff => cases p <;> rfl
    | i64f | n64f => rfl
    | i32f => simp only [convert, toSigned_low]; rfl
    | fi64 | fn64 | fi32 | fn32 =>
      simp only [convert, fToInt]
      cases unpack (precFmt p) (floatOf p (s.srcReg a)) <;> rfl
  case down => 
    obtain ⟨hdn, hup, htz⟩ := roundInt_modes neg m k
    exact ⟨hdn, hup, htz, roundInt_rna neg m k, roundInt_rne neg m k⟩

end Sys2Proof.Machine
end

section
/-! Loads, stores, full/empty tags and cache hints (R87, R94, R111, R304, R305, R318–R325, R371–R373): what an access through the raw window
does, and the traps of failing checks. -/

namespace Sys2Proof.Machine

/-! ## Bytes -/

@[simp] theorem leBytes_length (n v : Nat) : (leBytes n v).length = n := by
  induction n generalizing v with
  | zero => rfl
  | succ n ih => simp [leBytes, ih]

@[simp] theorem wordBytes_length (n : Nat) (v : Word) : (wordBytes n v).length = n := leBytes_length n _

/-- The bytes of rows in order. -/
theorem rowBytes_length (rows : List Row) : (rows.flatMap fun r => leBytes 16 r.toNat).length = 16 * rows.length := by
  induction rows with
  | nil => rfl
  | cons r rows ih => simp only [List.flatMap_cons, List.length_append, leBytes_length, ih, List.length_cons]; omega

/-! ## Loads -/

theorem pointerM_plain {s : State} {b : Reg} (disp : Nat) (h : s.me.ctx.bindOf b.toNat = none) :
    pointerM b disp s = .ok (ptrAdd (s.srcReg b) disp, s) := by
  unfold pointerM
  rw [bind_ok (readS_plain h)]
  rfl

/-- An acquire on the lines an access reaches (R119). -/
theorem acquireM_reaches {s : State} {p : Word} {a : Acc} {pa : Nat} (acq : Bool) (h : s.check s.who p a = .ok (.mem [(pa, a.n)])) :
    acquireM acq p a s = .ok ((), if acq then s.acquire (segLines [(pa, a.n)]) else s) := by
  unfold acquireM
  cases acq <;> simp [h]

/-- What a load leaves beside its register is no part of the context, of memory or of another agent. -/
theorem loaded_frame (s : State) (acq : Bool) (ls : List Nat) : (s.loaded acq ls).me.ctx = s.me.ctx ∧ (s.loaded acq ls).mem = s.mem ∧
    (s.loaded acq ls).others = s.others := by
  have hacq : ∀ (g : Agent) (cov : List Nat), (g.acquires cov).ctx = g.ctx := fun g cov => by unfold Agent.acquires; split <;> rfl
  unfold State.loaded
  split
  · exact ⟨hacq _ _, rfl, rfl⟩
  · exact ⟨rfl, rfl, rfl⟩

/-- An ordinary load with its acquire, before its result is written. -/
theorem load_run {α : Type} {s : State} {b : Reg} {disp : Nat} {a : Acc} {pa : Nat} {acq : Bool} {k : List Byte → M α}
    (hb : s.me.ctx.bindOf b.toNat = none) (hown : s.unit.own = false) (h : s.Reaches (ptrAdd (s.srcReg b) disp) a pa) :
    (do
      let p ← pointerM b disp
      let bs ← loadM p a
      acquireM acq p a
      k bs) s = k (s.viewBytes [(pa, a.n)]) (s.loaded acq (segLines [(pa, a.n)])) := by
  have hcheck : (s.noteReads (segLines [(pa, a.n)])).check (s.noteReads (segLines [(pa, a.n)])).who (ptrAdd (s.srcReg b) disp) a =
      .ok (.mem [(pa, a.n)]) := (check_congr (s := s) (t := s.noteReads (segLines [(pa, a.n)])) rfl rfl rfl rfl s.who _ a).trans h.1
  rw [bind_ok (pointerM_plain disp hb), bind_ok (loadM_reaches h), if_neg (by simp [hown]), bind_ok (acquireM_reaches acq hcheck)]
  rfl

/-- Settles O24: the load brings its bytes, and its register is written at once, late or not at all. -/
theorem loadResult : Obligations.LoadResult := by
  unfold Obligations.LoadResult
  intro s la o d b sz x pa n h hp hown hreach v u
  obtain ⟨hctx, hmem, hothers⟩ := loaded_frame s (o == .acq) (segLines [(pa, n)])
  have hd : u.me.ctx.bindOf d.toNat = none := hctx ▸ hp.of_mem (r := d) (by simp)
  have hload := load_run (k := fun bs => writeLate la d (leWord bs)) (acq := o == .acq) (hp.of_mem (r := b) (by simp)) hown hreach
  refine ⟨fun h0 => ?now, fun hla hd0 => exec_ok rfl h (hload.trans (writeLate_late hd hla hd0)),
    fun hla hd0 => exec_ok rfl h (hload.trans ?none), hctx, hmem, hothers⟩
  case now =>
    subst h0
    exact exec_ok rfl h (hload.trans (writeLate_now hd))
  case none =>
    subst hd0
    unfold writeLate
    rw [bind_ok (getM_run _ _), hd]
    rfl

/-! ## Stores -/

/-- What a store holds in its chunk is seen there, and nowhere else. -/
theorem withHeld_frame (s : State) (pa : Nat) (bs : List Byte) (rel : Bool) : (s.withHeld pa bs rel).viewBytes [(pa, bs.length)] = bs ∧
    s.SameOutside (s.withHeld pa bs rel) pa bs.length ∧ (s.withHeld pa bs rel).me.ctx = s.me.ctx ∧ (s.withHeld pa bs rel).mem = s.mem ∧
    (s.withHeld pa bs rel).others = s.others ∧ (s.withHeld pa bs rel).host = s.host :=
  ⟨withHeld_view s pa bs rel, fun _ ha => ⟨withHeld_view_other s pa bs rel ha, rfl⟩, rfl, rfl, rfl, rfl⟩

theorem rel_release {o : CmOrd} {s : State} (h : o = .rel → s.me.err = none) : s.me.err = none ∨ (o == .rel) = false := by
  by_cases ho : o = .rel
  · exact .inl (h ho)
  · exact .inr (by simpa using ho)

/-- Settles O25: the store holds its bytes in the chunk. -/
theorem storeResult : Obligations.StoreResult := by
  unfold Obligations.StoreResult
  intro s la o d b sz x pa n h hp hrel hroom hreach
  have hlen : (wordBytes n (s.srcReg d)).length = n := wordBytes_length n _
  have hframe := withHeld_frame s pa (wordBytes n (s.srcReg d)) (o == .rel)
  rw [hlen] at hframe
  refine ⟨_, exec_ok rfl h ?_, hframe⟩
  rw [bind_ok (releaseM_ok (rel_release hrel)), bind_ok (readS_plain (hp.of_mem (r := d) (by simp))),
    bind_ok (pointerM_plain _ (hp.of_mem (r := b) (by simp)))]
  exact storeM_reaches hreach hlen hroom

/-! ## Failing checks (R87) -/

theorem check_handle {s : State} {w : Who} {p : Word} {a : Acc} (h : stepHandle (s.handle w.asid (handleOf p)) (handleOf p) a = false) :
    s.check w p a = .error .handle := by simp [State.check, h]

theorem check_align {s : State} {w : Who} {p : Word} {a : Acc} (hh : stepHandle (s.handle w.asid (handleOf p)) (handleOf p) a = true)
    (hali : a.ali = true) (h : stepAlign (s.handle w.asid (handleOf p)) p a = false) : s.check w p a = .error .align := by
  simp [State.check, hh, hali, h]

theorem check_bounds {s : State} {w : Who} {p : Word} {a : Acc} (hh : stepHandle (s.handle w.asid (handleOf p)) (handleOf p) a = true)
    (hali : a.ali = true → stepAlign (s.handle w.asid (handleOf p)) p a = true) (h : stepBounds (s.handle w.asid (handleOf p)) p a = false) :
    s.check w p a = .error .bounds := by
  have h2 : (a.ali && !stepAlign (s.handle w.asid (handleOf p)) p a) = false := by
    cases ha : a.ali
    · rfl
    · simp [hali ha]
  simp [State.check, hh, h2, h]

/-- An access past the bound of its entry fails the third check. -/
theorem stepBounds_false {e : List Word} {p : Word} {a : Acc} (h : hBound e < offsetOf p + a.n) : stepBounds e p a = false := by
  have hlim : (if hSpace e = 3 then min (hBound e) 1032 else hBound e) ≤ hBound e := by split <;> omega
  have hno : ¬ offsetOf p + a.n ≤ if hSpace e = 3 then min (hBound e) 1032 else hBound e := by omega
  simp [stepBounds, hno]

/-- Settles O26: the failing check stops both words before any effect, and the checks stand in their order. -/
theorem accessTraps : Obligations.AccessTraps := by
  unfold Obligations.AccessTraps
  refine ⟨fun s la o d b sz x c hp => ⟨fun h hc => exec_trap rfl h ?load, fun h hrel hc => exec_trap rfl h ?store⟩,
    fun s w p a => ⟨fun hv => check_handle ?invalid, fun hh hali ha => check_align hh hali ha,
      fun hh hali hb => check_bounds hh hali (stepBounds_false hb)⟩⟩
  case load => rw [bind_ok (pointerM_plain _ (hp.of_mem (r := b) (by simp))), bind_error (loadM_error hc)]
  case store =>
    rw [bind_ok (releaseM_ok (rel_release hrel)), bind_ok (readS_plain (hp.of_mem (r := d) (by simp))),
      bind_ok (pointerM_plain _ (hp.of_mem (r := b) (by simp)))]
    exact storeM_error hc
  case invalid => simp only [stepHandle, show hValid (s.handle w.asid (handleOf p)) = false from hv, Bool.false_and]

/-! ## Tiles -/

/-- Settles O27: as `LD` and `ST`, with rows for a register. -/
theorem tileLoadStore : Obligations.TileLoadStore := by
  unfold Obligations.TileLoadStore
  intro s la o t b k f e pa n p hp ht
  have hb := hp.of_mem (r := b) (by simp)
  have htile := ht.of_mem (t := t) (by simp)
  obtain ⟨hctx, -, -⟩ := loaded_frame s (o == .acq) (segLines [(pa, 16 * n)])
  have hu : (s.loaded (o == .acq) (segLines [(pa, 16 * n)])).me.ctx.bindOf (32 + t.toNat) = none := hctx ▸ htile
  refine ⟨fun h hown hreach => exec_ok rfl h ?now, fun h hla hown hreach => exec_ok rfl h ?late, fun h hrel hroom hreach => ?store⟩
  case now =>
    exact (load_run (k := fun bs => writeRowsLate 0 t f.toNat (bytesToRows n bs)) hb hown hreach).trans (writeRowsLate_now hu)
  case late =>
    exact (load_run (k := fun bs => writeRowsLate la t f.toNat (bytesToRows n bs)) hb hown hreach).trans (writeRowsLate_late hu hla)
  case store =>
    have hlen : ((s.srcRows t f.toNat n).flatMap fun r => leBytes 16 r.toNat).length = 16 * n := by
      rw [rowBytes_length, State.srcRows, List.length_map, List.length_range]
    obtain ⟨hview, hsame, hctx, hmem, hothers, -⟩ :=
      withHeld_frame s pa ((s.srcRows t f.toNat n).flatMap fun r => leBytes 16 r.toNat) (o == .rel)
    rw [hlen] at hview hsame
    refine ⟨_, exec_ok rfl h ?_, hview, hsame, hctx, hmem, hothers⟩
    rw [bind_ok (releaseM_ok (rel_release hrel)), bind_ok (readRows_plain htile), bind_ok (pointerM_plain _ hb)]
    exact storeM_reaches hreach hlen hroom

/-! ## Full/empty tags (R111, R304, R305, R324, R372) -/

theorem wordPlaceM_reaches {s : State} {p : Word} {rd wr : Bool} {pa : Nat}
    (h : s.Reaches p { rd := rd, wr := wr, n := 8, align := 8, raw := true, spaces := [0, 1, 2] } pa) : wordPlaceM p rd wr s = .ok (pa, s) := by
  unfold wordPlaceM
  rw [bind_ok (accessM_ok h.1)]
  rfl

/-- The bytes of a reached access, read by an ordinary word. -/
theorem loadSegs_reaches {s : State} {p : Word} {a : Acc} {pa : Nat} (hown : s.unit.own = false) (h : s.Reaches p a pa) :
    loadSegs [(pa, a.n)] p s = .ok (s.viewBytes [(pa, a.n)], s.noteReads (segLines [(pa, a.n)])) := by
  obtain ⟨-, -, hlow, -, howned, hpoison⟩ := h
  rw [loadSegs_low hlow howned hpoison, if_neg (by simp [hown])]

/-- The lines of a reached access, claimed by an ordinary word. -/
theorem claimM_reaches {s : State} {p : Word} {a : Acc} {pa : Nat} (hroom : s.Room pa a.n) (h : s.Reaches p a pa) :
    claimM [(pa, a.n)] p s = .ok ((), s.noteWrites (segLines [(pa, a.n)])) := by
  obtain ⟨-, -, hlow, -, howned, -⟩ := h
  exact claimM_room hlow howned hroom

/-- A word read and claimed in one access (R111). -/
theorem wordAccessM_reaches {s : State} {p : Word} {a : Acc} {pa : Nat} (hn : a.n = 8) (hroom : s.Room pa 8) (h : s.Reaches p a pa) :
    wordAccessM pa p s = .ok (leNat (s.viewBytes [(pa, 8)]), (s.noteReads (segLines [(pa, 8)])).noteWrites (segLines [(pa, 8)])) := by
  rw [← hn] at hroom ⊢
  have hload := loadSegs_reaches hroom.1 h
  obtain ⟨-, -, hlow, -, howned, -⟩ := h
  have hclaim : claimM [(pa, a.n)] p (s.noteReads (segLines [(pa, a.n)])) = _ :=
    claimM_room (s := s.noteReads (segLines [(pa, a.n)])) hlow howned hroom
  rw [hn] at hload hclaim ⊢
  unfold wordAccessM
  rw [bind_ok hload, bind_ok hclaim]
  rfl

/-- Only a scalar result's register counts among those in flight. -/
theorem clear_scalar {s : State} {d : Reg} {v : Word} (h : s.Clear (.scalar d v)) (w : Word) : s.Clear (.scalar d w) :=
  fun l hl => h l hl

/-- The bytes of a reached access, held by an ordinary word. -/
theorem storeSegs_reaches {s : State} {p : Word} {a : Acc} {pa n : Nat} (bs : List Byte) (hn : a.n = n) (hroom : s.Room pa n)
    (h : s.Reaches p a pa) : storeSegs [(pa, n)] bs p s = .ok ((), (s.noteWrites (segLines [(pa, n)])).putSegs [(pa, n)] bs) := by
  subst hn
  unfold storeSegs
  rw [bind_ok (claimM_reaches hroom h)]
  rfl

/-- `STFE` leaves what a store holds and a tag set (R372). -/
theorem stfe_released {s : State} (hown : s.unit.own = false) (pa : Nat) (v : Word) (rel : Bool) :
    (if rel then modM (·.carryRelease (.bytes [(pa, 8)] [])) else pure ())
      (((s.noteWrites (segLines [(pa, 8)])).putSegs [(pa, 8)] (wordBytes 8 v)).putTag pa true) =
      .ok ((), (s.withHeld pa (wordBytes 8 v) rel).putTag pa true) := by
  cases rel <;>
    simp [State.putTag, State.putSegs, State.noteWrites, State.withHeld, State.carryRelease, State.modChunk, hown]

/-- What a late or immediate scalar result changes, where none of its destination is in flight. -/
theorem writeLate_frame {s : State} {la : BitVec 4} {d : Reg} {v : Word} (h : s.me.ctx.bindOf d.toNat = none)
    (hclear : s.Clear (.scalar d v)) : ∃ t, writeLate la d v s = .ok ((), t) ∧ (la = 0 → t.me.ctx = s.me.ctx.setReg d v) ∧
      (la ≠ 0 → d ≠ 0 → t.me.ctx = { s.me.ctx with lates := s.me.ctx.lates ++ [⟨.scalar d v, la.toNat + 1⟩] }) ∧
      t.me.chunk = s.me.chunk ∧ t.mem = s.mem := by
  by_cases hla : la = 0
  · subst hla
    exact ⟨s.withReg d v, (writeLate_now h).trans (by rw [nowReg_clear hclear]), fun _ => rfl, fun h0 => absurd rfl h0, rfl, rfl⟩
  · by_cases hd : d = 0
    · subst hd
      refine ⟨s, ?_, fun h0 => absurd h0 hla, fun _ h0 => absurd rfl h0, rfl, rfl⟩
      unfold writeLate
      rw [bind_ok (getM_run _ s), h]
      rfl
    · exact ⟨s.withLate (.scalar d v) la, writeLate_late h hla hd, fun h0 => absurd h0 hla, fun _ _ => rfl, rfl, rfl⟩

/-- Tags and bytes are seen through the chunk and memory alone. -/
theorem view_congr {s t : State} (hc : t.me.chunk = s.me.chunk) (hm : t.mem = s.mem) :
    t.viewTag = s.viewTag ∧ t.viewBytes = s.viewBytes := by
  constructor
  · funext a; rw [State.viewTag, State.viewTag, State.fullAt, State.fullAt, hc, hm]
  · funext segs; rw [State.viewBytes, State.viewBytes, hc, hm]

/-- An acquire is no matter of the chunk or the context. -/
theorem acquire_frame (s : State) (ls : List Nat) : (s.acquire ls).me.chunk = s.me.chunk ∧ (s.acquire ls).me.ctx = s.me.ctx ∧
    (s.acquire ls).mem = s.mem ∧ (s.acquire ls).unit = s.unit := by
  have hacq : ∀ (g : Agent) (cov : List Nat), (g.acquires cov).chunk = g.chunk ∧ (g.acquires cov).ctx = g.ctx := fun g cov => by
    unfold Agent.acquires; split <;> exact ⟨rfl, rfl⟩
  exact ⟨(hacq _ _).1, (hacq _ _).2, rfl, rfl⟩

/-- A full tag that an ordinary word writes is seen at its word alone. -/
theorem putTag_frame {s : State} (hown : s.unit.own = false) (pa : Nat) (full : Bool) : (s.putTag pa full).viewTag pa = full ∧
    (∀ a, a ≠ pa → (s.putTag pa full).viewTag a = s.viewTag a) ∧ (s.putTag pa full).viewBytes = s.viewBytes ∧
    (s.putTag pa full).me.ctx = s.me.ctx ∧ (s.putTag pa full).mem = s.mem := by
  have hput : s.putTag pa full = s.modChunk fun c => { c with tagw := tabSet pa full c.tagw } := by simp [State.putTag, hown]
  rw [hput]
  refine ⟨?_, fun a ha => ?_, rfl, rfl, rfl⟩
  · simp [State.viewTag, tabGet_tabSet_same]
  · simp only [State.viewTag, State.modChunk_me, tabGet_tabSet_other full _ ha]
    rfl

/-- `LDFE` (R324) reads its word and clears its tag; nothing else changes but its register. -/
theorem ldfe_spec {s : State} {la : BitVec 4} {o : CmOrd} {d b : Reg} {x : BitVec 6} {pa : Nat} (hd : s.me.ctx.bindOf d.toNat = none)
    (hb : s.me.ctx.bindOf b.toNat = none) (hroom : s.Room pa 8) (h : s.Ready (.ldfe la o d b x))
    (hreach : s.Reaches (ptrAdd (s.srcReg b) (x.toNat * 8))
      { rd := true, wr := true, n := 8, align := 8, raw := true, spaces := [0, 1, 2] } pa) (hclear : s.Clear (.scalar d 0)) :
    ∃ t, exec (.ldfe la o d b x) s = .next t ∧ t.viewTag pa = false ∧
      (la = 0 → t.me.ctx = s.me.ctx.setReg d (leWord (s.viewBytes [(pa, 8)]))) ∧
      (la ≠ 0 → d ≠ 0 → t.me.ctx =
        { s.me.ctx with lates := s.me.ctx.lates ++ [⟨.scalar d (leWord (s.viewBytes [(pa, 8)])), la.toNat + 1⟩] }) ∧
      (∀ a, t.viewBytes [(a, 1)] = s.viewBytes [(a, 1)]) ∧ t.mem = s.mem ∧ ∀ a, a ≠ pa → t.viewTag a = s.viewTag a := by
  have hplace := wordPlaceM_reaches hreach
  have hword := wordAccessM_reaches rfl hroom hreach
  generalize hu : (s.noteReads (segLines [(pa, 8)])).noteWrites (segLines [(pa, 8)]) = u at hword
  generalize hw : (if (o == .acq) = true then u.acquire [lineOf pa] else u) = w
  have hframe : w.me.ctx = s.me.ctx ∧ w.mem = s.mem ∧ w.unit.own = false ∧ w.viewTag = s.viewTag ∧ w.viewBytes = s.viewBytes := by
    obtain ⟨hch, hctx, hmem, hunit⟩ := acquire_frame u [lineOf pa]
    subst hw hu
    split
    · obtain ⟨htag, hbytes⟩ := view_congr hch hmem
      exact ⟨hctx, hmem, (congrArg UnitSt.own hunit).trans hroom.1, htag, hbytes⟩
    · exact ⟨rfl, rfl, hroom.1, rfl, rfl⟩
  obtain ⟨wctx, wmem, wown, wtag, wbytes⟩ := hframe
  obtain ⟨ptag, pother, pbytes, pctx, pmem⟩ := putTag_frame wown pa false
  have hdp : (w.putTag pa false).me.ctx.bindOf d.toNat = none := by rw [pctx, wctx]; exact hd
  have hcl : (w.putTag pa false).Clear (.scalar d (leWord (s.viewBytes [(pa, 8)]))) := by
    intro l hl
    rw [pctx, wctx] at hl
    exact clear_scalar hclear _ l hl
  obtain ⟨t, hrun, h0, hlate, hchunk, hmem⟩ := writeLate_frame (la := la) hdp hcl
  obtain ⟨ttag, tbytes⟩ := view_congr hchunk hmem
  refine ⟨t, exec_ok rfl h ?_, ?_, ?_, ?_, fun a => ?_, hmem.trans (pmem.trans wmem), fun a ha => ?_⟩
  · rw [bind_ok (pointerM_plain _ hb), bind_ok hplace, bind_ok hword, ← hrun]
    subst hw
    split <;> rfl
  · rw [ttag, ptag]
  · intro hla; rw [h0 hla, pctx, wctx]
  · intro hla hd0; rw [hlate hla hd0, pctx, wctx]
  · rw [tbytes, pbytes, wbytes]
  · rw [ttag, pother a ha, wtag]

/-- `STFE` (R372) holds its word with its tag set. -/
theorem stfe_spec {s : State} {la : BitVec 4} {o : CmOrd} {d b : Reg} {x : BitVec 6} {pa : Nat} (hd : s.me.ctx.bindOf d.toNat = none)
    (hb : s.me.ctx.bindOf b.toNat = none) (hroom : s.Room pa 8) (h : s.Ready (.stfe la o d b x)) (hrel : o = .rel → s.me.err = none)
    (hreach : s.Reaches (ptrAdd (s.srcReg b) (x.toNat * 8))
      { rd := false, wr := true, n := 8, align := 8, raw := true, spaces := [0, 1, 2] } pa) :
    ∃ t, exec (.stfe la o d b x) s = .next t ∧ t.viewTag pa = true ∧ t.viewBytes [(pa, 8)] = wordBytes 8 (s.srcReg d) ∧
      s.SameOutside t pa 8 ∧ t.me.ctx = s.me.ctx ∧ t.mem = s.mem ∧ ∀ a, a ≠ pa → t.viewTag a = s.viewTag a := by
  obtain ⟨hview, hsame, hctx, hmem, -, -⟩ := withHeld_frame s pa (wordBytes 8 (s.srcReg d)) (o == .rel)
  rw [wordBytes_length] at hview hsame
  have hown : (s.withHeld pa (wordBytes 8 (s.srcReg d)) (o == .rel)).unit.own = false := hroom.1
  obtain ⟨ptag, pother, pbytes, pctx, pmem⟩ := putTag_frame hown pa true
  have hstore := storeSegs_reaches (wordBytes 8 (s.srcReg d)) rfl hroom hreach
  refine ⟨_, exec_ok rfl h ?_, ptag, ?_, fun a ha => ?_, pctx.trans hctx, pmem.trans hmem, pother⟩
  · rw [bind_ok (releaseM_ok (rel_release hrel)), bind_ok (readS_plain hd), bind_ok (pointerM_plain _ hb),
      bind_ok (wordPlaceM_reaches hreach), bind_ok hstore, bind_ok (modM_run _ _)]
    exact stfe_released hroom.1 pa _ _
  · rw [pbytes]; exact hview
  · rw [pbytes, pmem]; exact hsame a ha

/-- Settles O28: a word's tag is read or written with the chunk, and its bytes as by `LD` and `ST`. -/
theorem fullEmpty : Obligations.FullEmpty := by
  unfold Obligations.FullEmpty
  intro s la o d b x full pa hp hroom acc p
  have hd := hp.of_mem (r := d) (by simp)
  have hb := hp.of_mem (r := b) (by simp)
  refine ⟨fun h hreach hclear => ldfe_spec hd hb hroom h hreach hclear, fun h hrel hreach => stfe_spec hd hb hroom h hrel hreach, fun h hreach => ?feset, fun h hreach => exec_ok rfl h ?feq⟩
  case feset =>
    have hrun := claimM_reaches hroom hreach
    obtain ⟨htag, hother, hbytes, hctx, hmem⟩ := putTag_frame (s := s.noteWrites (segLines [(pa, 8)])) hroom.1 pa full
    refine ⟨_, exec_ok rfl h ?_, htag, hother, fun a => by rw [hbytes]; rfl, hctx, hmem⟩
    rw [bind_ok (readS_plain hb), bind_ok (wordPlaceM_reaches hreach), bind_ok hrun]
    rfl
  case feq =>
    have hld := loadSegs_reaches (p := s.srcReg b) hroom.1 hreach
    rw [bind_ok (readS_plain hb), bind_ok (wordPlaceM_reaches hreach), bind_ok hld, bind_ok (getM_run _ _), writeS_plain (s := s.noteReads (segLines [(pa, 8)])) hd]
    rfl

/-! ## Cache hints -/

theorem hintCheckM_ok {s : State} {p : Word} {pl : Place}
    (h : s.check s.who p { rd := true, wr := false, n := 1, align := 1, ali := false, gen := false, cap := false } = .ok pl) :
    hintCheckM p s = .ok ((), s) := by
  unfold hintCheckM
  rw [bind_ok (accessM_ok h)]
  rfl

theorem hintCheckM_error {s : State} {p : Word} {c : Cause}
    (h : s.check s.who p { rd := true, wr := false, n := 1, align := 1, ali := false, gen := false, cap := false } = .error c) :
    hintCheckM p s = .error (.trap c p) := by
  unfold hintCheckM
  exact bind_error (accessM_error h)

/-- Settles O29: the hints are their check, and `PREF` not even that. -/
theorem cacheHints : Obligations.CacheHints := by
  unfold Obligations.CacheHints
  intro s la a hp acc
  have hread : ∀ k : Word → M Unit, (readS a >>= k) s = k (s.srcReg a) s := fun k => bind_ok (readS_plain (hp.of_mem (by simp)))
  exact ⟨fun h => exec_ok rfl h (hread _), fun pl hpl => ⟨fun h => exec_ok rfl h ((hread _).trans (hintCheckM_ok hpl)),
      fun h => exec_ok rfl h ((hread _).trans (hintCheckM_ok hpl))⟩,
    fun c hc => ⟨fun h => exec_trap rfl h ((hread _).trans (hintCheckM_error hc)),
      fun h => exec_trap rfl h ((hread _).trans (hintCheckM_error hc))⟩⟩

end Sys2Proof.Machine
end

section
/-! Streams and chunks (R31, R52, R82, R105–R109, R361–R370): binding and freeing generators, elements of a bound register, grants and squashes. -/

namespace Sys2Proof.Machine

/-! ## Generators -/

/-- Two changes of the context that agree on the current one are the same change. -/
theorem modCtx_congr {s : State} {f g : Ctx → Ctx} (h : f s.me.ctx = g s.me.ctx) : s.modCtx f = s.modCtx g := by
  simp only [State.modCtx, h]

/-- A change that leaves the current context alone is none. -/
theorem modCtx_id {s : State} {f : Ctx → Ctx} (h : f s.me.ctx = s.me.ctx) : s.modCtx f = s := by
  simp only [State.modCtx, h]

/-- A context with a generator freed (R365). -/
def Ctx.freed (k : BitVec 2) (c : Ctx) : Ctx :=
  if (c.binds[k.toNat]).isNone then c
  else { c with binds := c.binds.set k.toNat none k.isLt, dirty := c.dirty ||| 2 ^ (48 + k.toNat) }

theorem sfree_run {s : State} {la : BitVec 4} {k : BitVec 2} (h : s.Ready (.sfree la k)) :
    exec (.sfree la k) s = .next (s.modCtx (Ctx.freed k)) :=
  exec_ok (m := modM fun s => s.modCtx (Ctx.freed k)) rfl h rfl

/-- Settles O30: `SBIND` reads its descriptor once the generator and the register are free; the others look at the generator alone. -/
theorem streamControl : Obligations.StreamControl := by
  unfold Obligations.StreamControl
  intro s la a r k tile out pa hp code ws
  have ha := hp.of_mem (r := a) (by simp)
  refine ⟨fun h hown hfree hcode hreach => ⟨fun b hb => exec_ok rfl h ?bind, fun hb => exec_trap rfl h ?bad⟩,
    fun h => ⟨fun b hb => ?free, fun hb => ?unbound⟩, fun h => exec_ok rfl h ?sync⟩
  case bind =>
    have hload := loadM_reaches hreach
    rw [if_neg (by simp [hown])] at hload
    cases tile <;>
      rw [bind_ok (readS_plain ha), bind_ok (getM_run _ s), bind_ok (legalM_ok (by rw [hfree, hcode]; rfl)), bind_ok hload, hb] <;> rfl
  case bad =>
    have hload := loadM_reaches hreach
    rw [if_neg (by simp [hown])] at hload
    cases tile <;>
      rw [bind_ok (readS_plain ha), bind_ok (getM_run _ s), bind_ok (legalM_ok (by rw [hfree, hcode]; rfl)), bind_ok hload, hb] <;> rfl
  case free => rw [sfree_run h, modCtx_congr]; simp only [Ctx.freed, hb, Option.isNone_some, Bool.false_eq_true, if_false]
  case unbound => rw [sfree_run h, modCtx_id]; simp only [Ctx.freed, hb, Option.isNone_none, if_true]
  case sync => exact (bind_ok (getM_run _ s)).trans (writeS_plain ha)

/-! ## Elements of a bound register -/

/-- One generator looked at in the search for a register's binding. -/
def bindStep (c : Ctx) (code : Nat) (j : Fin 4) (rest : Option (Fin 4 × Binding)) : Option (Fin 4 × Binding) :=
  match c.binds[j] with
  | some b => if b.code = code then some (j, b) else rest
  | none => rest

theorem bindOf_eq (c : Ctx) (code : Nat) :
    c.bindOf code = bindStep c code 0 (bindStep c code 1 (bindStep c code 2 (bindStep c code 3 none))) := rfl

theorem bindStep_some {c : Ctx} {code : Nat} {i j : Fin 4} {b : Binding} {rest : Option (Fin 4 × Binding)}
    (h : bindStep c code j rest = some (i, b)) : c.binds[i] = some b ∨ rest = some (i, b) := by
  unfold bindStep at h
  split at h
  · next b' hb' =>
    split at h
    · injection h with h
      injection h with h1 h2
      rw [← h1, ← h2]
      exact .inl hb'
    · exact .inr h
  · exact .inr h

theorem bindStep_none {c : Ctx} {code : Nat} {j : Fin 4} {rest : Option (Fin 4 × Binding)} :
    bindStep c code j rest = none ↔ (∀ b, c.binds[j] = some b → b.code ≠ code) ∧ rest = none := by
  unfold bindStep
  split
  · next b hb =>
    rw [hb]
    by_cases hc : b.code = code <;> simp [hc]
  · next hb => simp [hb]

/-- The binding found for a register stands in its generator. -/
theorem binds_of_bindOf {c : Ctx} {code : Nat} {i : Fin 4} {b : Binding} (h : c.bindOf code = some (i, b)) : c.binds[i] = some b := by
  rw [bindOf_eq] at h
  rcases bindStep_some h with h | h
  · exact h
  rcases bindStep_some h with h | h
  · exact h
  rcases bindStep_some h with h | h
  · exact h
  rcases bindStep_some h with h | h
  · exact h
  · cases h

/-- No generator is bound to a register. -/
theorem bindOf_none_iff {c : Ctx} {code : Nat} : c.bindOf code = none ↔ ∀ (j : Fin 4) b, c.binds[j] = some b → b.code ≠ code := by
  simp only [bindOf_eq, bindStep_none, and_true]
  exact ⟨fun ⟨h0, h1, h2, h3⟩ j => by match j with | 0 => exact h0 | 1 => exact h1 | 2 => exact h2 | 3 => exact h3,
    fun h => ⟨h 0, h 1, h 2, h 3⟩⟩

/-- A generator moved by one element. -/
theorem advance_binds {c : Ctx} {i : Fin 4} {b : Binding} (h : c.binds[i] = some b) (n : Nat) :
    (c.advance i n).binds[i] = some { b with pos := b.pos + n } := by
  simp only [Ctx.advance, Fin.getElem_fin, Vector.getElem_set_self] at h ⊢
  rw [h]; rfl

/-- No generator is bound anew by moving one. -/
theorem bindOf_advance {c : Ctx} {code : Nat} (i : Fin 4) (n : Nat) (h : c.bindOf code = none) : (c.advance i n).bindOf code = none := by
  rw [bindOf_none_iff] at h ⊢
  intro j b hb
  by_cases hij : j = i
  · subst hij
    cases hj : c.binds[j] with
    | none =>
      have hnone : (c.advance j n).binds[j] = none := by
        simp only [Ctx.advance, Fin.getElem_fin, Vector.getElem_set_self] at hj ⊢
        rw [hj]; rfl
      rw [hnone] at hb; cases hb
    | some b' =>
      rw [advance_binds hj] at hb
      injection hb with hb
      rw [← hb]
      exact h j b' hj
  · have hother : (c.advance i n).binds[j] = c.binds[j] := by
      simp only [Ctx.advance, Fin.getElem_fin]
      exact Vector.getElem_set_ne _ _ fun he => hij (Fin.ext he.symm)
    exact h j b (hother ▸ hb)

/-- A register written leaves the bindings alone. -/
@[simp] theorem Ctx.setReg_binds (c : Ctx) (r : Reg) (v : Word) : (c.setReg r v).binds = c.binds := by
  unfold Ctx.setReg; split <;> simp only

/-- What a pop leaves before its word goes on (R52). -/
def State.poppedReg (s : State) (r : Reg) (v : Word) (i : Fin 4) (code : Nat) : State :=
  { ((s.modCtx (·.setReg r v)).modCtx (·.advance i 1)).viewReg r v with unit :=
    { (((s.modCtx (·.setReg r v)).modCtx (·.advance i 1)).viewReg r v).unit with
      popped := code :: (((s.modCtx (·.setReg r v)).modCtx (·.advance i 1)).viewReg r v).unit.popped } }

/-- The first read of an input-bound register takes its next element (R52, R362). -/
theorem readS_pop {s : State} {r : Reg} {i : Fin 4} {b : Binding} {pa : Nat} (hown : s.unit.own = false) (hpop : s.unit.popped = [])
    (hb : s.me.ctx.bindOf r.toNat = some (i, b)) (hin : b.out = false) (hlt : b.pos < b.cnt)
    (h : s.Reaches (b.ptr b.pos) { rd := true, wr := false, n := b.esz, align := b.esz } pa) :
    readS r s = .ok (extend b.esz b.sgn (leNat (s.viewBytes [(pa, b.esz)])),
      (s.noteReads (segLines [(pa, b.esz)])).poppedReg r (extend b.esz b.sgn (leNat (s.viewBytes [(pa, b.esz)]))) i b.code) := by
  have hload := loadM_reaches h
  rw [if_neg (by simp [hown])] at hload
  have hbytes : popBytes b b.pos b.esz s = .ok (s.viewBytes [(pa, b.esz)], s.noteReads (segLines [(pa, b.esz)])) := by
    rw [popBytes, if_neg (by omega)]
    exact hload
  unfold readS
  rw [bind_ok (getM_run _ s), hb]
  simp only [hin, Bool.false_eq_true, if_false]
  rw [bind_ok (getM_run _ s), hpop, if_neg (by simp), bind_ok hbytes]
  rfl

/-- Past its last element it is STREAM with the register's code. -/
theorem readS_end {s : State} {r : Reg} {i : Fin 4} {b : Binding} (hpop : s.unit.popped = [])
    (hb : s.me.ctx.bindOf r.toNat = some (i, b)) (hin : b.out = false) (hend : b.cnt ≤ b.pos) :
    readS r s = .error (.trap .stream (BitVec.ofNat 64 b.code)) := by
  have hbytes : popBytes b b.pos b.esz s = .error (.trap .stream (BitVec.ofNat 64 b.code)) := by
    rw [popBytes, if_pos hend]
    rfl
  unfold readS
  rw [bind_ok (getM_run _ s), hb]
  simp only [hin, Bool.false_eq_true, if_false]
  rw [bind_ok (getM_run _ s), hpop, if_neg (by simp), bind_error hbytes]

/-- A write to an output-bound register appends one element (R52, R362). -/
theorem writeS_append {s : State} {r : Reg} {v : Word} {i : Fin 4} {b : Binding} {pa : Nat} (hb : s.me.ctx.bindOf r.toNat = some (i, b))
    (hout : b.out = true) (hlt : b.pos < b.cnt) (hroom : s.Room pa b.esz)
    (h : s.Reaches (b.ptr b.pos) { rd := false, wr := true, n := b.esz, align := b.esz } pa) :
    writeS r v s = .ok ((), ((s.noteWrites (segLines [(pa, b.esz)])).modCtx (·.advance i 1)).putSegs [(pa, b.esz)] (wordBytes b.esz v)) := by
  have happend : appendM i b b.esz (wordBytes b.esz v) s = .ok (.bytes [(pa, b.esz)] (wordBytes b.esz v),
      (s.noteWrites (segLines [(pa, b.esz)])).modCtx (·.advance i 1)) := by
    have hno : ¬ (!b.out || decide (b.cnt ≤ b.pos)) = true := by simp [hout]; omega
    unfold appendM
    rw [if_neg hno, bind_ok (stageM_reaches h hroom)]
    rfl
  unfold writeS
  rw [bind_ok (getM_run _ s), hb]
  simp only
  rw [bind_ok happend]
  rfl

/-- What an append leaves: the element held in the chunk, and the generator moved. -/
theorem appended_eq {s : State} {pa n : Nat} {bs : List Byte} {i : Fin 4} (hown : s.unit.own = false) (hlen : bs.length = n) :
    ((s.noteWrites (segLines [(pa, n)])).modCtx (·.advance i 1)).putSegs [(pa, n)] bs =
      (s.withHeld pa bs false).modCtx (·.advance i 1) := by
  subst hlen
  simp [State.putSegs, State.noteWrites, State.withHeld, State.modChunk, State.modCtx, hown]

/-- Settles O31: `readS_pop`, `readS_end` and `writeS_append` are the three cases of `MOV`. -/
theorem streamElements : Obligations.StreamElements := by
  unfold Obligations.StreamElements
  intro s d a i b pa h
  refine ⟨fun hp hd hown hpop hb hin hlt hreach => ?pop, fun hpop hb hin hend => exec_trap rfl h ?stop,
    fun hp hb hout hlt hroom hreach => ?append⟩
  case pop =>
    have hread := readS_pop hown hpop hb hin hlt hreach
    generalize extend b.esz b.sgn (leNat (s.viewBytes [(pa, b.esz)])) = v at hread ⊢
    generalize hu : (s.noteReads (segLines [(pa, b.esz)])).poppedReg a v i b.code = u at hread
    have hctx : u.me.ctx = (s.me.ctx.setReg a v).advance i 1 := by
      subst hu
      show (State.viewReg _ _ _).me.ctx = _
      rw [State.viewReg_me]
      rfl
    have hmem : u.mem = s.mem := by
      subst hu
      unfold State.poppedReg State.viewReg
      split <;> rfl
    have hplain : u.me.ctx.bindOf d.toNat = none := by
      rw [hctx]
      refine bindOf_advance i 1 (bindOf_none_iff.mpr fun j b' hb' => ?_)
      rw [Ctx.setReg_binds] at hb'
      exact bindOf_none_iff.mp (hp.of_mem (List.mem_singleton.mpr rfl)) j b' hb'
    have hbind : u.me.ctx.binds[i] = some { b with pos := b.pos + 1 } := by
      rw [hctx]
      exact advance_binds (by rw [Ctx.setReg_binds]; exact binds_of_bindOf hb) 1
    refine ⟨u.withReg d v, exec_ok rfl h ?_, Ctx.reg_setReg_same _ v hd, ?_, hmem⟩
    · unfold unaryS
      rw [bind_ok hread, writeS_plain hplain]
    · rw [State.withReg_me, Ctx.setReg_binds]
      exact hbind
  case stop => 
    unfold unaryS
    rw [bind_error (readS_end hpop hb hin hend)]
  case append =>
    have hlen : (wordBytes b.esz (s.srcReg a)).length = b.esz := wordBytes_length _ _
    obtain ⟨hview, -, hctx, hmem, -, -⟩ := withHeld_frame s pa (wordBytes b.esz (s.srcReg a)) false
    rw [hlen] at hview
    refine ⟨(s.withHeld pa (wordBytes b.esz (s.srcReg a)) false).modCtx (·.advance i 1), exec_ok rfl h ?_, hview, ?_, ?_, hmem⟩
    · unfold unaryS
      rw [bind_ok (readS_plain (hp.of_mem (List.mem_singleton.mpr rfl))), writeS_append hb hout hlt hroom hreach,
        appended_eq hroom.1 hlen]
    · exact advance_binds (c := s.me.ctx) (binds_of_bindOf hb) 1
    · simp only [State.modCtx_me, hctx, Ctx.advance]

end Sys2Proof.Machine
end

section
/-! Chunks (R31, R82, R106–R109): what a grant puts in place, and what a squash restores. -/

namespace Sys2Proof.Machine

/-! ## Records are found through memory, the host's tables and the jobs -/

theorem placeOf_congr {s t : State} (hm : t.mem = s.mem) (hh : t.host = s.host) (hd : t.dev = s.dev) (w : Who) (e : List Word) (p : Word)
    (a : Acc) : t.placeOf w e p a = s.placeOf w e p a := by
  unfold State.placeOf
  simp only [segsOf_congr hm hh hd]

/-- The definition is unfolded under its arguments: applied to them, its `match` would be evaluated to no end. -/
theorem recPart_congr {s t : State} (hm : t.mem = s.mem) (hh : t.host = s.host) (hd : t.dev = s.dev) : t.recPart = s.recPart := by
  have hplace : t.placeOf = s.placeOf := by funext w e p a; exact placeOf_congr hm hh hd w e p a
  have hhandle : t.handle = s.handle := by funext a h; exact handle_congr hm hh hd a h
  delta State.recPart
  rw [hplace, hhandle]

theorem peek_congr {s t : State} (hm : t.mem = s.mem) : t.peek = s.peek := by
  funext a n
  rw [State.peek, State.peek, hm]

theorem recSegs_congr {s t : State} (hm : t.mem = s.mem) (hh : t.host = s.host) (hd : t.dev = s.dev) : t.recSegs = s.recSegs := by
  funext asid p
  unfold State.recSegs
  rw [recPart_congr hm hh hd, peek_congr hm]

theorem hitRecs_congr {s t : State} (hm : t.mem = s.mem) (hh : t.host = s.host) (hd : t.dev = s.dev) (hj : t.jobs = s.jobs) :
    t.hitRecs = s.hitRecs := by
  funext ys
  unfold State.hitRecs
  rw [hj, recSegs_congr hm hh hd]

/-! ## Held bytes -/

/-- Bytes put in place from a sorted list of cells. -/
theorem byteAt_foldl_setByte (cells m : List Host.Cell) (a : Nat) (h : tabSorted cells = true) :
    byteAt (cells.foldl (fun m x => setByte x.1 x.2 m) m) a = (tabGet a cells).getD (byteAt m a) := by
  induction cells generalizing m with
  | nil => rfl
  | cons x cells ih =>
    obtain ⟨k, v⟩ := x
    obtain ⟨habove, hsorted⟩ := (tabSorted_cons k v cells).mp h
    rw [List.foldl_cons, ih _ hsorted]
    by_cases hak : a = k
    · subst hak
      rw [tabGet_of_above habove, tabGet, if_pos rfl]
      exact byteAt_setByte_same a v m
    · rw [tabGet, if_neg hak, byteAt_setByte_other v m hak]

/-- What squashing other agents leaves alone. -/
theorem squashOthers_frame (s : State) (ls : List Nat) : (s.squashOthers ls).me = s.me ∧ (s.squashOthers ls).mem = s.mem ∧
    (s.squashOthers ls).host = s.host ∧ (s.squashOthers ls).dev = s.dev ∧ (s.squashOthers ls).jobs = s.jobs ∧
    (s.squashOthers ls).fab = s.fab ∧ (s.squashOthers ls).caps = s.caps ∧ (s.squashOthers ls).unit = s.unit ∧
    (s.squashOthers ls).cur = s.cur ∧ (s.squashOthers ls).cores = s.cores := by
  unfold State.squashOthers
  split <;> exact ⟨rfl, rfl, rfl, rfl, rfl, rfl, rfl, rfl, rfl, rfl⟩

/-- An agent that does not conflict is not squashed. -/
theorem mem_squashOthers {s : State} {ls : List Nat} {k : Nat} {g : Agent} (h : (k, g) ∈ s.others) (hc : g.conflicts ls = false) :
    (k, g) ∈ (s.squashOthers ls).others := by
  unfold State.squashOthers
  split
  · exact h
  · exact List.mem_map.mpr ⟨(k, g), h, by simp [hc]⟩

/-- The held writes in place, where they hit no record. -/
theorem heldInPlace_plain {s : State} (h : s.hitRecs (s.me.chunk.held.map fun x => (x.1, 1)) = []) :
    s.heldInPlace.mem.bytes = s.me.chunk.held.foldl (fun m x => setByte x.1 x.2 m) s.mem.bytes ∧ s.heldInPlace.me = s.me ∧
      s.heldInPlace.others = s.others := by
  unfold State.heldInPlace
  simp only [h, State.spoilRecords, List.foldl_nil]
  split <;> exact ⟨rfl, rfl, rfl⟩

theorem release_frame (s : State) (a : AgentId) (ls : List Nat) : (s.release a ls).mem = s.mem ∧ (s.release a ls).me = s.me ∧
    (s.release a ls).others = s.others := by
  unfold State.release
  simp only
  split <;> exact ⟨rfl, rfl, rfl⟩

/-- The grant of an open chunk without statistics. -/
theorem grant_plain {s : State} (hc : s.me.chunk.count ≠ 0) (hstats : s.me.chunk.stats = [])
    (hhit : s.hitRecs (s.me.chunk.held.map fun x => (x.1, 1)) = []) :
    s.grant.mem.bytes = s.me.chunk.held.foldl (fun m x => setByte x.1 x.2 m) s.mem.bytes ∧
      s.grant.me = ({ s.me with chunk := {}, raised := 0 } : Agent).countEvent 0x03 1 ∧
      s.grant.others = (s.squashOthers s.me.chunk.writes).others := by
  obtain ⟨qme, qmem, qhost, qdev, qjobs, -⟩ := squashOthers_frame s s.me.chunk.writes
  have hq : (s.squashOthers s.me.chunk.writes).hitRecs ((s.squashOthers s.me.chunk.writes).me.chunk.held.map fun x => (x.1, 1)) = [] := by
    rw [hitRecs_congr qmem qhost qdev qjobs, qme]; exact hhit
  obtain ⟨hbytes, hme, hothers⟩ := heldInPlace_plain hq
  obtain ⟨rmem, rme, rothers⟩ := release_frame (s.squashOthers s.me.chunk.writes).heldInPlace
    (s.squashOthers s.me.chunk.writes).heldInPlace.cur s.me.chunk.rel
  unfold State.grant
  simp only [if_neg hc, hstats, State.countStats, List.isEmpty_nil, if_true]
  rw [rmem, hbytes, qmem, qme, rme, hme, qme, rothers, hothers]
  exact ⟨rfl, rfl, rfl⟩

/-- Counting an event changes counters and dirty bits alone. -/
theorem countEvent_frame (g : Agent) (code n : Nat) : (g.countEvent code n).chunk = g.chunk ∧ (g.countEvent code n).raised = g.raised ∧
    (g.countEvent code n).ctx = { g.ctx with dirty := (g.countEvent code n).ctx.dirty } := by
  unfold Agent.countEvent
  simp only
  split <;> exact ⟨rfl, rfl, rfl⟩

/-- Settles O32: `grant_plain` says what the grant puts in place, and the squash is read off its definition. -/
theorem chunks : Obligations.Chunks := by
  unfold Obligations.Chunks
  refine ⟨fun s hc hsorted hstats hhit => ?grant, fun g => ?squash⟩
  case grant =>
    obtain ⟨hbytes, hme, hothers⟩ := grant_plain hc hstats hhit
    obtain ⟨hchunk, -, hctx⟩ := countEvent_frame { s.me with chunk := {}, raised := 0 } 0x03 1
    refine ⟨fun a => ?_, ?_, ?_, fun k g hg hno => ?_⟩
    · rw [hbytes, byteAt_foldl_setByte _ _ _ hsorted]
    · rw [hme]; exact hchunk
    · rw [hme]; exact hctx
    · rw [hothers]; exact mem_squashOthers hg hno
  case squash =>
    obtain ⟨hchunk, hraised, -⟩ := countEvent_frame g 0x04 1
    unfold Agent.squash
    simp only [hchunk, hraised, and_self]

end Sys2Proof.Machine
end

section
/-! Atomics (R112, R113, R261–R276). -/

namespace Sys2Proof.Machine

/-! ## A reply that stands for the access -/

/-- An agent of a running job whose `s2` points to byte 0x40 through handle 1, which a cached page puts at physical byte 0x40, and whose `s3` is 1.
A reply to an `AADD` of 1 there already stands with the agent. -/
def replied : State :=
  ({ State.reset with
    me := { act := .running, asid := 1, job := 1, got := [(BitVec.ofNat 64 (2 ^ 52 + 0x40), .add 8 1, .ok [])] }
    host := { bootst := 1, pdesc := [(1, [1, 0, 0, 0, 0, 0, 0, 0, 1, 0, 0, 0])] }
    mem := { hcopies := [⟨1, 1, [0, 0x10000, 0x80, 0]⟩], tlb := [4096, 4352, 4608].map fun k => ⟨k, 1, 0, 0, true, true⟩ }
    jobs := [(2 ^ 32 + 1, { asid := 1, id := 1, stage := .running, gangs := [0], ngang := 1, nstr := 1 })] } : State).modCtx
      fun c => (c.setReg 2 (BitVec.ofNat 64 (2 ^ 52 + 0x40))).setReg 3 1

/-- The bytes at 0x40 that an outcome leaves. -/
def bytesLeft (r : Host.Outcome State Fault Refusal) : List Byte :=
  match r with
  | .next t => bytesAt t.mem.bytes 0x40 8
  | .fault _ | .refused _ => []

/-- The word takes the reply and writes nothing. -/
theorem replied_left : bytesLeft (exec (.aadd 0 0 1 2 3 .d) replied) = [0, 0, 0, 0, 0, 0, 0, 0] := by decide +kernel

/-- The hypotheses of the statement hold of it. -/
theorem replied_ready : replied.Ready (.aadd 0 0 1 2 3 .d) ∧ replied.Plain [1, 2, 3] ∧ replied.Alone 0x40 8 ∧
    replied.Reaches (replied.srcReg 2) { rd := true, wr := true, n := 8, align := 8, raw := true, spaces := [0, 1, 2, 4] } 0x40 := by
  decide +kernel

/-- Refutes O33: where the reply to an equal access already stands with the agent, an atomic takes it and writes nothing in memory (`atomicM`
looks at `got` first, R196), and no hypothesis excludes it. -/
theorem not_atomics : ¬ Obligations.Atomics := by
  unfold Obligations.Atomics
  intro h
  obtain ⟨hready, hplain, halone, hreach⟩ := replied_ready
  obtain ⟨t, ht, hbytes, -⟩ := (h replied 0 0 1 2 3 .d .ds .and 0x40 hplain (by decide)).1 hready halone hreach
  have hleft := replied_left
  have hbytes : bytesAt t.mem.bytes 0x40 8 = leBytes 8 ((replied.peek 0x40 8 + (replied.srcReg 3).toNat) % 2 ^ 64) := hbytes
  rw [ht, bytesLeft, hbytes] at hleft
  exact absurd hleft (by decide +kernel)

/-! ## `AFADD` (R113, R271) -/

theorem bytesAt_eq_map (m : List Host.Cell) (a n : Nat) : bytesAt m a n = (List.range n).map fun i => byteAt m (a + i) := by
  induction n generalizing a with
  | zero => rfl
  | succ n ih => rw [bytesAt, ih, List.range_succ_eq_map, List.map_cons, List.map_map]; simp [Function.comp_def, Nat.add_left_comm, Nat.add_comm]

theorem bytesAt_congr {m m' : List Host.Cell} {a n : Nat} (h : ∀ i, i < n → byteAt m' (a + i) = byteAt m (a + i)) :
    bytesAt m' a n = bytesAt m a n := by
  rw [bytesAt_eq_map, bytesAt_eq_map]
  exact List.map_congr_left fun i hi => h i (List.mem_range.mp hi)

theorem bytesAt_drop (m : List Host.Cell) (a k n : Nat) : (bytesAt m a (k + n)).drop k = bytesAt m (a + k) n := by
  induction k generalizing a with
  | zero => simp
  | succ k ih => rw [Nat.add_right_comm, bytesAt, List.drop_succ_cons, ih, Nat.add_right_comm, Nat.add_assoc]

/-- An agent that holds no writes sees committed memory. -/
theorem viewBytes_committed {s : State} (h : s.me.chunk.held = []) (pa n : Nat) : s.viewBytes [(pa, n)] = bytesAt s.mem.bytes pa n := by
  rw [bytesAt_eq_map, State.viewBytes, h]
  simp [tabGet]

theorem bytesAt_length (m : List Host.Cell) (a n : Nat) : (bytesAt m a n).length = n := by simp [bytesAt_eq_map]

theorem leNat_lt (bs : List Byte) : leNat bs < 256 ^ bs.length := by
  induction bs with
  | nil => decide
  | cons b bs ih =>
    have hb := b.isLt
    rw [leNat, List.length_cons, Nat.pow_succ]
    omega

theorem peek_lt (s : State) (a n : Nat) : s.peek a n < 256 ^ n := by
  have h := leNat_lt (bytesAt s.mem.bytes a n)
  rwa [bytesAt_length] at h

theorem countEvent_act (g : Agent) (code n : Nat) : (g.countEvent code n).act = g.act := by
  unfold Agent.countEvent
  simp only
  split <;> rfl

/-- A squash wakes no agent. -/
theorem squash_heldAdd (g : Agent) : g.squash.heldAdd = g.heldAdd := by
  unfold Agent.heldAdd
  rw [show g.squash.act = g.act from countEvent_act g 4 1]

/-- No agent holds an add after others were squashed, where none did before. -/
theorem squashOthers_heldAdd {s : State} (ls : List Nat) (h : ∀ kg ∈ s.others, kg.2.heldAdd = none) :
    ∀ kg ∈ (s.squashOthers ls).others, kg.2.heldAdd = none := by
  unfold State.squashOthers
  split
  · exact h
  · intro kg hkg
    obtain ⟨x, hx, rfl⟩ := List.mem_map.mp hkg
    dsimp only
    split
    · rw [squash_heldAdd]; exact h x hx
    · exact h x hx

/-- Where no add is held, none is released. -/
theorem releaseAdds_none {s : State} (h : ∀ kg ∈ s.others, kg.2.heldAdd = none) (pa fuel : Nat) : State.releaseAdds pa fuel s = s := by
  cases fuel with
  | zero => rfl
  | succ fuel =>
    have hdue : (s.others.findSome? fun kg => kg.2.heldAdd.bind fun x =>
        if x.addr == pa && x.q == s.peek (pa + 8) 8 then some (kg.1, kg.2, x) else none) = none := by
      rw [List.findSome?_eq_none_iff]
      intro kg hkg
      rw [h kg hkg]; rfl
    rw [State.releaseAdds]
    simp only [hdue]

/-- Records that a larger range does not meet, a part of it does not meet either. -/
theorem hitRecs_part {s : State} {ys zs : List (Nat × Nat)} (h : s.hitRecs ys = []) (hsub : ∀ xs, overlap xs zs = true → overlap xs ys = true) :
    s.hitRecs zs = [] := by
  rw [State.hitRecs, List.flatMap_eq_nil_iff] at h ⊢
  intro kj hkj
  have hk := h kj hkj
  rw [List.filterMap_eq_nil_iff] at hk ⊢
  intro r hr
  have hno := hk r hr
  by_cases ho : overlap (s.recSegs kj.2.asid r.ptr) ys = true
  · simp [ho] at hno
  · have hz : overlap (s.recSegs kj.2.asid r.ptr) zs = false := by
      rw [Bool.eq_false_iff]
      exact fun hz => ho (hsub _ hz)
    simp [hz]

/-- The accumulator and the count of a sequenced pair lie within it. -/
theorem overlap_pair {pa k : Nat} (hk : k ≤ 8) (xs : List (Nat × Nat)) (h : overlap xs [(pa, k), (pa + 8, 8)] = true) :
    overlap xs [(pa, 16)] = true := by
  unfold overlap at h ⊢
  rw [List.any_eq_true] at h ⊢
  obtain ⟨x, hx, hany⟩ := h
  refine ⟨x, hx, ?_⟩
  simp only [List.any_cons, List.any_nil, Bool.or_false, Bool.or_eq_true, Bool.and_eq_true, decide_eq_true_eq] at hany ⊢
  omega

theorem ffmtOf_width (fm : FFmt) : (ffmtOf fm).width / 8 ≤ 8 := by cases fm <;> decide

/-- One add writes its accumulator and its count, where its pair belongs to no record. -/
theorem applyAdd_frame {s : State} {pa : Nat} (hit : s.hitRecs [(pa, 16)] = []) (fm : FFmt) (v : Word) :
    bytesAt (s.applyAdd pa fm v).1.mem.bytes pa ((ffmtOf fm).width / 8) = leBytes ((ffmtOf fm).width / 8)
        (fAdd (ffmtOf fm) .rne (s.peek pa ((ffmtOf fm).width / 8)) (v.toNat % 2 ^ (ffmtOf fm).width)) ∧
      bytesAt (s.applyAdd pa fm v).1.mem.bytes (pa + 8) 8 = leBytes 8 (s.peek (pa + 8) 8 + 1) ∧
      (∀ a, a < pa ∨ pa + 16 ≤ a → byteAt (s.applyAdd pa fm v).1.mem.bytes a = byteAt s.mem.bytes a) ∧
      (s.applyAdd pa fm v).1.me = s.me ∧ (s.applyAdd pa fm v).1.others = s.others := by
  have hk := ffmtOf_width fm
  unfold State.applyAdd
  dsimp only
  generalize (ffmtOf fm).width / 8 = k at hk ⊢
  generalize fAdd (ffmtOf fm) .rne (s.peek pa k) (v.toNat % 2 ^ (ffmtOf fm).width) = acc
  have hacc : (leBytes k acc).length = k := leBytes_length k acc
  have hcount : (leBytes 8 (s.peek (pa + 8) 8 + 1)).length = 8 := leBytes_length 8 _
  have hmem : ((s.softPoke [(pa, k), (pa + 8, 8)] (leBytes k acc ++ leBytes 8 (s.peek (pa + 8) 8 + 1))).mem.bytes) =
      setBytes (pa + 8) (leBytes 8 (s.peek (pa + 8) 8 + 1)) (setBytes pa (leBytes k acc) s.mem.bytes) := by
    rw [softPoke_plain (hitRecs_part hit (overlap_pair hk))]
    simp only [State.pokeSegs, State.poke_mem, List.take_left' hacc, List.drop_left' hacc, List.take_of_length_le (Nat.le_of_eq hcount)]
  rw [hmem]
  refine ⟨?_, ?_, fun a ha => ?_, ?_, ?_⟩
  · refine (bytesAt_congr fun i hi => byteAt_setBytes_other _ _ (by omega)).trans ?_
    have h := bytesAt_setBytes_same pa (leBytes k acc) s.mem.bytes
    rwa [hacc] at h
  · have h := bytesAt_setBytes_same (pa + 8) (leBytes 8 (s.peek (pa + 8) 8 + 1)) (setBytes pa (leBytes k acc) s.mem.bytes)
    rwa [hcount] at h
  · rw [byteAt_setBytes_other _ _ (by omega), byteAt_setBytes_other _ _ (by omega)]
  · exact softPoke_me s _ _
  · rw [softPoke_plain (hitRecs_part hit (overlap_pair hk))]; rfl

/-- The state in which an add at its home is judged: the word is a chunk of its own and, where its code says so, has acquired. -/
def State.atHome (s : State) (o : BitVec 3) (pa : Nat) : State :=
  if codeAcquires o then s.alone.acquire (segLines [(pa, 16)]) else s.alone

theorem atHome_frame (s : State) (o : BitVec 3) (pa : Nat) : (s.atHome o pa).me.chunk = s.me.chunk ∧ (s.atHome o pa).me.ctx = s.me.ctx ∧
    (s.atHome o pa).mem = s.mem ∧ (s.atHome o pa).others = s.others ∧ (s.atHome o pa).unit.own = true ∧ (s.atHome o pa).host = s.host ∧
    (s.atHome o pa).dev = s.dev ∧ (s.atHome o pa).jobs = s.jobs ∧ (s.atHome o pa).unit.tried = s.unit.tried := by
  unfold State.atHome
  split
  · obtain ⟨hchunk, hctx, hmem, hunit⟩ := acquire_frame s.alone (segLines [(pa, 16)])
    exact ⟨hchunk, hctx, hmem, rfl, congrArg UnitSt.own hunit, rfl, rfl, rfl, (congrArg UnitSt.tried hunit).trans rfl⟩
  · exact ⟨rfl, rfl, rfl, rfl, rfl, rfl, rfl, rfl, rfl⟩

/-- An add reaches its home and reads its pair. -/
theorem homeAddM_reads {s : State} {la : BitVec 4} {o : BitVec 3} {d : Reg} {p x q : Word} {fm : FFmt} {pa : Nat} {a : Acc} (hn : a.n = 16)
    (hchunk : s.me.chunk = {}) (h : s.Reaches p a pa) :
    homeAddM la o d p x q fm [(pa, 16)] s.alone =
      (if q.toNat < s.peek (pa + 8) 8 then trapM .seqgap p
      else if s.peek (pa + 8) 8 < q.toNat then do
        probeM (writeLate la d 0)
        if 64 ≤ (← getM fun s => s.heldAt (s.homeOf pa)) then stallM
        else restM (.hold pa fm x q.toNat p o) (writeLate la d 0)
      else do
        claimM [(pa, 16)] p
        let r ← getM fun s => s.applyAdd pa fm x
        modM fun _ => r.1
        if codeReleases o then modM fun s => s.release s.cur (pairLines pa)
        modM (·.releaseAdds pa 65536)
        writeLate la d r.2) (s.atHome o pa) := by
  obtain ⟨-, -, hlow, -, howned, hpoison⟩ := h
  rw [hn] at howned hpoison
  have hload : loadSegs [(pa, 16)] p s.alone = .ok (s.viewBytes [(pa, 16)], s.alone) := loadSegs_low (s := s.alone) hlow howned hpoison
  have hview : s.viewBytes [(pa, 16)] = bytesAt s.mem.bytes pa 16 := viewBytes_committed (by rw [hchunk]) pa 16
  have hnext : leNat ((s.viewBytes [(pa, 16)]).drop 8) = s.peek (pa + 8) 8 := by
    rw [hview, State.peek, bytesAt_drop s.mem.bytes pa 8 8]
  unfold homeAddM
  simp only [List.headD_cons]
  rw [bind_ok hload]
  simp only [hnext]
  unfold State.atHome
  cases codeAcquires o
  · simp only [Bool.false_eq_true, if_false]
  · simp only [if_true]
    rw [bind_ok (modM_run _ _)]

/-- The word of `AFADD` up to its home. -/
theorem afadd_run {s : State} {la : BitVec 4} {o : BitVec 3} {d a v : Reg} {fm : FFmt} {pa : Nat} (hp : s.Plain [d, a, v])
    (hrel : codeReleases o = true → s.me.err = none) (hmark : s.me.mark = .none) (hchunk : s.me.chunk = {})
    (h : s.Reaches (s.srcReg a) { rd := true, wr := true, n := 16, align := 16, raw := true, cap := false, spaces := [0] } pa) :
    ∃ m, exec (.afadd la o d a v fm) s = runWord (.afadd la o d a v fm) m s ∧
      m s = homeAddM la o d (s.srcReg a) (s.srcReg v) (s.srcReg d) fm [(pa, 16)] s.alone := by
  refine ⟨_, rfl, ?_⟩
  have hown : ownM s = .ok ((), s.alone) := ownM_ok (by rw [hchunk])
  have hread : ∀ r ∈ [d, a, v], readS r s.alone = .ok (s.srcReg r, s.alone) := fun r hr => readS_plain (s := s.alone) (hp r hr)
  have hrelease : releaseM (codeReleases o) s.alone = .ok ((), s.alone) := by
    refine releaseM_ok ?_
    cases hc : codeReleases o
    · exact .inr rfl
    · exact .inl (hrel hc)
  obtain ⟨hcheck, -⟩ := alone_reaches h
  rw [bind_ok hown, bind_ok (hread a (by simp)), bind_ok (hread v (by simp)), bind_ok (hread d (by simp)), bind_ok (getM_run _ _),
    show s.alone.me.mark = .none from hmark]
  dsimp only
  rw [bind_ok hrelease, bind_ok (accessM_ok hcheck)]

/-- No add waits anywhere. -/
theorem heldAt_none {s : State} (h : ∀ kg ∈ s.others, kg.2.heldAdd = none) (home : Nat) : s.heldAt home = 0 := by
  unfold State.heldAt
  rw [List.length_eq_zero_iff, List.filter_eq_nil_iff]
  intro kg hkg
  rw [h kg hkg]
  exact Bool.false_ne_true

/-- A probe of a computation that completes does nothing. -/
theorem probeM_ok {m : M Unit} {s t : State} (h : m s = .ok ((), t)) : probeM m s = .ok ((), s) := by
  unfold probeM
  rw [h]

/-- The context that a scalar result leaves where none is in flight. -/
theorem writeLate_ctx {s : State} {la : BitVec 4} {d : Reg} {v : Word} (h : s.me.ctx.bindOf d.toNat = none) (hl : s.me.ctx.lates = []) :
    ∃ t, writeLate la d v s = .ok ((), t) ∧ t.me.ctx = (if la = 0 ∨ d = 0 then s.me.ctx.setReg d v
      else { s.me.ctx with lates := [⟨.scalar d v, la.toNat + 1⟩] }) ∧ t.me.chunk = s.me.chunk ∧ t.mem = s.mem := by
  by_cases hd : d = 0
  · subst hd
    by_cases hla : la = 0
    · subst hla
      exact ⟨s, (writeLate_now h).trans (by simp [State.nowReg]), by simp [Ctx.setReg], rfl, rfl⟩
    · refine ⟨s, ?_, by simp [Ctx.setReg], rfl, rfl⟩
      unfold writeLate
      rw [bind_ok (getM_run _ s), h]
      rfl
  · obtain ⟨t, hrun, h0, hlate, hchunk, hmem⟩ := writeLate_frame (la := la) (v := v) h (by intro l hin; rw [hl] at hin; cases hin)
    refine ⟨t, hrun, ?_, hchunk, hmem⟩
    by_cases hla : la = 0
    · rw [if_pos (.inl hla), h0 hla]
    · rw [if_neg (not_or.mpr ⟨hla, hd⟩), hlate hla hd, hl]; rfl

/-- An add in its turn. -/
theorem afadd_turn {s : State} {la : BitVec 4} {o : BitVec 3} {d : Reg} {p x : Word} {fm : FFmt} {pa : Nat} {a : Acc} (hn : a.n = 16)
    (hd : s.me.ctx.bindOf d.toNat = none) (halone : s.Alone pa 16) (hheld : ∀ kg ∈ s.others, kg.2.heldAdd = none) (h : s.Reaches p a pa) :
    ∃ t, (do
        claimM [(pa, 16)] p
        let r ← getM fun s => s.applyAdd pa fm x
        modM fun _ => r.1
        if codeReleases o then modM fun s => s.release s.cur (pairLines pa)
        modM (·.releaseAdds pa 65536)
        writeLate la d r.2) (s.atHome o pa) = .ok ((), t) ∧
      bytesAt t.mem.bytes pa ((ffmtOf fm).width / 8) = leBytes ((ffmtOf fm).width / 8)
        (fAdd (ffmtOf fm) .rne (s.peek pa ((ffmtOf fm).width / 8)) (x.toNat % 2 ^ (ffmtOf fm).width)) ∧
      bytesAt t.mem.bytes (pa + 8) 8 = leBytes 8 (s.peek (pa + 8) 8 + 1) ∧
      t.me.ctx = (if la = 0 ∨ d = 0 then s.me.ctx.setReg d (BitVec.ofNat 64
          (fAdd (ffmtOf fm) .rne (s.peek pa ((ffmtOf fm).width / 8)) (x.toNat % 2 ^ (ffmtOf fm).width)))
        else { s.me.ctx with lates := [⟨.scalar d (BitVec.ofNat 64
          (fAdd (ffmtOf fm) .rne (s.peek pa ((ffmtOf fm).width / 8)) (x.toNat % 2 ^ (ffmtOf fm).width))), la.toNat + 1⟩] }) ∧
      s.SameOutside t pa 16 := by
  obtain ⟨hchunk, hlates, hres, hhit⟩ := halone
  obtain ⟨-, -, hlow, -, howned, -⟩ := h
  rw [hn] at howned
  obtain ⟨achunk, actx, amem, aothers, aown, ahost, adev, ajobs, -⟩ := atHome_frame s o pa
  generalize s.atHome o pa = u at achunk actx amem aothers aown ahost adev ajobs ⊢
  have hclaim : claimM [(pa, 16)] p u = .ok ((), u.squashOthers (segLines [(pa, 16)])) := by
    refine claimM_alone hlow ?_ aown ?_
    · rw [State.ownedAny, amem]; exact howned
    · rw [State.reserved, achunk, aothers]; exact hres
  obtain ⟨qme, qmem, qhost, qdev, qjobs, -⟩ := squashOthers_frame u (segLines [(pa, 16)])
  have qheld := squashOthers_heldAdd (s := u) (segLines [(pa, 16)]) (by rw [aothers]; exact hheld)
  generalize u.squashOthers (segLines [(pa, 16)]) = w at hclaim qme qmem qhost qdev qjobs qheld
  have whit : w.hitRecs [(pa, 16)] = [] := by
    rw [hitRecs_congr (qmem.trans amem) (qhost.trans ahost) (qdev.trans adev) (qjobs.trans ajobs)]; exact hhit
  obtain ⟨hacc, hcount, hout, hme, hothers⟩ := applyAdd_frame whit fm x
  have hpeek : w.peek = s.peek := peek_congr (qmem.trans amem)
  have hval : (w.applyAdd pa fm x).2 = BitVec.ofNat 64
      (fAdd (ffmtOf fm) .rne (s.peek pa ((ffmtOf fm).width / 8)) (x.toNat % 2 ^ (ffmtOf fm).width)) := by
    rw [← hpeek]; rfl
  rw [hpeek] at hacc hcount
  generalize hg : (w.applyAdd pa fm x).1 = g at hacc hcount hout hme hothers
  have hrel : ∃ y : State, (y.me = g.me ∧ y.mem = g.mem ∧ y.others = g.others) ∧
      (do
        if codeReleases o then modM fun s => s.release s.cur (pairLines pa)
        modM (·.releaseAdds pa 65536)
        writeLate la d (w.applyAdd pa fm x).2) g = (do
        modM (·.releaseAdds pa 65536)
        writeLate la d (w.applyAdd pa fm x).2) y := by
    obtain ⟨rmem, rme, rothers⟩ := release_frame g g.cur (pairLines pa)
    cases codeReleases o
    · exact ⟨g, ⟨rfl, rfl, rfl⟩, rfl⟩
    · exact ⟨g.release g.cur (pairLines pa), ⟨rme, rmem, rothers⟩, rfl⟩
  obtain ⟨y, ⟨yme, ymem, yothers⟩, hy⟩ := hrel
  have yheld : ∀ kg ∈ y.others, kg.2.heldAdd = none := by rw [yothers, hothers]; exact qheld
  have yctx : y.me.ctx = s.me.ctx := by rw [yme, hme, qme, actx]
  obtain ⟨t, hrun, htctx, htchunk, htmem⟩ := writeLate_ctx (s := y) (la := la) (d := d) (v := (w.applyAdd pa fm x).2)
    (by rw [yctx]; exact hd) (by rw [yctx]; exact hlates)
  refine ⟨t, ?_, ?_, ?_, ?_, fun b hb => ?_⟩
  · rw [bind_ok hclaim, bind_ok (getM_run _ _), bind_ok (modM_run _ _), hg, hy, bind_ok (modM_run _ _), releaseAdds_none yheld]
    exact hrun
  · rw [htmem, ymem]; exact hacc
  · rw [htmem, ymem]; exact hcount
  · rw [htctx, yctx, hval]
  · have hbyte : byteAt t.mem.bytes b = byteAt s.mem.bytes b := by rw [htmem, ymem, hout b hb, qmem, amem]
    have hheldt : t.me.chunk.held = [] := by rw [htchunk, yme, hme, qme, achunk, hchunk]
    refine ⟨?_, hbyte⟩
    rw [viewBytes_committed hheldt, viewBytes_committed (by rw [hchunk])]
    simp only [bytesAt, hbyte]

/-- Settles O34: the three cases by number. -/
theorem orderedFloatAdd : Obligations.OrderedFloatAdd := by
  unfold Obligations.OrderedFloatAdd
  intro s la o d a v fm pa h hp hrel hmark halone hheld hreach f sum
  obtain ⟨m, harm, hm⟩ := afadd_run (la := la) (fm := fm) hp hrel hmark halone.1 hreach
  have hrun := hm.trans (homeAddM_reads rfl halone.1 hreach)
  have hd := hp.of_mem (r := d) (by simp)
  have hpeek : s.peek (pa + 8) 8 < 2 ^ 64 := peek_lt s (pa + 8) 8
  refine ⟨fun hq => ?turn, fun hq => exec_trap harm h ?late, fun hq => ?early⟩
  case turn =>
    have hqn : (s.srcReg d).toNat = s.peek (pa + 8) 8 := by rw [hq, BitVec.toNat_ofNat, Nat.mod_eq_of_lt hpeek]
    rw [if_neg (by omega), if_neg (by omega)] at hrun
    obtain ⟨t, hturn, hall⟩ := afadd_turn (la := la) (o := o) (x := s.srcReg v) (fm := fm) rfl hd halone hheld hreach
    exact ⟨t, exec_ok harm h (hrun.trans hturn), hall⟩
  case late => rw [hrun, if_pos hq]; rfl
  case early =>
    rw [if_neg (by omega), if_pos hq] at hrun
    obtain ⟨achunk, actx, amem, aothers, -, -, -, -, atried⟩ := atHome_frame s o pa
    obtain ⟨t, hw, -⟩ := writeLate_ctx (s := s.atHome o pa) (la := la) (d := d) (v := 0) (by rw [actx]; exact hd) (by rw [actx]; exact halone.2.1)
    have hno : (s.atHome o pa).heldAt ((s.atHome o pa).homeOf pa) = 0 := heldAt_none (by rw [aothers]; exact hheld) _
    rw [bind_ok (probeM_ok hw), bind_ok (getM_run _ _), hno, if_neg (by omega), restM, atried, h.2.2] at hrun
    exact ⟨_, exec_stop harm h hrun, rfl, rfl, rfl⟩

end Sys2Proof.Machine
end

section
/-! Handle entries and statistics (R82, R83, R85, R86, R318, R319, R383). -/

namespace Sys2Proof.Machine

/-! ## Fields of a word -/

theorem wbits_lt (v : Word) (lo n : Nat) : wbits v lo n < 2 ^ n := Nat.mod_lt _ (Nat.two_pow_pos n)

/-- A word made of its low bits alone keeps those and has no others. -/
theorem wbits_ofNat {x : Nat} (h : x < 2 ^ 64) (lo n : Nat) : wbits (BitVec.ofNat 64 x) lo n = x / 2 ^ lo % 2 ^ n := by
  rw [wbits, BitVec.toNat_ofNat, Nat.mod_eq_of_lt h]

/-- The third word of an entry without its reserved bits. -/
theorem maskWord_lt (w : Word) : wbits w 0 15 + 2 ^ 16 * wbits w 16 33 < 2 ^ 64 := by
  have h1 := wbits_lt w 0 15
  have h2 := wbits_lt w 16 33
  omega

theorem maskEntry_bound (e : List Word) : hBound (maskEntry e) = wbits (wordAt e 1) 0 52 := by
  have h := wbits_lt (wordAt e 1) 0 52
  rw [hBound, show wordAt (maskEntry e) 1 = BitVec.ofNat 64 (wbits (wordAt e 1) 0 52) from rfl, wbits_ofNat (by omega)]
  omega

/-- A field of the third word that no reserved bit belongs to: below bit 15. -/
theorem maskEntry_low (e : List Word) {lo n : Nat} (h : lo + n ≤ 15) :
    wbits (wordAt (maskEntry e) 2) lo n = wbits (wordAt e 2) lo n := by
  rw [show wordAt (maskEntry e) 2 = BitVec.ofNat 64 (wbits (wordAt e 2) 0 15 + 2 ^ 16 * wbits (wordAt e 2) 16 33) from rfl,
    wbits_ofNat (maskWord_lt _)]
  generalize wordAt e 2 = w
  have hsplit : w.toNat = w.toNat % 2 ^ 15 + 2 ^ 15 * (w.toNat / 2 ^ 15) := (Nat.mod_add_div _ _).symm
  simp only [wbits, Nat.pow_zero, Nat.div_one]
  generalize w.toNat / 2 ^ 16 % 2 ^ 33 = y
  apply Nat.eq_of_testBit_eq
  intro i
  rw [Nat.testBit_mod_two_pow, Nat.testBit_mod_two_pow, Nat.testBit_div_two_pow, Nat.testBit_div_two_pow]
  by_cases hi : i < n
  · have h15 : w.toNat % 2 ^ 15 < 2 ^ 16 := lt_of_lt_of_le (Nat.mod_lt _ (by decide)) (by decide)
    rw [Nat.add_comm, Nat.testBit_two_pow_mul_add _ h15, if_pos (by omega), Nat.testBit_mod_two_pow]
    simp only [hi, decide_true, Bool.true_and, show i + lo < 15 from by omega]
  · simp [hi]

theorem maskEntry_mid (e : List Word) : wbits (wordAt (maskEntry e) 2) 16 33 = wbits (wordAt e 2) 16 33 := by
  have h1 := wbits_lt (wordAt e 2) 0 15
  have h2 := wbits_lt (wordAt e 2) 16 33
  rw [show wordAt (maskEntry e) 2 = BitVec.ofNat 64 (wbits (wordAt e 2) 0 15 + 2 ^ 16 * wbits (wordAt e 2) 16 33) from rfl,
    wbits_ofNat (maskWord_lt _)]
  omega

/-- The reserved bits of an entry read 0. -/
theorem maskEntry_reserved (e : List Word) : wbits (wordAt (maskEntry e) 1) 52 12 = 0 ∧ wbits (wordAt (maskEntry e) 2) 49 15 = 0 ∧
    wbit (wordAt (maskEntry e) 2) 15 = false := by
  have h1 := wbits_lt (wordAt e 2) 0 15
  have h2 := wbits_lt (wordAt e 2) 16 33
  have h3 := wbits_lt (wordAt e 1) 0 52
  have hw : wordAt (maskEntry e) 2 = BitVec.ofNat 64 (wbits (wordAt e 2) 0 15 + 2 ^ 16 * wbits (wordAt e 2) 16 33) := rfl
  refine ⟨?_, ?_, ?_⟩
  · rw [show wordAt (maskEntry e) 1 = BitVec.ofNat 64 (wbits (wordAt e 1) 0 52) from rfl, wbits_ofNat (by omega)]
    omega
  · rw [hw, wbits_ofNat (maskWord_lt _)]
    omega
  · rw [wbit, hw, wbits_ofNat (maskWord_lt _), beq_eq_false_iff_ne]
    omega

theorem maskEntry_base (e : List Word) : hBase (maskEntry e) = hBase e ∧ hThp (maskEntry e) = hThp e := ⟨rfl, rfl⟩

/-- An entry without reserved bits stays as it is. -/
theorem maskEntry_idem (e : List Word) : maskEntry (maskEntry e) = maskEntry e := by
  have hb := maskEntry_bound e
  rw [hBound] at hb
  have hl := maskEntry_low e (lo := 0) (n := 15) (by omega)
  have hm := maskEntry_mid e
  conv_lhs => rw [maskEntry, hb, hl, hm]
  rfl

/-! ## Words of an entry as bytes -/

theorem leNat_leBytes (n v : Nat) : leNat (leBytes n v) = v % 256 ^ n := by
  induction n generalizing v with
  | zero => simp [leBytes, leNat, Nat.mod_one]
  | succ n ih =>
    rw [leBytes, leNat, ih, BitVec.toNat_ofNat, Nat.pow_succ' (m := 256), Nat.mod_mul]

theorem leWord_wordBytes (w : Word) : leWord (wordBytes 8 w) = w := by
  rw [leWord, wordBytes, leNat_leBytes]
  apply BitVec.eq_of_toNat_eq
  rw [BitVec.toNat_ofNat]
  have := w.isLt
  omega

/-- Words come back from their bytes. -/
theorem leWords_flatMap (ws : List Word) : leWords ws.length (ws.flatMap fun w => wordBytes 8 w) = ws := by
  induction ws with
  | nil => rfl
  | cons w ws ih =>
    have hlen : (wordBytes 8 w).length = 8 := wordBytes_length 8 w
    rw [List.flatMap_cons, List.length_cons, leWords, List.take_left' hlen, List.drop_left' hlen, leWord_wordBytes, ih]

theorem flatMap_wordBytes_length (ws : List Word) : (ws.flatMap fun w => wordBytes 8 w).length = 8 * ws.length := by
  induction ws with
  | nil => rfl
  | cons w ws ih => rw [List.flatMap_cons, List.length_append, wordBytes_length, ih, List.length_cons]; omega

/-! ## `HTLD` and `HTWR` -/

/-- `HTLD` (R318) stores the entry in force. -/
theorem htld_spec {s : State} {la : BitVec 4} {a b : Reg} {pa : Nat} (hp : s.Plain [a, b]) (h : s.Ready (.htld la a b)) (hroom : s.Room pa 32)
    (hreach : s.Reaches (s.srcReg b) { rd := false, wr := true, n := 32, align := 32, raw := true } pa)
    (hlen : (s.handle s.me.asid (handleOf (s.srcReg a))).length = 4) :
    ∃ t, exec (.htld la a b) s = .next t ∧
      t.viewBytes [(pa, 32)] = (s.handle s.me.asid (handleOf (s.srcReg a))).flatMap (wordBytes 8) ∧
      s.SameOutside t pa 32 ∧ t.me.ctx = s.me.ctx ∧ t.mem = s.mem := by
  have hbytes : ((s.handle s.me.asid (handleOf (s.srcReg a))).flatMap fun w => wordBytes 8 w).length = 32 := by
    rw [flatMap_wordBytes_length, hlen]
  obtain ⟨hview, hsame, hctx, hmem, -⟩ := withHeld_frame s pa ((s.handle s.me.asid (handleOf (s.srcReg a))).flatMap fun w => wordBytes 8 w) false
  rw [hbytes] at hview hsame
  refine ⟨_, exec_ok rfl h ?_, hview, hsame, hctx, hmem⟩
  rw [bind_ok (readS_plain (hp.of_mem (r := a) (by simp))), bind_ok (readS_plain (hp.of_mem (r := b) (by simp))), bind_ok (getM_run _ _)]
  exact storeM_reaches hreach hbytes hroom

/-- Package memory below HBMSZ is read as it stands. -/
theorem phys_committed {s : State} {a n : Nat} (h : a + n ≤ s.hbmsz) : s.phys a n = bytesAt s.mem.bytes a n := by
  rw [State.phys, Nat.min_eq_left (by omega), Nat.sub_self, List.replicate_zero, List.append_nil]

/-- The entry in force where no cached copy stands. -/
theorem handle_table {s : State} {asid h : Nat} (hh : h ≠ 0xFFF) (hnone : s.mem.hcopies.find? (fun c => c.asid == asid && c.h == h) = none) :
    s.handle asid h = maskEntry (leWords 4 (s.phys (s.entryAddr asid h) 32)) := by
  rw [State.handle, if_neg hh, hnone]

/-- An entry written where memory exists is in force at once. -/
theorem setHandle_handle {s : State} {asid h : Nat} (e : List Word) (hh : h ≠ 0xFFF) (hend : s.entryAddr asid h + 32 ≤ s.hbmsz)
    (hhit : s.hitRecs [(s.entryAddr asid h, 32)] = []) : (s.setHandle asid h e).handle asid h = maskEntry e ∧
    tabGet (asid * 4096 + h) (s.setHandle asid h e).caps = (if hCapt e then some .free else none) ∧
    (s.setHandle asid h e).me = s.me ∧
    ∀ a, a < s.entryAddr asid h ∨ s.entryAddr asid h + 32 ≤ a → byteAt (s.setHandle asid h e).mem.bytes a = byteAt s.mem.bytes a := by
  have hsegs : s.entrySegs asid h = [(s.entryAddr asid h, 32)] := by rw [State.entrySegs, Nat.min_eq_left (by omega)]
  have hlen : ((maskEntry e).flatMap fun w => wordBytes 8 w).length = 32 := flatMap_wordBytes_length (maskEntry e)
  have hpoke : s.softPoke (s.entrySegs asid h) ((maskEntry e).flatMap fun w => wordBytes 8 w) =
      s.poke (s.entryAddr asid h) ((maskEntry e).flatMap fun w => wordBytes 8 w) := by
    rw [hsegs, softPoke_plain hhit]
    simp only [State.pokeSegs, List.take_of_length_le (Nat.le_of_eq hlen)]
  have hcapt : hCapt (maskEntry e) = hCapt e := by
    rw [hCapt, hCapt, wbit, wbit, maskEntry_low e (by omega)]
  unfold State.setHandle
  simp only [hpoke, hcapt]
  generalize hbs : (maskEntry e).flatMap (fun w => wordBytes 8 w) = bs at hlen
  refine ⟨?_, ?_, rfl, fun a ha => ?_⟩
  · refine (handle_table hh ?_).trans ?_
    · rw [List.find?_eq_none]
      intro c hc
      simpa only [Bool.not_eq_true', Bool.not_eq_true] using (List.mem_filter.mp hc).2
    · have hphys := bytesAt_setBytes_same (s.entryAddr asid h) bs s.mem.bytes
      rw [hlen] at hphys
      refine congrArg maskEntry ((congrArg (leWords 4) ((phys_committed ?_).trans hphys)).trans ?_) |>.trans (maskEntry_idem e)
      · exact hend
      · rw [← hbs]; exact leWords_flatMap (maskEntry e)
  · split
    · rw [tabGet_tabSet_same]
    · rw [tabGet_tabDel_same]
  · exact byteAt_setBytes_other _ _ (by omega)

/-- `HTWR` (R319) of entry `k` at a privilege that may write it. -/
theorem htwr_spec {s : State} {la : BitVec 4} {a b : Reg} {pa k : Nat} (hp : s.Plain [a, b]) (h : s.Ready (.htwr la a b))
    (hk : handleOf (s.srcReg a) = k) (hne : k ≠ 0xFFF) (hsys : k < 0x800 → s.me.ctx.tin = true) (halone : s.Alone (s.entryAddr s.me.asid k) 32)
    (hreach : s.Reaches (s.srcReg b) { rd := true, wr := false, n := 32, align := 32, raw := true } pa)
    (howned : s.ownedAny (segLines [(s.entryAddr s.me.asid k, 32)]) = false) (hend : s.entryAddr s.me.asid k + 32 ≤ s.hbmsz) :
    exec (.htwr la a b) s = .next ((s.alone.squashOthers (segLines [(s.entryAddr s.me.asid k, 32)])).setHandle s.me.asid k
      (leWords 4 (s.viewBytes [(pa, 32)]))) := by
  obtain ⟨hchunk, -, hres, -⟩ := halone
  have hown : ownM s = .ok ((), s.alone) := ownM_ok (by rw [hchunk])
  have hread : ∀ r ∈ [a, b], readS r s.alone = .ok (s.srcReg r, s.alone) := fun r hr => readS_plain (s := s.alone) (hp r hr)
  have hload : loadM (s.srcReg b) { rd := true, wr := false, n := 32, align := 32, raw := true } s.alone =
      .ok (s.viewBytes [(pa, 32)], s.alone) := loadM_reaches (s := s.alone) (alone_reaches hreach)
  have hsegs : s.alone.entrySegs s.me.asid k = [(s.entryAddr s.me.asid k, 32)] := by
    rw [State.entrySegs, Nat.min_eq_left]
    · rfl
    · exact Nat.le_sub_of_add_le (by rw [Nat.add_comm]; exact hend)
  have hfree : (s.alone.ownedAny (segLines [(s.entryAddr s.me.asid k, 32)]) || s.alone.reserved (segLines [(s.entryAddr s.me.asid k, 32)])) =
      false := Bool.or_eq_false_iff.mpr ⟨howned, hres⟩
  refine exec_ok rfl h ?_
  rw [bind_ok hown, bind_ok (hread a (by simp)), hk]
  dsimp only
  rw [guarded_ok (fun hlow => systemM_ok (s := s.alone) (hsys hlow)), bind_ok (hread b (by simp)), bind_ok (needM_ok (by simpa using hne)),
    bind_ok hload, bind_ok (getM_run _ _), show s.alone.me.asid = s.me.asid from rfl, hsegs, bind_ok (getM_run _ _), hfree, bind_ok (needM_ok (b := !false) rfl)]
  rfl

/-- What `HTWR` leaves. -/
theorem htwr_left {s : State} {k : Nat} (e : List Word) (hne : k ≠ 0xFFF) (halone : s.Alone (s.entryAddr s.me.asid k) 32)
    (hend : s.entryAddr s.me.asid k + 32 ≤ s.hbmsz) :
    let t := (s.alone.squashOthers (segLines [(s.entryAddr s.me.asid k, 32)])).setHandle s.me.asid k e
    t.handle s.me.asid k = maskEntry e ∧ t.me.ctx = s.me.ctx ∧
      tabGet (s.me.asid * 4096 + k) t.caps = (if hCapt e then some .free else none) ∧ s.SameOutside t (s.entryAddr s.me.asid k) 32 := by
  obtain ⟨hchunk, -, -, hhit⟩ := halone
  obtain ⟨qme, qmem, qhost, qdev, qjobs, -⟩ := squashOthers_frame s.alone (segLines [(s.entryAddr s.me.asid k, 32)])
  generalize s.alone.squashOthers (segLines [(s.entryAddr s.me.asid k, 32)]) = u at qme qmem qhost qdev qjobs ⊢
  have haddr : u.entryAddr s.me.asid k = s.entryAddr s.me.asid k := by
    rw [State.entryAddr, State.entryAddr, State.pdWord, State.pdWord, qhost]
  have hsz : u.hbmsz = s.hbmsz := by rw [State.hbmsz, State.hbmsz, qdev]
  have hmem : u.mem = s.mem := qmem
  obtain ⟨hhandle, hcaps, hme, hout⟩ := setHandle_handle (s := u) (asid := s.me.asid) (h := k) e hne (by rw [haddr, hsz]; exact hend)
    (by rw [haddr, hitRecs_congr hmem qhost qdev qjobs]; exact hhit)
  rw [haddr, hmem] at hout
  refine ⟨hhandle, ?_, hcaps, fun a ha => ⟨?_, hout a ha⟩⟩
  · rw [hme, qme]
  · rw [viewBytes_committed (by rw [hme, qme]; exact congrArg Chunk.held hchunk), viewBytes_committed (by rw [hchunk])]
    simp only [bytesAt, hout a ha]

/-- `HTWR` below 0x800 at user privilege. -/
theorem htwr_priv {s : State} {la : BitVec 4} {a b : Reg} (hp : s.Plain [a, b]) (h : s.Ready (.htwr la a b)) (hc : s.me.chunk.count = 0)
    (hlow : handleOf (s.srcReg a) < 0x800) (htin : s.me.ctx.tin = false) :
    exec (.htwr la a b) s = .next (s.takeTrap .priv (s.unit.word.zeroExtend 64)) := by
  refine exec_trap rfl h ?_
  rw [bind_ok (ownM_alone hc), bind_ok (readS_plain (s := s.alone) (hp a (by simp))), show s.alone.srcReg a = s.srcReg a from rfl]
  dsimp only
  rw [if_pos hlow, bind_error (systemM_error (s := s.alone) htin)]

/-- `HTWR` of entry 0xFFF. -/
theorem htwr_capBlock {s : State} {la : BitVec 4} {a b : Reg} (hp : s.Plain [a, b]) (h : s.Ready (.htwr la a b)) (hc : s.me.chunk.count = 0)
    (hblock : handleOf (s.srcReg a) = 0xFFF) : exec (.htwr la a b) s = .next (s.takeTrap .handle (s.srcReg a)) := by
  refine exec_trap rfl h ?_
  rw [bind_ok (ownM_alone hc), bind_ok (readS_plain (s := s.alone) (hp a (by simp))), show s.alone.srcReg a = s.srcReg a from rfl, hblock]
  dsimp only
  rw [if_neg (by omega), bind_ok (readS_plain (s := s.alone) (hp b (by simp))), bind_error (needM_error (b := 0xFFF != 0xFFF) rfl)]

/-! ## Statistics -/

/-- What `addCount` does once the header's place `r` is known. -/
def State.addCountAt (s : State) (w : Who) (n : Nat) (r : Except Cause (List (Nat × Nat))) : State :=
  match r with
  | .ok segs =>
    let s := (s.pinSegs w.job segs).squashOthers (segLines segs)
    s.softPoke segs (leBytes 8 (satAdd (leNat (segs.flatMap fun g => bytesAt s.mem.bytes g.1 g.2)) n))
  | .error _ => s

/-- The definition under a name: unfolded in place, the `match` on the header's check would be evaluated to no end. -/
theorem addCount_eq (s : State) (w : Who) (x : Stat) (o n : Nat) : s.addCount w x o n = s.addCountAt w n (s.statPlace w x o) := rfl

/-- A count is added where the check of its header puts it. -/
theorem addCount_ok {s : State} {w : Who} {x : Stat} {o n : Nat} {segs : List (Nat × Nat)} (h : s.statPlace w x o = .ok segs) :
    s.addCount w x o n = ((s.pinSegs w.job segs).squashOthers (segLines segs)).softPoke segs
      (leBytes 8 (satAdd (leNat (segs.flatMap fun g =>
        bytesAt ((s.pinSegs w.job segs).squashOthers (segLines segs)).mem.bytes g.1 g.2)) n)) := by
  rw [addCount_eq, h]
  rfl

/-- One count added to its header (R83). -/
theorem addCount_low {s : State} {w : Who} {x : Stat} {o n pa : Nat} (hplace : s.statPlace w x o = .ok [(pa, 8)]) (hend : pa + 8 ≤ 2 ^ 44)
    (hhit : s.hitRecs [(pa, 8)] = []) :
    bytesAt (s.addCount w x o n).mem.bytes pa 8 = leBytes 8 (min (leNat (bytesAt s.mem.bytes pa 8) + n) (2 ^ 64 - 1)) ∧
      ∀ a, a < pa ∨ pa + 8 ≤ a → byteAt (s.addCount w x o n).mem.bytes a = byteAt s.mem.bytes a := by
  have hlow : pa < 2 ^ 44 := by omega
  obtain ⟨-, qmem, qhost, qdev, qjobs, -⟩ := squashOthers_frame s (segLines [(pa, 8)])
  have hq : (s.squashOthers (segLines [(pa, 8)])).hitRecs [(pa, 8)] = [] := by rw [hitRecs_congr qmem qhost qdev qjobs]; exact hhit
  have hsum : leNat ([(pa, 8)].flatMap fun g : Nat × Nat => bytesAt s.mem.bytes g.1 g.2) = leNat (bytesAt s.mem.bytes pa 8) := by
    rw [List.flatMap_cons, List.flatMap_nil, List.append_nil]
  rw [addCount_ok hplace, pinSegs_low hlow, softPoke_plain hq, qmem, hsum, satAdd]
  generalize hbs : leBytes 8 (min (leNat (bytesAt s.mem.bytes pa 8) + n) (2 ^ 64 - 1)) = bs
  have hlen : bs.length = 8 := by rw [← hbs, leBytes_length]
  have hput : ((s.squashOthers (segLines [(pa, 8)])).pokeSegs [(pa, 8)] bs).mem.bytes = setBytes pa bs s.mem.bytes := by
    rw [State.pokeSegs, State.pokeSegs, State.poke_mem, qmem, List.take_of_length_le (Nat.le_of_eq hlen)]
  rw [hput]
  refine ⟨?_, fun a ha => byteAt_setBytes_other _ _ (by omega)⟩
  have hsame := bytesAt_setBytes_same pa bs s.mem.bytes
  rwa [hlen] at hsame

/-- Memory, other agents and the draws of free values alone change, as where bytes are written or a superblock gives way to another. -/
def State.SameAgents (s t : State) : Prop := ∃ m o f, t = { s with mem := m, others := o, free := f }

theorem State.SameAgents.refl (s : State) : s.SameAgents s := ⟨s.mem, s.others, s.free, rfl⟩

theorem State.SameAgents.trans {s t u : State} (h : s.SameAgents t) (h' : t.SameAgents u) : s.SameAgents u := by
  obtain ⟨_, _, _, rfl⟩ := h
  obtain ⟨m, o, f, rfl⟩ := h'
  exact ⟨m, o, f, rfl⟩

/-- The agent, its unit, the cores, the pipelines and the jobs stay. -/
theorem State.SameAgents.kept {s t : State} (h : s.SameAgents t) : t.me = s.me ∧ t.unit = s.unit ∧ t.cores = s.cores ∧ t.pipes = s.pipes ∧
    t.jobs = s.jobs := by
  obtain ⟨_, _, _, rfl⟩ := h
  exact ⟨rfl, rfl, rfl, rfl, rfl⟩

/-- The current agent, the groups and the plant stay. -/
theorem State.SameAgents.keptGroups {s t : State} (h : s.SameAgents t) : t.cur = s.cur ∧ t.groups = s.groups ∧ t.plant = s.plant := by
  obtain ⟨_, _, _, rfl⟩ := h
  exact ⟨rfl, rfl, rfl⟩

theorem State.SameAgents.withMem {s t : State} (h : s.SameAgents t) (m : Memory) : s.SameAgents { t with mem := m } :=
  h.trans ⟨m, t.others, t.free, rfl⟩

theorem State.SameAgents.draw {s t : State} (h : s.SameAgents t) {asid n : Nat} : s.SameAgents (t.draw asid n) :=
  h.trans ⟨t.mem, t.others, _, rfl⟩

theorem State.SameAgents.poke {s t : State} (h : s.SameAgents t) (a : Nat) (bs : List Byte) : s.SameAgents (t.poke a bs) :=
  h.withMem _

theorem State.SameAgents.copyPoison {s t : State} (h : s.SameAgents t) (src dst n : Nat) : s.SameAgents (t.copyPoison src dst n) := by
  unfold State.copyPoison
  split
  · exact h
  · exact h.withMem _

theorem State.SameAgents.setSuperblock {s t : State} (h : s.SameAgents t) (sb : Nat) (data : List Byte) (full : List Nat) :
    s.SameAgents (t.setSuperblock sb data full) :=
  h.withMem _

theorem State.SameAgents.spill {s t : State} (h : s.SameAgents t) (sb job : Nat) : s.SameAgents (t.spill sb job) := by
  unfold State.spill
  apply State.SameAgents.withMem
  split
  · exact (h.poke _ _).copyPoison _ _ _
  · exact h

theorem State.SameAgents.pinFor {s t : State} (h : s.SameAgents t) (job sb : Nat) : s.SameAgents (t.pinFor job sb) := by
  unfold State.pinFor
  simp only
  split
  · refine State.SameAgents.withMem (State.SameAgents.copyPoison (State.SameAgents.setSuperblock (State.SameAgents.withMem ?_ _) _ _ _) _ _ _) _
    split
    · split
      · exact h
      · exact h.spill _ _
    · exact h
  · split
    · split
      · exact ((h.spill _ _).setSuperblock _ _ _).withMem _
      · exact h
    · exact (h.setSuperblock _ _ _).withMem _

theorem State.SameAgents.squashOthers {s t : State} (h : s.SameAgents t) (ls : List Nat) : s.SameAgents (t.squashOthers ls) := by
  unfold State.squashOthers
  split
  · exact h
  · exact h.trans ⟨t.mem, _, t.free, rfl⟩

theorem State.SameAgents.pinSegs {s t : State} (h : s.SameAgents t) (job : Nat) (segs : List (Nat × Nat)) :
    s.SameAgents (t.pinSegs job segs) := by
  have hfold : ∀ (ns : List Nat) (u : State), s.SameAgents u → s.SameAgents (ns.foldl (fun s sb => s.pinFor job sb) u) := by
    intro ns
    induction ns with
    | nil => exact fun u hu => hu
    | cons n ns ih => exact fun u hu => ih _ (hu.pinFor job n)
  exact hfold _ _ (h.squashOthers _)

theorem State.SameAgents.pokeSegs {s t : State} (h : s.SameAgents t) (segs : List (Nat × Nat)) (bs : List Byte) :
    s.SameAgents (t.pokeSegs segs bs) := by
  induction segs generalizing t bs with
  | nil => exact h
  | cons g gs ih => exact ih (h.poke _ _) _

theorem State.SameAgents.softPoke {s t : State} (h : s.SameAgents t) (segs : List (Nat × Nat)) (bs : List Byte) :
    s.SameAgents (t.softPoke segs bs) := by
  have hfold : ∀ (xs : List HitRec) (u : State), s.SameAgents u → s.SameAgents (u.spoilRecords xs) := by
    intro xs
    induction xs with
    | nil => exact fun u hu => hu
    | cons x xs ih => exact fun u hu => ih _ (hu.pokeSegs x.segs _).draw
  exact hfold _ _ (h.pokeSegs _ _)

theorem State.SameAgents.addCount {s t : State} (h : s.SameAgents t) (w : Who) (x : Stat) (o n : Nat) : s.SameAgents (t.addCount w x o n) := by
  rw [addCount_eq]
  cases t.statPlace w x o with
  | ok segs => exact ((h.pinSegs _ _).squashOthers _).softPoke _ _
  | error c => exact h

theorem State.SameAgents.flushStats {s t : State} (h : s.SameAgents t) (w : Who) (xs : List Stat) :
    s.SameAgents (xs.foldl (fun s x => s.flushStat w x) t) := by
  induction xs generalizing t with
  | nil => exact h
  | cons x xs ih => exact ih (((h.addCount _ _ _ _).addCount _ _ _ _).addCount _ _ _ _)

/-- An agent without an open chunk is not squashed. -/
theorem State.SameAgents.squashAll {s t : State} (h : s.SameAgents t) (hc : s.me.chunk.count = 0) (ls : List Nat) :
    s.SameAgents (t.squashAll ls) := by
  have hq := h.squashOthers ls
  have hno : (t.squashOthers ls).me.conflicts ls = false := by rw [hq.kept.1, Agent.conflicts, hc]; rfl
  rw [State.squashAll, hno]
  exact hq

/-! ## Operations of the device -/

theorem devBind_ok {α β : Type} {m : D α} {f : α → D β} {s t : State} {a : α} (h : m s = .ok (a, t)) : (m >>= f) s = f a t := by
  simp [bind, StateT.bind, h, Except.bind]

theorem devBind_error {α β : Type} {m : D α} {f : α → D β} {s : State} {x : DevStop} (h : m s = .error x) : (m >>= f) s = .error x := by
  simp [bind, StateT.bind, h, Except.bind]

@[simp] theorem devGet_run {α : Type} (f : State → α) (s : State) : devGet f s = .ok (f s, s) := rfl

@[simp] theorem devMod_run (f : State → State) (s : State) : devMod f s = .ok ((), f s) := rfl

theorem devNeed_ok {b : Bool} {s : State} (h : b = true) : devNeed b s = .ok ((), s) := by simp [devNeed, h]

/-- A device operation that completes completes as part of a word. -/
theorem devM_ok {α : Type} {m : D α} {s t : State} {a : α} (h : m s = .ok (a, t)) : devM m s = .ok (.ok a, t) := by
  simp [devM, devTry, h]

/-! ## `TSFLUSH` (R383) -/

/-- As in `recPart_congr`, the definitions are unfolded under their arguments. -/
theorem statPlace_congr {s t : State} (hm : t.mem = s.mem) (hh : t.host = s.host) (hd : t.dev = s.dev) (hc : t.caps = s.caps) :
    t.statPlace = s.statPlace := by
  have hcheck : t.check = s.check := by funext w p a; exact check_congr hm hh hd hc w p a
  have hfrozen : t.frozenSegs = s.frozenSegs := by funext segs; rw [State.frozenSegs, State.frozenSegs, hm]
  delta State.statPlace
  rw [hcheck, hfrozen]

theorem statTrap_congr {s t : State} (h : t.statPlace = s.statPlace) : t.statTrap = s.statTrap := by
  have hstep : State.statTrap._f t = State.statTrap._f s := by
    delta State.statTrap._f
    rw [h]
  delta State.statTrap
  rw [hstep]

theorem statLines_congr {s t : State} (h : t.statPlace = s.statPlace) (hswap : t.swapLines = s.swapLines) : t.statLines = s.statLines := by
  delta State.statLines
  rw [h, hswap]

/-- `TSFLUSH` where nothing keeps its flush from its headers. -/
theorem tsflush_spec {s : State} {la : BitVec 4} (h : s.Ready (.tsflush la)) (hchunk : s.me.chunk = {})
    (htrap : s.statTrap s.who (s.core s.cur.core).stats = none)
    (howned : s.ownedNot none (s.statLines s.who (s.core s.cur.core).stats) = false)
    (hres : s.reservedAny (s.statLines s.who (s.core s.cur.core).stats) = false) :
    ∃ t, exec (.tsflush la) s = .next t ∧ (t.core s.cur.core).stats = [] ∧ t.me.ctx = s.me.ctx := by
  have hplace : s.alone.statPlace = s.statPlace := statPlace_congr rfl rfl rfl rfl
  have hlines : s.alone.statLines = s.statLines := statLines_congr hplace rfl
  have htrap' : s.alone.statTrap s.alone.who (s.alone.core s.alone.cur.core).stats = none := by
    rw [statTrap_congr hplace]; exact htrap
  have hfree : (s.alone.ownedNot none (s.statLines s.who (s.core s.cur.core).stats) ||
      s.alone.reservedAny (s.statLines s.who (s.core s.cur.core).stats)) = false := Bool.or_eq_false_iff.mpr ⟨howned, hres⟩
  have hsame : s.alone.SameAgents ((s.core s.cur.core).stats.foldl (fun s' x => s'.flushStat s.who x)
      (s.alone.squashAll (s.statLines s.who (s.core s.cur.core).stats))) :=
    (State.SameAgents.squashAll (s := s.alone) (.refl _) (congrArg Chunk.count hchunk) _).flushStats _ _
  have hme := hsame.kept.1
  have hflush : flushAll s.who (s.core s.cur.core).stats s.alone = .ok ((), (s.core s.cur.core).stats.foldl (fun s' x => s'.flushStat s.who x)
      (s.alone.squashAll (s.statLines s.who (s.core s.cur.core).stats))) := by
    rw [flushAll, hlines]
    exact if_neg (by rw [hfree]; exact Bool.false_ne_true)
  generalize (s.core s.cur.core).stats.foldl (fun s' x => s'.flushStat s.who x)
      (s.alone.squashAll (s.statLines s.who (s.core s.cur.core).stats)) = u at hme hflush
  refine ⟨u.modCore s.cur.core fun k => { k with stats := [] }, exec_ok rfl h ?_, ?_, ?_⟩
  · have hcore : flushCore s.who s.cur.core s.alone = .ok ((), u.modCore s.cur.core fun k => { k with stats := [] }) := by
      rw [flushCore, devBind_ok (devGet_run _ _)]
      exact (devBind_ok hflush).trans rfl
    rw [bind_ok (ownM_alone (congrArg Chunk.count hchunk)), bind_ok (getM_run _ _), htrap']
    dsimp only
    rw [bind_ok (getM_run _ _), bind_ok (getM_run _ _)]
    exact (bind_ok (devM_ok hcore)).trans rfl
  · rw [State.core_modCore]
  · exact congrArg Agent.ctx hme

/-- Settles O35: entries are loaded and written by `htld_spec`, `htwr_spec` and `htwr_left`, and the statistics flushed by `tsflush_spec`. -/
theorem handlesAndStatistics : Obligations.HandlesAndStatistics := by
  unfold Obligations.HandlesAndStatistics
  refine ⟨fun s la a b pa hp => ⟨fun h hroom hreach hlen => htld_spec hp h hroom hreach hlen,
      fun h hne hsys halone hreach howned hend => ⟨_, htwr_spec hp h rfl hne hsys halone hreach howned hend, htwr_left _ hne halone hend⟩,
      fun h hc hlow htin => htwr_priv hp h hc hlow htin, fun h hc hblock => htwr_capBlock hp h hc hblock, ?mask⟩,
    fun s la => ⟨fun h hchunk htrap howned hres => tsflush_spec h hchunk htrap howned hres,
      fun w x o n pa hplace hend hhit => addCount_low hplace hend hhit⟩⟩
  case mask =>
    generalize leWords 4 (s.viewBytes [(pa, 32)]) = e
    obtain ⟨h1, h2, h3⟩ := maskEntry_reserved e
    obtain ⟨h4, h5⟩ := maskEntry_base e
    exact ⟨maskEntry_bound e, h1, h2, h3, h4, h5, maskEntry_low e (by omega), maskEntry_mid e⟩

end Sys2Proof.Machine
end

section
/-! Computations that keep something of the state: a relation between the state a computation begins in and the one it leaves, composed along
the parts of words and of device operations. -/

namespace Sys2Proof.Machine

/-- A relation that composes along a computation. -/
structure Composes (P : State → State → Prop) : Prop where
  refl : ∀ s, P s s
  trans : ∀ s t u, P s t → P t u → P s u

/-- A computation, of a word or of the device, that ends as `P` says wherever it completes. -/
def Keeps {ε α : Type} (P : State → State → Prop) (m : StateT State (Except ε) α) : Prop := ∀ s a t, m s = .ok (a, t) → P s t

namespace Keeps

variable {ε α β : Type} {P : State → State → Prop}

theorem bind (hP : Composes P) {m : StateT State (Except ε) α} {f : α → StateT State (Except ε) β} (hm : Keeps P m)
    (hf : ∀ a, Keeps P (f a)) : Keeps P (m >>= f) := by
  intro s b u h
  simp only [Bind.bind, StateT.bind, Except.bind] at h
  cases hs : m s with
  | error x => rw [hs] at h; cases h
  | ok x =>
    rw [hs] at h
    exact hP.trans s x.2 u (hm s x.1 x.2 hs) (hf x.1 x.2 b u h)

theorem pure (hP : Composes P) (a : α) : Keeps P (Pure.pure a : StateT State (Except ε) α) := by
  intro s b t h
  cases h
  exact hP.refl s

/-- A computation that only reads. -/
theorem reads (hP : Composes P) {m : StateT State (Except ε) α} (h : ∀ s a t, m s = .ok (a, t) → t = s) : Keeps P m :=
  fun s a t hm => h s a t hm ▸ hP.refl s

/-- A computation that never completes. -/
theorem stops {m : StateT State (Except ε) α} (h : ∀ s, ∃ x, m s = .error x) : Keeps P m := by
  intro s a t hm
  obtain ⟨x, hx⟩ := h s
  rw [hx] at hm
  cases hm

theorem getM (hP : Composes P) (f : State → α) : Keeps P (Machine.getM f) := reads hP (by rintro s a t h; cases h; rfl)

theorem modM {f : State → State} (h : ∀ s, P s (f s)) : Keeps P (Machine.modM f) := by
  rintro s a t hm
  cases hm
  exact h s

theorem needM (hP : Composes P) (b : Bool) (x : Stop) : Keeps P (Machine.needM b x) := by
  cases b
  · exact stops fun s => ⟨x, rfl⟩
  · exact reads hP (by rintro s a t h; cases h; rfl)

theorem legalM (hP : Composes P) (b : Bool) : Keeps P (Machine.legalM b) := by
  cases b
  · exact stops fun s => ⟨_, rfl⟩
  · exact reads hP (by rintro s a t h; cases h; rfl)

theorem trapM (c : Cause) (v : Word) : Keeps P (Machine.trapM c v : M α) := stops fun _ => ⟨_, rfl⟩

theorem illegalM : Keeps P (Machine.illegalM : M α) := stops fun _ => ⟨_, rfl⟩

theorem accessM (hP : Composes P) (p : Word) (a : Acc) : Keeps P (Machine.accessM p a) := by
  refine reads hP fun s b t h => ?_
  unfold Machine.accessM at h
  cases hc : s.check s.who p a with
  | ok pl => rw [hc] at h; cases h; rfl
  | error c => rw [hc] at h; cases h

theorem devGet (hP : Composes P) (f : State → α) : Keeps P (Machine.devGet f) := reads hP (by rintro s a t h; cases h; rfl)

theorem devMod {f : State → State} (h : ∀ s, P s (f s)) : Keeps P (Machine.devMod f) := by
  rintro s a t hm
  cases hm
  exact h s

theorem devNeed (hP : Composes P) (b : Bool) : Keeps P (Machine.devNeed b) := by
  cases b
  · exact stops fun s => ⟨_, rfl⟩
  · exact reads hP (by rintro s a t h; cases h; rfl)

/-- A device operation whose failure is answered, where `P` does not look at replies. -/
theorem devTry {m : D α} (hfab : ∀ s f, P s { s with fab := f }) (hm : Keeps P m) : Keeps P (Machine.devTry m) := by
  intro s a t h
  unfold Machine.devTry at h
  split at h
  · next b u hs => cases h; exact hm _ _ _ hs
  · cases h; exact hfab s _
  · cases h

theorem devM {m : D α} (hfab : ∀ s f, P s { s with fab := f }) (hm : Keeps P m) : Keeps P (Machine.devM m) := by
  intro s a t h
  unfold Machine.devM at h
  split at h
  · next r hs => cases h; exact devTry hfab hm _ _ _ hs
  · cases h
  · cases h
  · cases h

end Keeps

end Sys2Proof.Machine
end

section
/-! Decoding of written-out words (R227–R229), and the state that package reset leaves (R13, R49, R61, R122, R145, R215). -/

namespace Sys2Proof.Machine

/-- Settles O36: each word is decoded. -/
theorem decodeWords : Obligations.DecodeWords := by
  unfold Obligations.DecodeWords
  decide +kernel

/-- The E4M3 preset, which every decode table holds at reset, passes the check of R70. -/
theorem reset_tabBad : State.reset.tabBad = false := by decide +kernel

/-- Settles O40: every table is empty and every field at its value of reset. -/
theorem resetState : Obligations.ResetState := by
  unfold Obligations.ResetState
  refine ⟨rfl, rfl, fun k => rfl, rfl, fun k => ?_, rfl, rfl, rfl, rfl, fun a i => ?_, fun k => rfl, fun c => rfl, reset_tabBad, rfl⟩
  · have hpair : State.reset.pair (pairOf k) = {} := rfl
    unfold State.licst
    rw [hpair]
    cases onDieU k <;> rfl
  · show wordAt [] i = 0
    simp [wordAt]

/-! ## Fetching changes nothing of the agent that fetches -/

/-- The current agent is as it was. -/
def State.SameMe (s t : State) : Prop := t.me = s.me

theorem sameMe_composes : Composes State.SameMe := ⟨fun _ => rfl, fun _ _ _ h h' => h'.trans h⟩

theorem pinM_sameMe (segs : List (Nat × Nat)) : Keeps State.SameMe (pinM segs) := by
  intro s a t h
  unfold pinM at h
  dsimp only at h
  split at h
  · cases h
  · split at h
    · cases h
    · cases h
      exact ((State.SameAgents.refl s).pinSegs _ _).kept.1

theorem fetchSegs_sameMe (segs : List (Nat × Nat)) (p : Word) : Keeps State.SameMe (fetchSegs segs p) :=
  have hP := sameMe_composes
  .bind hP (.getM hP _) fun _ => .bind hP (.needM hP _ _) fun _ => .bind hP (.getM hP _) fun _ => .bind hP (.needM hP _ _) fun _ =>
    .bind hP (pinM_sameMe segs) fun _ => .bind hP (.getM hP _) fun _ => .bind hP (.needM hP _ _) fun _ => .getM hP _

theorem fetchImage_sameMe (win : Nat) (bs : List Byte) : Keeps State.SameMe (fetchImage win bs) := by
  refine .reads sameMe_composes fun s a t h => ?_
  unfold fetchImage at h
  split at h
  · cases h; rfl
  · split at h
    · cases h
    · cases h; rfl

theorem fetchTable_sameMe (o : Nat) : Keeps State.SameMe (fetchTable o) := by
  refine .reads sameMe_composes fun s a t h => ?_
  unfold fetchTable at h
  split at h
  · cases h; rfl
  · split at h
    · cases h
    · cases h; rfl

theorem devOutside_sameMe (x : DevAsk) : Keeps State.SameMe (devOutside x) := by
  intro s a t h
  unfold devOutside at h
  split at h
  · cases h
  · split at h
    · cases h; rfl
    · cases h

theorem fetchMain_sameMe (p : Word) : Keeps State.SameMe (fetchMain p) := by
  have hP := sameMe_composes
  refine .bind hP (.accessM hP _ _) fun x => ?_
  obtain ⟨e, pl⟩ := x
  cases pl with
  | mem segs => exact .bind hP (fetchSegs_sameMe segs p) fun bs => .bind hP (fetchImage_sameMe _ bs) fun _ => .pure hP _
  | table o => exact .bind hP (fetchTable_sameMe o) fun _ => .pure hP _
  | capBlock o => exact .bind hP (.getM hP _) fun _ => .pure hP _
  | outside host dev pod addr =>
    exact .bind hP (.getM hP _) fun x => .devM (fun _ _ => rfl) (devOutside_sameMe x)

theorem fetchM_sameMe : Keeps State.SameMe fetchM := by
  have hP := sameMe_composes
  refine .bind hP (.getM hP _) fun a => .bind hP (.getM hP _) fun p => ?_
  split
  · exact fetchMain_sameMe p
  · exact .bind hP (.getM hP _) fun _ => .pure hP _

/-! ## A step up to the issue of its bundle -/

/-- The state in which the current agent fetches its next unit. -/
def State.fetching (s : State) : State := ({ s with now := s.now + 10, unit := { second := s.me.ctx.slot } }).openChunk

/-- What the issue does with the bytes of the bundle. -/
def State.issueBytes (c : State) (bs : List Byte) : Host.Outcome State Fault Refusal :=
  if leNat bs % 2 ^ 32 / 2 ^ 31 = 1 then
    if c.me.ctx.slot then c.issueLone (leNat bs / 2 ^ 32) true else c.issueLone (leNat bs % 2 ^ 32) false
  else c.issuePair (leNat bs % 2 ^ 32) (leNat bs / 2 ^ 32)

/-- A step of an agent between two units fetches and issues. -/
theorem step_issues {s c : State} {bs : List Byte} (h : s.Issues) (hf : fetchM s.fetching = .ok (.ok bs, c)) : step s = c.issueBytes bs := by
  obtain ⟨hturns, hfailing, hfault, hact, hended, hpreset, hrecheck, hstop, hui, hparity, hgated⟩ := h
  have hissue : ({ s with now := s.now + 10 } : State).issue = c.issueBytes bs := by
    unfold State.issue
    rw [show (({ ({ s with now := s.now + 10 } : State) with unit := { second := ({ s with now := s.now + 10 } : State).me.ctx.slot } } : State)).openChunk
      = s.fetching from rfl]
    dsimp only
    rw [hf]
    rfl
  have hnext : ({ s with now := s.now + 10 } : State).issueNext = c.issueBytes bs := by
    unfold State.issueNext
    rw [show (({ s with now := s.now + 10 } : State).core ({ s with now := s.now + 10 } : State).cur.core).gated = false from hgated]
    simp only [Bool.false_eq_true, if_false]
    rw [show ({ s with now := s.now + 10 } : State).me.parity = none from hparity]
    exact hissue
  have hrun : ({ s with now := s.now + 10 } : State).runTurn = c.issueBytes bs := by
    unfold State.runTurn
    simp only [hended, hpreset, hrecheck, hstop, Option.isSome_none, Bool.false_eq_true, if_false, Bool.false_and]
    split
    · next hint =>
      simp only [Bool.and_eq_true, Bool.not_eq_true'] at hint
      obtain ⟨⟨-, hp⟩, hno⟩ := hint
      rw [hui hp] at hno
      cases hno
    · exact hnext
  have hfail : s.failNow = s := by rw [State.failNow, hfailing]; rfl
  unfold step State.turn
  rw [hfail]
  dsimp only
  split
  · rw [hfault]
    simp only [Bool.false_eq_true, if_false]
    unfold State.agentTurn State.focus
    simp only [if_true, hact]
    exact hrun
  · next hcons => rw [hturns] at hcons; cases hcons

theorem openChunk_ctx (s : State) : s.openChunk.me.ctx = s.me.ctx := by
  unfold State.openChunk
  split <;> rfl

/-- The word that issues is the one at which the agent stood. -/
theorem fetched_slot {s c : State} {r : Except Cause (List Byte)} (h : fetchM s.fetching = .ok (r, c)) : c.me.ctx.slot = s.me.ctx.slot := by
  have hme : c.me = s.fetching.me := fetchM_sameMe _ _ _ h
  rw [hme, State.fetching, openChunk_ctx]

theorem runEncoded_ok {s : State} {w : Nat} {i : Instr} (h : decodeWord w = .ok i) : s.runEncoded w = exec i s := by
  rw [State.runEncoded, h]

theorem runSecond_ok {s : State} {w : Nat} {i : Instr} (hbit : w / 2 ^ 31 = 0) (h : decodeWord w = .ok i) :
    s.runSecond w = exec i (s.withWord w true) := by
  unfold State.runSecond
  dsimp only
  rw [if_neg (by omega), runEncoded_ok h]

/-- A lone word (R224). -/
theorem issueLone_ok {c : State} {w : Nat} {b : Bool} {i : Instr} (hbit : b = true → w / 2 ^ 31 = 0) (h : decodeWord w = .ok i) :
    c.issueLone w b = c.endLone w b (exec i (c.withWord w b)) := by
  unfold State.issueLone
  cases b
  · rw [if_neg Bool.false_ne_true, runEncoded_ok h]
  · rw [if_pos rfl, runSecond_ok (hbit rfl) h]

/-! ## Landing late results is no matter of whether the unit is a chunk of its own -/

theorem softPoke_unit (s : State) (segs : List (Nat × Nat)) (bs : List Byte) : (s.softPoke segs bs).unit = s.unit :=
  ((State.SameAgents.refl s).softPoke segs bs).kept.2.1

theorem putSegs_unit (s : State) (segs : List (Nat × Nat)) (bs : List Byte) : (s.putSegs segs bs).unit = s.unit := by
  unfold State.putSegs
  split
  · dsimp only
    split
    · exact softPoke_unit s segs bs
    · exact softPoke_unit s segs bs
  · rfl

theorem applyPut_own (s : State) (x : Put) : (s.applyPut x).unit.own = s.unit.own := by
  cases x with
  | bytes segs bs => exact congrArg UnitSt.own (putSegs_unit s segs bs)
  | table segs bs => exact congrArg UnitSt.own (putSegs_unit s segs bs)
  | preset | nothing | outside => rfl

@[simp] theorem viewReg_own (s : State) (r : Reg) (v : Word) : (s.viewReg r v).unit.own = s.unit.own := by
  unfold State.viewReg; split <;> rfl

@[simp] theorem viewRow_own (s : State) (i : Nat) (v : Row) : (s.viewRow i v).unit.own = s.unit.own := by
  unfold State.viewRow; split <;> rfl

theorem foldl_own {α : Type} (f : State → α → State) (hf : ∀ s x, (f s x).unit.own = s.unit.own) (xs : List α) (s : State) :
    (xs.foldl f s).unit.own = s.unit.own := by
  induction xs generalizing s with
  | nil => rfl
  | cons x xs ih => rw [List.foldl_cons, ih, hf]

theorem land_own (s : State) (v : LateVal) : (s.land v).unit.own = s.unit.own := by
  cases v with
  | scalar r x => simp [State.land]
  | rows rs => exact foldl_own _ (fun s x => by simp) rs s
  | lanes rs => exact foldl_own _ (fun s x => by simp) rs s
  | rpart x => rfl
  | append code xs => exact foldl_own _ applyPut_own xs s

theorem ageLates_own (s : State) : s.ageLates.unit.own = s.unit.own := by
  unfold State.ageLates State.landDue
  split
  · rfl
  · exact foldl_own _ (fun s (d : Bool × Late) => land_own s d.2.val) _ _

/-- Word 1 of a pair after word 0 has run to `t`. -/
theorem issueSecond_ok {v t x y : State} {w1 : Nat} {j : Instr} (hbit : w1 / 2 ^ 31 = 0) (hdec : decodeWord w1 = .ok j)
    (hy : exec j (t.ageLates.withWord w1 true) = .next y) (hyres : y.unit.res = .done)
    (hx : exec j ((if y.unit.own = true ∧ t.unit.own = false then t.ageLates.inPlace else t.ageLates).withWord w1 true) = .next x)
    (hxres : x.unit.res = .done) :
    v.issueSecond t w1 = .next (if x.unit.own && x.grantWaits then v.dropBundle (x.endAs .stalled) w1 true else x.finishUnit 2) := by
  have hbehind : t.ageLates.runBehind w1 = .next x := by
    unfold State.runBehind
    rw [runSecond_ok hbit hdec, hy]
    dsimp only
    rw [ageLates_own]
    by_cases ho : y.unit.own = true ∧ t.unit.own = false
    · obtain ⟨h1, h2⟩ := ho
      rw [if_pos ⟨h1, h2⟩] at hx
      rw [hyres, h1, h2]
      simp only [Bool.not_false, Bool.and_true, if_true, decide_true]
      rw [runSecond_ok hbit hdec, hx]
    · rw [if_neg ho, hy] at hx
      cases hx
      rw [if_neg]
      simp only [Bool.and_eq_true, Bool.not_eq_true', decide_eq_true_eq]
      rintro ⟨⟨-, h1⟩, h2⟩
      exact ho ⟨h1, h2⟩
  have hafter : t.ageLates.runAfter w1 = .next x := by
    unfold State.runAfter
    rw [hbehind]
    dsimp only
    rw [hxres, if_neg (by simp)]
  unfold State.issueSecond
  rw [hafter]
  dsimp only
  rw [hxres, if_neg (by simp)]

/-- A paired bundle both of whose words complete (R224, R225). -/
theorem issuePair_ok {c v t : State} {w0 w1 : Nat} {i : Instr} (h0 : w0 / 2 ^ 30 = 0) (h1 : w1 / 2 ^ 30 = 1)
    (hroom : c.me.chunk.count = 0 ∨ c.me.chunk.count + 2 ≤ c.me.chunk.limit)
    (hv : v = ({ c with unit := { c.unit with paired := true, view := some (c.me.ctx.regs, c.me.ctx.tiles) } }).withWord w0 false)
    (hdec : decodeWord w0 = .ok i) (ht : exec i v = .next t) (htres : t.unit.res = .done) (hlast : lastArrival v t = false) :
    c.issuePair w0 w1 = v.issueSecond t w1 := by
  subst hv
  unfold State.issuePair
  rw [if_neg (by omega), if_neg (by omega), if_neg ?_]
  · dsimp only
    rw [runEncoded_ok hdec, ht]
    dsimp only
    unfold State.afterFirst
    rw [htres]
    dsimp only
    rw [hlast]
    rfl
  · simp only [Bool.and_eq_true, bne_iff_ne, ne_eq, decide_eq_true_eq]
    omega

/-- Where control goes after a unit, outside every loop. -/
theorem advancePc_frame {t : State} (hloops : t.me.ctx.loops = []) (hreqs : t.me.ctx.loopReq = []) :
    (∀ q b, t.unit.taken = some (q, b) → t.advancePc.me.ctx.pc = q ∧ t.advancePc.me.ctx.slot = b) ∧
    (t.unit.taken = none → t.unit.paired = false → t.unit.second = false →
      t.advancePc.me.ctx.pc = t.me.ctx.pc ∧ t.advancePc.me.ctx.slot = true) ∧
    (t.unit.taken = none → (t.unit.paired = true ∨ t.unit.second = true) →
      t.advancePc.me.ctx.pc = t.bundleAt t.me.ctx.pc 1 ∧ t.advancePc.me.ctx.slot = false) ∧
    t.advancePc.me.ctx.regs = t.me.ctx.regs ∧ t.advancePc.me.ctx.tiles = t.me.ctx.tiles ∧ t.advancePc.me.chunk = t.me.chunk ∧
    t.advancePc.unit = t.unit ∧ t.advancePc.mem = t.mem ∧ t.advancePc.others = t.others := by
  unfold State.advancePc
  cases htaken : t.unit.taken with
  | some qb =>
    refine ⟨fun q b h => ?_, fun h => (by cases h), fun h => (by cases h), rfl, rfl, rfl, rfl, rfl, rfl⟩
    cases h
    exact ⟨rfl, rfl⟩
  | none =>
    dsimp only
    by_cases hlone : (!t.unit.paired && !t.unit.second) = true
    · rw [if_pos hlone]
      refine ⟨fun q b h => (by cases h), fun _ _ _ => ⟨rfl, rfl⟩, fun _ h => ?_, rfl, rfl, rfl, rfl, rfl, rfl⟩
      simp only [Bool.and_eq_true, Bool.not_eq_true'] at hlone
      rcases h with h | h
      · rw [h] at hlone; cases hlone.1
      · rw [h] at hlone; cases hlone.2
    · rw [if_neg hlone]
      unfold State.endBundle
      dsimp only
      rw [hloops]
      simp only [endLoops, hreqs, pushLoops, Option.getD_none]
      refine ⟨fun q b h => (by cases h), fun _ h1 h2 => ?_, fun _ _ => ⟨rfl, rfl⟩, rfl, rfl, rfl, rfl, rfl, rfl⟩
      rw [h1, h2] at hlone
      exact absurd rfl hlone

/-- A unit that ends inside its chunk (R105, R224). -/
theorem finishUnit_open {t : State} {n : Nat} (hlates : t.me.ctx.lates = []) (hown : t.unit.own = false) (hends : t.unit.ends = false)
    (hlimit : t.me.chunk.count + n < t.me.chunk.limit) (hloops : t.me.ctx.loops = []) (hreqs : t.me.ctx.loopReq = []) :
    (∀ q b, t.unit.taken = some (q, b) → (t.finishUnit n).me.ctx.pc = q ∧ (t.finishUnit n).me.ctx.slot = b) ∧
    (t.unit.taken = none → t.unit.paired = false → t.unit.second = false →
      (t.finishUnit n).me.ctx.pc = t.me.ctx.pc ∧ (t.finishUnit n).me.ctx.slot = true) ∧
    (t.unit.taken = none → (t.unit.paired = true ∨ t.unit.second = true) →
      (t.finishUnit n).me.ctx.pc = t.bundleAt t.me.ctx.pc 1 ∧ (t.finishUnit n).me.ctx.slot = false) ∧
    (t.finishUnit n).me.chunk.count = t.me.chunk.count + n ∧ (t.finishUnit n).me.ctx.regs = t.me.ctx.regs ∧
    (t.finishUnit n).me.ctx.tiles = t.me.ctx.tiles ∧ (t.finishUnit n).mem = t.mem ∧ (t.finishUnit n).others = t.others := by
  have hage : t.ageLates = t := by rw [State.ageLates, hlates]; rfl
  obtain ⟨htaken, hfirst, hsecond, hregs, htiles, hchunk, hunit, hmem, hothers⟩ := advancePc_frame hloops hreqs
  obtain ⟨cchunk, -, cctx⟩ := countEvent_frame (t.advancePc.modChunk fun c => { c with count := c.count + n }).me 0x02 n
  have hcount : ((t.advancePc.modChunk fun c => { c with count := c.count + n }).me.countEvent 0x02 n).chunk.count = t.me.chunk.count + n := by
    rw [cchunk, ← hchunk]; rfl
  have hlim : ((t.advancePc.modChunk fun c => { c with count := c.count + n }).me.countEvent 0x02 n).chunk.limit = t.me.chunk.limit := by
    rw [cchunk, ← hchunk]; rfl
  have hfin : t.finishUnit n = { t.advancePc.modChunk (fun c => { c with count := c.count + n }) with
      me := { (t.advancePc.modChunk fun c => { c with count := c.count + n }).me.countEvent 0x02 n with mark := .none, got := [] } } := by
    unfold State.finishUnit
    rw [hage]
    dsimp only
    rw [if_neg, if_neg]
    · rw [hcount, hlim]
      simp only [State.modChunk_unit, hunit, hends, Bool.false_or, decide_eq_true_eq]
      omega
    · simp only [State.modChunk_unit, hunit, hown, Bool.false_eq_true, not_false_eq_true]
  rw [hfin]
  refine ⟨fun q b h => ?_, fun h h1 h2 => ?_, fun h h1 => ?_, hcount, ?_, ?_, hmem, hothers⟩
  · exact ⟨(congrArg Ctx.pc cctx).trans (htaken q b h).1, (congrArg Ctx.slot cctx).trans (htaken q b h).2⟩
  · exact ⟨(congrArg Ctx.pc cctx).trans (hfirst h h1 h2).1, (congrArg Ctx.slot cctx).trans (hfirst h h1 h2).2⟩
  · exact ⟨(congrArg Ctx.pc cctx).trans (hsecond h h1).1, (congrArg Ctx.slot cctx).trans (hsecond h h1).2⟩
  · exact (congrArg Ctx.regs cctx).trans hregs
  · exact (congrArg Ctx.tiles cctx).trans htiles

/-- Settles O38: `step_issues` takes a step to the issue of its bundle, `issueLone_ok`, `issuePair_ok` and `issueSecond_ok` take the issue to `exec`,
and `finishUnit_open` says what stands after the unit. -/
theorem stepRunsWord : Obligations.StepRunsWord := by
  unfold Obligations.StepRunsWord
  refine ⟨fun s c bs i hissues => ?lone, fun s c t x y bs i j hissues => ?pair, fun s ns ts i hturns hfailing hfault hevent => ?event,
    fun t n hlates hown hends hlimit hloops hreqs => ?finish⟩
  case lone =>
    intro u w hf hlone hbit hdec
    have hslot := fetched_slot (s := s) hf
    rw [step_issues hissues hf, State.issueBytes, if_pos hlone, hslot]
    have hword : (if s.me.ctx.slot = true then c.issueLone (leNat bs / 2 ^ 32) true else c.issueLone (leNat bs % 2 ^ 32) false) =
        c.issueLone w s.me.ctx.slot := by
      by_cases hs : s.me.ctx.slot = true
      · simp only [w, hs, if_true]
      · simp only [Bool.not_eq_true] at hs
        simp only [w, hs, Bool.false_eq_true, if_false]
    rw [hword, issueLone_ok hbit hdec]
    cases exec i (c.withWord w s.me.ctx.slot) with
    | next t => simp only [State.endLone, bne_iff_ne, Bool.and_eq_true]
    | fault f => rfl
    | refused r => rfl
  case pair =>
    intro u v hf h0 h1 hroom hi hj ht htres hlast a hy hyres hx hxres
    have hstep : step s = .next (if x.unit.own && x.grantWaits then v.dropBundle (x.endAs .stalled) (leNat bs / 2 ^ 32) true
        else x.finishUnit 2) := by
      rw [step_issues hissues hf, State.issueBytes, if_neg (by omega), issuePair_ok h0 h1 hroom rfl hi ht htres hlast]
      exact issueSecond_ok (by omega) hj hy hyres hx hxres
    refine ⟨fun hgrant => ?_, fun hown hwaits => ?_⟩
    · rw [hstep, if_neg]
      rw [Bool.and_eq_true]
      rintro ⟨ho, hw⟩
      rw [hgrant ho] at hw
      cases hw
    · rw [hstep, hown, hwaits]; rfl
  case event =>
    have hfail : s.failNow = s := by rw [State.failNow, hfailing]; rfl
    have hserves : serves { s with turns := ts, now := s.now + ns } (.event i) = true := by
      unfold serves
      split
      · rfl
      · rw [hfault]; rfl
      · rw [hfault]; rfl
    unfold step State.turn
    rw [hfail]
    dsimp only
    split
    · next hnil => rw [hturns] at hnil; cases hnil
    · next tn rest hcons =>
      rw [hturns] at hcons
      cases hcons
      simp only [List.foldl_nil, hserves, Bool.not_true, Bool.false_eq_true, if_false, hevent, if_true]
  case finish => exact finishUnit_open hlates hown hends hlimit hloops hreqs

end Sys2Proof.Machine
end

section
/-! `WAIT` (R34–R36, R417, R418). -/

namespace Sys2Proof.Machine

/-! ## Reading conditions leaves the attempt of a word as it is -/

/-- The word in progress and whether it is only tried are as they were. -/
def State.SameTry (s t : State) : Prop := t.unit.tried = s.unit.tried ∧ t.unit.word = s.unit.word

theorem sameTry_composes : Composes State.SameTry := ⟨fun _ => ⟨rfl, rfl⟩, fun _ _ _ h h' => ⟨h'.1.trans h.1, h'.2.trans h.2⟩⟩

theorem pinM_sameTry (segs : List (Nat × Nat)) : Keeps State.SameTry (pinM segs) := by
  intro s a t h
  unfold pinM at h
  dsimp only at h
  split at h
  · cases h
  · split at h
    · cases h
    · cases h
      obtain ⟨-, hunit, -⟩ := ((State.SameAgents.refl s).pinSegs s.myJob segs).kept
      exact ⟨congrArg UnitSt.tried hunit, congrArg UnitSt.word hunit⟩

theorem loadSegs_sameTry (segs : List (Nat × Nat)) (p : Word) : Keeps State.SameTry (loadSegs segs p) :=
  have hP := sameTry_composes
  .bind hP (.getM hP _) fun _ => .bind hP (.needM hP _ _) fun _ => .bind hP (.getM hP _) fun _ => .bind hP (.needM hP _ _) fun _ =>
    .bind hP (pinM_sameTry segs) fun _ => .bind hP (.getM hP _) fun _ => .bind hP (.needM hP _ _) fun _ => .bind hP (.getM hP _) fun _ =>
    .bind hP (.modM fun s => by cases h : s.unit.own <;> exact ⟨rfl, rfl⟩) fun _ => .pure hP _

theorem ownM_sameTry : Keeps State.SameTry ownM := by
  intro s a t h
  unfold ownM at h
  split at h
  · cases h
  · cases h; exact ⟨rfl, rfl⟩

theorem awaitM_sameTry (host : Bool) (dev pod addr n : Nat) (op : OutOp) (p : Word) (cov : List Nat) :
    Keeps State.SameTry (awaitM host dev pod addr n op p cov) := by
  refine .reads sameTry_composes fun s a t h => ?_
  unfold awaitM at h
  split at h
  · cases h; rfl
  · cases h
  · split at h
    · cases h; rfl
    · cases h

theorem tableReadyM_sameTry : Keeps State.SameTry tableReadyM := by
  intro s a t h
  unfold tableReadyM at h
  split at h
  · cases h
  · cases h
    unfold State.noteTable
    split <;> exact ⟨rfl, rfl⟩

theorem tableLoad_sameTry (o n : Nat) : Keeps State.SameTry (tableLoad o n) := by
  intro s a t h
  unfold tableLoad at h
  split at h
  · split at h
    · cases h
    · cases h; split <;> exact ⟨rfl, rfl⟩
  · split at h
    · split at h
      · cases h
      · cases h
        unfold State.noteTable
        split <;> exact ⟨rfl, rfl⟩
    · cases h; exact ⟨rfl, rfl⟩

theorem loadM_sameTry (p : Word) (a : Acc) : Keeps State.SameTry (loadM p a) := by
  have hP := sameTry_composes
  refine .bind hP (.accessM hP _ _) fun x => ?_
  obtain ⟨e, pl⟩ := x
  cases pl with
  | mem segs =>
    refine .bind hP (loadSegs_sameTry segs p) fun bs => ?_
    split
    · exact .pure hP _
    · have hget : Keeps State.SameTry (get : M State) := .reads hP (by rintro s a t h; cases h; rfl)
      split
      · exact .bind hP tableReadyM_sameTry fun _ => .bind hP hget fun _ => .pure hP _
      · exact .bind hP hget fun _ => .pure hP _
  | table o => exact tableLoad_sameTry o a.n
  | capBlock o => exact .reads hP (by rintro s b t h; cases h; rfl)
  | outside host dev pod addr => exact .bind hP ownM_sameTry fun _ => awaitM_sameTry _ _ _ _ _ _ _ _

theorem wordPlaceM_sameTry (p : Word) (rd wr : Bool) : Keeps State.SameTry (wordPlaceM p rd wr) := by
  have hP := sameTry_composes
  refine .bind hP (.accessM hP _ _) fun x => ?_
  obtain ⟨e, pl⟩ := x
  cases pl with
  | mem segs => exact .pure hP _
  | table | capBlock | outside => exact .trapM _ _

theorem condM_sameTry (k v : Word) : Keeps State.SameTry (condM k v) := by
  have hP := sameTry_composes
  unfold condM
  split
  · exact .bind hP (wordPlaceM_sameTry _ _ _) fun _ => .bind hP (loadSegs_sameTry _ _) fun _ => .getM hP _
  · exact .bind hP (wordPlaceM_sameTry _ _ _) fun _ => .bind hP (loadSegs_sameTry _ _) fun _ => .getM hP _
  · exact .bind hP (loadM_sameTry _ _) fun _ => .pure hP _
  all_goals exact .getM hP _

theorem condsM_sameTry (cs : List (Word × Word)) : Keeps State.SameTry (condsM cs) := by
  have hP := sameTry_composes
  induction cs with
  | nil => exact .pure hP _
  | cons c cs ih => exact .bind hP (condM_sameTry _ _) fun _ => .bind hP ih fun _ => .pure hP _

/-! ## The word up to its first evaluation -/

/-- Plain registers are read in order. -/
theorem readFrom_plain {s : State} (b n : Nat) (h : ∀ i, i < n → s.me.ctx.bindOf (BitVec.ofNat 5 (b + i)).toNat = none) :
    readFrom b n s = .ok ((List.range n).map fun i => s.srcReg (BitVec.ofNat 5 (b + i)), s) := by
  induction n generalizing b with
  | zero => rfl
  | succ n ih =>
    have hrest : ∀ i, i < n → s.me.ctx.bindOf (BitVec.ofNat 5 (b + 1 + i)).toNat = none := by
      intro i hi
      have := h (i + 1) (by omega)
      rwa [show b + (i + 1) = b + 1 + i from by omega] at this
    have hfirst : readS (BitVec.ofNat 5 b) s = .ok (s.srcReg (BitVec.ofNat 5 b), s) := readS_plain (h 0 (by omega))
    unfold readFrom
    rw [bind_ok hfirst, bind_ok (ih (b + 1) hrest), List.range_succ_eq_map, List.map_cons, List.map_map]
    simp only [pure_run, Function.comp_def, Nat.add_zero, Nat.succ_eq_add_one]
    congr 5
    funext i
    rw [show b + 1 + i = b + (i + 1) from by omega]

theorem kindsM_good {cs : List (Word × Word)} (h : ∀ c ∈ cs, kindGood c.1 = true ∧ kindReserved c.1 = true) (s : State) :
    kindsM cs s = .ok ((), s) := by
  have h1 : cs.find? (fun c => !kindGood c.1) = none := by rw [List.find?_eq_none]; intro c hc; simp [(h c hc).1]
  have h2 : cs.find? (fun c => !kindReserved c.1) = none := by rw [List.find?_eq_none]; intro c hc; simp [(h c hc).2]
  unfold kindsM
  rw [h1, h2]
  rfl

theorem kindsM_unassigned {cs : List (Word × Word)} {c : Word × Word} (h : cs.find? (fun c => !kindGood c.1) = some c) (s : State) :
    kindsM cs s = .error (.trap .illegal c.1) := by
  unfold kindsM
  rw [h]
  rfl

theorem kindsM_reserved {cs : List (Word × Word)} {c : Word × Word} (h : cs.find? (fun c => !kindGood c.1) = none)
    (h' : cs.find? (fun c => !kindReserved c.1) = some c) (s : State) : kindsM cs s = .error (.trap .illegal c.1) := by
  unfold kindsM
  rw [h, h']
  rfl

/-- The register numbers of a descriptor list. -/
def descRegs (n : BitVec 2) (f : Reg) : List Reg := (List.range (2 * (n.toNat + 1))).map fun i => BitVec.ofNat 5 (f.toNat + i)

/-- The descriptor list that a `WAIT` reads. -/
def State.descs (s : State) (n : BitVec 2) (f : Reg) : List (Word × Word) := descriptors ((descRegs n f).map s.srcReg)

/-- A `WAIT` reads its descriptor list as a chunk of its own. -/
theorem readDescs {s : State} {n : BitVec 2} {f t : Reg} (hp : s.Plain (t :: descRegs n f)) :
    readFrom f.toNat (2 * (n.toNat + 1)) s.alone = .ok ((descRegs n f).map s.srcReg, s.alone) := by
  have h := readFrom_plain (s := s.alone) f.toNat (2 * (n.toNat + 1)) (fun i hi =>
    hp (BitVec.ofNat 5 (f.toNat + i)) (List.mem_cons_of_mem _ (List.mem_map.mpr ⟨i, List.mem_range.mpr hi, rfl⟩)))
  rw [h, descRegs, List.map_map]
  rfl

/-- The list fits its registers (R34). -/
def descFits (n : BitVec 2) (f t : Reg) : Prop :=
  f.toNat + 2 * (n.toNat + 1) ≤ 32 ∧ (t.toNat < f.toNat ∨ f.toNat + 2 * (n.toNat + 1) ≤ t.toNat)

theorem descFits_legal {n : BitVec 2} {f t : Reg} (h : descFits n f t) : decide (f.toNat + 2 * (n.toNat + 1) ≤ 32) = true ∧
    (!(decide (f.toNat ≤ t.toNat) && decide (t.toNat < f.toNat + 2 * (n.toNat + 1)))) = true := by
  obtain ⟨h1, h2⟩ := h
  refine ⟨decide_eq_true h1, ?_⟩
  simp only [Bool.not_eq_true', Bool.and_eq_false_iff, decide_eq_false_iff_not]
  omega

/-- A `WAIT` once its list is judged: it takes what woke it, or looks for the first time. -/
def afterKinds (any : Bool) (cs : List (Word × Word)) (v : Word) (t : Reg) : Mark → M Unit
  | .value r => writeS t r
  | .none | .done | .left _ | .again | .trap _ _ => firstLookM any cs v t

/-- A `WAIT` up to its first evaluation. -/
theorem wait_run {s : State} {yld any : Bool} {n : BitVec 2} {f t : Reg} (hfits : descFits n f t) (hp : s.Plain (t :: descRegs n f))
    (hkinds : ∀ c ∈ s.descs n f, kindGood c.1 = true ∧ kindReserved c.1 = true ∧ (s.cur.kind ≠ .main → kindOf c.1 ≤ 4))
    (hhandler : s.me.ctx.inHandler = true → s.srcReg t = 0) (hyield : yld = false ∨ s.me.task = none) (hc : s.me.chunk.count = 0) :
    ∃ m, exec (.wait yld any n f t) s = runWord (.wait yld any n f t) m s ∧
      m s = afterKinds any (s.descs n f) (s.srcReg t) t s.me.mark s.alone := by
  obtain ⟨hpast, hout⟩ := descFits_legal hfits
  have ht : readS t s.alone = .ok (s.srcReg t, s.alone) := readS_plain (s := s.alone) (hp t (by simp))
  have hlimit : (!(s.alone.me.ctx.inHandler && s.srcReg t != 0)) = true := by
    cases hh : s.me.ctx.inHandler
    · rfl
    · rw [hhandler hh]; simp
  have hkind : (s.alone.cur.kind == .main || (s.descs n f).all fun c => decide (kindOf c.1 ≤ 4)) = true := by
    by_cases hm : s.cur.kind = .main
    · rw [show s.alone.cur.kind = .main from hm]; rfl
    · rw [Bool.or_eq_true]
      exact .inr (List.all_eq_true.mpr fun c hcs => decide_eq_true ((hkinds c hcs).2.2 hm))
  have hno : ¬ (yld && s.alone.me.task.isSome) = true := by
    rcases hyield with h | h
    · simp [h]
    · rw [show s.alone.me.task = none from h]; simp
  have hkm : kindsM (s.descs n f) s.alone = .ok ((), s.alone) := kindsM_good (fun c hcs => ⟨(hkinds c hcs).1, (hkinds c hcs).2.1⟩) _
  refine ⟨_, rfl, ?_⟩
  rw [bind_ok (legalM_ok hpast), bind_ok (legalM_ok hout), bind_ok (ownM_alone hc), bind_ok (readDescs hp)]
  rw [show descriptors ((descRegs n f).map s.srcReg) = s.descs n f from rfl, bind_ok hkm, bind_ok ht, bind_ok (getM_run _ _), bind_ok (legalM_ok hlimit), bind_ok (getM_run _ _), bind_ok (legalM_ok hkind),
    bind_ok (getM_run _ _), if_neg hno, bind_ok (getM_run _ _), show s.alone.me.mark = s.me.mark from rfl]
  cases s.me.mark <;> rfl

/-- The deadline of a `WAIT` with a limit (R36). -/
def State.deadline (s : State) (v : Word) : Option Nat := if v = BitVec.allOnes 64 then none else some (s.tick + v.toNat)

/-- The first evaluation ends the word, or puts its agent to sleep (R35, R36). -/
theorem firstLookM_cases {s u : State} {any : Bool} {cs : List (Word × Word)} {v : Word} {t : Reg} {bs : List Bool} (htried : s.unit.tried = false)
    (hconds : condsM cs s.alone = .ok (bs, u)) (hp : u.Plain [t]) :
    (modeMet any bs = true → firstLookM any cs v t s.alone = .ok ((), u.withReg t (waitResult bs false))) ∧
    (modeMet any bs = false → v = 0 → firstLookM any cs v t s.alone = .ok ((), u.withReg t (waitResult bs true))) ∧
    (modeMet any bs = false → v ≠ 0 → u.now = s.now → u.me.mark = .none →
      firstLookM any cs v t s.alone = .error (.sleep (.wait cs any (s.deadline v) (firstFalse cs bs)))) := by
  have hwrite : ∀ w, writeS t w u = .ok ((), u.withReg t w) := fun w => writeS_plain (hp.of_mem (by simp))
  have htry : u.unit.tried = false := (condsM_sameTry cs _ _ _ hconds).1.trans htried
  unfold firstLookM
  rw [bind_ok hconds]
  refine ⟨fun hm => ?_, fun hm hv => ?_, fun hm hv hnow hmark => ?_⟩
  · rw [if_pos hm]; exact hwrite _
  · rw [if_neg (by rw [hm]; exact Bool.false_ne_true), if_pos hv]; exact hwrite _
  · rw [if_neg (by rw [hm]; exact Bool.false_ne_true), if_neg hv, bind_ok (getM_run _ _), bind_ok (getM_run _ _), hmark]
    dsimp only
    rw [restM, htry, State.tick, hnow]
    unfold State.deadline
    by_cases hall : v = BitVec.allOnes 64
    · rw [if_pos hall, if_pos hall]; rfl
    · rw [if_neg hall, if_neg hall]; rfl

/-- A `WAIT` whose list does not fit its registers. -/
theorem wait_unfit {s : State} {yld any : Bool} {n : BitVec 2} {f t : Reg} (h : s.Ready (.wait yld any n f t)) (hfits : ¬ descFits n f t) :
    exec (.wait yld any n f t) s = .next (s.takeTrap .illegal (s.unit.word.zeroExtend 64)) := by
  refine exec_trap rfl h ?_
  by_cases hpast : f.toNat + 2 * (n.toNat + 1) ≤ 32
  · rw [bind_ok (legalM_ok (decide_eq_true hpast))]
    refine bind_error (legalM_error ?_)
    simp only [Bool.not_eq_false', Bool.and_eq_true, decide_eq_true_eq]
    unfold descFits at hfits
    omega
  · exact bind_error (legalM_error (decide_eq_false hpast))

/-- A `WAIT` whose list fits is judged as a chunk of its own. -/
theorem wait_judged {s : State} {yld any : Bool} {n : BitVec 2} {f t : Reg} (hfits : descFits n f t) (hp : s.Plain (t :: descRegs n f))
    (hc : s.me.chunk.count = 0) {c : Cause} {v : Word} (h : s.Ready (.wait yld any n f t))
    (hm : kindsM (s.descs n f) s.alone = .error (.trap c v) ∨
      (kindsM (s.descs n f) s.alone = .ok ((), s.alone) ∧ s.me.ctx.inHandler = true ∧ s.srcReg t ≠ 0 ∧ c = .illegal ∧
        v = s.unit.word.zeroExtend 64)) :
    exec (.wait yld any n f t) s = .next (s.takeTrap c v) := by
  obtain ⟨hpast, hout⟩ := descFits_legal hfits
  have ht : readS t s.alone = .ok (s.srcReg t, s.alone) := readS_plain (s := s.alone) (hp t (by simp))
  refine exec_trap rfl h ?_
  rw [bind_ok (legalM_ok hpast), bind_ok (legalM_ok hout), bind_ok (ownM_alone hc), bind_ok (readDescs hp)]
  change (kindsM (s.descs n f) >>= _) s.alone = _
  rcases hm with hk | ⟨hk, hin, hv, rfl, rfl⟩
  · exact bind_error hk
  · rw [bind_ok hk, bind_ok ht, bind_ok (getM_run _ _)]
    refine bind_error (legalM_error ?_)
    rw [show s.alone.me.ctx.inHandler = true from hin]
    simpa using hv

/-- Settles O41: `wait_run` takes a legal word to its first evaluation, `firstLookM_cases` says how that ends, and `wait_unfit` and `wait_judged` give
the traps. -/
theorem waiting : Obligations.Waiting := by
  unfold Obligations.Waiting
  refine ⟨fun s u yld any n f t bs => ?_, fun s yld any n f t => ?_⟩
  · intro k rs cs v h hf ht hp hkinds hhandler hyield hc
    obtain ⟨m, harm, hm⟩ := wait_run (yld := yld) (any := any) (n := n) (f := f) (t := t) ⟨hf, ht⟩ hp hkinds hhandler hyield hc
    refine ⟨fun hmark hconds hu => ?_, fun r hmark => exec_ok harm h ?_⟩
    · rw [hmark] at hm
      obtain ⟨hmet, hzero, hsleep⟩ := firstLookM_cases (any := any) (v := v) (t := t) h.2.2 hconds hu
      exact ⟨fun h1 => exec_ok harm h (hm.trans (hmet h1)), fun h1 h2 => exec_ok harm h (hm.trans (hzero h1 h2)),
        fun h1 h2 h3 h4 => exec_stop harm h (hm.trans (hsleep h1 h2 h3 h4))⟩
    · rw [hm, hmark]
      exact writeS_plain (s := s.alone) (hp t (by simp))
  · intro k rs cs fits traps h
    refine ⟨fun hno => wait_unfit h hno, fun hfits hc hp => ⟨fun c h1 => wait_judged hfits hp hc h (.inl (kindsM_unassigned h1 _)),
      fun c h1 h2 => wait_judged hfits hp hc h (.inl (kindsM_reserved h1 h2 _)), fun h1 h2 hin hv => wait_judged hfits hp hc h (.inr ⟨?_, hin, hv, rfl, rfl⟩)⟩⟩
    unfold kindsM
    rw [show (s.descs n f).find? (fun c => !kindGood c.1) = none from h1, show (s.descs n f).find? (fun c => !kindReserved c.1) = none from h2]
    rfl

end Sys2Proof.Machine
end

section
/-! What the work of groups (R174–R187) leaves alone: a node's slots, the packets on their way and the slack notes change, and nothing else. -/

namespace Sys2Proof.Machine

/-- What a fold of steps keeps that each step keeps. -/
theorem Composes.foldl {P : State → State → Prop} (hP : Composes P) {α : Type} {f : State → α → State} (hf : ∀ s x, P s (f s x)) (xs : List α)
    (s : State) : P s (xs.foldl f s) := by
  induction xs generalizing s with
  | nil => exact hP.refl s
  | cons x xs ih => exact hP.trans _ _ _ (hf s x) (ih _)

/-- A state without its group slots, what is on its way between devices and its plant. -/
def State.bare (s : State) : State := { s with groups := [], fab := { deadPorts := s.fab.deadPorts }, plant := {} }

/-- Nothing changed beside group slots, packets on their way and the plant. -/
def State.SameBare (s t : State) : Prop := t.bare = s.bare

theorem sameBare_composes : Composes State.SameBare := ⟨fun _ => rfl, fun _ _ _ h h' => h'.trans h⟩

theorem State.SameBare.mem {s t : State} (h : s.SameBare t) : t.mem = s.mem := (congrArg State.mem h : t.bare.mem = s.bare.mem)
theorem State.SameBare.jobs {s t : State} (h : s.SameBare t) : t.jobs = s.jobs := (congrArg State.jobs h : t.bare.jobs = s.bare.jobs)
theorem State.SameBare.me {s t : State} (h : s.SameBare t) : t.me = s.me := (congrArg State.me h : t.bare.me = s.bare.me)
theorem State.SameBare.others {s t : State} (h : s.SameBare t) : t.others = s.others :=
  (congrArg State.others h : t.bare.others = s.bare.others)
theorem State.SameBare.unit {s t : State} (h : s.SameBare t) : t.unit = s.unit := (congrArg State.unit h : t.bare.unit = s.bare.unit)

/-- A change of one slot. -/
theorem modGroup_bare (s : State) (key : Nat) (f : GSlot → GSlot) : s.SameBare (s.modGroup key f) := by
  unfold State.modGroup
  split <;> rfl

theorem launch_bare (s : State) (slk : Bool) (it : GItem) : s.SameBare (s.launch slk it) := by
  unfold State.launch
  split
  · rfl
  · dsimp only
    split <;> rfl

theorem killDown_bare (k key : Nat) (s : State) : s.SameBare (s.killDown k key) := by
  have hP := sameBare_composes
  induction k generalizing key s with
  | zero => exact hP.refl s
  | succ k ih =>
    unfold State.killDown
    split
    · exact hP.refl s
    · split
      · exact hP.refl s
      · dsimp only
        split
        · refine hP.trans _ _ _ (modGroup_bare s key _) (hP.foldl (fun u i => ?_) _ _)
          split
          · exact ih _ u
          · exact hP.refl u
        · exact modGroup_bare s key _

theorem killUp_bare (k key : Nat) (s : State) : s.SameBare (s.killUp k key) := by
  have hP := sameBare_composes
  induction k generalizing key s with
  | zero => exact hP.refl s
  | succ k ih =>
    unfold State.killUp
    split
    · exact hP.refl s
    · split
      · split
        · exact modGroup_bare s key _
        · exact hP.refl s
      · split
        · exact hP.refl s
        · dsimp only
          split
          · exact hP.trans _ _ _ (killDown_bare 4096 key s) (ih _ _)
          · exact killDown_bare 4096 key s

theorem pump_bare (key n : Nat) (s : State) : s.SameBare (s.pump key n) := by
  have hP := sameBare_composes
  induction n generalizing s with
  | zero => exact hP.refl s
  | succ n ih =>
    unfold State.pump
    split
    · exact hP.refl s
    · split
      · exact hP.refl s
      · split
        · exact hP.trans _ _ _ (hP.trans _ _ _ (modGroup_bare s key _) (launch_bare _ _ _)) (ih _)
        · split
          · exact hP.trans _ _ _ (modGroup_bare s key _) (ih _)
          · exact killDown_bare 4096 key s

theorem State.SameBare.trans {s t u : State} (h : s.SameBare t) (h' : t.SameBare u) : s.SameBare u := Eq.trans h' h

theorem groupDeath_bare (s : State) (key : Nat) (g : GSlot) : s.SameBare (s.groupDeath key g) := by
  have hdown : ∀ t : State, s.SameBare t → s.SameBare (t.killDown 4096 key) := fun t h => h.trans (killDown_bare _ _ _)
  have hup : ∀ t : State, s.SameBare t → s.SameBare (t.killUp 4096 key) := fun t h => h.trans (killUp_bare _ _ _)
  have hpump : ∀ n f, s.SameBare ((s.modGroup key f).pump key n) := fun n f => (modGroup_bare s key f).trans (pump_bare key n _)
  unfold State.groupDeath
  extract_lets lost relay marked pumped fab linked cut
  have hpumped : s.SameBare pumped := hpump _ _
  have hlinked : s.SameBare linked := by
    unfold linked
    split
    · split
      · exact hpumped
      · exact hdown _ hpumped
    · split
      · exact hpumped
      · split
        · exact hpumped
        · exact hdown _ hpumped
  split
  · exact hup _ hlinked
  · exact hlinked

theorem groupsDeath_bare (s : State) (gs : Tab GSlot) : s.SameBare (s.groupsDeath gs) := by
  refine sameBare_composes.foldl (fun u kg => ?_) _ _
  split
  · exact groupDeath_bare u kg.1 kg.2
  · exact sameBare_composes.refl u

end Sys2Proof.Machine
end

section
/-! Arrivals at `BAR` and `VOTE` (R40, R168, R278, R406). -/

namespace Sys2Proof.Machine

/-! ## Agents of a package -/

theorem AgentKind.ofCode_code (k : AgentKind) : AgentKind.ofCode k.code = some k := by cases k <;> rfl

theorem AgentId.key_injective {a b : AgentId} (h : a.key = b.key) : a = b := by
  obtain ⟨c, k⟩ := a
  obtain ⟨d, l⟩ := b
  have hk : k.code < 4 := by cases k <;> decide
  have hl : l.code < 4 := by cases l <;> decide
  simp only [AgentId.key] at h
  have hcode : k.code = l.code := by omega
  have hcore : c = d := by omega
  have hkind : k = l := Option.some.inj (by rw [← AgentKind.ofCode_code k, hcode, AgentKind.ofCode_code])
  rw [hcore, hkind]

/-- An agent replaced is no other agent. -/
theorem State.agent_setAgent_other {s : State} {a b : AgentId} (g : Agent) (h : a ≠ b) : (s.setAgent b g).agent a = s.agent a := by
  unfold State.setAgent State.agent
  split
  · next hb =>
    subst hb
    simp only [if_neg h]
  · split
    · rfl
    · rw [tabGet_tabSet_other _ _ (fun hk => h (AgentId.key_injective hk))]

@[simp] theorem State.setAgent_frame (s : State) (a : AgentId) (g : Agent) : (s.setAgent a g).mem = s.mem ∧ (s.setAgent a g).jobs = s.jobs := by
  unfold State.setAgent
  split <;> exact ⟨rfl, rfl⟩

/-- Agents changed one after another are no matter of memory or of jobs. -/
theorem foldl_modAgent_frame {α : Type} (f : α → AgentId) (r : α → Agent → Agent) (xs : List α) (s : State) :
    (xs.foldl (fun s x => s.modAgent (f x) (r x)) s).mem = s.mem ∧ (xs.foldl (fun s x => s.modAgent (f x) (r x)) s).jobs = s.jobs := by
  induction xs generalizing s with
  | nil => exact ⟨rfl, rfl⟩
  | cons x xs ih =>
    obtain ⟨hmem, hjobs⟩ := ih (s.modAgent (f x) (r x))
    obtain ⟨hmem', hjobs'⟩ := State.setAgent_frame s (f x) (r x (s.agent (f x)))
    exact ⟨hmem.trans hmem', hjobs.trans hjobs'⟩

/-! ## What an arrival does -/

/-- A strand may arrive outside its handlers (R278, R406). -/
theorem meetM_strand {s : State} {k : Sleep} {ready : State → Bool} {complete : State → State} (hc : s.me.chunk.count = 0)
    (ht : s.me.task = none) (hh : s.me.ctx.inHandler = false) :
    meetM k ready complete s = (if s.me.mark == .done then pure ()
      else do
        let s ← getM (·.arrive k)
        if ready s then modM fun _ => complete s else restM k (pure ()) : M Unit) s.alone := by
  unfold meetM
  rw [bind_ok (getM_run _ s), bind_ok (legalM_ok (by rw [ht, hh]; rfl)), bind_ok (ownM_alone hc)]

theorem meetM_illegal {s : State} {k : Sleep} {ready : State → Bool} {complete : State → State}
    (h : s.me.task ≠ none ∨ s.me.ctx.inHandler = true) : meetM k ready complete s = .error (.trap .illegal (s.unit.word.zeroExtend 64)) := by
  unfold meetM
  rw [bind_ok (getM_run _ s)]
  refine bind_error (legalM_error ?_)
  rw [Bool.and_eq_false_iff]
  rcases h with h | h
  · exact .inl (by simpa using Option.isSome_iff_ne_none.mpr h)
  · exact .inr (by rw [h]; rfl)

/-- A strand that has been released goes on. -/
theorem meetM_done {s : State} {k : Sleep} {ready : State → Bool} {complete : State → State} (hc : s.me.chunk.count = 0)
    (ht : s.me.task = none) (hh : s.me.ctx.inHandler = false) (hm : s.me.mark = .done) :
    meetM k ready complete s = .ok ((), s.alone) := by
  rw [meetM_strand hc ht hh, hm]
  rfl

/-- The last strand to arrive completes. -/
theorem meetM_last {s : State} {k : Sleep} {ready : State → Bool} {complete : State → State} (hc : s.me.chunk.count = 0)
    (ht : s.me.task = none) (hh : s.me.ctx.inHandler = false) (hm : s.me.mark = .none) (hr : ready (s.alone.arrive k) = true) :
    meetM k ready complete s = .ok ((), complete (s.alone.arrive k)) := by
  rw [meetM_strand hc ht hh, hm, if_neg (by decide), bind_ok (getM_run _ _), if_pos hr]
  rfl

/-- Every other strand goes to sleep. -/
theorem meetM_waits {s : State} {k : Sleep} {ready : State → Bool} {complete : State → State} (hc : s.me.chunk.count = 0)
    (ht : s.me.task = none) (hh : s.me.ctx.inHandler = false) (hm : s.me.mark = .none) (htry : s.unit.tried = false)
    (hr : ready (s.alone.arrive k) = false) : meetM k ready complete s = .error (.sleep k) := by
  rw [meetM_strand hc ht hh, hm, if_neg (by decide), bind_ok (getM_run _ _), hr, if_neg Bool.false_ne_true, restM,
    show s.alone.unit.tried = false from htry]
  rfl

/-- An arrival is noted with the job, and nowhere else. -/
theorem arrive_frame (s : State) (k : Sleep) (h : k = .bar ∨ k = .vote) : (s.arrive k).myJob = s.myJob ∧ (s.arrive k).me = s.me := by
  have hmod : ∀ f, (s.modJob s.myJob f).me = s.me := by intro f; unfold State.modJob; split <;> rfl
  rcases h with rfl | rfl
  · exact ⟨congrArg (fun g : Agent => jobKey g.asid g.job) (hmod _), hmod _⟩
  · exact ⟨congrArg (fun g : Agent => jobKey g.asid g.job) (hmod _), hmod _⟩

/-! ## Completion -/

/-- A job's change read back, where the job stands. -/
theorem job_modJob {s : State} {key : Nat} {j : Job} (f : Job → Job) (h : tabGet key s.jobs = some j) : (s.modJob key f).job key = f j := by
  rw [State.job, State.modJob_get f h]
  rfl

theorem released_done (g : Agent) : g.released.mark = .done ∧ (∀ n, g.act = .asleep .bar n → g.released.act = .running) ∧
    (g.act = .running → g.released.act = .running) := by
  unfold Agent.released
  cases g.act with
  | asleep k n =>
    refine ⟨?_, fun n' h => ?_, fun h => nomatch h⟩
    · cases k <;> rfl
    · cases h; rfl
  | idle | stopped | retired =>
    refine ⟨rfl, fun n h => ?_, fun h => ?_⟩ <;> cases h
  | running =>
    refine ⟨rfl, fun n h => ?_, fun _ => rfl⟩
    cases h

/-- Every agent of a list is released; what another agent has come to stays. -/
theorem foldl_released (xs : List AgentId) (s : State) (a : AgentId) :
    ((s.agent a).mark = .done → ((xs.foldl (fun s a => s.modAgent a Agent.released) s).agent a).mark = .done) ∧
    ((s.agent a).act = .running → ((xs.foldl (fun s a => s.modAgent a Agent.released) s).agent a).act = .running) ∧
    (a ∈ xs → ((xs.foldl (fun s a => s.modAgent a Agent.released) s).agent a).mark = .done ∧
      ((∃ n, (s.agent a).act = .asleep .bar n) → ((xs.foldl (fun s a => s.modAgent a Agent.released) s).agent a).act = .running)) := by
  induction xs generalizing s with
  | nil => exact ⟨id, id, fun h => by cases h⟩
  | cons x xs ih =>
    obtain ⟨hmark, hact, hin⟩ := ih (s.modAgent x Agent.released)
    rw [List.foldl_cons]
    by_cases hx : a = x
    · subst hx
      obtain ⟨hdone, hasleep, hrun⟩ := released_done (s.agent a)
      have hread : (s.modAgent a Agent.released).agent a = (s.agent a).released := State.agent_setAgent s a _
      rw [hread] at hmark hact
      exact ⟨fun _ => hmark hdone, fun h => hact (hrun h), fun _ => ⟨hmark hdone, fun ⟨n, hn⟩ => hact (hasleep n hn)⟩⟩
    · have hread : (s.modAgent x Agent.released).agent a = s.agent a := State.agent_setAgent_other _ hx
      rw [hread] at hmark hact hin
      refine ⟨hmark, hact, fun h => hin ?_⟩
      rcases List.mem_cons.mp h with h | h
      · exact absurd h hx
      · exact h

/-- A job at whose barrier or vote strands have arrived stands. -/
theorem job_stands {s : State} {key : Nat} (h : s.job key ≠ {}) : ∃ j, tabGet key s.jobs = some j ∧ s.job key = j := by
  unfold State.job at h ⊢
  cases hj : tabGet key s.jobs with
  | none => rw [hj] at h; exact absurd rfl h
  | some j => exact ⟨j, rfl, rfl⟩

theorem barReady_stands {s : State} {job gang : Nat} (h : s.barReady job gang = true) : ∃ j, tabGet job s.jobs = some j ∧ s.job job = j := by
  refine job_stands fun hj => ?_
  unfold State.barReady at h
  rw [hj] at h
  simp only [Bool.and_eq_true, bne_iff_ne, ne_eq, List.all_eq_true] at h
  obtain ⟨hne, hall⟩ := h
  obtain ⟨x, hx⟩ := List.exists_mem_of_ne_nil _ hne
  exact absurd (hall x hx) (by simp [tabGet])

theorem voteReady_stands {s : State} {job : Nat} (h : s.voteReady job = true) : ∃ j, tabGet job s.jobs = some j ∧ s.job job = j := by
  refine job_stands fun hj => ?_
  unfold State.voteReady at h
  rw [hj] at h
  simp only [Bool.and_eq_true, bne_iff_ne, ne_eq, List.all_eq_true] at h
  obtain ⟨⟨hne, hall⟩, -⟩ := h
  obtain ⟨x, hx⟩ := List.exists_mem_of_ne_nil _ hne
  exact absurd (hall x hx) (by simp)

/-- A barrier that completes releases its strands, and changes no memory. -/
theorem completeBar_spec {s : State} {job gang : Nat} (h : s.barReady job gang = true) : (s.completeBar job gang).mem = s.mem ∧
    ((s.completeBar job gang).job job).bars = tabDel gang (s.job job).bars ∧
    ∀ a ∈ (tabGet gang (s.job job).bars).getD [], ((s.completeBar job gang).agent a).mark = .done ∧
      ((∃ n, (s.agent a).act = .asleep .bar n) → ((s.completeBar job gang).agent a).act = .running) := by
  obtain ⟨j, hj, hjob⟩ := barReady_stands h
  have hmod : ∀ f : Job → Job, s.modJob job f = { s with jobs := tabSet job (f j) s.jobs } := fun f => by rw [State.modJob, hj]
  obtain ⟨hmem, hjobs⟩ := foldl_modAgent_frame (fun a : AgentId => a) (fun _ => Agent.released) ((tabGet gang (s.job job).bars).getD [])
    (s.modJob job fun j => { j with bars := tabDel gang j.bars })
  refine ⟨?_, ?_, fun a ha => ?_⟩
  · exact hmem.trans (by rw [hmod])
  · have hread := job_modJob (fun j => { j with bars := tabDel gang j.bars }) hj
    rw [hjob]
    have : (s.completeBar job gang).job job = (s.modJob job fun j => { j with bars := tabDel gang j.bars }).job job := by
      rw [State.job, State.job]
      exact congrArg (fun m => (tabGet job m).getD {}) hjobs
    rw [this, hread]
  · have hagent : (s.modJob job fun j => { j with bars := tabDel gang j.bars }).agent a = s.agent a := by rw [hmod]; rfl
    have hin := (foldl_released ((tabGet gang (s.job job).bars).getD []) (s.modJob job fun j => { j with bars := tabDel gang j.bars }) a).2.2 ha
    rw [hagent] at hin
    exact hin

/-- The span that a vote leaves (R40, R168). -/
def State.votedSpan (s : State) (job : Nat) : Span :=
  ((s.job job).span.commit (mergeStaged ((s.strands job).map (·.2.ctx.staged)))).tally
    (mergeStaged ((s.strands job).map (·.2.ctx.staged))) ((s.placed job).filterMap (·.2.ctx.rpart))

/-- What a vote commits: the span's registers, with the phase's tally; no memory changes. -/
theorem commitStaged_spec {s : State} {job : Nat} {j : Job} (hj : tabGet job s.jobs = some j) : (s.commitStaged job).mem = s.mem ∧
    (s.commitStaged job).job job = { j with votes := [], span := s.votedSpan job } := by
  unfold State.commitStaged
  extract_lets xs merged parts grouped counted fresh opened
  have hgrouped : tabGet job grouped.jobs = some j := hj
  have hcounted : counted.mem = s.mem := by
    unfold counted State.modJob
    rw [hgrouped]
  have hjob : opened.job job = { j with votes := [], span := s.votedSpan job } := by
    refine (job_modJob _ hgrouped).trans ?_
    unfold State.votedSpan State.job
    rw [hj]
    rfl
  constructor
  · exact (foldl_modAgent_frame (fun ag : AgentId × Agent => ag.1) _ _ _).1.trans hcounted
  · rw [State.job, (foldl_modAgent_frame (fun ag : AgentId × Agent => ag.1) _ _ _).2]
    exact hjob

/-- The lowest core's wish stands (R40). -/
theorem mergeStaged_pair (x y : Staged) : (∀ v, x.resTol = some v → (mergeStaged [x, y]).resTol = some v) ∧
    (x.resTol = none → (mergeStaged [x, y]).resTol = y.resTol) ∧ ((mergeStaged [x, y]).cycEnd = true ↔ x.cycEnd = true ∨ y.cycEnd = true) := by
  refine ⟨fun v h => ?_, fun h => ?_, ?_⟩
  · simp [mergeStaged, h]
  · simp [mergeStaged, h]
  · simp [mergeStaged]

/-- Settles O42: `meetM` by its cases for the words, `completeBar_spec` and `commitStaged_spec` for the events. -/
theorem arrivals : Obligations.Arrivals := by
  unfold Obligations.Arrivals
  refine ⟨fun s la hc ht hh => ⟨fun h hm => exec_ok rfl h (meetM_done hc ht hh hm), fun h hm => exec_ok rfl h (meetM_done hc ht hh hm),
      fun h hm hr => ?bar, fun h hm hr => ?barWaits, fun h hm hr => ?vote, fun h hm hr => ?voteWaits⟩,
    fun s la hno => ⟨fun h => exec_trap rfl h (meetM_illegal hno), fun h => exec_trap rfl h (meetM_illegal hno)⟩,
    fun s asid job gang hr => ?barEvent, fun s asid job hr => ?voteEvent, fun s asid job hr hfence => ?voteSpec, mergeStaged_pair⟩
  case bar =>
    obtain ⟨hjob, hme⟩ := arrive_frame s.alone .bar (.inl rfl)
    refine exec_ok rfl h ((meetM_last hc ht hh hm ?_).trans ?_)
    · rw [hjob, hme]; exact hr
    · rw [hjob, hme]; rfl
  case barWaits =>
    obtain ⟨hjob, hme⟩ := arrive_frame s.alone .bar (.inl rfl)
    exact exec_stop rfl h (meetM_waits hc ht hh hm h.2.2 (by rw [hjob, hme]; exact hr))
  case vote =>
    obtain ⟨hjob, -⟩ := arrive_frame s.alone .vote (.inr rfl)
    refine exec_ok rfl h ((meetM_last hc ht hh hm ?_).trans ?_)
    · rw [hjob]; exact hr
    · rw [hjob]; rfl
  case voteWaits =>
    obtain ⟨hjob, -⟩ := arrive_frame s.alone .vote (.inr rfl)
    exact exec_stop rfl h (meetM_waits hc ht hh hm h.2.2 (by rw [hjob]; exact hr))
  case barEvent => exact ⟨_, congrArg Host.Outcome.next (if_pos hr), completeBar_spec hr⟩
  case voteEvent => exact congrArg Host.Outcome.next (if_pos hr)
  case voteSpec =>
    obtain ⟨j, hj, hjob⟩ := voteReady_stands hr
    obtain ⟨hmem, hvoted⟩ := commitStaged_spec hj
    have hcommit : ∃ gs, s.commitVote (jobKey asid job) = (s.commitStaged (jobKey asid job)).groupsDeath gs := by
      unfold State.commitVote
      by_cases hf : s.fenceStaged (jobKey asid job) = true
      · rw [if_pos hf, hfence hf]; exact ⟨_, rfl⟩
      · rw [if_neg hf]; exact ⟨_, rfl⟩
    obtain ⟨gs, hgs⟩ := hcommit
    have hbare := groupsDeath_bare (s.commitStaged (jobKey asid job)) gs
    have hread : (s.commitVote (jobKey asid job)).job (jobKey asid job) = { j with votes := [], span := s.votedSpan (jobKey asid job) } := by
      rw [← hvoted, hgs, State.job, State.job, hbare.jobs]
    refine ⟨_, congrArg Host.Outcome.next (if_pos hr), ?_, ?_, ?_⟩
    · rw [hgs, hbare.mem, hmem]
    · rw [hread]
    · rw [hread]; rfl

end Sys2Proof.Machine
end

section
/-! The cycle unit and its words (R159–R173, R290–R292, R357, R420). -/

namespace Sys2Proof.Machine

/-! ## The tally (R168, R169) -/

/-- A run that ends is at IDLE, with its outcome in `MGSTAT`. -/
theorem finish_spec (p : Span) {how : Nat} (h : how < 4) : (p.finish how).ph = 0 ∧ (p.finish how).mgstat.toNat % 4 = how := by
  refine ⟨rfl, ?_⟩
  unfold Span.finish
  simp only [BitVec.toNat_ofNat]
  omega

/-- At IDLE only a staged `CYCBEG` acts. -/
theorem tally_idle {p : Span} (x : Staged) (parts : List W32) (h : p.ph = 0) : (x.cycBeg = none → p.tally x parts = p) ∧
    ∀ d, x.cycBeg = some d → p.tally x parts = { p with cycn := 0, rspan := 0, dir := d, ph := 1 } := by
  unfold Span.tally
  dsimp only
  rw [if_pos h]
  exact ⟨fun hb => by rw [hb], fun d hb => by rw [hb]⟩

/-- Nothing staged stops a run. -/
theorem staged_goes {x : Staged} (he : x.cycEnd = false) (hp : x.cycPh = none) :
    (x.cycEnd || (x.cycPh.map fun v => BitVec.ofNat 2 v.toNat) == some (0 : BitVec 2)) = false := by
  rw [he, hp]; rfl

/-- FINE and COARSE pass on, unless something stops them. -/
theorem tally_running {p : Span} (x : Staged) (parts : List W32) (h : p.ph = 1 ∨ p.ph = 2) :
    p.tally x parts = if x.cycEnd || (x.cycPh.map fun v => BitVec.ofNat 2 v.toNat) == some (0 : BitVec 2) then p.finish 3
      else { p with ph := (x.cycPh.map fun v => BitVec.ofNat 2 v.toNat).getD (p.ph + 1) } := by
  unfold Span.tally
  dsimp only
  rw [if_neg, if_neg]
  · rcases h with h | h <;> rw [h] <;> decide
  · rcases h with h | h <;> rw [h] <;> decide

/-- The span with the residual of a cycle tallied. -/
def Span.counted (p : Span) (parts : List W32) : Span := { p with rspan := foldPartials parts, cycn := p.cycn + 1 }

/-- At RESID the residual is tallied first. -/
theorem tally_resid {p : Span} (x : Staged) (parts : List W32) (h : p.ph = 3) :
    p.tally x parts = if fRel .fp32 .le (foldPartials parts).toNat p.tol.toNat then (p.counted parts).finish 1
      else if (if p.lim = 0 then 65535 else p.lim.toNat) ≤ (p.cycn + 1).toNat then (p.counted parts).finish 2
      else if x.cycEnd || (x.cycPh.map fun v => BitVec.ofNat 2 v.toNat) == some (0 : BitVec 2) then (p.counted parts).finish 3
      else { p.counted parts with ph := (x.cycPh.map fun v => BitVec.ofNat 2 v.toNat).getD 1 } := by
  unfold Span.tally
  dsimp only
  rw [if_neg (by rw [h]; decide), if_pos h]
  rfl

theorem tally_spec (p : Span) (x : Staged) (parts : List W32) :
    (p.ph = 0 → x.cycBeg = none → p.tally x parts = p) ∧
    (∀ d, p.ph = 0 → x.cycBeg = some d → p.tally x parts = { p with cycn := 0, rspan := 0, dir := d, ph := 1 }) ∧
    ((p.ph = 1 ∨ p.ph = 2) → x.cycEnd = false → x.cycPh = none → p.tally x parts = { p with ph := p.ph + 1 }) ∧
    ((p.ph = 1 ∨ p.ph = 2) → x.cycEnd = true → (p.tally x parts).ph = 0 ∧ (p.tally x parts).mgstat.toNat % 4 = 3) ∧
    (p.ph = 3 → fRel .fp32 .le (foldPartials parts).toNat p.tol.toNat = true →
      (p.tally x parts).ph = 0 ∧ (p.tally x parts).mgstat.toNat % 4 = 1 ∧ (p.tally x parts).rspan = foldPartials parts ∧
        (p.tally x parts).cycn = p.cycn + 1) ∧
    (p.ph = 3 → fRel .fp32 .le (foldPartials parts).toNat p.tol.toNat = false → p.lim ≠ 0 → p.lim.toNat ≤ (p.cycn + 1).toNat →
      (p.tally x parts).ph = 0 ∧ (p.tally x parts).mgstat.toNat % 4 = 2) ∧
    (p.ph = 3 → fRel .fp32 .le (foldPartials parts).toNat p.tol.toNat = false → (p.cycn + 1).toNat < p.lim.toNat → x.cycEnd = false →
      x.cycPh = none → p.tally x parts = { p with rspan := foldPartials parts, cycn := p.cycn + 1, ph := 1 }) := by
  refine ⟨fun h hb => ?_, fun d h hb => ?_, fun h he hp => ?_, fun h he => ?_, fun h hr => ?_, fun h hr hl hlim => ?_, fun h hr hlim he hp => ?_⟩
  · exact (tally_idle x parts h).1 hb
  · exact (tally_idle x parts h).2 d hb
  · rw [tally_running x parts h, staged_goes he hp, hp]; rfl
  · rw [tally_running x parts h, he, Bool.true_or, if_pos rfl]
    exact finish_spec p (by decide)
  · rw [tally_resid x parts h, if_pos hr]
    obtain ⟨hph, hout⟩ := finish_spec (p.counted parts) (how := 1) (by decide)
    exact ⟨hph, hout, rfl, rfl⟩
  · rw [tally_resid x parts h, hr, if_neg Bool.false_ne_true, if_neg hl, if_pos hlim]
    exact finish_spec _ (by decide)
  · have hl : p.lim ≠ 0 := by
      intro h0
      rw [h0] at hlim
      exact absurd hlim (Nat.not_lt_zero _)
    rw [tally_resid x parts h, hr, if_neg Bool.false_ne_true, if_neg hl, if_neg (by omega), staged_goes he hp, hp]
    rfl

/-! ## The words -/

theorem strandM_ok {s : State} (ht : s.me.task = none) (hu : s.me.ctx.uiin = false) : strandM s = .ok ((), s) := by
  unfold strandM
  rw [bind_ok (getM_run _ s)]
  exact legalM_ok (by rw [ht, hu]; rfl)

theorem strandM_error {s : State} (h : s.me.task ≠ none ∨ s.me.ctx.uiin = true) :
    strandM s = .error (.trap .illegal (s.unit.word.zeroExtend 64)) := by
  unfold strandM
  rw [bind_ok (getM_run _ s)]
  refine legalM_error ?_
  rw [Bool.and_eq_false_iff]
  rcases h with h | h
  · exact .inl (by simpa using Option.isSome_iff_ne_none.mpr h)
  · exact .inr (by rw [h]; rfl)

/-- A word of a strand that stages its wish in the phase `good` names. -/
def stagingM (good : BitVec 2 → Bool) (f : Staged → Staged) : M Unit := do
  strandM
  legalM (good (← getM (·.mySpan.ph)))
  stagedM f

theorem stagingM_ok {s : State} {good : BitVec 2 → Bool} (f : Staged → Staged) (ht : s.me.task = none) (hu : s.me.ctx.uiin = false)
    (hg : good s.mySpan.ph = true) : stagingM good f s = .ok ((), s.modCtx fun c => { c with staged := f c.staged }) := by
  unfold stagingM
  rw [bind_ok (strandM_ok ht hu), bind_ok (getM_run _ s), bind_ok (legalM_ok hg)]
  rfl

theorem stagingM_error {s : State} {good : BitVec 2 → Bool} (f : Staged → Staged)
    (h : good s.mySpan.ph = false ∨ s.me.task ≠ none ∨ s.me.ctx.uiin = true) :
    stagingM good f s = .error (.trap .illegal (s.unit.word.zeroExtend 64)) := by
  unfold stagingM
  by_cases hs : s.me.task ≠ none ∨ s.me.ctx.uiin = true
  · exact bind_error (strandM_error hs)
  · rw [not_or, not_not, Bool.not_eq_true] at hs
    rw [bind_ok (strandM_ok hs.1 hs.2), bind_ok (getM_run _ s)]
    refine bind_error (legalM_error ?_)
    rcases h with h | h
    · exact h
    · rcases h with h | h
      · exact absurd hs.1 h
      · rw [hs.2] at h; cases h

/-- Settles O43: `tally_spec` for the unit, `stagingM` for the words that stage. -/
theorem cycleUnit : Obligations.CycleUnit := by
  unfold Obligations.CycleUnit
  refine ⟨tally_spec, fun s la d b bwd tol => ⟨fun h => ⟨fun hr ht hu => exec_ok rfl hr (stagingM_ok (good := (· == 0)) _ ht hu (beq_iff_eq.mpr h)), fun hr ht hu => exec_ok rfl hr (stagingM_ok (good := (· == 0)) _ ht hu (beq_iff_eq.mpr h))⟩,
    fun h hr ht hu => exec_ok rfl hr (stagingM_ok (good := (· != 0)) _ ht hu (bne_iff_ne.mpr h)),
    fun h => ⟨fun hr => exec_trap rfl hr (stagingM_error (good := (· == 0)) _ (h.imp_left beq_eq_false_iff_ne.mpr)), fun hr => exec_trap rfl hr (stagingM_error (good := (· == 0)) _ (h.imp_left beq_eq_false_iff_ne.mpr))⟩,
    fun h hr => exec_trap rfl hr (stagingM_error (good := (· != 0)) _ (h.imp_left fun hz => by simp [hz])),
    fun hr hp => exec_ok rfl hr ?cycstat, fun hr hp => exec_ok rfl hr ?restst⟩⟩
  case cycstat =>
    rw [bind_ok (getM_run _ s), writeS_plain (hp.of_mem (by simp))]
    cases ht : s.me.task with
    | none => rfl
    | some v => rfl
  case restst =>
    have hd : ∀ v, writeS d v s = .ok ((), s.withReg d v) := fun v => writeS_plain (hp.of_mem (by simp))
    have hmet : ∀ x, boolWord (s.me.task.isNone && fRel .fp32 .le s.mySpan.rspan.toNat x) =
        if s.me.task = none ∧ fRel .fp32 .le s.mySpan.rspan.toNat x = true then 1 else 0 := by
      intro x
      cases s.me.task <;> cases fRel .fp32 .le s.mySpan.rspan.toNat x <;> rfl
    cases tol
    · rw [if_neg Bool.false_ne_true, bind_ok (readS_plain (hp.of_mem (r := b) (by simp)))]
      dsimp only
      rw [bind_ok (pure_run _ s), bind_ok (getM_run _ s), hd, hmet]
      rfl
    · rw [if_pos rfl, bind_ok (getM_run _ s)]
      dsimp only
      rw [bind_ok (getM_run _ s), hd, hmet]
      rfl

end Sys2Proof.Machine
end

section
/-! O44: where a suspended task resumes (R330, R376). -/

namespace Sys2Proof.Machine

/-- A task at the bundle of pointer 0 whose word 0 was a `LOOP` over one more bundle with a count of 0, and whose word 1 is now run. -/
def skipping : State :=
  { State.reset with me := { ctx := { loopReq := [⟨⟨1, 8, 8⟩, some 0⟩] } }, unit := { second := true } }

/-- It resumes behind the body that the `LOOP` skips, not at the bundle after its own. -/
theorem skipping_resumeAt : skipping.resumeAt = 16 ∧ skipping.bundleAt skipping.me.ctx.pc 1 = 8 := by decide +kernel

/-- Refutes O44: a task suspended in word 1 of a bundle whose word 0 is a `LOOP` with a count of 0 resumes behind the skipped body (R330), not at the
next bundle, and the clause on `resumeAt` does not exclude a `LOOP` of the same bundle. -/
theorem not_tasks : ¬ Obligations.Tasks := by
  unfold Obligations.Tasks
  rintro ⟨-, -, -, -, hresume, -⟩
  obtain ⟨-, -, -, -, -, hnext⟩ := hresume skipping 0 0 []
  obtain ⟨hleft, hright⟩ := skipping_resumeAt
  rw [hleft, hright] at hnext
  exact absurd (hnext (Or.inr rfl)) (by decide)

end Sys2Proof.Machine
end

section
/-! O45: publication of jobs (R137, R138) and the matrix licence (R146, R328, R329). -/

namespace Sys2Proof.Machine

/-! ## Publication -/

/-- A cluster with an entry behind its queue, and its publication counted (R138). -/
def Cluster.withEntry (c : Cluster) (q : QJob) : Cluster :=
  { c with queue := c.queue ++ [q], pubs := c.pubs + 1, entered := c.entered + 1, hist := (⟨q.key, q.id, none⟩ :: c.hist).take 256 }

theorem enqueue_full {s : State} (copy : Bool) (p : Word) (ws : List Word) (h : 64 ≤ s.queueUsed (clusterOf s.cur.core)) :
    s.enqueue copy p ws = none := if_pos h

theorem enqueue_room {s : State} (copy : Bool) (p : Word) (ws : List Word) (h : s.queueUsed (clusterOf s.cur.core) < 64) :
    s.enqueue copy p ws =
      let q := s.newQ copy p ws
      let t := s.modCluster (clusterOf s.cur.core) fun c => c.withEntry q
      some (if q.readyAtOnce then t.readyQ (clusterOf s.cur.core) q else t, q.id) := if_neg (by omega)

/-- With no request pending, the automatic changes of a licence are changes of its pair. -/
theorem licFree_quiet {s : State} {p : Nat} (hl : (s.pair p).reqL = none) (hu : (s.pair p).reqU = none) :
    s.licFree p = s.modPair p fun x => { x with
      holder := if s.engineWork p then some false else if s.engineWork (p + 256) then some true else none, moving := none, pins := [] } := by
  simp only [State.licFree, hl, hu]

theorem licSettle_quiet {s : State} {p : Nat} (hl : (s.pair p).reqL = none) (hu : (s.pair p).reqU = none) :
    ∃ ps, s.licSettle p = { s with pairs := ps } := by
  unfold State.licSettle
  dsimp only
  split
  · exact ⟨s.pairs, rfl⟩
  · split
    · exact ⟨_, licFree_quiet hl hu⟩
    · split
      · exact ⟨_, licFree_quiet hl hu⟩
      · exact ⟨s.pairs, rfl⟩

/-- The entry of a key changed where no entry before it has that key. -/
theorem modQ_last {s : State} {k : Nat} {qs : List QJob} {q : QJob} (f : QJob → QJob) (hq : (s.cluster k).queue = qs ++ [q])
    (hne : ∀ y ∈ qs, y.key ≠ q.key) : ((s.modQ k q.key f).cluster k).queue = qs ++ [f q] := by
  have hmap : (qs.map fun y => if y.key = q.key then f y else y) = qs := by
    conv_rhs => rw [← List.map_id qs]
    exact List.map_congr_left fun y hy => if_neg (hne y hy)
  simp only [State.modQ, State.cluster_modCluster, hq, List.map_append, hmap, List.map_cons, List.map_nil, if_true]

/-- An entry that becomes READY with no request pending changes in its cluster, and the licence of its pair at most. -/
theorem readyQ_last {s : State} {k : Nat} {qs : List QJob} {q : QJob} (hq : (s.cluster k).queue = qs ++ [q])
    (hne : ∀ y ∈ qs, y.key ≠ q.key) (hl : (s.pair (pairOf k)).reqL = none) (hu : (s.pair (pairOf k)).reqU = none) :
    ((s.readyQ k q).cluster k).queue = qs ++ [{ q with st := .ready }] ∧ ((s.readyQ k q).cluster k).pubs = (s.cluster k).pubs ∧
      (s.readyQ k q).me = s.me ∧ (s.readyQ k q).mem = s.mem ∧ (s.readyQ k q).others = s.others := by
  have hqueue := modQ_last (fun q => { q with st := .ready }) hq hne
  have hpubs : ((s.modQ k q.key fun q => { q with st := .ready }).cluster k).pubs = (s.cluster k).pubs := by
    simp only [State.modQ, State.cluster_modCluster]
  unfold State.readyQ
  dsimp only
  split
  · exact ⟨hqueue, hpubs, rfl, rfl, rfl⟩
  · obtain ⟨ps, hps⟩ := licSettle_quiet (s := s.modQ k q.key fun q => { q with st := .ready }) (p := pairOf k) hl hu
    rw [hps]
    exact ⟨hqueue, hpubs, rfl, rfl, rfl⟩

/-- When an entry is READY at once. -/
theorem readyAtOnce_iff (q : QJob) : q.readyAtOnce = true ↔ q.ncond = 0 ∨ 5 ≤ q.ncond := by
  simp [QJob.readyAtOnce, Nat.succ_le_iff]

/-- A publication with room, with no request of the licence pending. -/
theorem enqueue_spec {s : State} (copy : Bool) (p : Word) (ws : List Word) (hroom : s.queueUsed (clusterOf s.cur.core) < 64)
    (hne : ∀ y ∈ (s.cluster (clusterOf s.cur.core)).queue, y.key ≠ (s.newQ copy p ws).key)
    (hl : (s.pair (pairOf (clusterOf s.cur.core))).reqL = none) (hu : (s.pair (pairOf (clusterOf s.cur.core))).reqU = none) :
    let k := clusterOf s.cur.core
    let q := s.newQ copy p ws
    ∃ t, s.enqueue copy p ws = some (t, q.id) ∧
      (t.cluster k).queue = (s.cluster k).queue ++ [{ q with st := if q.ncond = 0 ∨ 5 ≤ q.ncond then .ready else .waiting }] ∧
      (t.cluster k).pubs = (s.cluster k).pubs + 1 ∧ t.me = s.me ∧ t.mem = s.mem ∧ t.others = s.others := by
  intro k q
  have hin : ((s.modCluster k fun c => c.withEntry q).cluster k).queue = (s.cluster k).queue ++ [q] ∧
      ((s.modCluster k fun c => c.withEntry q).cluster k).pubs = (s.cluster k).pubs + 1 := by
    simp only [State.cluster_modCluster, Cluster.withEntry, and_self]
  refine ⟨_, enqueue_room copy p ws hroom, ?_⟩
  by_cases hr : q.readyAtOnce = true
  · obtain ⟨hqueue, hpubs, hme, hmem, hothers⟩ := readyQ_last hin.1 hne hl hu
    rw [if_pos hr, if_pos ((readyAtOnce_iff q).mp hr)]
    exact ⟨hqueue, hpubs.trans hin.2, hme, hmem, hothers⟩
  · rw [if_neg hr, if_neg (fun h => hr ((readyAtOnce_iff q).mpr h))]
    exact ⟨hin.1, hin.2, rfl, rfl, rfl⟩

/-- The end of a publication: the id in d, or 0 where no entry is free. -/
theorem publishM_full {s : State} {copy : Bool} {d : Reg} {p : Word} {ws : List Word} (hd : s.me.ctx.bindOf d.toNat = none)
    (h : 64 ≤ s.queueUsed (clusterOf s.cur.core)) : publishM copy d p ws s = .ok ((), s.withReg d 0) := by
  unfold publishM
  rw [bind_ok (getM_run _ s), enqueue_full copy p ws h]
  exact writeS_plain hd

theorem publishM_room {s t : State} {copy : Bool} {d : Reg} {p : Word} {ws : List Word} {id : Nat} (hd : s.me.ctx.bindOf d.toNat = none)
    (h : s.enqueue copy p ws = some (t, id)) (hme : t.me = s.me) :
    publishM copy d p ws s = .ok ((), t.withReg d (BitVec.ofNat 64 id)) := by
  unfold publishM
  rw [bind_ok (getM_run _ s), h]
  dsimp only
  rw [bind_ok (modM_run _ s)]
  exact writeS_plain (hme ▸ hd)

/-- What a publication leaves, by how many entries of the queue are in use. -/
def Publishes (s : State) (copy : Bool) (d : Reg) (ws : List Word) (r : Host.Outcome State Fault Refusal) : Prop :=
  let k := clusterOf s.cur.core
  let c := s.cluster k
  let x := s.pair (pairOf k)
  (s.queueUsed k < 64 → (∀ y ∈ c.queue, y.key ≠ c.pubs * 512 + k) → x.reqL = none → x.reqU = none →
    let id := 2 ^ 31 + 2 ^ 29 * bitNat copy + k * 2 ^ 20 + c.pubs % 2 ^ 20
    let ncond := if copy then wbits (wordAt ws 0) 3 3 else wbits (wordAt ws 0) 14 3
    ∃ t q, r = .next t ∧ (t.cluster k).queue = c.queue ++ [q] ∧ q.id = id ∧ q.copy = copy ∧
      q.st = (if ncond = 0 ∨ 5 ≤ ncond then JobSt.ready else JobSt.waiting) ∧
      q.words = ws ∧ q.pub = s.cur ∧ q.asid = s.me.asid ∧ q.job = s.me.job ∧
      (t.cluster k).pubs = c.pubs + 1 ∧ t.me.ctx = s.me.ctx.setReg d (BitVec.ofNat 64 id) ∧ t.mem = s.mem ∧ t.others = s.others) ∧
  (64 ≤ s.queueUsed k → r = .next (s.alone.withReg d 0))

/-- A word that ends in a publication after its record is read. -/
theorem published {s : State} {i : Instr} {m : M Unit} {copy : Bool} {d : Reg} {p : Word} {ws : List Word} (harm : exec i s = runWord i m s)
    (h : s.Ready i) (hd : s.me.ctx.bindOf d.toNat = none) (hm : m s = publishM copy d p ws s.alone) : Publishes s copy d ws (exec i s) := by
  refine ⟨fun hroom hne hl hu => ?_, fun hfull => exec_ok harm h (hm.trans (publishM_full hd hfull))⟩
  obtain ⟨t, ht, hqueue, hpubs, hme, hmem, hothers⟩ := enqueue_spec (s := s.alone) copy p ws hroom hne hl hu
  refine ⟨_, _, exec_ok harm h (hm.trans (publishM_room hd ht hme)), hqueue, rfl, rfl, rfl, rfl, rfl, rfl, rfl, hpubs, ?_, hmem, hothers⟩
  show t.me.ctx.setReg d _ = _
  rw [hme]
  rfl

/-! ## The matrix licence -/

theorem licenceM_ok {b : Bool} {s : State} (h : b = true) : licenceM b s = .ok ((), s) := by simp [licenceM, h]

theorem licenceM_error {b : Bool} {s : State} (h : b = false) :
    licenceM b s = .error (.trap .licence (s.unit.word.zeroExtend 64)) := by simp [licenceM, h]

@[simp] theorem State.pair_withReg (s : State) (d : Reg) (v : Word) (k : Nat) : (s.withReg d v).pair k = s.pair k := rfl

/-- A request stands where it is put. -/
theorem licReq_setLicReq (s : State) (k : Nat) (r : Option LicReq) : (s.setLicReq k r).licReq k = r := by
  unfold State.licReq State.setLicReq
  simp only [State.pair_modPair]
  split <;> rfl

theorem State.licOpen_iff (s : State) (k : Nat) : s.licOpen k = true ↔
    (s.pair (pairOf k)).moving = none ∧ ((s.pair (pairOf k)).holder = none ∨ (s.pair (pairOf k)).holder = some (onDieU k)) := by
  simp [State.licOpen]

/-- The cluster of a pair on the die of a cluster is that cluster. -/
theorem cluster_of_pair {k : Nat} (h : k < 512) : pairOf k + 256 * bitNat (onDieU k) = k := by
  by_cases hu : 256 ≤ k
  · simp only [pairOf, onDieU, hu, decide_true, bitNat, if_true]; omega
  · simp only [pairOf, onDieU, hu, decide_false, bitNat, Bool.false_eq_true, if_false]; omega

/-- The last pin gone with no engine at work: the licence is FREE, or taken by no one (R146). -/
theorem licMove_release {s : State} {k : Nat} (hk : k < 512) (hold : (s.pair (pairOf k)).holder = some (onDieU k))
    (heng : (s.cluster k).eng = none) (hl : (s.pair (pairOf k)).reqL = none) (hu : (s.pair (pairOf k)).reqU = none)
    (hwl : s.engineWork (pairOf k) = false) (hwu : s.engineWork (pairOf k + 256) = false) :
    ∃ ps, s.licMove (pairOf k) .release = { s with pairs := ps } ∧
      ({ s with pairs := ps } : State).pair (pairOf k) = { s.pair (pairOf k) with holder := none, moving := none, pins := [] } := by
  have hreq : (if onDieU k then (s.pair (pairOf k)).reqL else (s.pair (pairOf k)).reqU) = none := by rw [hl, hu, ite_self]
  unfold State.licMove
  rw [hold]
  dsimp only
  have heng' : ((s.modPair (pairOf k) fun x => { x with moving := some .release }).cluster (pairOf k + 256 * bitNat (onDieU k))).eng = none := by
    rw [cluster_of_pair hk]; exact heng
  rw [heng', if_neg (by simp)]
  unfold State.licMoved
  simp only [State.pair_modPair, hold, hreq]
  rw [licFree_quiet (by simp [hl]) (by simp [hu])]
  have hw : ∀ (f g : Pair → Pair) (j : Nat), ((s.modPair (pairOf k) f).modPair (pairOf k) g).engineWork j = s.engineWork j := fun _ _ _ => rfl
  refine ⟨_, rfl, ?_⟩
  rw [hw, hw, hwl, hwu]
  show State.pair (State.modPair (State.modPair (State.modPair s _ _) _ _) _ _) _ = _
  simp only [State.pair_modPair]
  rfl

/-- `LICACQ` with no request of its cluster pending (R328). -/
theorem licacq_spec {s : State} {la : BitVec 4} {d : Reg} {note : Bool} (h : s.Ready (.licacq la d note))
    (hd : s.me.ctx.bindOf d.toNat = none) (htask : s.me.task = none) (hc : s.me.chunk.count = 0)
    (hreq : s.licReq (clusterOf s.cur.core) = none) :
    let k := clusterOf s.cur.core
    (s.licOpen k = true → exec (.licacq la d note) s = .next ((s.alone.modPair (pairOf k) fun x =>
      { x with holder := some (onDieU k), pins := setAdd s.myJob x.pins }).withReg d 1)) ∧
    (s.licOpen k = false → exec (.licacq la d note) s = .next ((s.alone.setLicReq k (some ⟨s.myJob, s.cur.core, note, []⟩)).withReg d 0)) := by
  intro k
  have hwrite : ∀ (t : State) v, t.me = s.me → writeS d v t = .ok ((), t.withReg d v) := fun t v ht => writeS_plain (ht ▸ hd)
  refine ⟨fun hopen => exec_ok rfl h ?_, fun hopen => exec_ok rfl h ?_⟩
  all_goals
    rw [bind_ok (getM_run _ s), bind_ok (licenceM_ok (by simp [htask])), bind_ok (ownM_alone hc), bind_ok (getM_run _ _), bind_ok (getM_run _ _)]
    refine (bind_ok (licenceM_ok (show (s.licReq k).isNone = true by simp [k, hreq]))).trans ?_
    rw [bind_ok (getM_run _ _)]
  · rw [if_pos (show s.alone.licOpen k = true from hopen), bind_ok (modM_run _ _)]
    exact hwrite _ _ rfl
  · rw [if_neg (show ¬ s.alone.licOpen k = true from Bool.eq_false_iff.mp hopen), bind_ok (modM_run _ _)]
    exact hwrite _ _ rfl

/-- `LICACQ` that its agent may not ask for (R328). -/
theorem licacq_trap {s : State} {la : BitVec 4} {d : Reg} {note : Bool} (h : s.Ready (.licacq la d note))
    (hbad : s.me.task ≠ none ∨ s.me.chunk.count = 0 ∧ s.licReq (clusterOf s.cur.core) ≠ none) :
    exec (.licacq la d note) s = .next (s.takeTrap .licence (s.unit.word.zeroExtend 64)) := by
  refine exec_trap rfl h ?_
  rw [bind_ok (getM_run _ s)]
  by_cases htask : s.me.task = none
  · obtain ⟨hc, hreq⟩ := hbad.resolve_left (not_not.mpr htask)
    rw [bind_ok (licenceM_ok (by simp [htask])), bind_ok (ownM_alone hc), bind_ok (getM_run _ _), bind_ok (getM_run _ _)]
    exact bind_error (licenceM_error (show (s.licReq (clusterOf s.cur.core)).isNone = false from Option.isNone_eq_false_iff.mpr (Option.isSome_iff_ne_none.mpr hreq)))
  · exact bind_error (licenceM_error (Option.isNone_eq_false_iff.mpr (Option.isSome_iff_ne_none.mpr htask)))

/-- `LICREL` (R329): by whether its cluster holds the licence, and by the pins left. -/
theorem licrel_spec {s : State} {la : BitVec 4} (h : s.Ready (.licrel la)) (htask : s.me.task = none) (hc : s.me.chunk.count = 0) :
    let k := clusterOf s.cur.core
    let pins := (s.pair (pairOf k)).pins
    (s.holdsLic k = false → exec (.licrel la) s = .next (s.alone.setLicReq k none)) ∧
    (s.holdsLic k = true → pins ≠ [] → s.myJob ∉ pins → exec (.licrel la) s = .next (s.takeTrap .licence (s.unit.word.zeroExtend 64))) ∧
    (s.holdsLic k = true → s.myJob ∈ pins →
      let t := s.alone.modPair (pairOf k) fun x => { x with pins := setDel s.myJob pins }
      exec (.licrel la) s = .next (if (setDel s.myJob pins).isEmpty then t.licMove (pairOf k) .release else t)) := by
  intro k pins
  refine ⟨fun hlic => exec_ok rfl h ?_, fun hlic hne hpin => exec_trap rfl h ?_, fun hlic hpin => exec_ok rfl h ?_⟩
  all_goals
    rw [bind_ok (getM_run _ s), bind_ok (licenceM_ok (by simp [htask])), bind_ok (ownM_alone hc), bind_ok (getM_run _ _), bind_ok (getM_run _ _)]
  · rw [if_pos (show (!s.alone.holdsLic k) = true by rw [show s.alone.holdsLic k = false from hlic]; rfl)]
    rfl
  · rw [if_neg (show ¬ (!s.alone.holdsLic k) = true by rw [show s.alone.holdsLic k = true from hlic]; simp), bind_ok (getM_run _ _),
      bind_ok (getM_run _ _)]
    exact bind_error (licenceM_error (show (pins.isEmpty || pins.contains s.myJob) = false by simp [hne, hpin]))
  · rw [if_neg (show ¬ (!s.alone.holdsLic k) = true by rw [show s.alone.holdsLic k = true from hlic]; simp), bind_ok (getM_run _ _),
      bind_ok (getM_run _ _)]
    refine (bind_ok (licenceM_ok (show (pins.isEmpty || pins.contains s.myJob) = true by simp [hpin]))).trans ?_
    rfl

/-- Settles O45: `published` for the two publications, `licacq_spec` and `licrel_spec` for the licence. -/
theorem jobWords : Obligations.JobWords := by
  unfold Obligations.JobWords
  intro s la d b note pa hp k c x
  have hd : s.me.ctx.bindOf d.toNat = none := hp.of_mem (by simp)
  have hb : s.me.ctx.bindOf b.toNat = none := hp.of_mem (by simp)
  refine ⟨fun h hc hre hreach => published (p := s.srcReg b) (ws := leWords 16 (s.viewBytes [(pa, 128)])) rfl h hd ?mxpub,
    fun h hc hre hreach => published (p := s.srcReg b) (ws := leWords 16 (s.viewBytes [(pa, 128)])) rfl h hd ?cppub, fun h => exec_ok rfl h ?jobq,
    fun asid id => ⟨fun q hq => ?live, fun hnone hid => ?none⟩, fun h ht hc hreq => ⟨fun hm hh => ?open_, fun hbusy => ?busy⟩,
    fun h hbad => licacq_trap h hbad, fun h ht hc => ⟨(licrel_spec h ht hc).1, (licrel_spec h ht hc).2.1, fun hlic hpin hleft => ?pinned,
      fun hlic hpin hleft heng hl hu hwl hwu hk => ?last⟩⟩
  case mxpub =>
    rw [bind_ok (ownM_alone hc), bind_ok (readS_plain (s := s.alone) hb)]
    refine (bind_ok (recordM_run hreach)).trans ?_
    rw [bind_ok (tableReadyM_ok (s := s.alone) (hre rfl))]
    rfl
  case cppub =>
    rw [bind_ok (ownM_alone hc), bind_ok (readS_plain (s := s.alone) hb)]
    exact bind_ok (recordM_run hreach)
  case jobq =>
    rw [bind_ok (readS_plain hb), bind_ok (getM_run _ s), writeS_plain hd]
  case live =>
    unfold State.jobWord
    rw [hq]
    dsimp only
    cases q.st <;> rfl
  case none =>
    unfold State.jobWord
    rw [hnone]
    simp only [Nat.div_eq_of_lt hid, decide_true, Bool.true_or, if_true]
  case open_ =>
    refine ⟨_, (licacq_spec h hd ht hc hreq).1 ((s.licOpen_iff k).mpr ⟨hm, hh⟩), ?_, ?_, rfl, rfl⟩
    · rw [State.pair_withReg, State.pair_modPair]
    · rw [State.pair_withReg, State.pair_modPair]
      exact mem_setAdd_self _ _
  case busy =>
    have hclosed : s.licOpen k = false := by
      refine Bool.eq_false_iff.mpr fun hopen => ?_
      obtain ⟨hm, hh⟩ := (s.licOpen_iff k).mp hopen
      have hother : x.holder = some (!onDieU k) := hbusy.resolve_left (not_not.mpr hm)
      have hh : x.holder = none ∨ x.holder = some (onDieU k) := hh
      rw [hother] at hh
      simp at hh
    exact ⟨_, (licacq_spec h hd ht hc hreq).2 hclosed, licReq_setLicReq _ _ _, rfl, rfl⟩
  case pinned =>
    rw [(licrel_spec h ht hc).2.2 hlic hpin, if_neg (by simpa using hleft)]
    rfl
  case last =>
    have hold : x.holder = some (onDieU k) := by
      have := hlic
      simp only [State.holdsLic, Bool.and_eq_true, beq_iff_eq] at this
      exact this.2
    obtain ⟨ps, hps, hpair⟩ := licMove_release (s := s.alone.modPair (pairOf k) fun y => { y with pins := setDel s.myJob x.pins }) hk
      (by rw [State.pair_modPair]; exact hold) heng (by rw [State.pair_modPair]; exact hl) (by rw [State.pair_modPair]; exact hu) hwl hwu
    refine ⟨_, (licrel_spec h ht hc).2.2 hlic hpin, ?_⟩
    rw [if_pos (by rw [hleft]; rfl), hps, hpair]
    exact ⟨rfl, rfl, rfl, rfl, rfl⟩

end Sys2Proof.Machine
end

section
/-! O46: the words of a pipeline (R150, R335, R349–R351, R354). -/

namespace Sys2Proof.Machine

/-! ## Records of a pipeline -/

/-- A record of a slot changed is a record of the changed pipeline. -/
theorem Pipe.mem_modRec {x : Pipe} {slot : Nat} (f : PRec → PRec) {r : PRec} (h : r ∈ x.recs) (hs : r.slot = slot) :
    f r ∈ (x.modRec slot f).recs := List.mem_map.mpr ⟨r, h, if_pos hs⟩

/-- A record that comes to a stage keeps its slot and its sequence number. -/
theorem Pipe.mem_toStage {x : Pipe} {slot : Nat} (i core : Nat) {r : PRec} (h : r ∈ x.recs) (hs : r.slot = slot) :
    ∃ r' ∈ (x.toStage slot i core).recs, r'.slot = slot ∧ r'.seq = r.seq ∧ r'.stage = i := by
  have hmoved := Pipe.mem_modRec (fun r => { r with mask := 0, stage := i, core := core }) h hs
  unfold Pipe.toStage
  dsimp only
  split
  · exact ⟨_, Pipe.mem_modRec (x := x.modRec slot _) (fun r => { r with at_ := .queue i, stage := i, arr := _ }) hmoved hs, hs, rfl, rfl⟩
  · exact ⟨_, Pipe.mem_modRec (x := x.modRec slot _) (fun r => { r with at_ := .router (clusterOf core), arr := x.arr }) hmoved hs, hs, rfl, rfl⟩

theorem Pipe.toStage_seq (x : Pipe) (slot i core : Nat) : (x.toStage slot i core).seq = x.seq := by
  unfold Pipe.toStage
  dsimp only
  split <;> rfl

/-- Effects of kind 1 have no pointer to be checked. -/
theorem effectChecksM_logs (ws : List Word) (xs : List (Nat × Nat)) (s : State) (h : ∀ y ∈ xs, y.2 ≠ 0) :
    effectChecksM ws xs s = .ok ((), s) := by
  induction xs with
  | nil => rfl
  | cons y xs ih =>
    obtain ⟨n, k⟩ := y
    rw [effectChecksM, if_neg (h (n, k) (by simp))]
    exact ih fun y hy => h y (List.mem_cons_of_mem _ hy)

theorem restM_slept {k : Sleep} {m : M Unit} {s : State} (h : s.unit.tried = false) : restM k m s = .error (.sleep k) := by
  simp [restM, h]

/-! ## Stores of a word that forms a chunk of its own -/

theorem State.SameAgents.putSegs {s t : State} (h : s.SameAgents t) (hown : t.unit.own = true) (segs : List (Nat × Nat)) (bs : List Byte) :
    s.SameAgents (t.putSegs segs bs) := by
  unfold State.putSegs
  rw [if_pos hown]
  dsimp only
  split
  · exact h.softPoke _ _
  · exact (h.softPoke _ _).withMem _

/-- Bytes stored at once, where the access lands in package memory and no reservation stands against it. -/
theorem storeSegs_alone {s : State} {p : Word} {a : Acc} {pa : Nat} (bs : List Byte) (hown : s.unit.own = true)
    (h : s.Reaches p a pa) (hres : s.reserved (segLines [(pa, a.n)]) = false) :
    storeSegs [(pa, a.n)] bs p s = .ok ((), (s.squashOthers (segLines [(pa, a.n)])).putSegs [(pa, a.n)] bs) ∧
      s.SameAgents ((s.squashOthers (segLines [(pa, a.n)])).putSegs [(pa, a.n)] bs) := by
  obtain ⟨-, -, hlow, -, howned, -⟩ := h
  have hsquash := (State.SameAgents.refl s).squashOthers (segLines [(pa, a.n)])
  refine ⟨?_, hsquash.putSegs (by rw [hsquash.kept.2.1]; exact hown) _ _⟩
  unfold storeSegs
  rw [bind_ok (claimM_alone hlow howned hown hres)]
  rfl

/-! ## What a word of a pipeline finds when its descriptor has been read -/

/-- The pipeline `x` of key `key` as an agent's word, a chunk of its own, finds it in `u` after it has read the descriptor. -/
structure PipeRead (s u : State) (p : BitVec 4) (key : Nat) (x : Pipe) : Prop where
  chunk : s.me.chunk = {}
  read : pipeM p s.alone = .ok (key, u)
  found : tabGet key u.pipes = some x
  me : u.me = s.me
  unit : u.unit = s.alone.unit
  cur : u.cur = s.cur

namespace PipeRead

variable {s u : State} {p : BitVec 4} {key : Nat} {x : Pipe}

theorem count (h : PipeRead s u p key x) : s.me.chunk.count = 0 := congrArg Chunk.count h.chunk

theorem pipe (h : PipeRead s u p key x) : u.pipe key = x := by rw [State.pipe, h.found]; rfl

theorem own (h : PipeRead s u p key x) : u.unit.own = true := by rw [h.unit]

theorem tried (h : PipeRead s u p key x) (ht : s.unit.tried = false) : u.unit.tried = false := by rw [h.unit]; exact ht

theorem writeS (h : PipeRead s u p key x) {d : Reg} (hd : s.me.ctx.bindOf d.toNat = none) (v : Word) :
    Machine.writeS d v u = .ok ((), u.withReg d v) := writeS_plain (h.me ▸ hd)

end PipeRead

/-! ## `PENQ` (R150, R351) -/

/-- The bytes that `PENQ` puts into a pool slot for an image. -/
def Pipe.slotBytes (x : Pipe) (bs : List Byte) : List Byte :=
  leBytes 8 (x.seq % 2 ^ 64) ++ leBytes 8 (keptBits (leWord ((bs.drop 8).take 8))) ++ bs.drop 16

@[simp] theorem State.modPipe_me (s : State) (key : Nat) (f : Pipe → Pipe) : (s.modPipe key f).me = s.me := by
  unfold State.modPipe; split <;> rfl

@[simp] theorem State.modPipe_mem (s : State) (key : Nat) (f : Pipe → Pipe) : (s.modPipe key f).mem = s.mem := by
  unfold State.modPipe; split <;> rfl

/-- The pipeline after an enqueued record came to stage 0. -/
def Pipe.enqueued (x : Pipe) (slot core : Nat) : Pipe :=
  ({ x with seq := x.seq + 1, recs := x.recs ++ [⟨slot, x.seq, 0, 0, false, .router (clusterOf core), 0, [], core⟩] } : Pipe).toStage slot 0 core

/-- The new record stands in the pipeline, and its number is taken. -/
theorem Pipe.enqueued_spec (x : Pipe) (slot core : Nat) : (x.enqueued slot core).seq = x.seq + 1 ∧
    ∃ r ∈ (x.enqueued slot core).recs, r.slot = slot ∧ r.seq = x.seq ∧ r.stage = 0 := by
  refine ⟨Pipe.toStage_seq _ _ _ _, ?_⟩
  exact Pipe.mem_toStage (x := { x with seq := x.seq + 1, recs := x.recs ++ [⟨slot, x.seq, 0, 0, false, .router (clusterOf core), 0, [], core⟩] })
    0 core (List.mem_append_right _ (List.mem_singleton_self _)) rfl

theorem soleM_plain {key : Nat} {s : State} (h : s.who.det = false) : soleM key s = .ok ((), s) := by
  unfold soleM
  rw [bind_ok (getM_run _ s), if_neg (by simp [h])]
  rfl

theorem penq_spec {s u : State} {la : BitVec 4} {d b : Reg} {p : BitVec 4} {key : Nat} {x : Pipe} (hu : PipeRead s u p key x)
    (hd : s.me.ctx.bindOf d.toNat = none) (hb : s.me.ctx.bindOf b.toNat = none) {pa pb slot : Nat} (h : s.Ready (.penq la d b p))
    (hdet : u.who.det = false) (hreach : u.Reaches (s.srcReg b) { rd := true, wr := false, n := pRecord x.desc, align := 64 } pa) :
    (x.freeSlot = none → exec (.penq la d b p) s = .next (u.withReg d 0)) ∧
    (x.freeSlot = some slot → x.admits 0 = false → exec (.penq la d b p) s = .next (s.applyRes (.slept (.penq p.toNat)))) ∧
    (x.freeSlot = some slot → x.admits 0 = true → u.Alone pb (pRecord x.desc) → u.Reaches (x.slotPtr slot)
        { rd := false, wr := true, n := pRecord x.desc, align := 64, raw := true, gen := false, cap := false, spaces := [0] } pb →
      ∃ t y r, exec (.penq la d b p) s = .next t ∧ tabGet key t.pipes = some y ∧ y.seq = x.seq + 1 ∧ r ∈ y.recs ∧ r.slot = slot ∧
        r.seq = x.seq ∧ r.stage = 0 ∧ t.me.ctx = s.me.ctx.setReg d (x.slotPtr slot)) := by
  obtain ⟨hcheck, -⟩ := id hreach
  refine ⟨fun hfull => exec_ok rfl h ?full, fun hslot hroom => exec_stop (x := .sleep (.penq p.toNat)) rfl h ?sleeps, fun hslot hroom halone hpool => ?goes⟩
  case full =>
    rw [bind_ok (ownM_alone hu.count), bind_ok (readS_plain (s := s.alone) hb), bind_ok hu.read, bind_ok (getM_run _ u), hu.pipe]
    dsimp only
    refine (bind_ok (accessM_ok hcheck)).trans ?_
    rw [bind_ok (soleM_plain hdet), hfull]
    exact hu.writeS hd 0
  case sleeps =>
    rw [bind_ok (ownM_alone hu.count), bind_ok (readS_plain (s := s.alone) hb), bind_ok hu.read, bind_ok (getM_run _ u), hu.pipe]
    dsimp only
    refine (bind_ok (accessM_ok hcheck)).trans ?_
    rw [bind_ok (soleM_plain hdet), hslot]
    dsimp only
    rw [hroom, Bool.not_false, if_pos rfl, restM_slept (hu.tried h.2.2)]
  case goes =>
    obtain ⟨-, -, hres, -⟩ := halone
    obtain ⟨hstore, hsame⟩ := storeSegs_alone (x.slotBytes (u.viewBytes [(pa, pRecord x.desc)])) hu.own hpool hres
    obtain ⟨hme, -, -, hpipes, -⟩ := hsame.kept
    generalize (u.squashOthers _).putSegs _ _ = v at hstore hme hpipes
    obtain ⟨hseq, r, hr, hrs, hrq, hrt⟩ := x.enqueued_spec slot v.cur.core
    refine ⟨(v.modPipe key fun x => x.enqueued slot v.cur.core).withReg d (x.slotPtr slot), x.enqueued slot v.cur.core, r, exec_ok rfl h ?_,
      State.modPipe_get (s := v) (fun x => x.enqueued slot v.cur.core) (hpipes ▸ hu.found), hseq, hr, hrs, hrq, hrt, ?_⟩
    · rw [bind_ok (ownM_alone hu.count), bind_ok (readS_plain (s := s.alone) hb), bind_ok hu.read, bind_ok (getM_run _ u), hu.pipe]
      dsimp only
      refine (bind_ok (accessM_ok hcheck)).trans ?_
      rw [bind_ok (soleM_plain hdet), hslot]
      dsimp only
      rw [hroom, if_neg (by simp)]
      refine (bind_ok (loadM_reaches hreach)).trans ?_
      rw [if_pos hu.own]
      refine (bind_ok (accessM_ok hpool.1)).trans ?_
      dsimp only
      refine (bind_ok hstore).trans ?_
      rw [bind_ok (getM_run _ v), bind_ok (modM_run _ v)]
      refine writeS_plain ?_
      rw [State.modPipe_me, hme, hu.me]
      exact hd
    · rw [State.withReg_me, State.modPipe_me, hme, hu.me]

/-! ## `PDEQ` (R150, R349) -/

@[simp] theorem Ctx.setReg_bindOf (c : Ctx) (r : Reg) (v : Word) (code : Nat) : (c.setReg r v).bindOf code = c.bindOf code := by
  simp only [Ctx.bindOf, Ctx.setReg_binds]

theorem pdeq_spec {s u : State} {la : BitVec 4} {d : Reg} {p : BitVec 4} {key i : Nat} {x : Pipe} (hu : PipeRead s u p key x)
    (hd : s.me.ctx.bindOf d.toNat = none) (hd' : s.me.ctx.bindOf (d + 1).toNat = none) (h : s.Ready (.pdeq la d p)) (ht : s.me.task = none)
    (hh : s.me.ctx.inHandler = false) (hi : tabGet s.cur.core x.assign = some i) :
    (x.nextRec u.who.det i = none → exec (.pdeq la d p) s = .next (s.applyRes (.slept .pdeq))) ∧
    (∀ r, x.nextRec u.who.det i = some r → ∃ t, exec (.pdeq la d p) s = .next t ∧
      (t.core s.cur.core).deq = some ⟨p.toNat, x.slotPtr r.slot⟩ ∧ t.mem = u.mem ∧
      t.me.ctx = (s.me.ctx.setReg d (x.slotPtr r.slot)).setReg (d + 1) (BitVec.ofNat 64 i)) := by
  have hlegal : (s.me.task.isNone && !s.me.ctx.inHandler) = true := by simp [ht, hh]
  refine ⟨fun hnone => exec_stop (x := .sleep .pdeq) rfl h ?sleeps, fun r hr => ?goes⟩
  case sleeps =>
    rw [bind_ok (getM_run _ s), bind_ok (legalM_ok hlegal), bind_ok (ownM_alone hu.count), bind_ok hu.read, bind_ok (getM_run _ u), hu.pipe,
      bind_ok (getM_run _ u), hu.cur, hi]
    dsimp only
    rw [bind_ok (getM_run _ u), hnone]
    exact restM_slept (hu.tried h.2.2)
  case goes =>
    let v := (u.modPipe key fun x => (x.modRec r.slot fun r => { r with at_ := .core s.cur.core }).settleCore s.cur.core).modCore s.cur.core
      fun k => { k with deq := some ⟨p.toNat, x.slotPtr r.slot⟩ }
    have hv : v.me = s.me := (State.modPipe_me _ _ _).trans hu.me
    have hmem : v.mem = u.mem := State.modPipe_mem _ _ _
    refine ⟨(v.withReg d (x.slotPtr r.slot)).withReg (d + 1) (BitVec.ofNat 64 i), exec_ok rfl h ?_, ?_, hmem, ?_⟩
    · rw [bind_ok (getM_run _ s), bind_ok (legalM_ok hlegal), bind_ok (ownM_alone hu.count), bind_ok hu.read, bind_ok (getM_run _ u), hu.pipe,
        bind_ok (getM_run _ u), hu.cur, hi]
      dsimp only
      rw [bind_ok (getM_run _ u), hr]
      dsimp only
      rw [bind_ok (modM_run _ u), bind_ok (modM_run _ _)]
      refine (bind_ok (writeS_plain (s := v) (by rw [hv]; exact hd))).trans (writeS_plain ?_)
      rw [State.withReg_me, Ctx.setReg_bindOf, hv]
      exact hd'
    · exact congrArg Core.deq (State.core_modCore (u.modPipe key _) s.cur.core fun k => { k with deq := some ⟨p.toNat, x.slotPtr r.slot⟩ })
    · rw [State.withReg_me, State.withReg_me, hv]

/-! ## `PDONE` (R150, R350) -/

/-- `PDONE` up to the record's header. -/
theorem pdone_read {s u : State} {b : Reg} {p : BitVec 4} {key : Nat} {x : Pipe} (hu : PipeRead s u p key x)
    (hb : s.me.ctx.bindOf b.toNat = none) (ht : s.me.task = none) {pa : Nat} {r : PRec} (hdeq : (u.core s.cur.core).deq = some ⟨p.toNat, s.srcReg b⟩)
    (hr : x.recs.find? (fun r => r.at_ == .core s.cur.core && x.slotPtr r.slot == s.srcReg b) = some r)
    (hreach : u.Reaches (s.srcReg b) { rd := true, wr := false, n := 64, align := 64, raw := true } pa) (drop : Bool) (la : BitVec 4) :
    let ws := leWords 8 (u.viewBytes [(pa, 64)])
    let kinds := effectKinds (wordAt ws 1)
    ∃ m, exec (.pdone la b p drop) s = runWord (.pdone la b p drop) m s ∧
      ((∃ e ∈ kinds, 2 ≤ e) → m s = .error (.trap .illegal (s.unit.word.zeroExtend 64))) ∧
      ((∀ e ∈ kinds, e = 1) → (∀ i, x.needs r drop = some i → x.admits i = true) → ∀ v, finishStage key s.cur.core r drop u = .ok ((), v) →
        m s = .ok ((), v.modCore s.cur.core fun k => { k with deq := none })) ∧
      ((∀ e ∈ kinds, e = 1) → ∀ i, x.needs r drop = some i → x.admits i = false → s.unit.tried = false → m s = .error (.sleep (.pdone p.toNat))) := by
  intro ws kinds
  have hlegal : s.me.task.isNone = true := by simp [ht]
  have hall : (∀ e ∈ kinds, e = 1) → kinds.all (· < 2) = true := fun hk => List.all_eq_true.mpr fun e he => by simp [hk e he]
  have hlogs : (∀ e ∈ kinds, e = 1) → effectChecksM ws (kinds.mapIdx fun n k => (n, k)) u = .ok ((), u) := by
    refine fun hk => effectChecksM_logs _ _ _ fun y hy => ?_
    obtain ⟨n, hn, rfl⟩ := List.mem_mapIdx.mp hy
    simp [hk _ (List.getElem_mem hn)]
  refine ⟨_, rfl, fun hbad => ?bad, fun hk hopen v hv => ?goes, fun hk i hi hfull htried => ?sleeps⟩
  all_goals
    rw [bind_ok (getM_run _ s), bind_ok (legalM_ok hlegal), bind_ok (ownM_alone hu.count), bind_ok (readS_plain (s := s.alone) hb),
      bind_ok hu.read, bind_ok (getM_run _ u), bind_ok (getM_run _ u), hu.cur, bind_ok (legalM_ok (by rw [hdeq]; exact beq_self_eq_true _)),
      bind_ok (getM_run _ u), hu.pipe]
    rw [show s.alone.srcReg b = s.srcReg b from rfl, hr]
    dsimp only
    refine (bind_ok (loadM_reaches hreach)).trans ?_
    rw [if_pos hu.own]
  case bad =>
    obtain ⟨e, he, h2⟩ := hbad
    refine (bind_error (legalM_error (List.all_eq_false.mpr ⟨e, he, by simpa [Nat.succ_le_iff] using h2⟩))).trans ?_
    rw [hu.unit]
  case goes =>
    refine (bind_ok (legalM_ok (hall hk))).trans ((bind_ok (hlogs hk)).trans ?_)
    cases hn : x.needs r drop with
    | none => exact (congrFun (if_neg Bool.false_ne_true) u).trans ((bind_ok (devM_ok hv)).trans rfl)
    | some i =>
      have hroom : ¬ (!x.admits i) = true := by rw [hopen i hn]; exact Bool.false_ne_true
      exact (congrFun (if_neg hroom) u).trans ((bind_ok (devM_ok hv)).trans rfl)
  case sleeps =>
    refine (bind_ok (legalM_ok (hall hk))).trans ((bind_ok (hlogs hk)).trans ?_)
    rw [hi]
    exact (congrFun (if_pos (show (!x.admits i) = true by rw [hfull]; rfl)) u).trans (restM_slept (hu.tried htried))

/-! ## `PSTAT` (R150, R354) -/

/-- The read of a descriptor leaves the word in progress as it is. -/
theorem pipeDescM_sameTry (p : BitVec 4) : Keeps State.SameTry (pipeDescM p) := by
  have hP := sameTry_composes
  exact .bind hP (.getM hP _) fun _ => .bind hP (.getM hP _) fun _ => .bind hP (.getM hP _) fun _ => .bind hP (.needM hP _ _) fun _ =>
    .bind hP (loadM_sameTry _ _) fun _ => .bind hP (.legalM hP _) fun _ => .bind hP (loadM_sameTry _ _) fun _ =>
    .bind hP (.getM hP _) fun _ => .bind hP (.legalM hP _) fun _ => .pure hP _

/-- Settles O46: one lemma per word, on what the word finds when its pipeline's descriptor has been read. -/
theorem pipelineWords : Obligations.PipelineWords := by
  unfold Obligations.PipelineWords
  intro s u la d b p st drop key x q n hchunk hread hfound hme hunit hcur hp
  have hu : PipeRead s u p key x := ⟨hchunk, hread, hfound, hme, hunit, hcur⟩
  have hd : s.me.ctx.bindOf d.toNat = none := hp.of_mem (by simp)
  have hd' : s.me.ctx.bindOf (d + 1).toNat = none := hp.of_mem (by simp)
  have hb : s.me.ctx.bindOf b.toNat = none := hp.of_mem (by simp)
  refine ⟨fun pa pb slot h hdet hreach => penq_spec hu hd hb h hdet hreach, fun i h ht hh hi => pdeq_spec hu hd hd' h ht hh hi,
    fun pa r h ht hdeq hr hreach => ?pdone, fun ws v h hv hctx hpipes => ⟨fun hst => exec_ok rfl h ?stat, fun hst => exec_trap rfl h ?past⟩⟩
  case pdone =>
    obtain ⟨m, harm, hbad, hgoes, hsleeps⟩ := pdone_read hu hb ht hdeq hr hreach drop la
    exact ⟨fun hk => exec_trap harm h (hbad hk), fun hk hopen v hv => exec_ok harm h (hgoes hk hopen v hv),
      fun hk i hi hfull => exec_stop (x := .sleep (.pdone p.toNat)) harm h (hsleeps hk i hi hfull h.2.2)⟩
  case stat =>
    rw [bind_ok hv, bind_ok (legalM_ok (decide_eq_true hst)), bind_ok (getM_run _ v), bind_ok (getM_run _ v)]
    exact writeS_plain (hctx ▸ hd)
  case past =>
    rw [bind_ok hv]
    refine (bind_error (legalM_error (decide_eq_false (Nat.not_lt.mpr hst)))).trans ?_
    rw [(pipeDescM_sameTry p _ _ _ hv).2]

end Sys2Proof.Machine
end

section
/-! O47: the words of a group (R174–R180, R312–R316). -/

namespace Sys2Proof.Machine

/-! ## Images read in parts -/

/-- The lines of a part of some bytes are among theirs. -/
theorem linesOf_subset {a n o m : Nat} (h : o + m ≤ n) {l : Nat} (hl : l ∈ linesOf (a + o) m) : l ∈ linesOf a n := by
  unfold linesOf at hl ⊢
  obtain ⟨i, hi, rfl⟩ := List.mem_map.mp hl
  refine List.mem_map.mpr ⟨(a + o) / 64 + i - a / 64, ?_, by omega⟩
  rw [List.mem_range] at hi ⊢
  omega

theorem segLines_single (a n : Nat) : segLines [(a, n)] = linesOf a n := by simp [segLines]

theorem subSegs_single {pa n o m : Nat} (h : o + m ≤ n) (hm : 0 < m) : subSegs [(pa, n)] o m = [(pa + o, m)] := by
  have hno : ¬ n ≤ o := by omega
  rw [subSegs, if_neg (by omega), if_neg hno, subSegs, Nat.min_eq_left (by omega)]

/-- A part of a reached access is read as the whole would be. -/
theorem loadSegs_part {s : State} {p : Word} {a : Acc} {pa o m : Nat} (hown : s.unit.own = true) (h : s.Reaches p a pa) (hle : o + m ≤ a.n) (hm : 0 < m) :
    loadSegs (subSegs [(pa, a.n)] o m) p s = .ok (s.viewBytes [(pa + o, m)], s) := by
  obtain ⟨-, -, -, hend, howned, hpoison⟩ := h
  have hsub : ∀ l ∈ segLines [(pa + o, m)], l ∈ segLines [(pa, a.n)] := by
    simp only [segLines_single]
    exact fun l => linesOf_subset hle
  have howned' : s.ownedAny (segLines [(pa + o, m)]) = false :=
    List.any_eq_false.mpr fun l hl => List.any_eq_false.mp howned l (hsub l hl)
  have hpoison' : meets (segLines [(pa + o, m)]) s.mem.poison = false :=
    List.any_eq_false.mpr fun l hl => List.any_eq_false.mp hpoison l (hsub l hl)
  rw [subSegs_single hle hm, loadSegs_low (by omega) howned' hpoison', if_pos hown]

/-- The image at a place: its bitmap and its present blocks. -/
def State.imageAt (s : State) (pa : Nat) : Word × Tab (List Byte) :=
  let bmap := leWord (s.viewBytes [(pa, 8)])
  (bmap, ((List.range 64).filter (wbit bmap)).map fun k => (k, s.viewBytes [(pa + 128 + 128 * k, 128)]))

theorem readBlocks_run {s : State} {p : Word} {a : Acc} {pa o : Nat} (hown : s.unit.own = true) (h : s.Reaches p a pa) (hle : o + 8320 ≤ a.n)
    (ks : List Nat) (hks : ∀ k ∈ ks, k < 64) :
    readBlocks [(pa, a.n)] o p ks s = .ok (ks.map fun k => (k, s.viewBytes [(pa + o + 128 + 128 * k, 128)]), s) := by
  induction ks with
  | nil => rfl
  | cons k ks ih =>
    have hk := hks k (by simp)
    rw [readBlocks, bind_ok (loadSegs_part hown h (by omega) (by omega)), bind_ok (ih fun k hk => hks k (List.mem_cons_of_mem _ hk))]
    simp only [pure_run, List.map_cons, Nat.add_assoc]

/-- Images of `k` bytes each have room one by one. -/
theorem image_room {o k n m : Nat} (h : o + k * (n + 1) ≤ m) : o + k ≤ m ∧ o + k + k * n ≤ m := by
  rw [Nat.mul_succ] at h
  generalize k * n = kn at h ⊢
  omega

theorem readImages_run {s : State} {p : Word} {a : Acc} {pa : Nat} (hown : s.unit.own = true) (h : s.Reaches p a pa) (n o : Nat)
    (hle : o + 8320 * n ≤ a.n) :
    readImages [(pa, a.n)] p n o s = .ok ((List.range n).map fun q => s.imageAt (pa + o + 8320 * q), s) := by
  induction n generalizing o with
  | zero => rfl
  | succ n ih =>
    obtain ⟨hhead, hrest⟩ := image_room hle
    have hmap : o + 8 ≤ a.n := le_trans (Nat.add_le_add_left (by decide) o) hhead
    rw [readImages, bind_ok (loadSegs_part hown h hmap (by decide)), bind_ok (readBlocks_run hown h hhead _ fun k hk => List.mem_range.mp (List.mem_filter.mp hk).1), bind_ok (ih (o + 8320) hrest),
      List.range_succ_eq_map (n := n), List.map_cons, List.map_map]
    have hplace : ∀ q, pa + (o + 8320) + 8320 * q = pa + o + 8320 * (q + 1) := fun q => by ring
    simp only [pure_run, hplace, Function.comp_def, Nat.succ_eq_add_one, Nat.mul_zero, Nat.add_zero, State.imageAt]

/-! ## `GSEND` (R178, R315) -/

theorem mySlot_found {s : State} {n : Nat} {g : GSlot} (h : s.mySlot n = some g) : tabGet (s.cur.core * 64 + n) s.groups = some g := by
  unfold State.mySlot at h
  obtain ⟨hslot, -⟩ := Option.filter_eq_some_iff.mp h
  unfold State.slot at hslot
  split at hslot
  · next x hx =>
    split at hslot
    · exact hx.trans hslot
    · cases hslot
  · cases hslot

theorem memberM_run {s : State} {n : BitVec 6} {g : GSlot} (h : s.mySlot n.toNat = some g) (hself : gSelf g.desc = true) :
    memberM n s = .ok (g, s) := by
  unfold memberM
  rw [bind_ok (getM_run _ s), h]
  dsimp only
  rw [if_pos hself]
  rfl

theorem memberM_none {s : State} {n : BitVec 6} (h : s.mySlot n.toNat = none) :
    memberM n s = .error (.trap .handle (n.zeroExtend 64)) := by
  unfold memberM
  rw [bind_ok (getM_run _ s), h]
  rfl

theorem gsend_spec {s : State} {la : BitVec 4} {b : Reg} {n : BitVec 6} {g : GSlot} {pa : Nat} (hb : s.me.ctx.bindOf b.toNat = none)
    (h : s.Ready (.gsend la b n)) (hg : s.mySlot n.toNat = some g) (hself : gSelf g.desc = true) (hkind : gKind g.desc = 2 → gRoot g.desc = true)
    (hnext : g.awaits = true → g.rnd = 0 ∨ g.rnd - 1 ∉ g.present) (halign : (s.srcReg b).toNat % 128 = 0) (hc : s.me.chunk.count = 0)
    (hheld : g.held.any g.mine = false ∨ g.dead = true)
    (hreach : s.Reaches (s.srcReg b) { rd := true, wr := false, n := imageBytes g.desc, align := 128, raw := true, spaces := [0, 1] } pa) :
    exec (.gsend la b n) s =
      .next (s.alone.contribute (s.cur.core * 64 + n.toNat) ((List.range (gChunks g.desc)).map fun q => s.imageAt (pa + 8320 * q))) := by
  have hreach' := alone_reaches hreach
  have himages : readImages [(pa, imageBytes g.desc)] (s.srcReg b) (gChunks g.desc) 0 s.alone =
      .ok ((List.range (gChunks g.desc)).map fun q => s.imageAt (pa + 8320 * q), s.alone) :=
    readImages_run rfl hreach' (gChunks g.desc) 0 (by simp only [imageBytes]; omega)
  refine exec_ok rfl h ?_
  rw [bind_ok (ownM_alone hc), bind_ok (readS_plain (s := s.alone) hb)]
  refine (bind_ok (memberM_run (s := s.alone) hg hself)).trans ?_
  rw [bind_ok (needM_ok ?kind), bind_ok (needM_ok ?next)]
  case kind => by_cases hk : gKind g.desc = 2 <;> simp [hk, hkind]
  case next =>
    cases ha : g.awaits
    · rfl
    · rcases hnext ha with h0 | h0 <;> simp [h0]
  refine (bind_ok (needM_ok (beq_iff_eq.mpr halign))).trans ((bind_ok (accessM_ok hreach'.1)).trans ?_)
  refine (bind_ok (needM_ok (b := !g.held.any g.mine || g.dead) (by rcases hheld with hh | hh <;> simp [hh]))).trans ?_
  exact (bind_ok himages).trans rfl

/-- A chunk that still misses a child's head is not combined. -/
theorem headed_misses {g : GSlot} {r q i : Nat} (hf : (r, q) ∉ g.flushed) (hi : i ∈ gChildren g.desc) (hnone : g.operand r q i = none) :
    g.headed r q = false := by
  have hlt : (g.operands r q).length < (expected g.desc).length :=
    List.length_filterMap_lt_length_iff_exists.mpr ⟨i, List.mem_append_right _ hi, hnone⟩
  unfold GSlot.headed
  simp only [Bool.or_eq_false_iff, decide_eq_false_iff_not]
  exact ⟨by simpa using hf, Nat.ne_of_lt hlt⟩

/-- A slot at the start of a contribution of a job. -/
def GSlot.opened (g : GSlot) (job : Nat) : GSlot := { g with late := false, rnd := g.rnd + 1, sends := g.sends ++ [(g.rnd, job)] }

/-- A slot whose own operand of a round's only chunk has joined. -/
def GSlot.joined (g : GSlot) (round : Nat) (x : Word × Tab (List Byte)) (tick : Nat) : GSlot :=
  ({ g with ops := g.ops ++ [⟨round, 0, 8, x.1, 1, false, x.2⟩] } : GSlot).startTimer round 0 tick

theorem GSlot.startTimer_kept (g : GSlot) (r q tick : Nat) : (g.startTimer r q tick).rnd = g.rnd ∧ (g.startTimer r q tick).late = g.late ∧
    (g.startTimer r q tick).ops = g.ops ∧ (g.startTimer r q tick).desc = g.desc ∧ (g.startTimer r q tick).flushed = g.flushed := by
  unfold GSlot.startTimer
  dsimp only
  split <;> exact ⟨rfl, rfl, rfl, rfl, rfl⟩

theorem modGroup_found {s : State} {key : Nat} {g : GSlot} (f : GSlot → GSlot) (h : tabGet key s.groups = some g) :
    s.modGroup key f = { s with groups := tabSet key (f g) s.groups } := by
  unfold State.modGroup
  rw [h]

/-- A chunk that misses a head stays as it is. -/
theorem combine_waits {s : State} {key r q : Nat} {g : GSlot} (hg : tabGet key s.groups = some g) (hh : g.headed r q = false) :
    s.combine key r q = s := by
  unfold State.combine
  rw [hg]
  dsimp only
  rw [if_pos (by simp [hh])]

/-- The own operand joins, and nothing goes on while a child's head is missing. -/
theorem contributeOwn_waits {s : State} {key r : Nat} {g : GSlot} (x : Word × Tab (List Byte)) (hg : tabGet key s.groups = some g)
    (hf : (r, 0) ∉ g.flushed) {i : Nat} (hi : i ∈ gChildren g.desc) (hnone : g.operand r 0 i = none) :
    s.contributeOwn key r 0 x.1 x.2 = s.modGroup key fun g => g.joined r x s.tick := by
  obtain ⟨-, -, hops, hdesc, hflushed⟩ := GSlot.startTimer_kept { g with ops := g.ops ++ [⟨r, 0, 8, x.1, 1, false, x.2⟩] } r 0 s.tick
  have hi8 : i < 8 := List.mem_range.mp (List.mem_filter.mp hi).1
  have hheaded : (g.joined r x s.tick).headed r 0 = false := by
    refine headed_misses (i := i) (by rw [GSlot.joined, hflushed]; exact hf) (by rw [GSlot.joined, hdesc]; exact hi) ?_
    rw [GSlot.operand, GSlot.joined, hops, List.find?_append, show List.find? _ g.ops = none from hnone]
    simp [show (8 : Nat) ≠ i by omega]
  unfold State.contributeOwn
  rw [hg]
  dsimp only
  rw [if_neg (by simpa using hf)]
  exact combine_waits (State.modGroup_get (fun g => g.joined r x s.tick) hg) hheaded

/-- A contribution of one chunk that waits for the head of a child. -/
theorem contribute_waits {s : State} {key : Nat} {g : GSlot} (x : Word × Tab (List Byte)) (hg : tabGet key s.groups = some g) (hk : gKind g.desc ≤ 1)
    (hf : (g.rnd, 0) ∉ g.flushed) {i : Nat} (hi : i ∈ gChildren g.desc) (hnone : g.operand g.rnd 0 i = none) :
    s.contribute key [x] = ((s.modGroup key fun g => g.opened s.myJob).modGroup key fun g' => g'.joined g.rnd x s.tick).modGroup key GSlot.settle := by
  have hopen := State.modGroup_get (fun g => g.opened s.myJob) hg
  have hown := contributeOwn_waits (s := s.modGroup key fun g => g.opened s.myJob) (r := g.rnd) x hopen hf hi hnone
  have hchunk : ∀ u : State, u.contributeChunk key (gKind g.desc) g.rnd (gRsucc g.desc) (0, x) = u.contributeOwn key g.rnd 0 x.1 x.2 := by
    intro u
    interval_cases gKind g.desc <;> rfl
  have htick : (s.modGroup key fun g => g.opened s.myJob).tick = s.tick := by rw [modGroup_found _ hg]; rfl
  unfold State.contribute
  rw [hg]
  dsimp only
  rw [List.mapIdx_cons, List.mapIdx_nil, List.foldl_cons, List.foldl_nil, hchunk]
  exact congrArg (fun u => State.modGroup u key GSlot.settle) (hown.trans (by rw [htick]))

/-- What such a contribution leaves. -/
theorem contribute_left {s : State} {key : Nat} {g : GSlot} (x : Word × Tab (List Byte)) (hg : tabGet key s.groups = some g) (hk : gKind g.desc ≤ 1)
    (hf : (g.rnd, 0) ∉ g.flushed) {i : Nat} (hi : i ∈ gChildren g.desc) (hnone : g.operand g.rnd 0 i = none) :
    ∃ y, tabGet key (s.contribute key [x]).groups = some y ∧ y.rnd = g.rnd + 1 ∧ y.late = false ∧
      y.ops = g.ops ++ [⟨g.rnd, 0, 8, x.1, 1, false, x.2⟩] ∧ s.SameBare (s.contribute key [x]) := by
  have hP := sameBare_composes
  obtain ⟨hrnd, hlate, hops, -, -⟩ :=
    GSlot.startTimer_kept { g.opened s.myJob with ops := (g.opened s.myJob).ops ++ [⟨g.rnd, 0, 8, x.1, 1, false, x.2⟩] } g.rnd 0 s.tick
  rw [contribute_waits x hg hk hf hi hnone]
  exact ⟨_, State.modGroup_get _ (State.modGroup_get (fun g' => g'.joined g.rnd x s.tick) (State.modGroup_get (fun g => g.opened s.myJob) hg)),
    hrnd, hlate, hops, hP.trans _ _ _ (hP.trans _ _ _ (modGroup_bare s key _) (modGroup_bare _ key _)) (modGroup_bare _ key _)⟩

/-! ## Status words (R180) -/

/-- The fields of a status word, with its bit 63. -/
theorem statusWord_fields {gss soff rnd : Nat} (late part top : Bool) (hg : gss < 8) (hs : soff ≤ 3) (hr : rnd < 2 ^ 32) :
    let v := BitVec.ofNat 64 (gss + 2 ^ 8 * bitNat late + 2 ^ 9 * bitNat part + 2 ^ 10 * soff + 2 ^ 16 * rnd + 2 ^ 63 * bitNat top)
    wbits v 0 3 = gss ∧ wbit v 8 = late ∧ wbit v 9 = part ∧ wbits v 10 2 = soff ∧ wbits v 16 32 = rnd ∧ wbit v 63 = top := by
  have hbit : ∀ b : Bool, bitNat b = 0 ∧ b = false ∨ bitNat b = 1 ∧ b = true := fun b => by cases b <;> simp [bitNat]
  have hl := hbit late
  have hp := hbit part
  have ht := hbit top
  have hlt : gss + 2 ^ 8 * bitNat late + 2 ^ 9 * bitNat part + 2 ^ 10 * soff + 2 ^ 16 * rnd + 2 ^ 63 * bitNat top < 2 ^ 64 := by omega
  simp only [wbit, wbits_ofNat hlt]
  generalize bitNat late = l at *
  generalize bitNat part = p at *
  generalize bitNat top = t at *
  refine ⟨by omega, ?_, ?_, by omega, by omega, ?_⟩
  · rcases hl with ⟨h, rfl⟩ | ⟨h, rfl⟩
    · exact beq_eq_false_iff_ne.mpr (by omega)
    · exact beq_iff_eq.mpr (by omega)
  · rcases hp with ⟨h, rfl⟩ | ⟨h, rfl⟩
    · exact beq_eq_false_iff_ne.mpr (by omega)
    · exact beq_iff_eq.mpr (by omega)
  · rcases ht with ⟨h, rfl⟩ | ⟨h, rfl⟩
    · exact beq_eq_false_iff_ne.mpr (by omega)
    · exact beq_iff_eq.mpr (by omega)

theorem GSlot.gss_lt (g : GSlot) : g.gss < 8 := by
  unfold GSlot.gss
  repeat' split
  all_goals decide

/-- Whether the oldest result of a slot is partial. -/
def GSlot.oldestPart (g : GSlot) : Bool := g.oldest.any g.roundPart

theorem gstat_some (s : State) (g : GSlot) : s.gstat (some g) =
    BitVec.ofNat 64 (g.gss + 2 ^ 8 * bitNat g.late + 2 ^ 9 * bitNat g.oldestPart + 2 ^ 10 * s.plant.soff + 2 ^ 16 * (g.rnd % 2 ^ 32) + 2 ^ 63 * bitNat false) := by
  unfold State.gstat GSlot.oldestPart
  dsimp only
  cases g.oldest <;> rfl

theorem gstatTaken_congr {s t : State} (g : GSlot) (r : Nat) (h : t.plant = s.plant) : t.gstatTaken g r = s.gstatTaken g r := by
  unfold State.gstatTaken State.gstat
  rw [h]

/-- The word that `GRECV` returns is that of the slot after the result was taken, with `PART` of that result and bit 63. -/
theorem gstatTaken_eq {s : State} (g : GSlot) (r : Nat) (hs : s.plant.soff ≤ 3) : s.gstatTaken g r =
    BitVec.ofNat 64 ((g.take r).gss + 2 ^ 8 * bitNat (g.take r).late + 2 ^ 9 * bitNat (g.roundPart r) + 2 ^ 10 * s.plant.soff +
      2 ^ 16 * ((g.take r).rnd % 2 ^ 32) + 2 ^ 63 * bitNat true) := by
  have hgss := (g.take r).gss_lt
  have hrnd : (g.take r).rnd % 2 ^ 32 < 2 ^ 32 := Nat.mod_lt _ (by decide)
  obtain ⟨-, -, hpart, -⟩ := statusWord_fields (g.take r).late (g.take r).oldestPart false hgss hs hrnd
  have hbits : wbits (s.gstat (some (g.take r))) 9 1 = bitNat (g.take r).oldestPart := by
    rw [← gstat_some] at hpart
    have hlt := wbits_lt (s.gstat (some (g.take r))) 9 1
    rw [wbit] at hpart
    cases hb : (g.take r).oldestPart
    · rw [hb, beq_eq_false_iff_ne] at hpart
      simp only [bitNat, Bool.false_eq_true, if_false]
      omega
    · rw [hb, beq_iff_eq] at hpart
      exact hpart
  have hl : bitNat (g.take r).late ≤ 1 := by cases (g.take r).late <;> decide
  have hp : bitNat (g.take r).oldestPart ≤ 1 := by cases (g.take r).oldestPart <;> decide
  unfold State.gstatTaken
  dsimp only
  rw [hbits, gstat_some, BitVec.toNat_ofNat, Nat.mod_eq_of_lt (by simp only [bitNat, Bool.false_eq_true, if_false] at *; omega)]
  congr 1
  simp only [show bitNat true = 1 from rfl, show bitNat false = 0 from rfl]
  omega

/-! ## `GRECV` (R179, R314) -/

/-- Bytes put in place at once, where they hit no record. -/
theorem putSegs_alone {s : State} {pa n : Nat} {bs : List Byte} (ls : List Nat) (hown : s.unit.own = true) (hhit : s.hitRecs [(pa, n)] = [])
    (hlen : bs.length = n) : ((s.squashOthers ls).putSegs [(pa, n)] bs).mem.bytes = setBytes pa bs s.mem.bytes := by
  obtain ⟨-, qmem, qhost, qdev, qjobs, -, -, qunit, -⟩ := squashOthers_frame s ls
  have hq : (s.squashOthers ls).hitRecs [(pa, n)] = [] := by rw [hitRecs_congr qmem qhost qdev qjobs]; exact hhit
  have hput : ((s.squashOthers ls).pokeSegs [(pa, n)] bs).mem.bytes = setBytes pa bs s.mem.bytes := by
    rw [State.pokeSegs, State.pokeSegs, State.poke_mem, qmem, List.take_of_length_le (Nat.le_of_eq hlen)]
  unfold State.putSegs
  rw [if_pos (by rw [qunit]; exact hown), softPoke_plain hq]
  dsimp only
  split
  · exact hput
  · exact hput

/-- What an agent with an empty chunk sees after bytes were put in place at once. -/
theorem setBytes_seen {s t : State} {pa n : Nat} {bs : List Byte} (hs : s.me.chunk.held = []) (ht : t.me.chunk.held = [])
    (hbytes : t.mem.bytes = setBytes pa bs s.mem.bytes) (hlen : bs.length = n) : s.SameOutside t pa n ∧ t.viewBytes [(pa, n)] = bs := by
  have hout : ∀ a, a < pa ∨ pa + n ≤ a → byteAt t.mem.bytes a = byteAt s.mem.bytes a := by
    intro a ha
    rw [hbytes]
    exact byteAt_setBytes_other _ _ (by omega)
  refine ⟨fun a ha => ⟨?_, hout a ha⟩, ?_⟩
  · rw [viewBytes_committed ht, viewBytes_committed hs]
    simp only [bytesAt, hout a ha]
  · rw [viewBytes_committed ht, hbytes, ← hlen]
    exact bytesAt_setBytes_same pa bs s.mem.bytes

theorem grecv_spec {s : State} {la : BitVec 4} {d b : Reg} {n : BitVec 6} {g : GSlot} {pa : Nat} (hb : s.me.ctx.bindOf b.toNat = none)
    (hd : s.me.ctx.bindOf d.toNat = none) (h : s.Ready (.grecv la d b n)) (hg : s.mySlot n.toNat = some g) (hself : gSelf g.desc = true)
    (hdead : g.dead = false) (halign : (s.srcReg b).toNat % 128 = 0) (halone : s.Alone pa (imageBytes g.desc))
    (hreach : s.Reaches (s.srcReg b) { rd := false, wr := true, n := imageBytes g.desc, align := 128, raw := true, spaces := [0, 1] } pa) :
    (g.present = [] → exec (.grecv la d b n) s = .next (s.alone.withReg d 0)) ∧
    (∀ r rs, g.present = r :: rs → (g.images r).length = imageBytes g.desc →
      ∃ t, exec (.grecv la d b n) s = .next t ∧ tabGet (s.cur.core * 64 + n.toNat) t.groups = some (g.take r) ∧
        s.SameOutside t pa (imageBytes g.desc) ∧ t.viewBytes [(pa, imageBytes g.desc)] = g.images r ∧
        t.me.ctx = s.me.ctx.setReg d (s.gstatTaken g r)) := by
  obtain ⟨hchunk, -, hres, hhit⟩ := halone
  have hc : s.me.chunk.count = 0 := congrArg Chunk.count hchunk
  have hreach' := alone_reaches hreach
  refine ⟨fun hnone => exec_ok rfl h ?none, fun r rs hr hlen => ?some⟩
  case none =>
    rw [bind_ok (ownM_alone hc), bind_ok (readS_plain (s := s.alone) hb)]
    refine (bind_ok (memberM_run (s := s.alone) hg hself)).trans ?_
    rw [bind_ok (needM_ok (by rw [hdead]; rfl))]
    refine (bind_ok (needM_ok (beq_iff_eq.mpr halign))).trans ((bind_ok (accessM_ok hreach'.1)).trans ?_)
    rw [GSlot.oldest, hnone]
    exact writeS_plain (s := s.alone) hd
  case some =>
    obtain ⟨hstore, hsame⟩ := storeSegs_alone (g.images r) rfl hreach' hres
    have hhit' : s.alone.hitRecs [(pa, imageBytes g.desc)] = [] := by rw [hitRecs_congr (s := s) (t := s.alone) rfl rfl rfl rfl]; exact hhit
    have hbytes := putSegs_alone (s := s.alone) (segLines [(pa, imageBytes g.desc)]) rfl hhit' hlen
    obtain ⟨hme, -⟩ := hsame.kept
    obtain ⟨hcur, hgroups, hplant⟩ := hsame.keptGroups
    generalize (s.alone.squashOthers _).putSegs _ _ = v at hstore hbytes hme hcur hgroups hplant
    have hslot : tabGet (s.cur.core * 64 + n.toNat) v.groups = some g := hgroups ▸ mySlot_found hg
    have hmod := modGroup_found (GSlot.take · r) hslot
    have hheld : v.me.chunk.held = [] := by rw [hme]; exact congrArg Chunk.held hchunk
    have hplain : v.me.ctx.bindOf d.toNat = none := by rw [hme]; exact hd
    obtain ⟨hout, hview⟩ := setBytes_seen (s := s) (t := ({ v with groups := tabSet (s.cur.core * 64 + n.toNat) (g.take r) v.groups } : State).withReg d (s.gstatTaken g r))
      (by rw [hchunk]) hheld hbytes hlen
    refine ⟨_, exec_ok rfl h ?_, tabGet_tabSet_same _ _ _, hout, hview, ?_⟩
    · rw [bind_ok (ownM_alone hc), bind_ok (readS_plain (s := s.alone) hb)]
      refine (bind_ok (memberM_run (s := s.alone) hg hself)).trans ?_
      rw [bind_ok (needM_ok (by rw [hdead]; rfl))]
      refine (bind_ok (needM_ok (beq_iff_eq.mpr halign))).trans ((bind_ok (accessM_ok hreach'.1)).trans ?_)
      rw [GSlot.oldest, hr]
      dsimp only [List.head?_cons]
      refine (bind_ok hstore).trans ?_
      have hcore : v.cur.core = s.cur.core := congrArg AgentId.core hcur
      rw [bind_ok (modM_run _ v), hcore, hmod, bind_ok (getM_run _ _), gstatTaken_congr (s := s) g r (by exact hplant)]
      exact writeS_plain (s := { v with groups := tabSet (s.cur.core * 64 + n.toNat) (g.take r) v.groups }) hplain
    · show v.me.ctx.setReg d _ = _
      rw [hme]

/-- Settles O47: `gsend_spec` with `contribute_left`, `grecv_spec` and the fields of the status word. -/
theorem groupWords : Obligations.GroupWords := by
  unfold Obligations.GroupWords
  intro s la d b n g pa p key image hp
  have hd : s.me.ctx.bindOf d.toNat = none := hp.of_mem (by simp)
  have hb : s.me.ctx.bindOf b.toNat = none := hp.of_mem (by simp)
  have hrnd : g.rnd % 2 ^ 32 < 2 ^ 32 := Nat.mod_lt _ (by decide)
  refine ⟨fun h hg hself hkind hnext halign hc hheld hreach => ?gsend, fun h hg hself hdead halign halone hreach => ?grecv, fun x => rfl,
    fun r x h1 hx => ?images, fun h => exec_ok rfl h ?gstat, fun hs => ⟨rfl, ?status⟩, fun h ht hown => ⟨fun c hc => exec_trap rfl h ?fails, fun hreach =>
      ⟨fun hgood => exec_ok rfl h ?good, fun hbad => exec_trap rfl h ?bad⟩⟩, fun h ht => exec_trap rfl h ?task, fun hc hnone =>
      ⟨fun h => exec_trap rfl h ?nosend, fun h => exec_trap rfl h ?norecv⟩⟩
  case gsend =>
    have hrun := gsend_spec hb h hg hself hkind hnext halign hc hheld hreach
    refine ⟨hrun, fun hk h1 hf ⟨i, hi, hnone⟩ => ?_⟩
    rw [h1] at hrun
    obtain ⟨y, hy, hyr, hyl, hyo, hbare⟩ := contribute_left (s := s.alone) (s.imageAt (pa + 8320 * 0)) (mySlot_found hg) hk hf hi hnone
    exact ⟨_, y, hrun, hy, hyr, hyl, hyo, congrArg Agent.ctx hbare.me, hbare.mem⟩
  case grecv =>
    obtain ⟨hnone, hsome⟩ := grecv_spec hb hd h hg hself hdead halign halone hreach
    refine ⟨hnone, fun r rs hr hs hlen => ?_⟩
    obtain ⟨t, ht, hslot, hout, hview, hctx⟩ := hsome r rs hr hlen
    refine ⟨t, ht, hslot, congrArg (List.drop 1) hr, hout, hview, fun q hq => ?_, fun hd0 => ?_⟩
    · rw [hctx, Ctx.reg_setReg_other _ _ hq]
    · rw [hctx, Ctx.reg_setReg_same _ _ hd0, gstatTaken_eq g r hs]
      obtain ⟨hgss, hlate, hpart, hsoff, hr, htop⟩ :=
        statusWord_fields (g.take r).late (g.roundPart r) true (g.take r).gss_lt hs (Nat.mod_lt (g.take r).rnd (by decide : 0 < 2 ^ 32))
      exact ⟨htop, hgss, hlate, hpart, hsoff, hr⟩
  case images =>
    rw [GSlot.images, h1]
    simp only [List.range_one, List.flatMap_cons, List.flatMap_nil, List.append_nil, hx]
  case gstat =>
    rw [bind_ok (getM_run _ s)]
    exact writeS_plain hd
  case status =>
    obtain ⟨hgss, hlate, hpart, hsoff, hr, htop⟩ := statusWord_fields g.late g.oldestPart false g.gss_lt hs hrnd
    rw [← gstat_some] at *
    refine ⟨hgss, hlate, fun r hr => hpart.trans ?_, hsoff, hr, htop⟩
    rw [GSlot.oldestPart, hr]
    rfl
  case fails =>
    rw [bind_ok (getM_run _ s), bind_ok (legalM_ok (by simp [ht])), bind_ok (readS_plain hb)]
    exact bind_error (loadM_error hc)
  case good =>
    rw [bind_ok (getM_run _ s), bind_ok (legalM_ok (by simp [ht])), bind_ok (readS_plain hb), bind_ok (loadM_reaches hreach),
      if_neg (by simp [hown]), bind_ok (getM_run _ _)]
    exact (bind_ok (needM_ok hgood)).trans rfl
  case bad =>
    rw [bind_ok (getM_run _ s), bind_ok (legalM_ok (by simp [ht])), bind_ok (readS_plain hb), bind_ok (loadM_reaches hreach),
      if_neg (by simp [hown]), bind_ok (getM_run _ _)]
    exact bind_error (needM_error hbad)
  case task =>
    rw [bind_ok (getM_run _ s)]
    exact bind_error (legalM_error (Option.isNone_eq_false_iff.mpr (Option.isSome_iff_ne_none.mpr ht)))
  case nosend =>
    rw [bind_ok (ownM_alone hc), bind_ok (readS_plain (s := s.alone) hb)]
    exact bind_error (memberM_none (s := s.alone) hnone)
  case norecv =>
    rw [bind_ok (ownM_alone hc), bind_ok (readS_plain (s := s.alone) hb)]
    exact bind_error (memberM_none (s := s.alone) hnone)

end Sys2Proof.Machine
end

section
/-! O51: events of an agent between its words (R58–R60, R69, R71, R99, R107, R208). -/

namespace Sys2Proof.Machine

/-! ## The turn given to another agent and back -/

@[simp] theorem State.focus_cur (s : State) (a : AgentId) : (s.focus a).cur = a := by
  unfold State.focus
  split
  · next h => exact h.symm
  · rfl

theorem State.focus_me (s : State) (a : AgentId) : (s.focus a).me = s.agent a := by
  unfold State.focus
  split
  · next h => rw [State.agent, if_pos h]
  · rfl

@[simp] theorem State.focus_mem (s : State) (a : AgentId) : (s.focus a).mem = s.mem := by unfold State.focus; split <;> rfl

/-- What a turn given leaves alone beside memory. -/
theorem State.focus_frame (s : State) (a : AgentId) : (s.focus a).host = s.host ∧ (s.focus a).dev = s.dev ∧ (s.focus a).jobs = s.jobs ∧
    (s.focus a).unit = s.unit := by
  unfold State.focus; split <;> exact ⟨rfl, rfl, rfl, rfl⟩

/-- Every agent is the same whoever has the turn. -/
theorem State.agent_focus (s : State) (a b : AgentId) : (s.focus a).agent b = s.agent b := by
  by_cases ha : a = s.cur
  · rw [State.focus, if_pos ha]
  · rw [State.focus, if_neg ha]
    by_cases hb : b = a
    · subst hb
      exact if_pos rfl
    · rw [State.agent, if_neg hb]
      dsimp only
      by_cases hc : b = s.cur
      · rw [hc, tabGet_tabSet_same, State.agent, if_pos rfl]
        rfl
      · rw [tabGet_tabSet_other _ _ (fun h => hc (AgentId.key_injective h)), tabGet_tabDel_other _ (fun h => hb (AgentId.key_injective h)),
          State.agent, if_neg hc]

/-- The state in which an event of agent `a` is worked out. -/
def State.asThe (s : State) (a : AgentId) : State := { s.focus a with unit := {} }

@[simp] theorem State.asThe_me (s : State) (a : AgentId) : (s.asThe a).me = s.agent a := s.focus_me a
@[simp] theorem State.asThe_cur (s : State) (a : AgentId) : (s.asThe a).cur = a := s.focus_cur a
@[simp] theorem State.asThe_mem (s : State) (a : AgentId) : (s.asThe a).mem = s.mem := s.focus_mem a

/-- What is done as agent `a` is its new state, and memory is as it leaves it. -/
theorem asAgent_left {s u : State} {a : AgentId} {f : State → State} (hf : f (s.asThe a) = u) (hcur : u.cur = a) :
    (s.asAgent a f).agent a = u.me ∧ (s.asAgent a f).mem = u.mem := by
  subst hf
  refine ⟨?_, State.focus_mem _ _⟩
  have hagent : (s.asAgent a f).agent a = ((f (s.asThe a)).focus s.cur).agent a := rfl
  rw [hagent, State.agent_focus, State.agent, if_pos hcur.symm]

/-- An event that is worked out as agent `a`. -/
theorem asAgent_next {s u : State} {i : Instr} {a : AgentId} {f : State → State} (harm : exec i s = .next (s.asAgent a f)) (hf : f (s.asThe a) = u)
    (hcur : u.cur = a) : ∃ t, exec i s = .next t ∧ t.agent a = u.me ∧ t.mem = u.mem :=
  ⟨_, harm, asAgent_left hf hcur⟩

/-! ## What the events leave -/

@[simp] theorem viewReg_frame (s : State) (r : Reg) (v : Word) : (s.viewReg r v).cur = s.cur ∧ (s.viewReg r v).mem = s.mem := by
  unfold State.viewReg; split <;> exact ⟨rfl, rfl⟩

/-- A scalar result whose window has closed lands, and nothing else happens. -/
theorem landDue_scalar {s : State} {r : Reg} {v : Word} (h : s.me.ctx.lates = [⟨.scalar r v, 0⟩]) :
    s.landDue.me.ctx = { s.me.ctx with lates := [] }.setReg r v ∧ s.landDue.mem = s.mem ∧ s.landDue.cur = s.cur := by
  rw [landDue_single h, if_pos rfl]
  unfold State.land
  dsimp only
  obtain ⟨hcur, hmem⟩ := viewReg_frame ((s.modCtx fun c => { c with lates := [] }).modCtx (·.setReg r v)) r v
  exact ⟨congrArg Agent.ctx (State.viewReg_me _ r v), hmem, hcur⟩

theorem release_cur (s : State) (a : AgentId) (ls : List Nat) : (s.release a ls).cur = s.cur := by
  unfold State.release
  simp only
  split <;> rfl

/-- The grant of a chunk does not pass the turn on. -/
theorem grant_cur (s : State) (hstats : s.me.chunk.stats = []) (hhit : s.hitRecs (s.me.chunk.held.map fun x => (x.1, 1)) = []) :
    s.grant.cur = s.cur := by
  obtain ⟨qme, qmem, qhost, qdev, qjobs, -, -, -, qcur, -⟩ := squashOthers_frame s s.me.chunk.writes
  have hq : (s.squashOthers s.me.chunk.writes).hitRecs ((s.squashOthers s.me.chunk.writes).me.chunk.held.map fun x => (x.1, 1)) = [] := by
    rw [hitRecs_congr qmem qhost qdev qjobs, qme]; exact hhit
  unfold State.grant
  dsimp only
  split
  · rfl
  · simp only [hstats, State.countStats, List.isEmpty_nil, if_true, release_cur]
    unfold State.heldInPlace
    simp only [hq, State.spoilRecords, List.foldl_nil]
    split <;> exact qcur

/-- A commit by an event. -/
theorem commitGrant_spec {s : State} {a : AgentId} (hend : (s.agent a).chunk.ended = true) (hc : (s.agent a).chunk.count ≠ 0)
    (hstats : (s.agent a).chunk.stats = []) (hres : (s.focus a).reserved (s.agent a).chunk.writes = false)
    (hsorted : tabSorted (s.agent a).chunk.held = true) (hhit : (s.focus a).hitRecs ((s.agent a).chunk.held.map fun x => (x.1, 1)) = []) :
    ∃ t, exec (.commitGrant a) s = .next t ∧ (t.agent a).chunk = {} ∧
      (t.agent a).ctx = { (s.agent a).ctx with dirty := (t.agent a).ctx.dirty } ∧
      ∀ x, byteAt t.mem.bytes x = (tabGet x (s.agent a).chunk.held).getD (byteAt s.mem.bytes x) := by
  obtain ⟨fhost, fdev, fjobs, -⟩ := s.focus_frame a
  have hme := s.asThe_me a
  have hstats' : (s.asThe a).me.chunk.stats = [] := by rw [hme]; exact hstats
  have hhit' : (s.asThe a).hitRecs ((s.asThe a).me.chunk.held.map fun x => (x.1, 1)) = [] := by
    rw [hitRecs_congr (s := s.focus a) (t := s.asThe a) rfl rfl rfl rfl, hme]; exact hhit
  have hwaits : (s.asThe a).grantWaits = false := by
    have hlines : (s.asThe a).grantLines = (s.agent a).chunk.writes := by
      rw [State.grantLines, hstats', hme, List.isEmpty_nil, if_pos rfl, List.append_nil]
    rw [State.grantWaits, hlines, hstats', List.isEmpty_nil, Bool.not_true, Bool.false_and, Bool.or_false]
    exact hres
  obtain ⟨hbytes, hgme, -⟩ := grant_plain (s := s.asThe a) (by rw [hme]; exact hc) hstats' hhit'
  obtain ⟨hchunk, -, hctx⟩ := countEvent_frame { (s.asThe a).me with chunk := {}, raised := 0 } 0x03 1
  have hf : (fun s : State => if s.me.chunk.ended && !s.grantWaits then s.grant else s) (s.asThe a) = (s.asThe a).grant := by
    dsimp only
    rw [hme, hend, hwaits, Bool.not_false, Bool.and_self, if_pos rfl]
  obtain ⟨hag, hmem⟩ := asAgent_left (f := fun s => if s.me.chunk.ended && !s.grantWaits then s.grant else s) hf ((grant_cur _ hstats' hhit').trans (s.asThe_cur a))
  refine ⟨_, rfl, ?_, ?_, fun x => ?_⟩
  · rw [hag, hgme, hchunk]
  · rw [hag, hgme, hctx, hme]
  · rw [hmem, hbytes, hme, byteAt_foldl_setByte _ _ x hsorted, State.asThe_mem]

/-- A context as the user interrupt handler starts (R60), with the handler's bank and its first bundle. -/
def Ctx.interrupted (c : Ctx) (bank : Vector Word 8) (vec : Word) : Ctx :=
  { (c.setUpper bank).setAside with
    uiSave := c.upper, uiin := true, pc := vec, slot := false
    uiPc := BitVec.ofNat 64 (c.pc.toNat / 8 * 8 + 4 * bitNat c.slot)
    dirty := c.dirty ||| 0xFF000000 ||| srDirty 0x15 }

theorem enterInterrupt_eq (s : State) : s.enterInterrupt =
    (s.modCtx fun c => c.interrupted (s.handlerBank (s.me.ctx.uip.zeroExtend 64) (s.sourceInfo (lowestSource s.me.ctx.uip)))
      (s.bundlePtr s.me.ctx.uivec)).draw s.me.asid 8 := by
  unfold State.enterInterrupt
  simp only [Ctx.interrupted, State.modCtx_me]

theorem Ctx.interrupted_fields (c : Ctx) (bank : Vector Word 8) (vec : Word) : (c.interrupted bank vec).uiin = true ∧
    (c.interrupted bank vec).uiSave = c.upper ∧ (c.interrupted bank vec).pc = vec ∧ (c.interrupted bank vec).slot = false ∧
    (c.interrupted bank vec).uiPc = BitVec.ofNat 64 (c.pc.toNat / 8 * 8 + 4 * bitNat c.slot) ∧ (c.interrupted bank vec).tiles = c.tiles ∧
    (c.interrupted bank vec).tin = c.tin ∧ (c.interrupted bank vec).regs = (c.setUpper bank).regs := by
  simp only [Ctx.interrupted, Ctx.setAside, Ctx.setUpper, and_self]

/-- The user interrupt handler entered by the current agent (R60). -/
theorem enterInterrupt_left (s : State) (hk : s.cur.kind = .main) : s.enterInterrupt.mem = s.mem ∧ s.enterInterrupt.cur = s.cur ∧
    let c := s.enterInterrupt.me.ctx
    let m := s.me
    c.uiin = true ∧ c.uiSave = m.ctx.upper ∧ c.pc = BitVec.ofNat 64 (m.ctx.uivec.toNat / 8 * 8) ∧ c.slot = false ∧
      c.uiPc = BitVec.ofNat 64 (m.ctx.pc.toNat / 8 * 8 + 4 * bitNat m.ctx.slot) ∧ c.reg 24 = m.ctx.uip.zeroExtend 64 ∧
      (m.ctx.uip[0] = true → c.reg 25 = m.src0) ∧ (m.ctx.uip[0] = false → m.ctx.uip[1] = true → c.reg 25 = m.src1) ∧
      (∀ r : Reg, r.toNat < 24 → c.reg r = m.ctx.reg r) ∧ c.tiles = m.ctx.tiles ∧ c.tin = m.ctx.tin := by
  let bank := s.handlerBank (s.me.ctx.uip.zeroExtend 64) (s.sourceInfo (lowestSource s.me.ctx.uip))
  have hctx : s.enterInterrupt.me.ctx = s.me.ctx.interrupted bank (s.bundlePtr s.me.ctx.uivec) := by
    simp only [enterInterrupt_eq, State.draw, State.modCtx_me, bank]
  have hpc : s.bundlePtr s.me.ctx.uivec = BitVec.ofNat 64 (s.me.ctx.uivec.toNat / 8 * 8) := if_pos hk
  obtain ⟨huiin, hsave, hvec, hslot, huipc, htiles, htin, hregs⟩ := s.me.ctx.interrupted_fields bank (s.bundlePtr s.me.ctx.uivec)
  have h24 : (s.me.ctx.setUpper bank).reg 24 = s.me.ctx.uip.zeroExtend 64 := by
    rw [Ctx.reg_setUpper_high _ _ (by decide)]
    simp [bank, State.handlerBank]
  have h25 : (s.me.ctx.setUpper bank).reg 25 = s.sourceInfo (lowestSource s.me.ctx.uip) := by
    rw [Ctx.reg_setUpper_high _ _ (by decide)]
    simp [bank, State.handlerBank]
  refine ⟨by simp only [enterInterrupt_eq, State.draw, State.modCtx_mem], by simp only [enterInterrupt_eq, State.draw, State.modCtx_cur], ?_⟩
  dsimp only
  rw [hctx]
  simp only [Ctx.reg_congr hregs, h24, h25]
  refine ⟨huiin, hsave, hvec.trans hpc, hslot, huipc, trivial, fun h0 => ?_, fun h0 h1 => ?_, fun r hr => Ctx.reg_setUpper_low _ _ hr, htiles, htin⟩
  · rw [lowestSource, if_pos h0]
    rfl
  · rw [lowestSource, if_neg (by simp [h0]), if_pos h1]
    rfl

theorem presetBytes_length (k : Nat) : (presetBytes k).length = 1024 := by
  simp only [presetBytes, List.length_flatMap, leBytes_length, List.map_const', List.length_range, List.sum_replicate, smul_eq_mul]

/-- Bytes stored to one place are there. -/
theorem pokeSegs_there (s : State) (a : Nat) {n : Nat} {bs : List Byte} (h : bs.length = n) :
    bytesAt (s.pokeSegs [(a, n)] bs).mem.bytes a n = bs := by
  rw [State.pokeSegs, State.pokeSegs, State.poke_mem, List.take_of_length_le (Nat.le_of_eq h), ← h]
  exact bytesAt_setBytes_same a bs s.mem.bytes

/-- The context as a preset that its agent asked for is loaded. -/
def Ctx.presetLoaded (c : Ctx) : Ctx := { c with preset := none, recheck := true, dirty := c.dirty ||| 2 ^ 64 }

theorem loadPreset_eq (s : State) (k : Nat) : s.loadPreset k false =
    ((s.modCtx Ctx.presetLoaded).squashOthers (segLines [(tableAddr s.cur.core 0, 1024)])).pokeSegs [(tableAddr s.cur.core 0, 1024)] (presetBytes k) := rfl

/-- A preset loaded outside a chunk (R69). -/
theorem loadPreset_left (s : State) (k : Nat) : (s.loadPreset k false).cur = s.cur ∧ (s.loadPreset k false).me.ctx = s.me.ctx.presetLoaded ∧
    bytesAt (s.loadPreset k false).mem.bytes (tableAddr s.cur.core 0) 1024 = presetBytes k := by
  have hsame := ((State.SameAgents.refl (s.modCtx Ctx.presetLoaded)).squashOthers (segLines [(tableAddr s.cur.core 0, 1024)])).pokeSegs
    [(tableAddr s.cur.core 0, 1024)] (presetBytes k)
  rw [loadPreset_eq]
  exact ⟨hsame.keptGroups.1, congrArg Agent.ctx hsame.kept.1, pokeSegs_there _ _ (presetBytes_length k)⟩

@[simp] theorem State.core_setAgent (s : State) (a : AgentId) (g : Agent) (c : Nat) : (s.setAgent a g).core c = s.core c := by
  unfold State.setAgent; split <;> rfl

/-- A gated core wakes, whatever its agent does. -/
theorem coreWake_gated {s : State} {core : Nat} (bad : List Nat) (h : (s.core core).gated = true) : exec (.coreWake core bad) s =
    .next (bad.foldl (fun s c => s.parityAt ⟨core, .main⟩ c) (s.modCore core fun k => { k with gated := false })) := by
  show execCoreWake core bad s = _
  unfold execCoreWake
  dsimp only
  rw [if_neg (by simp [h])]

/-- A register outside the volatile range that is found bad is noted with its agent (R58). -/
theorem parityAt_noted {s : State} {a : AgentId} {code : Nat} (hcode : hasDirtyBit code = true)
    (hvol : (s.job (jobKey (s.agent a).asid (s.agent a).job)).volatile code = false) (hpar : (s.agent a).parity = none) :
    s.parityAt a code = s.setAgent a { s.agent a with parity := some code } := by
  unfold State.parityAt
  dsimp only
  rw [hcode, hvol, hpar, Bool.and_false]
  rfl

/-- Settles O51: each event is worked out as its agent (`asAgent_left`). -/
theorem agentEvents : Obligations.AgentEvents := by
  unfold Obligations.AgentEvents
  intro s a core g m
  refine ⟨fun r v hl hb hr => ?late, fun hend hc hstats hres hsorted hhit => commitGrant_spec hend hc hstats hres hsorted hhit,
    fun hact hmark hgot hui hh hc => ?interrupt, fun hgated => ⟨?wake, fun code hcode hvol hpar => ?parity⟩, fun hex hempty hidle => ?gate, ?recheck,
    fun k hk hc hres => ?preset⟩
  case late =>
    obtain ⟨hctx, hmem, hcur⟩ := landDue_scalar (s := s.asThe a) (r := r) (v := v) (by rw [State.asThe_me]; exact hl)
    obtain ⟨hag, hmem'⟩ := asAgent_left (f := (·.landDue)) rfl (hcur.trans (s.asThe_cur a))
    refine ⟨_, rfl, ?_, ?_, ?_, fun q hq => ?_⟩
    · rw [hag, hctx, Ctx.setReg_lates]
    · rw [hag, hctx, Ctx.reg_setReg_same _ _ hr]
    · rw [hmem', hmem, State.asThe_mem]
    · rw [hag, hctx, Ctx.reg_setReg_other _ _ hq, State.asThe_me]
      exact Ctx.reg_congr rfl q
  case interrupt =>
    obtain ⟨hmem, hcur, hctx⟩ := enterInterrupt_left (s.asThe ⟨core, .main⟩) (by rw [State.asThe_cur])
    have hready : (m.act == .running && m.mark == .none && m.got.isEmpty && m.ctx.uiPending && !m.ctx.inHandler) = true := by
      rw [hact, hmark, hgot, hui, hh]
      rfl
    obtain ⟨t, ht, hag, hmem'⟩ := asAgent_next (i := .userInterruptEntry core) (u := (s.asThe ⟨core, .main⟩).enterInterrupt) rfl (by
      rw [State.asThe_me]
      dsimp only
      exact (if_pos hready).trans (if_pos hc)) (hcur.trans (State.asThe_cur _ _))
    refine ⟨t, ht, hmem'.trans (hmem.trans (State.asThe_mem _ _)), ?_⟩
    rw [State.asThe_me] at hctx
    rw [hag]
    exact hctx
  case wake =>
    rw [coreWake_gated _ hgated]
    rfl
  case parity =>
    refine ⟨_, coreWake_gated _ hgated, ?_, ?_⟩
    · rw [List.foldl_cons, List.foldl_nil, parityAt_noted (s := s.modCore core fun k => { k with gated := false }) hcode hvol hpar]
      exact (congrArg Core.gated (State.core_setAgent _ _ _ core)).trans (congrArg Core.gated (State.core_modCore s core _))
    · rw [List.foldl_cons, List.foldl_nil, parityAt_noted (s := s.modCore core fun k => { k with gated := false }) hcode hvol hpar,
        State.agent_setAgent]
      rfl
  case gate =>
    exact congrArg Host.Outcome.next (if_pos (by simp [hex, hempty, hidle]))
  case recheck => exact ⟨_, rfl, State.agent_setAgent _ _ _, (State.setAgent_frame _ _ _).1⟩
  case preset =>
    obtain ⟨hcur, hctx, hbytes⟩ := loadPreset_left (s.asThe a) k
    have hres' : (s.asThe a).reserved (tableLines a.core) = false := hres
    have hc' : (s.agent a).chunk.count = 0 := hc
    obtain ⟨t, ht, hag, hmem⟩ := asAgent_next (i := .presetLoad a) (u := (s.asThe a).loadPreset k false) rfl (by
      rw [State.asThe_me, hk, State.asThe_cur]
      dsimp only
      rw [hres', Bool.and_false, if_neg Bool.false_ne_true, hc']
      rfl) (hcur.trans (State.asThe_cur _ _))
    rw [State.asThe_me] at hctx
    rw [State.asThe_cur] at hbytes
    refine ⟨t, ht, ?_, ?_, ?_, ?_⟩
    · rw [hag, hctx]; rfl
    · rw [hag, hctx]; rfl
    · rw [hag, hctx]; rfl
    · rw [hmem]; exact hbytes

end Sys2Proof.Machine
end

section
/-! O54: events of a group (R177–R187). -/

namespace Sys2Proof.Machine

/-! ## What arrives at a node -/

/-- A table's entry is one of its entries. -/
theorem mem_of_tabGet {α : Type} {k : Nat} {v : α} {m : Tab α} (h : tabGet k m = some v) : (k, v) ∈ m := by
  induction m with
  | nil => cases h
  | cons x m ih =>
    obtain ⟨k', v'⟩ := x
    rw [tabGet] at h
    split at h
    · next hk => cases h; rw [hk]; exact List.mem_cons_self
    · exact List.mem_cons_of_mem _ (ih h)

/-- A slot in use stands in the table. -/
theorem slot_found {s : State} {core n : Nat} {g : GSlot} (h : s.slot core n = some g) : tabGet (core * 64 + n) s.groups = some g := by
  unfold State.slot at h
  split at h
  · next x hx =>
    split at h
    · exact hx.trans h
    · cases h
  · cases h

theorem putResult_desc (g : GSlot) (r q : Nat) (b : GBody) : (g.putResult r q b).desc = g.desc := by
  unfold GSlot.putResult
  split
  · split <;> rfl
  · rfl

theorem ackItem_frame (s : State) (it : GItem) : (s.ackItem it).groups = s.groups ∧ (s.ackItem it).mem = s.mem ∧ (s.ackItem it).plant = s.plant := by
  unfold State.ackItem
  split <;> exact ⟨rfl, rfl, rfl⟩

theorem ackItem_here {s : State} {it : GItem} (h : s.isHere it.src = true) : it ∈ (s.ackItem it).fab.acks := by
  rw [State.ackItem, if_pos h]
  exact List.mem_append_right _ (List.mem_singleton_self it)

theorem noteSlack_frame (s : State) (g : GSlot) (it : GItem) : (s.noteSlack g it).groups = s.groups ∧ (s.noteSlack g it).mem = s.mem ∧
    (s.noteSlack g it).fab = s.fab := by
  unfold State.noteSlack
  dsimp only
  split
  · split <;> exact ⟨rfl, rfl, rfl⟩
  · exact ⟨rfl, rfl, rfl⟩

/-- A node without children sends nothing down. -/
theorem sendDown_leaf {s : State} {key : Nat} {g : GSlot} (r q : Nat) (bs : List GBody) (hg : tabGet key s.groups = some g)
    (hleaf : gChildren g.desc = []) : s.sendDown key r q bs = s := by
  unfold State.sendDown
  rw [hg]
  dsimp only
  rw [hleaf]
  rfl

/-- An item of a result at a leaf of a tree: kept and acknowledged (R177, R182). -/
theorem takeResult_leaf {s : State} {key : Nat} {g : GSlot} {it : GItem} (hg : tabGet key s.groups = some g) (hnew : g.knowsResult it = false)
    (hleaf : gChildren g.desc = []) (hsrc : s.isHere it.src = true) :
    tabGet key (s.takeResult key g it).groups = some (g.putResult it.round it.chunk it.body) ∧ it ∈ (s.takeResult key g it).fab.acks ∧
      (s.takeResult key g it).mem = s.mem := by
  let g' := g.putResult it.round it.chunk it.body
  have hmod := modGroup_found (fun _ => g') hg
  obtain ⟨agroups, amem, -⟩ := ackItem_frame (s.modGroup key fun _ => g') it
  obtain ⟨ngroups, nmem, nfab⟩ := noteSlack_frame ((s.modGroup key fun _ => g').ackItem it) g' it
  have hslot : tabGet key ((((s.modGroup key fun _ => g').ackItem it).noteSlack g' it)).groups = some g' := by
    rw [ngroups, agroups]
    exact State.modGroup_get (fun _ => g') hg
  have hack : it ∈ ((((s.modGroup key fun _ => g').ackItem it).noteSlack g' it)).fab.acks := by
    rw [nfab]
    exact ackItem_here (by rw [hmod]; exact hsrc)
  have hmem : ((((s.modGroup key fun _ => g').ackItem it).noteSlack g' it)).mem = s.mem := by rw [nmem, amem, hmod]
  have heq : s.takeResult key g it = ((s.modGroup key fun _ => g').ackItem it).noteSlack g' it := by
    unfold State.takeResult
    rw [hnew, if_neg Bool.false_ne_true]
    dsimp only
    split
    · exact sendDown_leaf _ _ _ hslot (by rw [putResult_desc]; exact hleaf)
    · rfl
  rw [heq]
  exact ⟨hslot, hack, hmem⟩

/-- An item of a result for this node of the tree goes to `takeResult`. -/
theorem takeItem_down {s : State} {it : GItem} {g : GSlot} (hg : s.slot (nodeCore it.node) it.group = some g) (hasid : g.job / 2 ^ 32 = it.asid)
    (hdead : g.dead = false) (hdir : it.dir = .down) (hroot : gRoot g.desc = false) (hparent : sameNode (gParent g.desc) it.src = true)
    (hkind : gKind g.desc = 0) : s.takeItem it = s.takeResult (nodeCore it.node * 64 + it.group) g it := by
  have hlists : g.lists it = true := by rw [GSlot.lists, hdir]; simp [hroot, hparent, hkind]
  unfold State.takeItem
  rw [hg]
  dsimp only
  rw [if_neg (by rw [hasid]; simp), if_neg (by simp [hdead]), if_neg (by simp [hlists]), hdir]
  cases g.upSlot it <;> rfl

/-- An item on its way that its node can take is taken. -/
theorem groupItemArrive_here {s : State} {it : GItem} (hin : it ∈ s.fab.items) (hnode : s.isHere it.node = true)
    (hoff : s.nodeOff (nodeCore it.node * 64 + it.group) it = false) (hearly : s.tooEarly it = false) : exec (.groupItemArrive it) s =
      .next (({ s with fab := { s.fab with items := s.fab.items.erase it } }.notHung it.asid).takeItem it) := by
  show execGroupItemArrive it s = _
  unfold execGroupItemArrive
  dsimp only
  rw [if_neg (by simp [hin]), if_neg (by simp [hnode]), if_neg (by simp [hoff]), if_neg (by simp [hearly])]

/-! ## Acknowledgements (R183) -/

@[simp] theorem State.groups_setAgent (s : State) (a : AgentId) (g : Agent) : (s.setAgent a g).groups = s.groups := by
  unfold State.setAgent; split <;> rfl

/-- A router whose groups hold nothing back sends nothing. -/
theorem pumpRouter_idle {s : State} {core : Nat} (h : ∀ kg ∈ s.groups, kg.1 / 64 = core → kg.2.held = []) : s.pumpRouter core = s := by
  have hfold : ∀ (gs : Tab GSlot) (u : State), (∀ kg ∈ gs, kg.1 / 64 = core → kg.2.held = []) →
      gs.foldl (fun s kg => if kg.1 / 64 == core && !kg.2.held.isEmpty then s.pump kg.1 kg.2.held.length else s) u = u := by
    intro gs
    induction gs with
    | nil => exact fun u _ => rfl
    | cons kg gs ih =>
      intro u hu
      have hno : ¬ (kg.1 / 64 == core && !kg.2.held.isEmpty) = true := by
        intro hyes
        obtain ⟨hk, hheld⟩ := Bool.and_eq_true_iff.mp hyes
        rw [hu kg List.mem_cons_self (beq_iff_eq.mp hk)] at hheld
        cases hheld
      rw [List.foldl_cons, if_neg hno]
      exact ih u fun x hx => hu x (List.mem_cons_of_mem _ hx)
  exact hfold s.groups s h

/-- An item done with, at a router that holds nothing back. -/
theorem ackDone_idle {s : State} {core n : Nat} {g : GSlot} {it : GItem} (hg : tabGet (core * 64 + n) s.groups = some g)
    (hidle : ∀ kg ∈ s.groups, kg.1 / 64 = core → kg.2.held = []) :
    tabGet (core * 64 + n) (s.ackDone core n it).groups = some ({ g with unacked := g.unacked.erase it } : GSlot).settle ∧
      (s.ackDone core n it).mem = s.mem := by
  let t : State := { s with fab := { s.fab with acks := s.fab.acks.erase it } }
  have hmod := modGroup_found (s := t) (fun g => { g with unacked := g.unacked.erase it }) hg
  have hquiet : ∀ kg ∈ (t.modGroup (core * 64 + n) fun g => { g with unacked := g.unacked.erase it }).groups, kg.1 / 64 = core → kg.2.held = [] := by
    intro kg hkg hk
    rw [hmod] at hkg
    rcases mem_tabSet _ _ _ kg hkg with rfl | hold
    · exact hidle (core * 64 + n, g) (mem_of_tabGet hg) hk
    · exact hidle kg hold hk
  have heq : s.ackDone core n it =
      (t.modGroup (core * 64 + n) fun g => { g with unacked := g.unacked.erase it }).modGroup (core * 64 + n) GSlot.settle := by
    rw [← pumpRouter_idle hquiet]
    rfl
  rw [heq]
  exact ⟨State.modGroup_get _ (State.modGroup_get (s := t) (fun g => { g with unacked := g.unacked.erase it }) hg),
    ((modGroup_bare t _ _).trans (modGroup_bare _ _ _)).mem⟩

/-- A node with nothing of its own outstanding sends no more. -/
theorem settle_done {g : GSlot} (hheld : g.held = []) (hparked : g.parked = []) (hun : ∀ x ∈ g.unacked, g.mine x = false) :
    g.settle.sending = false := by
  have hnone : ∀ p : GItem → Bool, (g.unacked ++ g.held ++ g.parked).any (fun it => p it && g.mine it) = false := by
    intro p
    rw [hheld, hparked, List.append_nil, List.append_nil, List.any_eq_false]
    intro x hx
    simp [hun x hx]
  have hempty : g.settle.sends = [] := by
    unfold GSlot.settle
    exact List.filter_eq_nil_iff.mpr fun x _ => Bool.eq_false_iff.mp (hnone fun it => it.round == x.1)
  rw [GSlot.sending, hempty]
  rfl

/-! ## Route notices (R184) -/

/-- A relay that a slot knows, it knows still. -/
def State.KeepsRelay (key c : Nat) (relay : Word) (s t : State) : Prop :=
  (∃ y, tabGet key s.groups = some y ∧ tabGet c y.relays = some relay) → ∃ y, tabGet key t.groups = some y ∧ tabGet c y.relays = some relay

theorem keepsRelay_composes (key c : Nat) (relay : Word) : Composes (State.KeepsRelay key c relay) :=
  ⟨fun _ h => h, fun _ _ _ h h' hs => h' (h hs)⟩

theorem modGroup_keepsRelay (key c : Nat) (relay : Word) (s : State) (k : Nat) (f : GSlot → GSlot) (hf : ∀ g, (f g).relays = g.relays) :
    State.KeepsRelay key c relay s (s.modGroup k f) := by
  rintro ⟨y, hy, hr⟩
  cases hk : tabGet k s.groups with
  | none =>
    refine ⟨y, ?_, hr⟩
    unfold State.modGroup
    rw [hk]
    exact hy
  | some g =>
    rw [modGroup_found f hk]
    by_cases he : key = k
    · subst he
      rw [hk] at hy
      cases hy
      exact ⟨f y, tabGet_tabSet_same _ _ _, by rw [hf]; exact hr⟩
    · exact ⟨y, (tabGet_tabSet_other _ _ he).trans hy, hr⟩

theorem launch_groups (s : State) (slk : Bool) (it : GItem) : (s.launch slk it).groups = s.groups := by
  unfold State.launch
  split
  · rfl
  · dsimp only
    split <;> rfl

theorem killDown_keepsRelay (key c : Nat) (relay : Word) (n k : Nat) (s : State) : State.KeepsRelay key c relay s (s.killDown n k) := by
  have hP := keepsRelay_composes key c relay
  induction n generalizing k s with
  | zero => exact hP.refl s
  | succ n ih =>
    unfold State.killDown
    split
    · exact hP.refl s
    · split
      · exact hP.refl s
      · dsimp only
        have hdead := modGroup_keepsRelay key c relay s k (fun g => { g with dead := true }) fun _ => rfl
        split
        · refine hP.trans _ _ _ hdead (hP.foldl (fun u i => ?_) _ _)
          split
          · exact ih _ u
          · exact hP.refl u
        · exact hdead

theorem pump_keepsRelay (key c : Nat) (relay : Word) (k n : Nat) (s : State) : State.KeepsRelay key c relay s (s.pump k n) := by
  have hP := keepsRelay_composes key c relay
  induction n generalizing s with
  | zero => exact hP.refl s
  | succ n ih =>
    unfold State.pump
    split
    · exact hP.refl s
    · split
      · exact hP.refl s
      · split
        · refine hP.trans _ _ _ (fun h => ?_) (ih _)
          rw [launch_groups]
          exact modGroup_keepsRelay key c relay s k _ (fun _ => rfl) h
        · split
          · refine hP.trans _ _ _ ?_ (ih _)
            exact modGroup_keepsRelay key c relay s k _ fun _ => rfl
          · exact killDown_keepsRelay key c relay 4096 k s

/-- A notice changes a slot, which then knows the relay, and sends what it can. -/
theorem routeNotice_run {s : State} {core n c : Nat} (relay : Word) {g : GSlot} (hg : s.slot core n = some g) (hc : c ∈ gChildren g.desc) :
    ∃ f m, exec (.routeNoticeArrive core n c relay) s = .next ((s.modGroup (core * 64 + n) f).pump (core * 64 + n) m) ∧
      tabGet c (f g).relays = some relay := by
  refine ⟨?f, ?m, ?run, ?known⟩
  case run =>
    show execRouteNoticeArrive core n c relay s = _
    unfold execRouteNoticeArrive
    dsimp only
    rw [hg]
    dsimp only
    rw [if_neg (by simp [hc])]
  case known => exact tabGet_tabSet_same _ _ _

/-- A child's notice names the relay to it. -/
theorem routeNotice_spec {s : State} {core n c : Nat} (relay : Word) {g : GSlot} (hg : s.slot core n = some g) (hc : c ∈ gChildren g.desc) :
    ∃ t y, exec (.routeNoticeArrive core n c relay) s = .next t ∧ tabGet (core * 64 + n) t.groups = some y ∧ tabGet c y.relays = some relay ∧
      t.mem = s.mem := by
  obtain ⟨f, m, hrun, hf⟩ := routeNotice_run relay hg hc
  obtain ⟨y, hy, hr⟩ := pump_keepsRelay (core * 64 + n) c relay (core * 64 + n) m _ ⟨f g, State.modGroup_get f (slot_found hg), hf⟩
  exact ⟨_, y, hrun, hy, hr, ((modGroup_bare s _ f).trans (pump_bare _ m _)).mem⟩

/-! ## The remaining events -/

/-- A whole result becomes present (R179). -/
theorem groupResult_spec {s : State} {core n r : Nat} {g : GSlot} (hg : s.slot core n = some g) (hr : g.arriving = some r)
    (hself : gSelf g.desc = true) (hdead : g.dead = false) :
    ∃ t y, exec (.groupResultArrive core n) s = .next t ∧ tabGet (core * 64 + n) t.groups = some y ∧ r ∈ y.present ∧ t.mem = s.mem ∧
      ((s.agent ⟨core, .main⟩).asid = g.job / 2 ^ 32 → (s.agent ⟨core, .main⟩).ctx.uien[2] = true → (t.agent ⟨core, .main⟩).ctx.uip[2] = true) := by
  let u := s.modGroup (core * 64 + n) fun g => { g with present := setAdd r g.present }
  have hmod : u = _ := modGroup_found (fun g => { g with present := setAdd r g.present }) (slot_found hg)
  have hagent : u.agent ⟨core, .main⟩ = s.agent ⟨core, .main⟩ := by rw [hmod]; rfl
  have hslot : tabGet (core * 64 + n) u.groups = some { g with present := setAdd r g.present } :=
    State.modGroup_get (fun g => { g with present := setAdd r g.present }) (slot_found hg)
  have hrun : exec (.groupResultArrive core n) s = .next (if (u.agent ⟨core, .main⟩).asid == g.job / 2 ^ 32 && (u.agent ⟨core, .main⟩).ctx.uien[2]
      then u.modAgent ⟨core, .main⟩ (·.raise 2 0) else u) := by
    show execGroupResultArrive core n s = _
    unfold execGroupResultArrive
    rw [hg]
    dsimp only
    rw [hr]
    dsimp only
    rw [if_neg (by simp [hself, hdead])]
  have hmem : u.mem = s.mem := (modGroup_bare s _ _).mem
  rw [hrun, hagent]
  split
  · refine ⟨_, _, rfl, (congrArg (tabGet _) (State.groups_setAgent _ _ _)).trans hslot, mem_setAdd_self _ _, (State.setAgent_frame _ _ _).1.trans hmem,
      fun _ _ => ?_⟩
    rw [State.modAgent, State.agent_setAgent]
    simp [Agent.raise]
  · next hno =>
    refine ⟨_, _, rfl, hslot, mem_setAdd_self _ _, hmem, fun ha hu => absurd ?_ hno⟩
    simp [ha, hu]

/-- A far acknowledgement: one of the nodes that may send one, and the oldest item it has (R183). -/
theorem groupAck_far {s : State} {core n : Nat} {g : GSlot} (hg : tabGet (core * 64 + n) s.groups = some g)
    (hnone : g.unacked.find? s.fab.acks.contains = none) (hne : s.ackers g ≠ []) (hidle : ∀ kg ∈ s.groups, kg.1 / 64 = core → kg.2.held = []) :
    ∃ w ∈ s.ackers g, ∃ x t y, (g.unacked.find? fun x => s.farAcks x && some w == some x.node) = some x ∧
      exec (.groupAck core n) s = .next t ∧ tabGet (core * 64 + n) t.groups = some y ∧ y.unacked = g.unacked.erase x ∧ t.mem = s.mem := by
  let i := if (s.ackers g).length ≤ 1 then 0 else (Config.freeWord (g.job / 2 ^ 32) (s.drawn (g.job / 2 ^ 32))).toNat % (s.ackers g).length
  let u := if (s.ackers g).length ≤ 1 then s else s.draw (g.job / 2 ^ 32) 1
  have hpos : 0 < (s.ackers g).length := List.length_pos_iff.mpr hne
  have hi : i < (s.ackers g).length := by
    unfold i
    split
    · exact hpos
    · exact Nat.mod_lt _ hpos
  have hw : (s.ackers g)[i] ∈ s.ackers g := List.getElem_mem hi
  obtain ⟨x, hx, hnode⟩ : ∃ x ∈ g.unacked.filter s.farAcks, x.node = (s.ackers g)[i] := by
    have := List.mem_eraseDups.mp hw
    exact List.mem_map.mp this
  have hsome : (g.unacked.find? fun x => s.farAcks x && some (s.ackers g)[i] == some x.node).isSome = true := by
    obtain ⟨hmem, hfar⟩ := List.mem_filter.mp hx
    exact List.find?_isSome.mpr ⟨x, hmem, by simp [hfar, hnode]⟩
  obtain ⟨z, hz⟩ := Option.isSome_iff_exists.mp hsome
  have hrun : exec (.groupAck core n) s = .next (u.ackDone core n z) := by
    show execGroupAck core n s = _
    unfold execGroupAck
    rw [hg]
    dsimp only
    rw [hnone]
    dsimp only
    have hz' : (g.unacked.find? fun it => s.farAcks it && (s.ackers g)[i]? == some it.node) = some z := by
      rw [List.getElem?_eq_getElem hi]; exact hz
    simp only [i] at hz'
    rw [hz']
  have hu : u.groups = s.groups ∧ u.mem = s.mem := by
    unfold u
    split <;> exact ⟨rfl, rfl⟩
  obtain ⟨hslot, hmem⟩ := ackDone_idle (s := u) (core := core) (n := n) (it := z) (by rw [hu.1]; exact hg) (by rw [hu.1]; exact hidle)
  exact ⟨_, hw, z, _, _, hz, hrun, hslot, rfl, hmem.trans hu.2⟩

theorem sendLate_frame (s : State) (node : Word) (group asid : Nat) (deep : Bool) :
    (s.sendLate node group asid deep).groups = s.groups ∧ (s.sendLate node group asid deep).mem = s.mem := by
  unfold State.sendLate
  split <;> exact ⟨rfl, rfl⟩

/-- A notice at a member: it is LATE, and its subtree is told where the notice is for that too (R185). -/
theorem takeLate_member {s : State} {core n asid : Nat} (deep : Bool) {g : GSlot} (hg : tabGet (core * 64 + n) s.groups = some g)
    (hself : gSelf g.desc = true) : tabGet (core * 64 + n) (s.takeLate core n asid deep g).groups = some { g with late := true } ∧
      (s.takeLate core n asid deep g).mem = s.mem := by
  let u := s.modGroup (core * 64 + n) fun g => { g with late := g.late || gSelf g.desc }
  have hslot : tabGet (core * 64 + n) u.groups = some { g with late := true } := by
    have h := State.modGroup_get (fun g => { g with late := g.late || gSelf g.desc }) hg
    rwa [hself, Bool.or_true] at h
  have hmem : u.mem = s.mem := (modGroup_bare s _ _).mem
  have hfold : ∀ (xs : List Nat) (v : State), v.groups = u.groups → v.mem = u.mem →
      (xs.foldl (fun s i => s.sendLate (gChild g.desc i) n asid true) v).groups = u.groups ∧
        (xs.foldl (fun s i => s.sendLate (gChild g.desc i) n asid true) v).mem = u.mem := by
    intro xs
    induction xs with
    | nil => exact fun v hv hm => ⟨hv, hm⟩
    | cons x xs ih =>
      intro v hv hm
      obtain ⟨hgroups, hmem⟩ := sendLate_frame v (gChild g.desc x) n asid true
      exact ih _ (hgroups.trans hv) (hmem.trans hm)
  unfold State.takeLate
  dsimp only
  split
  · obtain ⟨hgroups, hm⟩ := hfold (gChildren g.desc) u rfl rfl
    exact ⟨hgroups ▸ hslot, hm.trans hmem⟩
  · exact ⟨hslot, hmem⟩

/-- The slack offset after a window of 50 µs (R187). -/
theorem slackWindow_run {s : State} (hdue : s.plant.slackAt + 50000 ≤ s.now) {off : Nat}
    (hoff : (if s.pairs.any fun p => p.2.tthr != 0 then 0 else if s.plant.slacks.isEmpty then s.plant.soff
      else if 2000 * s.plant.slacks.length < s.plant.slacks.foldl (· + ·) 0 then min 3 (s.plant.soff + 1)
      else if s.plant.slacks.foldl (· + ·) 0 < 500 * s.plant.slacks.length then s.plant.soff - 1 else s.plant.soff) = off) :
    exec .slackWindow s = .next { s with plant := { s.plant with soff := off, slackAt := s.now } } := by
  subst hoff
  exact if_neg (Nat.not_lt.mpr hdue)

/-- Settles O54: one lemma per event. -/
theorem groupEvents : Obligations.GroupEvents := by
  unfold Obligations.GroupEvents
  intro s core n g it key
  refine ⟨fun hsrc hin hnode hreach => ?relay, fun hg hcore hgroup hsrc hin hnode hoff hearly hasid hdead hdir hroot hparent hkind hnew hleaf => ?take,
    fun r hg hr hself hdead => groupResult_spec hg hr hself hdead, fun hg hack hidle => ?ack, fun hg hnone hne hidle => groupAck_far hg hnone hne hidle,
    fun q x hg hx => ?timeout, fun deep hg hlate hself => ?late, fun c relay hg hc => routeNotice_spec relay hg hc, fun hdue hcool hne => ?slack,
    fun hdue hhot => ?hot⟩
  case relay =>
    show execGroupItemArrive it s = _
    unfold execGroupItemArrive
    dsimp only
    rw [if_neg (by simp [hin]), if_pos (by simp [hnode]), if_pos hreach]
  case take =>
    subst hcore hgroup
    let u := { s with fab := { s.fab with items := s.fab.items.erase it } }.notHung it.asid
    have htake : u.takeItem it = u.takeResult (nodeCore it.node * 64 + it.group) g it := takeItem_down (s := u) hg hasid hdead hdir hroot hparent hkind
    obtain ⟨hslot, hack, hmem⟩ := takeResult_leaf (s := u) (slot_found hg) hnew hleaf hsrc
    refine ⟨_, groupItemArrive_here hin hnode hoff hearly, ?_⟩
    rw [show State.takeItem _ it = _ from htake]
    exact ⟨hslot, hack, hmem⟩
  case ack =>
    obtain ⟨hslot, hmem⟩ := ackDone_idle (it := it) hg hidle
    refine ⟨s.ackDone core n it, _, ?_, hslot, rfl, fun hheld hparked hmine => settle_done hheld hparked hmine, hmem⟩
    show execGroupAck core n s = _
    unfold execGroupAck
    rw [hg]
    dsimp only
    rw [hack]
  case timeout =>
    show execGroupTimeout core n q s = _
    unfold execGroupTimeout
    dsimp only
    rw [hg]
    dsimp only
    rw [hx]
  case late =>
    obtain ⟨hslot, hmem⟩ := takeLate_member (s := { s with fab := { s.fab with lates := s.fab.lates.erase (core, n, g.job / 2 ^ 32, deep) } })
      (asid := g.job / 2 ^ 32) deep (slot_found hg) hself
    refine ⟨_, ?_, hslot, hmem⟩
    show execLateNoticeArrive core n s = _
    unfold execLateNoticeArrive
    rw [hlate]
    dsimp only
    rw [hg]
    dsimp only
    rw [if_pos (beq_self_eq_true _)]
  case slack =>
    intro sum len
    have hsome : s.plant.slacks.isEmpty = false := by simpa using hne
    refine ⟨fun hhigh => slackWindow_run hdue ?_, fun hlow => slackWindow_run hdue ?_⟩
    · rw [hcool, hsome, if_neg Bool.false_ne_true, if_neg Bool.false_ne_true, if_pos hhigh]
    · have hno : ¬ 2000 * len < sum := by omega
      rw [hcool, hsome, if_neg Bool.false_ne_true, if_neg Bool.false_ne_true, if_neg hno, if_pos hlow]
  case hot => exact slackWindow_run hdue (by rw [hhot, if_pos rfl])

end Sys2Proof.Machine
end

section
/-! PROOFS. The ordered class between its words (R121–R127, R218): injection, watermarks, beacons, delivery, stalls and the death of a
link; messages at their inbox (R336). -/

namespace Sys2Proof.Machine

/-! ## What sending and forwarding leave -/

/-- An input port (R123). -/
def State.inPort (s : State) (p : Nat) : InPort := (tabGet p s.ord.inp).getD {}

/-- What packets on their way through the device leave as it was: memory, the injections, what was received, dead ports, and of each port
all but its queues, whether it is stuck and when it last sent. -/
structure State.Routed (s t : State) : Prop where
  mem : t.mem = s.mem
  inject : t.ord.inject = s.ord.inject
  prevStamp : t.ord.prevStamp = s.ord.prevStamp
  prevSeq : t.ord.prevSeq = s.ord.prevSeq
  seen : t.ord.seen = s.ord.seen
  deadPorts : t.fab.deadPorts = s.fab.deadPorts
  wm : ∀ p, (t.inPort p).wm = (s.inPort p).wm
  frozen : ∀ p, (t.inPort p).frozen = (s.inPort p).frozen
  removed : ∀ p, (t.inPort p).removed = (s.inPort p).removed
  dead : ∀ p, (t.outPort p).dead = (s.outPort p).dead

theorem State.Routed.refl (s : State) : s.Routed s :=
  ⟨rfl, rfl, rfl, rfl, rfl, rfl, fun _ => rfl, fun _ => rfl, fun _ => rfl, fun _ => rfl⟩

theorem State.Routed.trans {s t u : State} (h : s.Routed t) (h' : t.Routed u) : s.Routed u :=
  ⟨h'.mem.trans h.mem, h'.inject.trans h.inject, h'.prevStamp.trans h.prevStamp, h'.prevSeq.trans h.prevSeq, h'.seen.trans h.seen,
    h'.deadPorts.trans h.deadPorts, fun p => (h'.wm p).trans (h.wm p), fun p => (h'.frozen p).trans (h.frozen p),
    fun p => (h'.removed p).trans (h.removed p), fun p => (h'.dead p).trans (h.dead p)⟩

theorem routed_composes : Composes State.Routed := ⟨State.Routed.refl, fun _ _ _ h h' => h.trans h'⟩

/-- An output port read after a change. -/
theorem outPort_modOut (s : State) (p q : Nat) (f : OutPort → OutPort) :
    (s.modOut p f).outPort q = if q = p then f (s.outPort p) else s.outPort q := by
  unfold State.modOut State.outPort tabMod
  by_cases h : q = p
  · simp [h, tabGet_tabSet_same]
  · simp [h, tabGet_tabSet_other]

/-- An input port read after a change. -/
theorem inPort_modIn (s : State) (p q : Nat) (f : InPort → InPort) :
    (s.modIn p f).inPort q = if q = p then f (s.inPort p) else s.inPort q := by
  unfold State.modIn State.inPort tabMod
  by_cases h : q = p
  · simp [h, tabGet_tabSet_same]
  · simp [h, tabGet_tabSet_other]

/-- A change of an output port that leaves it as live as it was. -/
theorem modOut_routed {s : State} (p : Nat) {f : OutPort → OutPort} (hf : ∀ o, (f o).dead = o.dead) : s.Routed (s.modOut p f) := by
  refine ⟨rfl, rfl, rfl, rfl, rfl, rfl, fun _ => rfl, fun _ => rfl, fun _ => rfl, fun q => ?_⟩
  rw [outPort_modOut]
  split
  · next h => rw [hf, h]
  · rfl

/-- A packet of an input port discarded (R218). -/
theorem discard_routed (s : State) (from_ : Option Nat) (x : OPacket) : s.Routed (s.discard from_ x) := by
  cases from_ with
  | none => exact ⟨rfl, rfl, rfl, rfl, rfl, rfl, fun _ => rfl, fun _ => rfl, fun _ => rfl, fun _ => rfl⟩
  | some p =>
    have hread : ∀ q, ((s.discard (some p) x).inPort q) = if q = p then { s.inPort p with stuck := true } else s.inPort q :=
      fun q => inPort_modIn s p q _
    refine ⟨rfl, rfl, rfl, rfl, rfl, rfl, fun q => ?_, fun q => ?_, fun q => ?_, fun _ => rfl⟩
    all_goals
      rw [hread]
      split
      · next h => rw [h]
      · rfl

theorem forward_routed (s : State) (from_ : Option Nat) (x : OPacket) : s.Routed (s.forward from_ x) := by
  unfold State.forward
  split
  · exact discard_routed s from_ x
  · split
    · exact ⟨rfl, rfl, rfl, rfl, rfl, rfl, fun _ => rfl, fun _ => rfl, fun _ => rfl, fun _ => rfl⟩
    · split
      · exact modOut_routed _ fun _ => rfl
      · exact discard_routed s from_ x

theorem sendOn_routed (s : State) (p : Nat) (x : OPacket) : s.Routed (s.sendOn p x) :=
  (modOut_routed p (f := fun o => { o with unacked := o.unacked ++ [x], sentAt := s.now }) fun _ => rfl).trans
    ⟨rfl, rfl, rfl, rfl, rfl, rfl, fun _ => rfl, fun _ => rfl, fun _ => rfl, fun _ => rfl⟩

theorem sendOrdered_routed (p : Nat) (xs : List OPacket) (s : State) : s.Routed (s.sendOrdered p xs) := by
  induction xs generalizing s with
  | nil => exact State.Routed.refl s
  | cons x xs ih =>
    unfold State.sendOrdered
    split
    · exact ((modOut_routed p (f := fun o => { o with queue := o.queue.erase x }) fun _ => rfl).trans (sendOn_routed _ p x)).trans (ih _)
    · exact State.Routed.refl s

theorem flushPorts_routed (s : State) : s.Routed s.flushPorts := by
  refine routed_composes.foldl (fun u po => ?_) _ _
  split
  · exact State.Routed.refl u
  · exact sendOrdered_routed _ _ u

/-- What is sent leaves the input ports as they were. -/
theorem sendOrdered_inp (p : Nat) (xs : List OPacket) (s : State) : (s.sendOrdered p xs).ord.inp = s.ord.inp := by
  induction xs generalizing s with
  | nil => rfl
  | cons x xs ih =>
    unfold State.sendOrdered
    split
    · exact ih _
    · rfl

theorem flushPorts_inp (s : State) : s.flushPorts.ord.inp = s.ord.inp := by
  refine Composes.foldl (P := fun s t => t.ord.inp = s.ord.inp) ⟨fun _ => rfl, fun _ _ _ h h' => h'.trans h⟩ (fun u po => ?_) _ _
  split
  · rfl
  · exact sendOrdered_inp _ _ u

theorem sendTagged_routed (s : State) (from_ : Option Nat) (x : OPacket) (tag : Nat × Nat) : s.Routed (s.sendTagged from_ x tag) := by
  unfold State.sendTagged
  split
  · exact (sendOn_routed s _ _).trans ⟨rfl, rfl, rfl, rfl, rfl, rfl, fun _ => rfl, fun _ => rfl, fun _ => rfl, fun _ => rfl⟩
  · exact (discard_routed s from_ x).trans ⟨rfl, rfl, rfl, rfl, rfl, rfl, fun _ => rfl, fun _ => rfl, fun _ => rfl, fun _ => rfl⟩

theorem sendClose_routed (s : State) (tag : Nat × Nat) : s.Routed (s.sendClose tag) := by
  unfold State.sendClose
  split
  · exact State.Routed.refl s
  · split
    · exact (modOut_routed _ (f := fun o => { o with closes := o.closes ++ [tag] }) fun _ => rfl).trans
        ⟨rfl, rfl, rfl, rfl, rfl, rfl, fun _ => rfl, fun _ => rfl, fun _ => rfl, fun _ => rfl⟩
    · exact State.Routed.refl s

theorem resendOrdered_routed (s : State) (port : Nat) (xs : List OPacket) (closes : List (Nat × Nat)) :
    s.Routed (s.resendOrdered port xs closes) :=
  (routed_composes.foldl (fun u _ => sendTagged_routed u none _ _) _ s).trans (routed_composes.foldl (fun u t => sendClose_routed u t) _ _)

/-! ## Injection and arrival -/

/-- A packet injected is stamped and numbered (R122). -/
theorem inject_spec (s : State) (x : OPacket) : (s.inject x).mem = s.mem ∧ (s.inject x).ord.inject = s.ord.inject ∧
    (s.inject x).ord.prevSeq = (s.ord.prevSeq + 1) % 2 ^ 64 ∧ (s.inject x).ord.prevStamp = max s.podt s.ord.prevStamp := by
  unfold State.inject
  dsimp only
  split
  · exact ⟨rfl, rfl, rfl, rfl⟩
  · have h := fun (u : State) (ch : Channel) (f : Nat → OPacket) =>
      (routed_composes.foldl (fun (u : State) d => forward_routed u none (f d)) ch.members u).trans (flushPorts_routed _)
    exact ⟨(h _ _ _).mem, (h _ _ _).inject, (h _ _ _).prevSeq, (h _ _ _).prevStamp⟩

/-- The watermark of a port that is not stuck rises to what arrives. -/
theorem raise_wm {i : InPort} (h : i.stuck = false) (b now : Nat) : (i.raise b now).wm = max i.wm b := by
  unfold InPort.raise
  rw [h, Bool.false_or]
  split
  · next hb => exact (Nat.max_eq_left (of_decide_eq_true hb)).symm
  · next hb => exact (Nat.max_eq_right (by simpa using Nat.le_of_not_le (fun h => hb (decide_eq_true h)))).symm

theorem advance_wm {s : State} {port : Nat} (h : (s.inPort port).stuck = false) (b : Nat) :
    ((s.advance port b).inPort port).wm = max (s.inPort port).wm b := by
  unfold State.advance
  rw [inPort_modIn, if_pos rfl, raise_wm h]

/-- A beacon raises the watermark of its port alone (R123). -/
theorem beaconArrive_run {s : State} {port b : Nat} (hl : s.linked port = true) (hf : (s.inPort port).frozen = false)
    (hr : (s.inPort port).removed = false) (hs : (s.inPort port).stuck = false) :
    ∃ t, exec (.orderedPacketArrive port (.beacon b)) s = .next t ∧ (t.inPort port).wm = max (s.inPort port).wm b ∧ t.mem = s.mem ∧
      ∀ q, q ≠ port → tabGet q t.ord.inp = tabGet q s.ord.inp := by
  have hrun : exec (.orderedPacketArrive port (.beacon b)) s = .next (s.advance port b).flushPorts := by
    show execOrderedPacketArrive port (.beacon b) s = _
    unfold State.inPort at hf hr
    unfold execOrderedPacketArrive
    simp only [hl, hf, hr, Bool.not_true, Bool.or_self, Bool.false_eq_true, if_false]
  have hk := flushPorts_routed (s.advance port b)
  refine ⟨_, hrun, (hk.wm port).trans (advance_wm hs b), hk.mem, fun q hq => ?_⟩
  rw [flushPorts_inp]
  exact tabGet_tabSet_other _ _ hq

/-- A packet is seen, and raises the watermark of its port to its stamp (R123). -/
theorem packetArrive_run {s : State} {port : Nat} {x : OPacket} (hx : x.tag = none) (hl : s.linked port = true)
    (hf : (s.inPort port).frozen = false) (hr : (s.inPort port).removed = false) (hs : (s.inPort port).stuck = false) :
    ∃ t, exec (.orderedPacketArrive port (.packet x)) s = .next t ∧ (t.inPort port).wm = max (s.inPort port).wm x.stamp ∧
      t.ord.seen = x :: s.ord.seen ∧ t.mem = s.mem := by
  have hrun : exec (.orderedPacketArrive port (.packet x)) s = .next ((s.advance port x.stamp).takePacket port x).flushPorts := by
    show execOrderedPacketArrive port (.packet x) s = _
    unfold State.inPort at hf hr
    unfold execOrderedPacketArrive
    simp only [hx, hl, hf, hr, Bool.not_true, Bool.or_self, Bool.false_eq_true, if_false]
  have hx' : { x with tag := none } = x := by
    rw [← hx]
  have hk := (forward_routed (({ s.advance port x.stamp with ord := { (s.advance port x.stamp).ord with
    seen := { x with tag := none } :: (s.advance port x.stamp).ord.seen } } : State).notHung x.asid) (some port) { x with tag := none }).trans
    (flushPorts_routed _)
  refine ⟨_, hrun, (hk.wm port).trans (advance_wm hs _), hk.seen.trans ?_, hk.mem⟩
  show { x with tag := none } :: s.ord.seen = x :: s.ord.seen
  rw [hx']

/-- A quiet link sends its bound (R123). -/
theorem orderedBeacon_run (s : State) (port : Nat) :
    (s.flushPorts.sends port = true → (s.flushPorts.outPort port).sentAt + 256 ≤ s.flushPorts.now →
      ∃ t, exec (.orderedBeacon port) s = .next t ∧ t.mem = s.flushPorts.mem ∧
        t.fab.out = s.flushPorts.fab.out ++ [.beacon port (s.flushPorts.bound port)] ∧ (t.outPort port).sentAt = s.flushPorts.now) ∧
      (s.flushPorts.sends port = false ∨ s.flushPorts.now < (s.flushPorts.outPort port).sentAt + 256 →
        exec (.orderedBeacon port) s = .next s.flushPorts) := by
  generalize hu : s.flushPorts = u
  have hrun : exec (.orderedBeacon port) s = if !u.sends port || u.now < (u.outPort port).sentAt + 256 then .next u
      else .next { u.modOut port fun o => { o with sentAt := u.now } with
        fab := { u.fab with out := u.fab.out ++ [.beacon port (u.bound port)] } } := by
    rw [← hu]
    rfl
  constructor
  · intro hs hn
    refine ⟨_, hrun.trans (if_neg ?_), rfl, rfl, ?_⟩
    · simp [hs, Nat.not_lt.mpr hn]
    · show ((u.modOut port _).outPort port).sentAt = _
      rw [outPort_modOut, if_pos rfl]
  · intro h
    refine hrun.trans (if_pos ?_)
    rcases h with h | h
    · simp [h]
    · simp [h]

/-! ## Delivery and stalls -/

/-- The only packet of this device: delivered below the mark, unless its queue is full (R124, R125). -/
theorem orderedDeliver_run {s : State} {x : OPacket} (hloc : s.ord.local_ = [x]) (hh : tabGet x.asid s.ord.halted = none) :
    (x.stamp < s.deliveryMark → ((tabGet (queueKey x) s.ord.queues).getD []).length < 64 → ∃ t, exec (.orderedDeliver x.asid) s = .next t ∧
      t.ord.local_ = [] ∧ tabGet (queueKey x) t.ord.queues = some ((tabGet (queueKey x) s.ord.queues).getD [] ++ [x]) ∧ t.mem = s.mem) ∧
    (x.stamp < s.deliveryMark → 64 ≤ ((tabGet (queueKey x) s.ord.queues).getD []).length → ∃ t, exec (.orderedDeliver x.asid) s = .next t ∧
      t.ord.local_ = [x] ∧ tabGet (queueKey x) t.ord.fullAt = some ((tabGet (queueKey x) s.ord.fullAt).getD s.now) ∧
      t.ord.queues = s.ord.queues ∧ t.mem = s.mem) ∧
    (s.deliveryMark ≤ x.stamp → exec (.orderedDeliver x.asid) s = .next s) := by
  have hrun : exec (.orderedDeliver x.asid) s = .next (s.deliver x.asid s.deliveryMark [x]) := by
    show execOrderedDeliver x.asid s = _
    unfold execOrderedDeliver
    rw [hloc, List.mergeSort_singleton]
  have herase : [x].erase x = [] := by simp
  refine ⟨fun hm hq => ⟨_, hrun, ?_⟩, fun hm hq => ⟨_, hrun, ?_⟩, fun hm => hrun.trans ?_⟩
  · have hstep : s.deliver x.asid s.deliveryMark [x] = { s with ord := { s.ord with
        local_ := s.ord.local_.erase x, queues := tabSet (queueKey x) ((tabGet (queueKey x) s.ord.queues).getD [] ++ [x]) s.ord.queues
        fullAt := tabDel (queueKey x) s.ord.fullAt } } := by
      simp only [State.deliver, if_neg (Nat.not_le.mpr hm), if_neg (Nat.not_le.mpr hq), hh, bne_self_eq_false, Option.isSome_none,
        Bool.or_self, Bool.false_eq_true, if_false]
    rw [hstep]
    exact ⟨by rw [hloc, herase], tabGet_tabSet_same _ _ _, rfl⟩
  · have hstep : s.deliver x.asid s.deliveryMark [x] = { s with ord := { s.ord with
        fullAt := tabSet (queueKey x) ((tabGet (queueKey x) s.ord.fullAt).getD s.now) s.ord.fullAt } } := by
      simp only [State.deliver, if_neg (Nat.not_le.mpr hm), if_pos hq]
    rw [hstep]
    exact ⟨hloc, tabGet_tabSet_same _ _ _, rfl, rfl⟩
  · simp only [State.deliver, if_pos hm]

/-- A dead port leaves the minima with its close beacon, unless a packet of it was discarded (R126, R218). -/
theorem closeBeaconArrive_run (s : State) (port : Nat) :
    ((s.inPort port).frozen = true → (s.inPort port).stuck = false → ∃ t, exec (.closeBeaconArrive s.dev.devId port) s = .next t ∧
      (t.inPort port).removed = true ∧ t.mem = s.mem) ∧
    ((s.inPort port).frozen = false ∨ (s.inPort port).stuck = true → exec (.closeBeaconArrive s.dev.devId port) s = .next s) := by
  have hrun : exec (.closeBeaconArrive s.dev.devId port) s = if (s.inPort port).frozen && !(s.inPort port).stuck then
      .next (s.modIn port fun i => { i with removed := true }).flushPorts else .next s := by
    show execCloseBeaconArrive s.dev.devId port s = _
    unfold execCloseBeaconArrive State.inPort
    rw [bne_self_eq_false, if_neg Bool.false_ne_true]
  constructor
  · intro hf hs
    have hk := flushPorts_routed (s.modIn port fun i => { i with removed := true })
    refine ⟨_, hrun.trans (if_pos (by simp [hf, hs])), (hk.removed port).trans ?_, hk.mem⟩
    rw [inPort_modIn, if_pos rfl]
  · intro h
    refine hrun.trans (if_neg ?_)
    rcases h with h | h <;> simp [h]

/-- An agent that runs is left alone by a stall. -/
theorem watermark_running {g : Agent} (h : g.act = .running) (v : Word) : g.watermark v = g := by
  unfold Agent.watermark
  rw [h]

/-- A sleeper in `ORECV` runs, to take its trap (R127). -/
theorem watermark_asleep {g : Agent} {n : Nat} (h : g.act = .asleep .orecv n) (v : Word) :
    g.watermark v = { g with act := .running, mark := .trap .watermark v } := by
  unfold Agent.watermark
  rw [h]

theorem State.setAgent_ord (s : State) (a : AgentId) (g : Agent) : (s.setAgent a g).ord = s.ord ∧ (s.setAgent a g).cur = s.cur := by
  unfold State.setAgent
  split <;> exact ⟨rfl, rfl⟩

/-- A stall told to agents changes agents alone. -/
theorem foldl_watermark_frame (v : Word) (xs : List (AgentId × Agent)) (s : State) :
    (xs.foldl (fun s ag => s.modAgent ag.1 (·.watermark v)) s).ord = s.ord ∧ (xs.foldl (fun s ag => s.modAgent ag.1 (·.watermark v)) s).cur = s.cur := by
  induction xs generalizing s with
  | nil => exact ⟨rfl, rfl⟩
  | cons x xs ih =>
    obtain ⟨hord, hcur⟩ := ih (s.modAgent x.1 (·.watermark v))
    obtain ⟨hord', hcur'⟩ := State.setAgent_ord s x.1 ((s.agent x.1).watermark v)
    exact ⟨hord.trans hord', hcur.trans hcur'⟩

/-- A sleeper among the agents told of a stall leaves `ORECV` with its trap, and keeps it. -/
theorem foldl_watermark (v : Word) (xs : List (AgentId × Agent)) (s : State) (a : AgentId) :
    ((s.agent a).act = .running → (xs.foldl (fun s ag => s.modAgent ag.1 (·.watermark v)) s).agent a = s.agent a) ∧
    (∀ n, (s.agent a).act = .asleep .orecv n → a ∈ xs.map (·.1) →
      (xs.foldl (fun s ag => s.modAgent ag.1 (·.watermark v)) s).agent a = { s.agent a with act := .running, mark := .trap .watermark v }) := by
  induction xs generalizing s with
  | nil => exact ⟨fun _ => rfl, fun n _ h => by cases h⟩
  | cons x xs ih =>
    obtain ⟨hrun, hin⟩ := ih (s.modAgent x.1 (·.watermark v))
    rw [List.foldl_cons]
    by_cases hx : a = x.1
    · subst hx
      have hread : (s.modAgent x.1 (·.watermark v)).agent x.1 = (s.agent x.1).watermark v := State.agent_setAgent s _ _
      rw [hread] at hrun
      constructor
      · intro h
        rw [watermark_running h] at hrun
        exact hrun h
      · intro n h _
        rw [watermark_asleep h] at hrun
        exact hrun rfl
    · have hread : (s.modAgent x.1 (·.watermark v)).agent a = s.agent a := State.agent_setAgent_other _ hx
      rw [hread] at hrun hin
      refine ⟨hrun, fun n h ha => hin n h ?_⟩
      rcases List.mem_cons.mp ha with ha | ha
      · exact absurd ha hx
      · exact ha

/-- A key is read back as its agent. -/
theorem agentOfKey_key (a : AgentId) : agentOfKey a.key = a := by
  obtain ⟨core, kind⟩ := a
  cases kind <;> simp [agentOfKey, AgentId.key, AgentKind.code, AgentKind.ofCode] <;> omega

/-- The current agent is one of the package's agents. -/
theorem me_mem_agents (s : State) : (s.cur, s.me) ∈ s.agents := by
  refine List.mem_map.mpr ⟨(s.cur.key, s.me), mem_of_tabGet (tabGet_tabSet_same _ _ _), ?_⟩
  rw [agentOfKey_key]

/-- A stall halts delivery for its address space, whose sleepers in `ORECV` take WATERMARK (R127). -/
theorem watermarkStall_run {s : State} {asid w : Nat} (hl : s.live asid = true) (hh : tabGet asid s.ord.halted = none)
    (hw : s.stalledMark asid = some w) : ∃ t, exec (.watermarkStall asid) s = .next t ∧ tabGet asid t.ord.halted = some w ∧ t.mem = s.mem ∧
      (∀ n, s.me.asid = asid → s.me.act = .asleep .orecv n → t.me.act = .running ∧ t.me.mark = .trap .watermark (BitVec.ofNat 64 w)) := by
  let u : State := { s with ord := { s.ord with halted := tabSet asid w s.ord.halted } }
  let xs := u.agents.filter fun ag => ag.2.asid == asid
  let t := xs.foldl (fun s ag => s.modAgent ag.1 (·.watermark (BitVec.ofNat 64 w))) u
  have hrun : exec (.watermarkStall asid) s = .next t := by
    show execWatermarkStall asid s = _
    unfold execWatermarkStall
    simp only [hl, hh, hw, Bool.not_true, Option.isSome_none, Bool.or_self, Bool.false_eq_true, if_false]
    rfl
  obtain ⟨hord, hcur⟩ := foldl_watermark_frame (BitVec.ofNat 64 w) xs u
  refine ⟨t, hrun, ?_, (foldl_modAgent_frame (fun ag : AgentId × Agent => ag.1) _ xs u).1, fun n ha hn => ?_⟩
  · rw [show t.ord = u.ord from hord]
    exact tabGet_tabSet_same _ _ _
  · have hme : ∀ v : State, v.agent v.cur = v.me := fun v => if_pos rfl
    have hmem : s.cur ∈ xs.map (·.1) :=
      List.mem_map.mpr ⟨(s.cur, s.me), List.mem_filter.mpr ⟨me_mem_agents s, by simp [ha]⟩, rfl⟩
    have htold : t.agent s.cur = { s.me with act := .running, mark := .trap .watermark (BitVec.ofNat 64 w) } :=
      ((foldl_watermark (BitVec.ofNat 64 w) xs u s.cur).2 n (by rw [show u.agent s.cur = s.me from hme u]; exact hn) hmem).trans
        (by rw [show u.agent s.cur = s.me from hme u])
    have hown : t.me = t.agent s.cur := by
      rw [← hme t, show t.cur = s.cur from hcur]
    rw [hown, htold]
    exact ⟨rfl, rfl⟩

/-! ## Death of a link, and messages -/

theorem State.SameBare.ord {s t : State} (h : s.SameBare t) : t.ord = s.ord := (congrArg State.ord h : t.bare.ord = s.bare.ord)

theorem State.SameBare.deadPorts {s t : State} (h : s.SameBare t) : t.fab.deadPorts = s.fab.deadPorts :=
  (congrArg (fun u : State => u.fab.deadPorts) h : t.bare.fab.deadPorts = s.bare.fab.deadPorts)

/-- The death of a link: its input is frozen and its output dead (R126). -/
theorem orderedDeath_spec (s : State) (port : Nat) : (s.orderedDeath port).mem = s.mem ∧
    (s.orderedDeath port).fab.deadPorts = s.fab.deadPorts ∧ ((s.orderedDeath port).outPort port).dead = true ∧
    ((s.orderedDeath port).inPort port).frozen = true := by
  unfold State.orderedDeath
  extract_lets o cold dead left
  have hk : dead.Routed ((o.queue.foldl (fun s x => s.forward none x) dead).resendOrdered port left o.closes).flushPorts :=
    ((routed_composes.foldl (fun u x => forward_routed u none x) _ _).trans (resendOrdered_routed _ port left o.closes)).trans (flushPorts_routed _)
  have hdead : (dead.outPort port).dead = true := by
    unfold dead
    rw [outPort_modOut, if_pos rfl]
  have hfrozen : (dead.inPort port).frozen = true := by
    show (cold.inPort port).frozen = true
    unfold cold
    rw [inPort_modIn, if_pos rfl]
  exact ⟨hk.mem, hk.deadPorts, (hk.dead port).trans hdead, (hk.frozen port).trans hfrozen⟩

theorem felrilLinkDeath_run {s : State} {port : Nat} (hl : s.linked port = true) (hd : port ∉ s.fab.deadPorts) :
    ∃ t, exec (.felrilLinkDeath port) s = .next t ∧ port ∈ t.fab.deadPorts ∧ (t.outPort port).dead = true ∧
      (t.inPort port).frozen = true ∧ t.mem = s.mem := by
  let u : State := { s with fab := { s.fab with deadPorts := setAdd port s.fab.deadPorts } }
  have hrun : exec (.felrilLinkDeath port) s = .next ((u.orderedDeath port).groupsDeath (u.orderedDeath port).groups) := by
    show execFelrilLinkDeath port s = _
    unfold execFelrilLinkDeath
    rw [hl, if_neg (by simpa using hd)]
  obtain ⟨hmem, hports, hout, hin⟩ := orderedDeath_spec u port
  have hg := groupsDeath_bare (u.orderedDeath port) (u.orderedDeath port).groups
  refine ⟨_, hrun, ?_, ?_, ?_, hg.mem.trans hmem⟩
  · rw [hg.deadPorts, hports]
    exact mem_setAdd_self port s.fab.deadPorts
  · unfold State.outPort at hout ⊢
    rw [hg.ord]
    exact hout
  · unfold State.inPort at hin ⊢
    rw [hg.ord]
    exact hin

/-- The only message on its way enters its inbox (R336). -/
theorem messageArrive_run {s : State} {f : Flight} (hsrc : s.isHere f.msg.src = true) (hf : s.fab.msgs = [f]) (hid : f.id = none)
    (hbox : s.hasBox f.msg = true) (hopen : s.boxOpen f.msg.core = true) : ∃ t, exec (.messageArrive f.msg) s = .next t ∧ t.fab.msgs = [] ∧
      (t.core f.msg.core).inbox = (s.core f.msg.core).inbox ++ [(f.msg.payload, f.msg.src)] ∧ t.mem = s.mem := by
  have hsame : f.sameSender f = true := by simp [Flight.sameSender]
  have hfind : (s.fab.msgs.find? fun g => g.msg == f.msg && g.id.isNone &&
      (s.fab.msgs.find? fun h => g.sameSender h && h.node == g.node) == some g) = some f := by
    simp [hf, hid, hsame]
  have hrun : exec (.messageArrive f.msg) s = .next (({ s with fab := { s.fab with msgs := s.fab.msgs.erase f } } : State).intoBox f.msg) := by
    show execMessageArrive f.msg s = _
    unfold execMessageArrive
    rw [if_pos hsrc, hfind]
    unfold State.enterBox
    simp only [hbox, hopen, Bool.not_true, Bool.false_eq_true, if_false, if_true]
  refine ⟨_, hrun, ?_, ?_, rfl⟩
  · show s.fab.msgs.erase f = []
    simp [hf]
  · unfold State.intoBox
    rw [State.core_modCore]
    rfl

end Sys2Proof.Machine

namespace Sys2Proof

open Machine

/-- Settles O55: by the frame of sending and forwarding, the delivery queue of one packet, and the fold over the agents told of a stall. -/
theorem orderedEvents : Obligations.OrderedEvents := by
  intro s port asid
  refine ⟨fun x hx => ?_, fun b hl hf hr hs => beaconArrive_run hl hf hr hs, fun x hx hl hf hr hs => packetArrive_run hx hl hf hr hs,
    orderedBeacon_run s port, fun x hx ha hh => ?_, (closeBeaconArrive_run s port).1, (closeBeaconArrive_run s port).2,
    fun w hl hh hw => watermarkStall_run hl hh hw, felrilLinkDeath_run, fun m f hsrc hf hm hid hbox hopen => ?_⟩
  · have hrun : exec .orderedInject s = .next (({ s with ord := { s.ord with inject := s.ord.inject.erase x } } : State).inject x.packet) := by
      show execOrderedInject s = _
      unfold execOrderedInject
      rw [hx]
    obtain ⟨hmem, hinj, hseq, hstamp⟩ := inject_spec ({ s with ord := { s.ord with inject := s.ord.inject.erase x } } : State) x.packet
    exact ⟨_, hrun, hseq, hstamp, hinj, hmem⟩
  · subst ha
    exact orderedDeliver_run hx hh
  · subst hm
    exact messageArrive_run hsrc hf hid hbox hopen

end Sys2Proof
end

section
/-! PROOFS. Messages (R336, R340, R341) and ordered packets (R121, R347, R348) as the words of an agent see them. -/

namespace Sys2Proof.Machine

/-! ## Messages -/

/-- A message is put on its way (R341). -/
theorem sendMsg_spec (s : State) (node v : Word) : ∃ f : Flight, (s.sendMsg node v).fab.msgs = s.fab.msgs ++ [f] ∧ f.sender = some s.cur ∧
    f.node = node ∧ f.msg = ⟨s.me.asid, s.nodeOf s.cur.core, nodeCore node, v⟩ ∧ (s.sendMsg node v).me = s.me ∧
    (s.sendMsg node v).mem = s.mem := by
  unfold State.sendMsg
  dsimp only
  split
  · exact ⟨_, rfl, rfl, rfl, rfl, rfl, rfl⟩
  · exact ⟨_, rfl, rfl, rfl, rfl, rfl, rfl⟩

theorem msend_spec {s : State} (la : BitVec 4) {a b : Reg} (ha : s.me.ctx.bindOf a.toNat = none) (hb : s.me.ctx.bindOf b.toNat = none)
    (hc : s.me.chunk.count = 0) (h : s.Ready (.msend la a b)) :
    (nodeGood (s.srcReg a) = true → s.inFlight.length < 8 →
      ∃ t f, exec (.msend la a b) s = .next t ∧ t.fab.msgs = s.fab.msgs ++ [f] ∧ f.sender = some s.cur ∧ f.node = s.srcReg a ∧
        f.msg.payload = s.srcReg b ∧ f.msg.asid = s.me.asid ∧ f.msg.core = nodeCore (s.srcReg a) ∧ t.me.ctx = s.me.ctx ∧ t.mem = s.mem) ∧
    (nodeGood (s.srcReg a) = false → exec (.msend la a b) s = .next (s.takeTrap .handle (s.srcReg a))) := by
  constructor
  · intro hgood hlen
    obtain ⟨f, hmsgs, hsender, hnode, hmsg, hme, hmem⟩ := sendMsg_spec s.alone (s.srcReg a) (s.srcReg b)
    refine ⟨s.alone.sendMsg (s.srcReg a) (s.srcReg b), f, exec_ok rfl h ?_, hmsgs, hsender, hnode, by rw [hmsg], (congrArg Msg.asid hmsg : _), by rw [hmsg],
      congrArg Agent.ctx hme, hmem⟩
    rw [bind_ok (ownM_alone hc), bind_ok (readS_plain (s := s.alone) ha), bind_ok (readS_plain (s := s.alone) hb)]
    refine (bind_ok (needM_ok hgood)).trans ?_
    rw [bind_ok (getM_run _ s.alone)]
    exact bind_ok (needM_ok (decide_eq_true hlen))
  · intro hbad
    refine exec_trap rfl h ?_
    rw [bind_ok (ownM_alone hc), bind_ok (readS_plain (s := s.alone) ha), bind_ok (readS_plain (s := s.alone) hb)]
    exact bind_error (needM_error hbad)

/-- Two registers written one after another. -/
theorem writeS_pair {s : State} {d e : Reg} (hd : s.me.ctx.bindOf d.toNat = none) (he : s.me.ctx.bindOf e.toNat = none) (v w : Word) :
    (do writeS d v; writeS e w : M Unit) s = .ok ((), (s.withReg d v).withReg e w) := by
  rw [bind_ok (writeS_plain hd)]
  refine writeS_plain ?_
  rw [State.withReg_me, Ctx.setReg_bindOf]
  exact he

theorem mrecv_spec {s : State} (la : BitVec 4) {d : Reg} (hd : s.me.ctx.bindOf d.toNat = none) (hd' : s.me.ctx.bindOf (d + 1).toNat = none)
    (hc : s.me.chunk.count = 0) (h : s.Ready (.mrecv la d)) :
    ((s.core s.cur.core).inbox = [] → exec (.mrecv la d) s = .next ((s.alone.withReg d 0).withReg (d + 1) 0)) ∧
    (∀ x xs, (s.core s.cur.core).inbox = x :: xs → exec (.mrecv la d) s =
      .next (((s.alone.modCore s.cur.core fun k => { k with inbox := xs }).withReg d x.1).withReg (d + 1) x.2)) := by
  have hread : s.alone.core s.alone.cur.core = s.core s.cur.core := rfl
  refine ⟨fun hnone => exec_ok rfl h ?_, fun x xs hx => exec_ok rfl h ?_⟩
  · rw [bind_ok (ownM_alone hc), bind_ok (getM_run _ s.alone), hread, hnone]
    exact writeS_pair (s := s.alone) hd hd' 0 0
  · rw [bind_ok (ownM_alone hc), bind_ok (getM_run _ s.alone), hread, hx]
    dsimp only
    rw [bind_ok (modM_run _ s.alone)]
    exact writeS_pair (s := s.alone.modCore s.cur.core fun k => { k with inbox := xs }) hd hd' x.1 x.2

/-! ## Ordered packets -/

/-- A channel of which this device is a member. -/
theorem channelM_ok {s : State} {c : BitVec 4} {ch : Channel} (h : s.channel s.me.asid c.toNat = some ch)
    (hm : ch.members.contains s.dev.devId = true) : channelM c s = .ok (ch, s) := by
  unfold channelM
  rw [bind_ok (getM_run _ s), h]
  dsimp only
  rw [bind_ok (getM_run _ s), bind_ok (needM_ok hm)]
  rfl

/-- A channel that is not registered, or of which this device is no member (R121). -/
theorem channelM_error {s : State} {c : BitVec 4} (h : ∀ x, s.channel s.me.asid c.toNat = some x → x.members.contains s.dev.devId = false) :
    channelM c s = .error (.trap .handle (c.zeroExtend 64)) := by
  unfold channelM
  rw [bind_ok (getM_run _ s)]
  cases hch : s.channel s.me.asid c.toNat with
  | none => rfl
  | some x =>
    dsimp only
    rw [bind_ok (getM_run _ s)]
    exact bind_error (needM_error (h x hch))

theorem osend_spec {s : State} {la : BitVec 4} {b : Reg} {c : BitVec 4} {ch : Channel} (hb : s.me.ctx.bindOf b.toNat = none)
    (hc : s.me.chunk.count = 0) (h : s.Ready (.osend la b c)) (hch : s.channel s.me.asid c.toNat = some ch)
    (hm : ch.members.contains s.dev.devId = true) (herr : s.me.err = none) : ∃ t x, exec (.osend la b c) s = .next t ∧
      t.ord.inject = s.ord.inject ++ [⟨x, s.covered s.cur⟩] ∧ x.payload = s.srcReg b ∧ x.asid = s.me.asid ∧ x.chan = c.toNat ∧
      x.src = s.dev.devId ∧ t.me.ctx = s.me.ctx ∧ t.mem = s.mem := by
  let x : OPacket := ⟨s.me.asid, c.toNat, 0, 0, s.dev.devId, 0, s.srcReg b, none⟩
  refine ⟨{ s.alone with ord := { s.ord with inject := s.ord.inject ++ [⟨x, s.covered s.cur⟩] } }, x, exec_ok rfl h ?_, rfl, rfl, rfl, rfl, rfl,
    rfl, rfl⟩
  rw [bind_ok (ownM_alone hc), bind_ok (readS_plain (s := s.alone) hb), bind_ok (channelM_ok (s := s.alone) hch hm)]
  refine (bind_ok (a := ()) (t := s.alone) ?_).trans rfl
  unfold releaseM
  rw [show s.alone.me.err = none from herr]

/-- The result registers of `ORECV` (R347). -/
def orecvResult (d : Reg) (key : Bool) (x : OPacket) : M Unit := do
  writeS d x.payload
  if key then
    writeS (d + 1) (BitVec.ofNat 64 x.stamp)
    writeS (d + 2) (BitVec.ofNat 64 x.seq)
    writeS (d + 3) (BitVec.ofNat 64 (x.src % 2 ^ 13))

/-- A delivery queue of the ordered class replaced. -/
def State.leftQueue (s : State) (k : Nat) (xs : List OPacket) : State := { s with ord := { s.ord with queues := tabSet k xs s.ord.queues } }

/-- `ORECV` of a member's channel at a queue that is not halted: it sleeps or takes the oldest packet (R347). -/
theorem orecv_spec {s : State} {la : BitVec 4} {d : Reg} {key : Bool} {c : BitVec 4} {ch : Channel} (hc : s.me.chunk.count = 0)
    (h : s.Ready (.orecv la d key c)) (hch : s.channel s.me.asid c.toNat = some ch) (hm : ch.members.contains s.dev.devId = true)
    (hin : s.me.ctx.inHandler = false) (hh : tabGet s.me.asid s.ord.halted = none) :
    ((tabGet (s.me.asid * 16 + c.toNat) s.ord.queues).getD [] = [] → exec (.orecv la d key c) s = .next (s.applyRes (.slept .orecv))) ∧
    (∀ x xs t, (tabGet (s.me.asid * 16 + c.toNat) s.ord.queues).getD [] = x :: xs →
      orecvResult d key x (s.alone.leftQueue (s.me.asid * 16 + c.toNat) xs) = .ok ((), t) →
      exec (.orecv la d key c) s = .next t) := by
  have hh' : tabGet s.alone.me.asid s.alone.ord.halted = none := hh
  refine ⟨fun hq => exec_stop (x := .sleep .orecv) rfl h ?sleeps, fun x xs t hq ht => exec_ok rfl h ?takes⟩
  case sleeps =>
    rw [bind_ok (getM_run _ s), bind_ok (legalM_ok (by rw [hin]; rfl)), bind_ok (ownM_alone hc), bind_ok (channelM_ok (s := s.alone) hch hm),
      bind_ok (getM_run _ s.alone), hh']
    dsimp only
    rw [bind_ok (getM_run _ s.alone), bind_ok (getM_run _ s.alone)]
    rw [show (tabGet (s.alone.me.asid * 16 + c.toNat) s.alone.ord.queues).getD [] = [] from hq]
    exact restM_slept h.2.2
  case takes =>
    rw [bind_ok (getM_run _ s), bind_ok (legalM_ok (by rw [hin]; rfl)), bind_ok (ownM_alone hc), bind_ok (channelM_ok (s := s.alone) hch hm),
      bind_ok (getM_run _ s.alone), hh']
    dsimp only
    rw [bind_ok (getM_run _ s.alone), bind_ok (getM_run _ s.alone)]
    rw [show (tabGet (s.alone.me.asid * 16 + c.toNat) s.alone.ord.queues).getD [] = x :: xs from hq]
    exact ht

/-- `ORECV` without `KEY` writes one register. -/
theorem orecvResult_plain {s : State} {d : Reg} (hd : s.me.ctx.bindOf d.toNat = none) (x : OPacket) :
    orecvResult d false x s = .ok ((), s.withReg d x.payload) := by
  unfold orecvResult
  rw [bind_ok (writeS_plain hd)]
  rfl

/-- `ORECV` with `KEY` writes the packet's key beside it. -/
theorem orecvResult_key {s : State} {d : Reg} (h0 : s.me.ctx.bindOf d.toNat = none) (h1 : s.me.ctx.bindOf (d + 1).toNat = none)
    (h2 : s.me.ctx.bindOf (d + 2).toNat = none) (h3 : s.me.ctx.bindOf (d + 3).toNat = none) (x : OPacket) :
    orecvResult d true x s = .ok ((), (((s.withReg d x.payload).withReg (d + 1) (BitVec.ofNat 64 x.stamp)).withReg (d + 2)
      (BitVec.ofNat 64 x.seq)).withReg (d + 3) (BitVec.ofNat 64 (x.src % 2 ^ 13))) := by
  unfold orecvResult
  rw [bind_ok (writeS_plain h0), if_pos rfl]
  refine (bind_ok (writeS_plain ?_)).trans ((bind_ok (writeS_plain ?_)).trans (writeS_plain ?_))
  all_goals
    simp only [State.withReg_me, Ctx.setReg_bindOf]
    assumption

/-- `ORECV` in a handler, of a channel that is not its device's, and of an address space whose delivery has halted (R347). -/
theorem orecv_traps {s : State} {la : BitVec 4} {d : Reg} {key : Bool} {c : BitVec 4} (hc : s.me.chunk.count = 0)
    (h : s.Ready (.orecv la d key c)) :
    (s.me.ctx.inHandler = true → exec (.orecv la d key c) s = .next (s.takeTrap .illegal (s.unit.word.zeroExtend 64))) ∧
    (s.me.ctx.inHandler = false → (∀ x, s.channel s.me.asid c.toNat = some x → x.members.contains s.dev.devId = false) →
      exec (.orecv la d key c) s = .next (s.takeTrap .handle (c.zeroExtend 64))) ∧
    (∀ w ch, s.me.ctx.inHandler = false → s.channel s.me.asid c.toNat = some ch → ch.members.contains s.dev.devId = true →
      tabGet s.me.asid s.ord.halted = some w → exec (.orecv la d key c) s = .next (s.takeTrap .watermark (BitVec.ofNat 64 w))) := by
  refine ⟨fun hin => exec_trap rfl h ?_, fun hin hch => exec_trap rfl h ?_, fun w ch hin hch hm hh => exec_trap rfl h ?_⟩
  · rw [bind_ok (getM_run _ s)]
    exact bind_error (legalM_error (by rw [hin]; rfl))
  · rw [bind_ok (getM_run _ s), bind_ok (legalM_ok (by rw [hin]; rfl)), bind_ok (ownM_alone hc)]
    exact bind_error (channelM_error (s := s.alone) hch)
  · have hh' : tabGet s.alone.me.asid s.alone.ord.halted = some w := hh
    rw [bind_ok (getM_run _ s), bind_ok (legalM_ok (by rw [hin]; rfl)), bind_ok (ownM_alone hc), bind_ok (channelM_ok (s := s.alone) hch hm),
      bind_ok (getM_run _ s.alone), hh']
    rfl

/-- Settles O48: message by message and word by word, over the test of the channel that `OSEND` and `ORECV` share. -/
theorem messages : Obligations.Messages := by
  intro s la d a b c ch hp hc
  have hd := hp d (by simp)
  have hd' := hp (d + 1) (by simp)
  have ha := hp a (by simp)
  have hb := hp b (by simp)
  refine ⟨fun h => (msend_spec la ha hb hc h).1, fun h => (msend_spec la ha hb hc h).2, fun h => (mrecv_spec la hd hd' hc h).1,
    fun x xs h => (mrecv_spec la hd hd' hc h).2 x xs, fun hch hm => ⟨fun h herr => osend_spec hb hc h hch hm herr, fun h hin hh => ?_,
      fun h hin hh hp' x xs hq => ?_⟩, fun w key hch hm hw h hin => (orecv_traps hc h).2.2 w ch hin hch hm hw,
    fun hno => ⟨fun h => exec_trap rfl h ?_, fun key h hin => (orecv_traps hc h).2.1 hin hno⟩, fun key h hin => (orecv_traps hc h).1 hin⟩
  · obtain ⟨hsleep, htake⟩ := orecv_spec hc h hch hm hin hh
    exact ⟨hsleep, fun x xs hq => ⟨_, htake x xs _ hq (orecvResult_plain (s := s.alone.leftQueue _ xs) hd x), rfl, rfl, tabGet_tabSet_same _ _ _⟩⟩
  · have htake := (orecv_spec hc h hch hm hin hh).2 x xs _ hq (orecvResult_key (s := s.alone.leftQueue _ xs) hd hd' (hp' (d + 2) (by simp)) (hp' (d + 3) (by simp)) x)
    exact ⟨_, htake, rfl⟩
  · rw [bind_ok (ownM_alone hc), bind_ok (readS_plain (s := s.alone) hb)]
    exact bind_error (channelM_error (s := s.alone) hno)

end Sys2Proof.Machine
end

section
/-! PROOFS. The twin window (R49, R50, R385) and writer capabilities (R133, R134, R283–R285). -/

namespace Sys2Proof.Machine

/-- A cell of the twin window is read as it was written, and alone is written (R50). -/
theorem twinWrite_spec (s : State) (n : BitVec 2) (v : Word) : (s.twinWrite n v).twinRead n = v ∧
    ∀ m, m ≠ n → (s.twinWrite n v).twinRead m = s.twinRead m := by
  constructor
  · show (let x := (tabGet (s.twinKey n) (tabSet (s.twinKey n) ⟨v, s.me.asid⟩ s.twins)).getD {}; if x.asid = s.me.asid then x.val else 0) = v
    rw [tabGet_tabSet_same]
    exact if_pos rfl
  · intro m hm
    have hkey : s.twinKey m ≠ s.twinKey n := fun h => hm (BitVec.eq_of_toNat_eq (Nat.add_left_cancel h))
    show (let x := (tabGet (s.twinKey m) (tabSet (s.twinKey n) ⟨v, s.me.asid⟩ s.twins)).getD {}; if x.asid = s.me.asid then x.val else 0) = _
    rw [tabGet_tabSet_other _ _ hkey]
    rfl

/-- What another address space wrote last reads 0 (R50). -/
theorem twinRead_foreign {s : State} {n : BitVec 2} {c : TwinCell} (h : tabGet (s.twinKey n) s.twins = some c) (hc : c.asid ≠ s.me.asid) :
    s.twinRead n = 0 := by
  unfold State.twinRead
  rw [h]
  exact if_neg hc

/-- Whether `CAPTAKE` takes a capability in this state (R285). -/
def State.takes (s : State) (c : CapState) : Bool := c == .free || c == .held s.cur s.myJob || c == .offered s.cur s.myJob

/-- `CAPTAKE` of a tracked handle (R285). -/
theorem captake_spec {s : State} (la : BitVec 4) {d b : Reg} {c : CapState} (hd : s.me.ctx.bindOf d.toNat = none)
    (hb : s.me.ctx.bindOf b.toNat = none) (h : s.Ready (.captake la d b)) (ht : s.me.task = none) (hc : s.me.chunk.count = 0)
    (hcap : s.capState s.me.asid (handleOf (s.srcReg b)) = some c) :
    (s.takes c = true → ∃ t, exec (.captake la d b) s = .next t ∧ tabGet (s.me.asid * 4096 + handleOf (s.srcReg b)) t.caps =
      some (.held s.cur s.myJob) ∧ t.me.ctx = s.me.ctx.setReg d 0 ∧ t.mem = s.mem) ∧
    (s.takes c = false → exec (.captake la d b) s = .next (s.alone.withReg d 1)) := by
  let h := handleOf (s.srcReg b)
  let u := s.alone.setCap s.me.asid h (.held s.cur s.myJob)
  let held := u.modJob u.myJob fun j => { j with held := setAdd h j.held }
  have hframe : held.me = s.me ∧ held.mem = s.mem ∧ held.caps = u.caps := by
    unfold held State.modJob
    split <;> exact ⟨rfl, rfl, rfl⟩
  obtain ⟨hme, hmem, hcaps⟩ := hframe
  have hlegal : s.me.task.isNone = true := by rw [ht]; rfl
  have hcap' : s.alone.capState s.alone.me.asid h = some c := hcap
  refine ⟨fun htake => ⟨held.withReg d 0, exec_ok rfl ‹_› ?takes, ?cap, ?ctx, hmem⟩, fun hno => exec_ok rfl ‹_› ?refuses⟩
  case takes =>
    rw [bind_ok (getM_run _ s), bind_ok (legalM_ok hlegal), bind_ok (ownM_alone hc), bind_ok (readS_plain (s := s.alone) hb),
      bind_ok (getM_run _ s.alone), bind_ok (getM_run _ s.alone), bind_ok (getM_run _ s.alone), bind_ok (getM_run _ s.alone)]
    rw [show s.alone.capState s.alone.me.asid (handleOf (s.alone.srcReg b)) = some c from hcap]
    refine (congrFun (if_pos htake) s.alone).trans ?_
    rw [bind_ok (modM_run _ s.alone)]
    exact writeS_plain (s := held) (by rw [hme]; exact hd)
  case cap =>
    show tabGet _ held.caps = _
    rw [hcaps]
    exact tabGet_tabSet_same _ _ _
  case ctx =>
    rw [State.withReg_me, hme]
  case refuses =>
    rw [bind_ok (getM_run _ s), bind_ok (legalM_ok hlegal), bind_ok (ownM_alone hc), bind_ok (readS_plain (s := s.alone) hb),
      bind_ok (getM_run _ s.alone), bind_ok (getM_run _ s.alone), bind_ok (getM_run _ s.alone), bind_ok (getM_run _ s.alone)]
    rw [show s.alone.capState s.alone.me.asid (handleOf (s.alone.srcReg b)) = some c from hcap]
    refine (congrFun (if_neg (fun htake => Bool.false_ne_true (hno.symm.trans htake))) s.alone).trans ?_
    exact writeS_plain (s := s.alone) hd

/-- `CAPTAKE` of a handle that tracks no capability (R285). -/
theorem captake_untracked {s : State} (la : BitVec 4) {d b : Reg} (hb : s.me.ctx.bindOf b.toNat = none) (h : s.Ready (.captake la d b))
    (ht : s.me.task = none) (hc : s.me.chunk.count = 0) (hcap : s.capState s.me.asid (handleOf (s.srcReg b)) = none) :
    exec (.captake la d b) s = .next (s.takeTrap .cap (s.srcReg b)) := by
  refine exec_trap rfl h ?_
  rw [bind_ok (getM_run _ s), bind_ok (legalM_ok (by rw [ht]; rfl)), bind_ok (ownM_alone hc), bind_ok (readS_plain (s := s.alone) hb),
    bind_ok (getM_run _ s.alone), bind_ok (getM_run _ s.alone), bind_ok (getM_run _ s.alone), bind_ok (getM_run _ s.alone)]
  rw [show s.alone.capState s.alone.me.asid (handleOf (s.alone.srcReg b)) = none from hcap]
  rfl

/-- `CAPGIVE` by the holder, to an agent of its span (R283). -/
theorem capgive_spec {s : State} (la : BitVec 4) {a b : Reg} {k : AgentKind} (ha : s.me.ctx.bindOf a.toNat = none)
    (hb : s.me.ctx.bindOf b.toNat = none) (h : s.Ready (.capgive la a b)) (hc : s.me.chunk.count = 0)
    (hw : s.writingVia (handleOf (s.srcReg a)) = false) (hcap : s.capState s.me.asid (handleOf (s.srcReg a)) = some (.held s.cur s.myJob))
    (hk : AgentKind.ofCode (wbits (s.srcReg b) 2 2) = some k) (hin : s.inMySpan (wbits (s.srcReg b) 4 12) = true) :
    exec (.capgive la a b) s =
      .next (s.alone.setCap s.me.asid (handleOf (s.srcReg a)) (.offered ⟨wbits (s.srcReg b) 4 12, k⟩ s.myJob)) := by
  refine exec_ok rfl h ?_
  rw [bind_ok (ownM_alone hc), bind_ok (readS_plain (s := s.alone) ha), bind_ok (readS_plain (s := s.alone) hb), bind_ok (getM_run _ s.alone)]
  refine (bind_ok (needM_ok (by rw [show s.alone.writingVia (handleOf (s.alone.srcReg a)) = false from hw]; rfl))).trans ?_
  rw [bind_ok (getM_run _ s.alone), bind_ok (getM_run _ s.alone), bind_ok (getM_run _ s.alone), bind_ok (getM_run _ s.alone)]
  refine (bind_ok (needM_ok ?_)).trans ?_
  · rw [show s.alone.capState s.alone.me.asid (handleOf (s.alone.srcReg a)) = some (.held s.cur s.myJob) from hcap]
    exact beq_self_eq_true _
  · rw [show AgentKind.ofCode (wbits (s.alone.srcReg b) 2 2) = some k from hk]
    dsimp only
    rw [bind_ok (getM_run _ s.alone)]
    exact bind_ok (needM_ok (show s.alone.inMySpan (wbits (s.alone.srcReg b) 4 12) = true from hin))

/-- Settles O49: word by word, over one cell of the twin window and one capability. -/
theorem twinsAndCapabilities : Obligations.TwinsAndCapabilities := by
  intro s la d a b n hp
  have hd := hp d (by simp)
  have ha := hp a (by simp)
  have hb := hp b (by simp)
  intro key
  refine ⟨fun h hc => exec_ok rfl h ?twx, fun h hc => exec_ok rfl h ?twxRd, fun h hc => exec_ok rfl h ?twxWr, fun v => twinWrite_spec s n v,
    fun c h hc => twinRead_foreign h hc, fun c h ht hc hcap => ?captake, fun h ht hc hcap => captake_untracked la hb h ht hc hcap,
    fun k h hc hw hcap hk hin => capgive_spec la ha hb h hc hw hcap hk hin, fun h => exec_ok rfl h ?capq⟩
  case twx =>
    rw [bind_ok (ownM_alone hc), bind_ok (readS_plain (s := s.alone) hb), bind_ok (getM_run _ s.alone), bind_ok (modM_run _ s.alone)]
    exact writeS_plain (s := s.alone.twinWrite n (s.srcReg b)) hd
  case twxRd =>
    rw [bind_ok (ownM_alone hc), bind_ok (getM_run _ s.alone)]
    exact writeS_plain (s := s.alone) hd
  case twxWr =>
    rw [bind_ok (ownM_alone hc), bind_ok (readS_plain (s := s.alone) hb)]
    rfl
  case captake =>
    obtain ⟨htakes, hrefuses⟩ := captake_spec la hd hb h ht hc hcap
    refine ⟨fun hcase => htakes ?_, fun hfree hheld hoffered => hrefuses ?_⟩
    · rcases hcase with hcase | hcase | hcase <;> simp [State.takes, hcase]
    · simp [State.takes, hfree, hheld, hoffered]
  case capq =>
    rw [bind_ok (readS_plain hb), bind_ok (getM_run _ s)]
    exact writeS_plain hd

end Sys2Proof.Machine
end

section
/-! PROOFS. State registers read and written (R61, R213, R313, R364). -/

namespace Sys2Proof.Machine

/-! ## `GETSR` -/

/-- A register of a main agent is read (R313). -/
theorem getsr_spec {s : State} {la : BitVec 4} {d : Reg} {i : BitVec 10} (hd : s.me.ctx.bindOf d.toNat = none) (hkind : s.cur.kind = .main)
    (h : s.Ready (.getsr la d i)) :
    (srExists i.toNat = true → (i.toNat < 0x050 ∨ 0x053 < i.toNat) →
      exec (.getsr la d i) s = .next (s.withReg d (s.sr s.cur s.me i.toNat))) ∧
    (0x050 ≤ i.toNat → i.toNat ≤ 0x053 →
      exec (.getsr la d i) s = .next (s.settlePmc.withReg d (s.settlePmc.sr s.cur s.settlePmc.me i.toNat))) ∧
    (srExists i.toNat = false → exec (.getsr la d i) s = .next (s.takeTrap .illegal (s.unit.word.zeroExtend 64))) := by
  have hmain : (s.cur.kind == .main || srLoader i.toNat) = true := by rw [hkind]; rfl
  refine ⟨fun he hn => exec_ok rfl h ?reads, fun hlo hhi => exec_ok rfl h ?counts, fun he => exec_trap rfl h ?none⟩
  case reads =>
    have hno : (0x050 ≤ i.toNat && i.toNat ≤ 0x053 : Bool) = false := by
      rw [Bool.and_eq_false_iff, decide_eq_false_iff_not, decide_eq_false_iff_not]
      omega
    rw [bind_ok (legalM_ok he), bind_ok (getM_run _ s), bind_ok (legalM_ok hmain), if_neg (by rw [hno]; exact Bool.false_ne_true)]
    refine (bind_ok (getM_run _ s)).trans ?_
    exact writeS_plain hd
  case counts =>
    have he : srExists i.toNat = true := by
      unfold srExists
      have h5 : ((0x050 ≤ i.toNat && i.toNat ≤ 0x054 : Bool)) = true := by simp; omega
      rw [h5]
      simp
    rw [bind_ok (legalM_ok he), bind_ok (getM_run _ s), bind_ok (legalM_ok hmain), if_pos (by simp [hlo, hhi])]
    refine (bind_ok (modM_run _ s)).trans ?_
    refine (bind_ok (getM_run _ s.settlePmc)).trans ?_
    exact writeS_plain (s := s.settlePmc) hd
  case none => exact bind_error (legalM_error he)

/-- The counters as `GETSR` reads them; one that counts no time keeps its count (R213). -/
theorem counter_spec (s : State) (k : Fin 4) : s.sr s.cur s.me (0x050 + k.val) = s.me.pmc[k] ∧
    (s.me.ctx.countsTime k.val = false → s.settlePmc.me.pmc[k] = s.me.pmc[k]) := by
  constructor
  · fin_cases k <;> rfl
  · intro h
    have hread : s.settlePmc.me.pmc[k] = if s.me.ctx.countsTime k.val then Config.freeWord s.me.asid (s.drawn s.me.asid + k.val) else s.me.pmc[k] :=
      Vector.getElem_ofFn k.isLt
    rw [hread, h]
    rfl

/-! ## `SETSR` -/

/-- `SETSR` once its register may be written (R364). -/
def setsrValue (n : Nat) (a : Reg) : M Unit := do
  let v ← readS a
  legalM (!(n == 0x01A && wbits v 0 3 == 7))
  legalM (!(n == 0x024 && wbits v 0 2 != 0 && (← getM (·.mySpan.ph)) == 0))
  legalM (!(n == 0x027 && (← getM (·.me.task.isSome))))
  putSr n v

/-- A value that its register admits is put there. -/
theorem setsrValue_puts {s : State} {n : Nat} {a : Reg} (ha : s.me.ctx.bindOf a.toNat = none)
    (hdvd : n = 0x01A → wbits (s.srcReg a) 0 3 ≠ 7) (hph : n = 0x024 → wbits (s.srcReg a) 0 2 = 0 ∨ s.mySpan.ph ≠ 0)
    (htask : n = 0x027 → s.me.task = none) : setsrValue n a s = putSr n (s.srcReg a) s := by
  have hdvd' : (!(n == 0x01A && wbits (s.srcReg a) 0 3 == 7)) = true := by
    simp only [Bool.not_eq_true', Bool.and_eq_false_iff, beq_eq_false_iff_ne]
    tauto
  have hph' : (!(n == 0x024 && wbits (s.srcReg a) 0 2 != 0 && s.mySpan.ph == 0)) = true := by
    simp only [Bool.not_eq_true', Bool.and_eq_false_iff, beq_eq_false_iff_ne, bne_eq_false_iff_eq]
    tauto
  have htask' : (!(n == 0x027 && s.me.task.isSome)) = true := by
    simp only [Bool.not_eq_true', Bool.and_eq_false_iff, beq_eq_false_iff_ne, Option.isSome_eq_false_iff, Option.isNone_iff_eq_none]
    tauto
  unfold setsrValue
  rw [bind_ok (readS_plain ha), bind_ok (legalM_ok hdvd'), bind_ok (getM_run _ s), bind_ok (legalM_ok hph'), bind_ok (getM_run _ s),
    bind_ok (legalM_ok htask')]

/-- `SETSR` of a plain register by a main agent (R364). -/
theorem setsr_value {s : State} {la : BitVec 4} {a : Reg} {i : BitVec 10} (hkind : s.cur.kind = .main) (h : s.Ready (.setsr la a i))
    (hw : srWritable i.toNat = true) (hsys : srSystem i.toNat = false) :
    (∀ t, setsrValue i.toNat a s = .ok ((), t) → exec (.setsr la a i) s = .next t) ∧
    (∀ c v, setsrValue i.toNat a s = .error (.trap c v) → exec (.setsr la a i) s = .next (s.takeTrap c v)) := by
  have hmain : (s.cur.kind == .main || (0x010 ≤ i.toNat && i.toNat ≤ 0x012)) = true := by rw [hkind]; rfl
  constructor
  · intro t ht
    refine exec_ok rfl h ?_
    rw [bind_ok (legalM_ok hw), bind_ok (getM_run _ s), bind_ok (legalM_ok hmain), hsys, if_neg Bool.false_ne_true]
    exact ht
  · intro c v ht
    refine exec_trap rfl h ?_
    rw [bind_ok (legalM_ok hw), bind_ok (getM_run _ s), bind_ok (legalM_ok hmain), hsys, if_neg Bool.false_ne_true]
    exact ht

/-- `SETSR` of a plain register whose value it admits. -/
theorem setsr_puts {s t : State} {la : BitVec 4} {a : Reg} {i : BitVec 10} (ha : s.me.ctx.bindOf a.toNat = none) (hkind : s.cur.kind = .main)
    (h : s.Ready (.setsr la a i)) (hw : srWritable i.toNat = true) (hsys : srSystem i.toNat = false)
    (hph : i.toNat = 0x024 → wbits (s.srcReg a) 0 2 = 0 ∨ s.mySpan.ph ≠ 0) (htask : i.toNat = 0x027 → s.me.task = none)
    (ht : putSr i.toNat (s.srcReg a) s = .ok ((), t)) : exec (.setsr la a i) s = .next t := by
  refine (setsr_value hkind h hw hsys).1 t ((setsrValue_puts ha ?_ hph htask).trans ht)
  intro hn
  rw [hn] at hsys
  exact absurd hsys (by decide)

/-- `SETSR` of a register of the system (R61, R364): a chunk of its own, at system privilege only. -/
theorem setsr_system {s : State} {la : BitVec 4} {a : Reg} {i : BitVec 10} (hkind : s.cur.kind = .main) (h : s.Ready (.setsr la a i))
    (hw : srWritable i.toNat = true) (hsys : srSystem i.toNat = true) :
    (∀ t, s.me.ctx.tin = true → s.me.chunk.count = 0 → setsrValue i.toNat a s.alone = .ok ((), t) → exec (.setsr la a i) s = .next t) ∧
    (s.me.ctx.tin = false → exec (.setsr la a i) s = .next (s.takeTrap .priv (s.unit.word.zeroExtend 64))) := by
  have hmain : (s.cur.kind == .main || (0x010 ≤ i.toNat && i.toNat ≤ 0x012)) = true := by rw [hkind]; rfl
  constructor
  · intro t hin hc ht
    refine exec_ok rfl h ?_
    rw [bind_ok (legalM_ok hw), bind_ok (getM_run _ s), bind_ok (legalM_ok hmain), hsys, if_pos rfl, bind_ok (systemM_ok hin),
      bind_ok (ownM_alone hc)]
    exact ht
  · intro hin
    refine exec_trap rfl h ?_
    rw [bind_ok (legalM_ok hw), bind_ok (getM_run _ s), bind_ok (legalM_ok hmain), hsys, if_pos rfl]
    exact bind_error (systemM_error hin)

/-- A register of the system written at system privilege. -/
theorem setsr_system_puts {s t : State} {la : BitVec 4} {a : Reg} {i : BitVec 10} (ha : s.me.ctx.bindOf a.toNat = none)
    (hkind : s.cur.kind = .main) (h : s.Ready (.setsr la a i)) (hn : i.toNat ∈ [0x013, 0x01A, 0x060])
    (hdvd : i.toNat = 0x01A → wbits (s.srcReg a) 0 3 ≠ 7) (hin : s.me.ctx.tin = true) (hc : s.me.chunk.count = 0)
    (ht : putSr i.toNat (s.srcReg a) s.alone = .ok ((), t)) : exec (.setsr la a i) s = .next t := by
  have hk : ∀ n ∈ [0x013, 0x01A, 0x060], srWritable n = true ∧ srSystem n = true ∧ n ≠ 0x024 ∧ n ≠ 0x027 := by decide
  obtain ⟨hw, hsys, h24, h27⟩ := hk _ hn
  exact (setsr_system hkind h hw hsys).1 t hin hc
    ((setsrValue_puts (s := s.alone) ha hdvd (fun h => absurd h h24) (fun h => absurd h h27)).trans ht)

/-- A value of `CYCPH` that asks for a phase while none runs, and `SWPOL` written by a task, are ILLEGAL (R364). -/
theorem setsrValue_illegal {s : State} {n : Nat} {a : Reg} (ha : s.me.ctx.bindOf a.toNat = none) :
    (n = 0x024 → wbits (s.srcReg a) 0 2 ≠ 0 → s.mySpan.ph = 0 → setsrValue n a s = .error (.trap .illegal (s.unit.word.zeroExtend 64))) ∧
    (n = 0x027 → s.me.task ≠ none → setsrValue n a s = .error (.trap .illegal (s.unit.word.zeroExtend 64))) := by
  constructor
  · rintro rfl hv hph
    unfold setsrValue
    rw [bind_ok (readS_plain ha)]
    refine (bind_ok (legalM_ok rfl)).trans ?_
    rw [bind_ok (getM_run _ s)]
    exact bind_error (legalM_error (by simp [hv, hph]))
  · rintro rfl ht
    unfold setsrValue
    rw [bind_ok (readS_plain ha)]
    refine (bind_ok (legalM_ok rfl)).trans ?_
    rw [bind_ok (getM_run _ s)]
    refine (bind_ok (legalM_ok rfl)).trans ?_
    rw [bind_ok (getM_run _ s)]
    exact bind_error (legalM_error (by simpa [Option.ne_none_iff_isSome] using ht))

/-- A counter written is that counter alone (R364). -/
theorem setPmc_spec (g : Agent) (n : Nat) (v : Word) : (∀ k : Fin 4, (g.setPmc n v).pmc[k] = if k.val = n then v else g.pmc[k]) ∧
    (g.setPmc n v).ctx.regs = g.ctx.regs :=
  ⟨fun k => Vector.getElem_ofFn k.isLt, rfl⟩

/-- Settles O50: register by register, over the tests of `GETSR` and `SETSR` and what `putSr` does to each. -/
theorem stateRegisters : Obligations.StateRegisters := by
  intro s la d a i hp hkind n v
  have hd := hp d (by simp)
  have ha := hp a (by simp)
  refine ⟨fun h => (getsr_spec hd hkind h).1, fun h => (getsr_spec hd hkind h).2.1, counter_spec s, fun h => (getsr_spec hd hkind h).2.2,
    ?core, rfl, rfl, rfl, rfl, rfl, rfl, fun h hn => ?plain, fun h hn hin hc => ?system, fun h hn hv hin hc => ?divider, fun h hn hin => ?priv,
    fun h hn => ?tol, fun h hn => ?limit, fun h hn hv => ?phase, fun h hn hv hph => ?phaseBad, fun h hn ht => ?policy, fun h hn ht => ?policyBad,
    fun h hn => ?select, fun w => rfl, fun h hn => ?counter, fun h hw => exec_trap rfl h (bind_error (legalM_error hw)), fun w => ⟨?mask, rfl, rfl⟩⟩
  case core =>
    show (BitVec.ofNat 64 s.cur.core).toNat % 2 ^ 12 = _
    rw [BitVec.toNat_ofNat]
    exact Nat.mod_mod_of_dvd _ (by decide)
  case plain =>
    have hk : ∀ m ∈ [0x010, 0x011, 0x012, 0x014, 0x015], srWritable m = true ∧ srSystem m = false ∧ m ≠ 0x024 ∧ m ≠ 0x027 := by decide
    obtain ⟨hw, hsys, h24, h27⟩ := hk _ hn
    refine setsr_puts ha hkind h hw hsys (fun h => absurd h h24) (fun h => absurd h h27) ?_
    have hput : ∀ m ∈ [0x010, 0x011, 0x012, 0x014, 0x015], putSr m v s = .ok ((), s.modCtx (·.setSr m v)) := by
      simp only [List.forall_mem_cons]
      exact ⟨rfl, rfl, rfl, rfl, rfl, fun _ h => by cases h⟩
    exact hput _ hn
  case system =>
    have hput : ∀ m ∈ [0x013, 0x060], putSr m v s.alone = .ok ((), s.alone.modCtx (·.setSr m v)) := by
      simp only [List.forall_mem_cons]
      exact ⟨rfl, rfl, fun _ h => by cases h⟩
    have hk : ∀ m ∈ [0x013, 0x060], m ∈ [0x013, 0x01A, 0x060] ∧ m ≠ 0x01A := by decide
    exact setsr_system_puts ha hkind h (hk _ hn).1 (fun h => absurd h (hk _ hn).2) hin hc (hput _ hn)
  case divider =>
    refine setsr_system_puts ha hkind h (by rw [show i.toNat = 0x01A from hn]; decide) (fun _ => hv) hin hc ?_
    rw [show i.toNat = 0x01A from hn, hn]
    rfl
  case priv =>
    have hk : ∀ m ∈ [0x013, 0x01A, 0x060], srWritable m = true ∧ srSystem m = true := by decide
    exact (setsr_system hkind h (hk _ hn).1 (hk _ hn).2).2 hin
  case tol =>
    have hn' : i.toNat = 0x021 := hn
    exact setsr_puts ha hkind h (by rw [hn']; rfl) (by rw [hn']; rfl) (fun h => by omega) (fun h => by omega) (by rw [hn']; rfl)
  case limit =>
    have hn' : i.toNat = 0x023 := hn
    exact setsr_puts ha hkind h (by rw [hn']; rfl) (by rw [hn']; rfl) (fun h => by omega) (fun h => by omega) (by rw [hn']; rfl)
  case phase =>
    have hn' : i.toNat = 0x024 := hn
    exact setsr_puts ha hkind h (by rw [hn']; rfl) (by rw [hn']; rfl) (fun _ => hv) (fun h => by omega) (by rw [hn']; rfl)
  case phaseBad =>
    have hn' : i.toNat = 0x024 := hn
    exact (setsr_value hkind h (by rw [hn']; rfl) (by rw [hn']; rfl)).2 _ _ ((setsrValue_illegal ha).1 hn hv hph)
  case policy =>
    have hn' : i.toNat = 0x027 := hn
    exact setsr_puts ha hkind h (by rw [hn']; rfl) (by rw [hn']; rfl) (fun h => by omega) (fun _ => ht) (by rw [hn']; rfl)
  case policyBad =>
    have hn' : i.toNat = 0x027 := hn
    exact (setsr_value hkind h (by rw [hn']; rfl) (by rw [hn']; rfl)).2 _ _ ((setsrValue_illegal ha).2 hn ht)
  case select =>
    have hn' : i.toNat = 0x054 := hn
    refine setsr_puts ha hkind h (by rw [hn']; rfl) (by rw [hn']; rfl) (fun h => by omega) (fun h => by omega) ?_
    rw [hn', hn]
    rfl
  case counter =>
    have hk : ∀ m ∈ [0x050, 0x051, 0x052, 0x053], srWritable m = true ∧ srSystem m = false ∧ m ≠ 0x024 ∧ m ≠ 0x027 := by decide
    have hmem : i.toNat ∈ [0x050, 0x051, 0x052, 0x053] := by simpa using hn
    obtain ⟨hw, hsys, h24, h27⟩ := hk _ hmem
    have hput : ∀ m ∈ [0x050, 0x051, 0x052, 0x053], putSr m v s = .ok ((), { s with me := s.me.setPmc (m - 0x050) v }) := by
      simp only [List.forall_mem_cons]
      exact ⟨rfl, rfl, rfl, rfl, fun _ h => by cases h⟩
    obtain ⟨hpmc, hregs⟩ := setPmc_spec s.me (i.toNat - 0x050) v
    exact ⟨_, setsr_puts ha hkind h hw hsys (fun h => absurd h h24) (fun h => absurd h h27) (hput _ hmem), hpmc, hregs, rfl⟩
  case mask =>
    have hread : (s.me.ctx.setSr 0x015 w).uimask = BitVec.ofNat 64 ((BitVec.ofNat 4 w.toNat).toNat +
        2 ^ 16 * (s.me.ctx.setSr 0x015 w).uip.toNat + 2 ^ 31 * bitNat s.me.ctx.uiin) := rfl
    rw [hread, BitVec.toNat_ofNat, BitVec.toNat_ofNat]
    generalize (s.me.ctx.setSr 0x015 w).uip.toNat = p
    generalize bitNat s.me.ctx.uiin = b
    omega

end Sys2Proof.Machine
end

section
/-! O52: which agents the summary marks where two entries of the table stand for one agent (R38). -/

namespace Sys2Proof.Machine

/-- A job hung for the second time, whose strand sleeps in `ORECV`; the table of the other agents holds one more entry under a key that no agent
has, which is read as the same agent, asleep in another word. -/
def hungTwice : State :=
  { State.reset with
    now := 10000, hung := [0], jobs := [(0, { stage := .running })]
    me := { act := .asleep .orecv 0 }
    others := [(3, { act := .asleep .orecv 0, word := 1 })] }

/-- The summary finds the job hung, and lists its strand with the word 0. -/
theorem hungTwice_quiet : hungTwice.quiet 0 { stage := .running } = true ∧
    ({ hungTwice with sumAt := 10000 } : State).listed ⟨0, .main⟩ hungTwice.me = some 0 := by decide +kernel

/-- The mark that the strand is left with comes from the other entry. -/
theorem hungTwice_marked : (({ hungTwice with sumAt := 10000 } : State).attempt (declareHung 0 { stage := .running })).me.mark = .trap .hang 1 := by
  decide +kernel

/-- Refutes O52: the clause on the second summary holds for a table of agents in which two entries stand for the current one, and there the mark is
that of the last entry. -/
theorem not_waitEvents : ¬ Obligations.WaitEvents := by
  unfold Obligations.WaitEvents
  intro h
  obtain ⟨-, -, -, -, -, hsummary, -⟩ := h hungTwice ⟨0, .main⟩
  obtain ⟨hquiet, hlisted⟩ := hungTwice_quiet
  obtain ⟨t, hrun, -, hmark⟩ := hsummary { stage := .running } 0 (by decide) rfl hquiet (List.mem_singleton.mpr rfl) (by decide) hlisted
  have hstep : exec .waitTableSummary hungTwice = .next (({ hungTwice with sumAt := 10000 } : State).attempt (declareHung 0 { stage := .running })) := by
    have hstill : hungTwice.jobs.filter (fun kj => hungTwice.quiet kj.1 kj.2) = [(0, { stage := .running })] :=
      List.filter_cons_of_pos hquiet
    show execWaitTableSummary hungTwice = _
    unfold execWaitTableSummary
    rw [if_neg (by decide)]
    dsimp only
    rw [hstill]
    rfl
  rw [hstep] at hrun
  obtain rfl := Host.Outcome.next.inj hrun
  rw [hungTwice_marked] at hmark
  exact absurd hmark (by decide)

end Sys2Proof.Machine
end

section
/-! PROOFS. The router, the deferred effects and the scheduler of a pipeline (R151–R154). -/

namespace Sys2Proof.Machine

/-! ## Attempts of the package -/

theorem State.attempt_ok {s t : State} {m : D Unit} (h : m s = .ok ((), t)) : s.attempt m = t := by
  unfold State.attempt
  rw [h]

theorem State.attempt_wait {s : State} {m : D Unit} (h : m s = .error .wait) : s.attempt m = s := by
  unfold State.attempt
  rw [h]

/-- A pipeline at work, changed. -/
theorem State.modPipe_found {s : State} {key : Nat} {x : Pipe} (h : tabGet key s.pipes = some x) (f : Pipe → Pipe) :
    s.modPipe key f = { s with pipes := tabSet key (f x) s.pipes } := by
  unfold State.modPipe
  rw [h]

theorem State.pipe_found {s : State} {key : Nat} {x : Pipe} (h : tabGet key s.pipes = some x) : s.pipe key = x := by
  unfold State.pipe
  rw [h]
  rfl

/-! ## The router (R151) -/

/-- What a router may route is a record of its pipeline. -/
theorem routable_mem {x : Pipe} {fixed : Bool} {k : Nat} {r : PRec} {i l : Nat} (h : x.routable fixed k = some (r, i, l)) : r ∈ x.recs := by
  obtain ⟨q, hq, hmap⟩ := List.exists_of_findSome?_eq_some h
  obtain ⟨il, -, heq⟩ := Option.map_eq_some_iff.mp hmap
  obtain rfl : q = r := congrArg Prod.fst heq
  exact (List.mem_filter.mp ((List.mergeSort_perm _ _).subset hq)).1

/-- The state in which a router has sent a record to stage `i`, before its header is written. -/
def State.sentToStage (s : State) (key k slot i l : Nat) : State :=
  (if s.fixedOrder key then s else s.modPipe key fun y => { y with lfsr := tabSet k l y.lfsr }).modPipe key (·.toQueue slot i)

/-- The record stands in the queue of its stage. -/
theorem sentToStage_record {s : State} {key : Nat} {x : Pipe} (h : tabGet key s.pipes = some x) (k i l : Nat) {r : PRec} (hr : r ∈ x.recs) :
    ∃ y z, tabGet key (s.sentToStage key k r.slot i l).pipes = some y ∧ z ∈ y.recs ∧ z.slot = r.slot ∧ z.stage = i ∧ z.at_ = .queue i ∧
      y.seq = x.seq := by
  have hin : ∀ w : Pipe, w.recs = x.recs → ∃ z ∈ (w.toQueue r.slot i).recs, z.slot = r.slot ∧ z.stage = i ∧ z.at_ = .queue i := fun w hw =>
    ⟨_, Pipe.mem_modRec (x := w) (fun r => { r with at_ := .queue i, stage := i, arr := w.arr }) (hw ▸ hr) rfl, rfl, rfl, rfl⟩
  have hmoved : ∀ (u : State) (w : Pipe), tabGet key u.pipes = some w → tabGet key (u.modPipe key (·.toQueue r.slot i)).pipes = some (w.toQueue r.slot i) :=
    fun u w hu => by rw [State.modPipe_found hu]; exact tabGet_tabSet_same _ _ _
  unfold State.sentToStage
  split
  · obtain ⟨z, hz, hslot, hstage, hat⟩ := hin x rfl
    exact ⟨_, z, hmoved s x h, hz, hslot, hstage, hat, rfl⟩
  · obtain ⟨z, hz, hslot, hstage, hat⟩ := hin { x with lfsr := tabSet k l x.lfsr } rfl
    refine ⟨_, z, hmoved _ _ ?_, hz, hslot, hstage, hat, rfl⟩
    rw [State.modPipe_found h]
    exact tabGet_tabSet_same _ _ _

/-- A router sends the first record that it may route (R151, R152). -/
theorem speedwellRoute_run {s : State} {asid p k : Nat} {x : Pipe} (h : tabGet (pipeKey asid p) s.pipes = some x) (hoff : s.isOff x.job = false)
    {r : PRec} {i l : Nat} (hr : x.routable (s.fixedOrder (pipeKey asid p)) k = some (r, i, l)) :
    (∀ t, stampSlot (pipeKey asid p) r.slot (s.sentToStage (pipeKey asid p) k r.slot i l) = .ok ((), t) →
      exec (.speedwellRoute asid p k) s = .next t) ∧
    (stampSlot (pipeKey asid p) r.slot (s.sentToStage (pipeKey asid p) k r.slot i l) = .error .wait → exec (.speedwellRoute asid p k) s = .next s) := by
  obtain ⟨m, hrun, hm⟩ : ∃ m : D Unit, exec (.speedwellRoute asid p k) s = .next (s.attempt m) ∧
      m s = stampSlot (pipeKey asid p) r.slot (s.sentToStage (pipeKey asid p) k r.slot i l) := by
    refine ⟨?m, ?run, ?known⟩
    case run =>
      show execSpeedwellRoute asid p k s = _
      unfold execSpeedwellRoute
      dsimp only
      rw [State.pipe_found h, hoff, if_neg Bool.false_ne_true, hr]
    case known =>
      refine (devBind_ok (devGet_run _ s)).trans ?_
      unfold State.sentToStage
      cases s.fixedOrder (pipeKey asid p) <;> rfl
  refine ⟨fun t ht => ?_, fun hwait => ?_⟩
  · rw [hrun, State.attempt_ok (hm.trans ht)]
  · rw [hrun, State.attempt_wait (hm.trans hwait)]

/-! ## Deferred effects (R153) -/

/-- What the package does with the record that settles: it moves on, once its effects in its set are performed. -/
def settleRecord (key job : Nat) (d : List Word) (r : PRec) (n : Option Nat) : D Unit := do
  if pSet d r.stage != 0 && r.left.contains (pSet d r.stage) then moveOn key r n
  else
    match ← settleEffects key r with
    | some e => endJob job e.code true
    | none =>
      devMod fun s => s.modPipe key fun x => x.modRec r.slot fun z => { z with left := pSet d r.stage :: z.left }
      moveOn key r n

theorem deferredEffects_run {s : State} {asid p : Nat} {x : Pipe} (h : tabGet (pipeKey asid p) s.pipes = some x) (hoff : s.isOff x.job = false)
    {r : PRec} {n : Option Nat} (hr : x.settles = some (r, n)) :
    exec (.deferredEffects asid p) s = .next (s.attempt (settleRecord (pipeKey asid p) x.job x.desc r n)) := by
  show execDeferredEffects asid p s = _
  unfold execDeferredEffects
  dsimp only
  rw [State.pipe_found h, hoff, if_neg Bool.false_ne_true, hr]
  rfl

/-- A record that has left its set already moves on. -/
theorem settleRecord_left {key job : Nat} {d : List Word} {r : PRec} (n : Option Nat) (h0 : pSet d r.stage ≠ 0) (hl : pSet d r.stage ∈ r.left) :
    settleRecord key job d r n = moveOn key r n := if_pos (by simp [h0, hl])

/-- The effects of a record that has not left its set are performed first. -/
theorem settleRecord_due {s : State} {key job : Nat} {d : List Word} {r : PRec} (n : Option Nat) (h : pSet d r.stage = 0 ∨ pSet d r.stage ∉ r.left) :
    (∀ t, settleEffects key r s = .ok (none, t) → settleRecord key job d r n s =
      moveOn key r n (t.modPipe key fun y => y.modRec r.slot fun z => { z with left := pSet d r.stage :: z.left })) ∧
    (∀ e t, settleEffects key r s = .ok (some e, t) → settleRecord key job d r n s = endJob job e.code true t) ∧
    (settleEffects key r s = .error .wait → settleRecord key job d r n s = .error .wait) := by
  have hno : ¬ (pSet d r.stage != 0 && r.left.contains (pSet d r.stage)) = true := by
    rcases h with h | h <;> simp [h]
  unfold settleRecord
  rw [if_neg hno]
  refine ⟨fun t ht => ?_, fun e t ht => ?_, fun hw => devBind_error hw⟩
  · rw [devBind_ok ht]
    exact devBind_ok (devMod_run _ t)
  · rw [devBind_ok ht]

/-! ## The scheduler (R154) -/

/-- A pending change of stage made. -/
theorem settleCore_found {x : Pipe} {c i : Nat} (h : tabGet c x.moves = some i) :
    x.settleCore c = { x with assign := tabSet c i x.assign, moves := tabDel c x.moves } := by
  unfold Pipe.settleCore
  rw [h]

/-- Whether a core sleeps in `PDEQ`. -/
def State.atPdeq (s : State) (c : Nat) : Bool :=
  match (s.agent ⟨c, .main⟩).act with
  | .asleep .pdeq _ => true
  | .asleep _ _ | .idle | .running | .stopped | .retired => false

/-- The scheduler gives a core to another stage, at once or at its next `PDEQ`. -/
theorem pipelineCoreMove_run {s : State} {asid p : Nat} {x : Pipe} (h : tabGet (pipeKey asid p) s.pipes = some x) (hoff : s.isOff x.job = false)
    {low high c : Nat} (hdet : (s.job x.job).det = false) (hdue : x.movedAt + 10000 ≤ s.now) (hmove : x.coreMove = some (low, high))
    (hc : ((x.assign.filter fun a => (tabGet a.1 x.moves).getD a.2 == low).map (·.1)).getLast? = some c) :
    ∃ t y, exec (.pipelineCoreMove asid p) s = .next t ∧ tabGet (pipeKey asid p) t.pipes = some y ∧ y.movedAt = s.now ∧ t.mem = s.mem ∧
      ((∃ n, (s.agent ⟨c, .main⟩).act = .asleep .pdeq n) → tabGet c y.moves = some high ∧ y.assign = x.assign) ∧
      ((∀ n, (s.agent ⟨c, .main⟩).act ≠ .asleep .pdeq n) → tabGet c y.assign = some high) := by
  let told : Pipe := { x with moves := tabSet c high x.moves, movedAt := s.now }
  have hrun : exec (.pipelineCoreMove asid p) s = .next (s.modPipe (pipeKey asid p) fun x =>
      if s.atPdeq c then { x with moves := tabSet c high x.moves, movedAt := s.now }
      else ({ x with moves := tabSet c high x.moves, movedAt := s.now } : Pipe).settleCore c) := by
    show execPipelineCoreMove asid p s = _
    unfold execPipelineCoreMove
    dsimp only
    rw [State.pipe_found h, if_neg (by simp [hoff, hdet]; omega), hmove]
    dsimp only
    rw [hc]
    rfl
  rw [State.modPipe_found h] at hrun
  have hsettled : told.settleCore c = { told with assign := tabSet c high x.assign, moves := tabDel c told.moves } :=
    settleCore_found (tabGet_tabSet_same _ _ _)
  refine ⟨_, _, hrun, tabGet_tabSet_same _ _ _, ?_, rfl, fun ⟨n, hn⟩ => ?_, fun hno => ?_⟩
  · split
    · rfl
    · rw [hsettled]
  · have hat : s.atPdeq c = true := by
      unfold State.atPdeq
      rw [hn]
    rw [if_pos hat]
    exact ⟨tabGet_tabSet_same _ _ _, rfl⟩
  · have hat : s.atPdeq c = false := by
      unfold State.atPdeq
      split
      · next n hn => exact absurd hn (hno n)
      all_goals rfl
    rw [if_neg (by rw [hat]; exact Bool.false_ne_true), hsettled]
    exact tabGet_tabSet_same _ _ _

/-- Settles O53: event by event, over the pipeline's record in its table. -/
theorem pipelineEvents : Obligations.PipelineEvents := by
  intro s asid p k x hx hoff key
  refine ⟨fun r i l hr => ?route, fun r hr h0 hl => ?left, fun r n t hr hc => ?due, fun r ws k v xs t u hk hw hrest => ?effect,
    fun low high c hdet hdue hmove hc => pipelineCoreMove_run hx hoff hdet hdue hmove hc⟩
  case route =>
    obtain ⟨hgo, hwait⟩ := speedwellRoute_run hx hoff hr
    exact ⟨hgo, hwait, sentToStage_record hx k i l (routable_mem hr)⟩
  case left =>
    have hrun := deferredEffects_run hx hoff hr
    rw [settleRecord_left none h0 hl] at hrun
    rw [State.attempt_ok (show moveOn (pipeKey asid p) r none s = .ok ((), s.modPipe (pipeKey asid p) (·.free r.slot)) from rfl),
      State.modPipe_found hx] at hrun
    refine ⟨_, _, hrun, tabGet_tabSet_same _ _ _, rfl, fun z hz => ?_⟩
    simpa using (List.mem_filter.mp hz).2
  case due =>
    have hrun := deferredEffects_run hx hoff hr
    obtain ⟨hdone, hfails, hwait⟩ := settleRecord_due (s := s) (key := pipeKey asid p) (job := x.job) n hc
    refine ⟨fun u ht hu => ?_, fun e u ht hu => ?_, fun hw => ?_⟩
    · rw [hrun, State.attempt_ok ((hdone t ht).trans hu)]
    · rw [hrun, State.attempt_ok ((hfails e t ht).trans hu)]
    · rw [hrun, State.attempt_wait (hwait hw)]
  case effect =>
    subst hk
    rw [performAll]
    refine (devBind_ok (a := Except.ok ()) (t := t) ?_).trans hrest
    unfold devTry perform
    rw [devBind_ok (devGet_run _ s), if_pos rfl, hw]

end Sys2Proof.Machine
end

section
/-! PROOFS. Start-up and the host window (R206, R214–R217, R221, R222). -/

namespace Sys2Proof.Machine

/-! ## Start-up -/

/-- With no bad position every pair keeps its default one (R15). -/
theorem placement_good : (placement []).1 = 256 := by
  have hkeep : ∀ (xs : List Nat) (x : Nat × List Nat × Tab Word), xs.foldl (placePair []) x = x := by
    intro xs x
    induction xs with
    | nil => rfl
    | cons k xs ih =>
      have hk : placePair [] x k = x := if_pos (by simp)
      rw [List.foldl_cons, hk]
      exact ih
  unfold placement
  dsimp only
  rw [hkeep]

/-- What `BOOTST` shows after start-up (R15, R221). -/
theorem bootStatus_spec (b : BootInput) (pairs : Nat) :
    ((b.sigOk = false ∨ b.digestOk = false) → bootStatus b pairs = 2) ∧
    (b.sigOk = true → b.digestOk = true → b.version < b.rollback → bootStatus b pairs = 3) ∧
    (b.sigOk = true → b.digestOk = true → b.rollback ≤ b.version → (pairs < 128 → bootStatus b pairs = 4) ∧
      (128 ≤ pairs → bootStatus b pairs = 1)) := by
  unfold bootStatus
  refine ⟨fun h => if_pos ?_, fun hs hd hv => ?_, fun hs hd hv => ⟨fun hp => ?_, fun hp => ?_⟩⟩
  · rcases h with h | h <;> simp [h]
  · simp [hs, hd, hv]
  · simp [hs, hd, Nat.not_lt.mpr hv, hp]
  · simp [hs, hd, Nat.not_lt.mpr hv, Nat.not_lt.mpr hp]

/-! ## Partitions (R217) -/

/-- A descriptor word is read as it was set. -/
theorem pdWord_setPd (s : State) (asid : Nat) {i : Nat} (v : Word) (hi : i < 16) : (s.setPd asid i v).pdWord asid i = v := by
  unfold State.setPd State.pdWord
  rw [tabGet_tabSet_same]
  simp [wordAt, hi]

/-- A partition whose pairs are free goes live (R217). -/
theorem goLive_spec {s : State} {asid : Nat} (hl : s.live asid = false) :
    (s.pairsFree asid = true → (s.goLive asid).live asid = true ∧ tabGet asid (s.goLive asid).jobCount = none ∧ (s.goLive asid).mem = s.mem) ∧
    (s.pairsFree asid = false → s.goLive asid = s) := by
  constructor
  · intro hf
    have hword : (s.goLive asid).pdWord asid 0 = BitVec.ofNat 64 ((s.pdWord asid 0).toNat / 2 * 2 + 1) := by
      unfold State.goLive
      rw [hl, hf, if_neg (by decide)]
      exact pdWord_setPd s asid _ (by decide)
    have hrest : tabGet asid (s.goLive asid).jobCount = none ∧ (s.goLive asid).mem = s.mem := by
      unfold State.goLive
      rw [hl, hf, if_neg (by decide)]
      exact ⟨tabGet_tabDel_same _ _, rfl⟩
    refine ⟨?_, hrest⟩
    unfold State.live
    rw [hword]
    have hlt := (s.pdWord asid 0).isLt
    generalize (s.pdWord asid 0).toNat = w at hlt
    simp only [wbit, wbits, BitVec.toNat_ofNat, beq_iff_eq]
    omega
  · intro hf
    unfold State.goLive
    rw [hl, hf, if_pos (by decide)]

/-! ## The aperture (R214) -/

theorem notHung_frame (s : State) (asid : Nat) : (s.notHung asid).mem = s.mem ∧ (s.notHung asid).host = s.host := ⟨rfl, rfl⟩

theorem squashAll_frame (s : State) (ls : List Nat) : (s.squashAll ls).mem = s.mem ∧ (s.squashAll ls).host = s.host ∧
    (s.squashAll ls).dev = s.dev ∧ (s.squashAll ls).jobs = s.jobs := by
  obtain ⟨-, hmem, hhost, hdev, hjobs, -⟩ := squashOthers_frame s ls
  unfold State.squashAll
  dsimp only
  split <;> exact ⟨hmem, hhost, hdev, hjobs⟩

/-- Bytes put in place from outside, where no record that waits is met and no line is poisoned. -/
theorem outsidePut_plain {s : State} {pa : Nat} {bs : List Byte} (hp : s.mem.poison = []) (hr : s.hitRecs [(pa, bs.length)] = []) :
    (s.outsidePut [(pa, bs.length)] bs).mem = { s.mem with bytes := setBytes pa bs s.mem.bytes } := by
  obtain ⟨hmem, hhost, hdev, hjobs⟩ := squashAll_frame s (segLines [(pa, bs.length)])
  have hhit : (s.squashAll (segLines [(pa, bs.length)])).hitRecs [(pa, bs.length)] = [] := by
    rw [hitRecs_congr hmem hhost hdev hjobs]
    exact hr
  have hpoke : ((s.squashAll (segLines [(pa, bs.length)])).softPoke [(pa, bs.length)] bs).mem =
      { s.mem with bytes := setBytes pa bs s.mem.bytes } := by
    rw [softPoke_plain hhit, State.pokeSegs, State.pokeSegs, State.poke, List.take_of_length_le (Nat.le_refl bs.length), hmem]
  have hclean : ((s.squashAll (segLines [(pa, bs.length)])).softPoke [(pa, bs.length)] bs).mem.poison.isEmpty = true := by
    rw [hpoke]
    exact List.isEmpty_iff.mpr hp
  unfold State.outsidePut
  dsimp only
  rw [hclean, if_pos rfl, hpoke]

/-- A write of the lower half is performed; no tag changes. -/
theorem hostWrite_lower {s : State} {off pa : Nat} {bs : List Byte} (hlow : off < 2 ^ 36) (hsegs : s.apertureSegs off bs.length true = some [(pa, bs.length)])
    (hp : s.mem.poison = []) (hr : s.hitRecs [(pa, bs.length)] = []) (hw : s.outsideWaits (segLines [(pa, bs.length)]) false true = false) :
    bytesAt (s.hostWrite off bs).mem.bytes pa bs.length = bs ∧ (s.hostWrite off bs).mem.tags = s.mem.tags := by
  have hhalf : upperHalf off = false := decide_eq_false (Nat.not_le.mpr hlow)
  have hrun : s.hostWrite off bs = (s.outsidePut [(pa, bs.length)] bs).notHung s.host.apasid := by
    unfold State.hostWrite
    simp only [hhalf, Bool.false_and, hsegs, hw, Bool.false_eq_true, if_false]
  rw [hrun, (notHung_frame _ _).1, outsidePut_plain hp hr]
  exact ⟨bytesAt_setBytes_same pa bs s.mem.bytes, rfl⟩

/-- An aligned 8-byte write of the upper half sets the word's full tag. -/
theorem hostWrite_tagged {s : State} {off pa : Nat} {bs : List Byte} (hup : 2 ^ 36 ≤ off) (ho : off % 8 = 0) (hb : s.host.apbase % 8 = 0)
    (hlen : bs.length = 8) (hsegs : s.apertureSegs off 8 true = some [(pa, 8)]) (hp : s.mem.poison = []) (hr : s.hitRecs [(pa, 8)] = [])
    (hw : s.outsideWaits (segLines [(pa, 8)]) false true = false) :
    bytesAt (s.hostWrite off bs).mem.bytes pa 8 = bs ∧ pa ∈ (s.hostWrite off bs).mem.tags := by
  have hhalf : upperHalf off = true := decide_eq_true hup
  have hrun : s.hostWrite off bs = ((s.outsidePut [(pa, bs.length)] bs).notHung s.host.apasid).setTag pa true := by
    unfold State.hostWrite
    simp only [hhalf, hlen, ho, hb, hsegs, hw, bne_self_eq_false, Bool.or_self, Bool.and_false, Bool.false_eq_true, if_false, if_true,
      List.headD_cons]
  have hput := outsidePut_plain (bs := bs) hp (hlen ▸ hr)
  rw [hrun]
  constructor
  · rw [← hlen]
    show bytesAt (s.outsidePut [(pa, bs.length)] bs).mem.bytes pa bs.length = bs
    rw [hput]
    exact bytesAt_setBytes_same pa bs s.mem.bytes
  · exact mem_setAdd_self pa _

/-- Any other write of the upper half is dropped. -/
theorem hostWrite_dropped {s : State} {off : Nat} {bs : List Byte} (hup : 2 ^ 36 ≤ off) (h : bs.length ≠ 8 ∨ off % 8 ≠ 0) :
    s.hostWrite off bs = s.setHerr 0 := by
  refine if_pos ?_
  rw [upperHalf, decide_eq_true hup]
  rcases h with h | h <;> simp [h]

/-- A bit of `HERR` set is read as set. -/
theorem setHerr_bit (s : State) {bit : Nat} (h : bit < 3) : (s.setHerr bit).host.herr[bit] = true := by
  have hset : (BitVec.ofNat 3 (2 ^ bit))[bit] = true := by
    rw [BitVec.getElem_eq_testBit_toNat, BitVec.toNat_ofNat, Nat.mod_eq_of_lt (Nat.pow_lt_pow_right (by decide) h), Nat.testBit_two_pow_self]
  show (s.host.herr ||| BitVec.ofNat 3 (2 ^ bit))[bit] = true
  rw [BitVec.getElem_or, hset, Bool.or_true]

/-- An aperture read answers with the bytes, or with all ones (R214). -/
theorem apertureRead_run {s : State} {off n : Nat} (hb : s.booted = true) (hn : off + n ≤ 2 ^ 37) :
    (∀ segs, s.apertureSegs off n false = some segs → s.outsideWaits (segLines segs) true false = false →
      ∃ t, exec (.apertureRead off n) s = .next t ∧ t.host.rd = s.bytesOf segs ∧ t.host.rdBad = meets (segLines segs) s.mem.poison ∧
        t.mem = s.mem) ∧
    (s.apertureSegs off n false = none → ∃ t, exec (.apertureRead off n) s = .next t ∧ t.host.rd = List.replicate n 0xFF ∧
      t.host.herr[2] = true ∧ t.mem = s.mem) := by
  have hno : ¬ (!s.booted || decide (2 ^ 37 < off + n)) = true := by
    rw [hb, decide_eq_false (Nat.not_lt.mpr hn)]
    exact Bool.false_ne_true
  constructor
  · intro segs hsegs hw
    refine ⟨{ s.notHung s.host.apasid with host := { s.host with rd := s.bytesOf segs, rdBad := meets (segLines segs) s.mem.poison } }, ?_, rfl, rfl, rfl⟩
    show execApertureRead off n s = _
    unfold execApertureRead
    rw [if_neg hno, hsegs]
    dsimp only
    rw [hw, if_neg Bool.false_ne_true]
    rfl
  · intro hsegs
    refine ⟨({ s with host := { s.host with rd := List.replicate n 0xFF, rdBad := false } } : State).setHerr 2, ?_, rfl, setHerr_bit _ (by decide), rfl⟩
    show execApertureRead off n s = _
    unfold execApertureRead
    rw [if_neg hno, hsegs]

/-- An aperture write, of either half, is performed at its home. -/
theorem apertureWrite_run {s : State} {off : Nat} {bs : List Byte} (hb : s.booted = true) (hn : off + bs.length ≤ 2 ^ 37) :
    exec (.apertureWrite off bs) s = .next (s.hostWrite off bs) ∧ exec (.apertureTaggedWrite off bs) s = .next (s.hostWrite off bs) := by
  have hno : ¬ (!s.booted || decide (2 ^ 37 < off + bs.length)) = true := by
    rw [hb, decide_eq_false (Nat.not_lt.mpr hn)]
    exact Bool.false_ne_true
  exact ⟨congrArg Host.Outcome.next (if_neg hno), congrArg Host.Outcome.next (if_neg hno)⟩

/-! ## Debug reads (R206) -/

/-- A scalar as the debug window shows it. -/
theorem dbgRegister_scalar (s : State) (core : Nat) (g : Agent) {r : Nat} (hr : r < 32) :
    s.dbgRegister core g (8 * r) = some (r, g.ctx.reg (BitVec.ofNat 5 r)) := by
  unfold State.dbgRegister
  rw [if_pos (by omega), Nat.mul_div_cancel_left r (by decide)]

/-- A debug read of a scalar. -/
theorem dbgRead_run {s : State} {core r : Nat} (hb : s.booted = true) (hc : s.coreExists core = true) (hr : r < 32) :
    (∀ g, s.dbgAgent core (8 * r) = some g → exec (.dbgRead core (8 * r)) s = .next (s.hostWord (g.ctx.reg (BitVec.ofNat 5 r)))) ∧
    (s.dbgAgent core (8 * r) = none → exec (.dbgRead core (8 * r)) s = .next s.notPresent) := by
  have hserved : ¬ (!s.booted || !s.coreExists core || decide (4096 ≤ 8 * r) || 8 * r % 8 != 0) = true := by
    simp [hb, hc]; omega
  have hcell : ¬ (decide (0xA00 ≤ 8 * r) && decide (8 * r < 0xA20)) = true := by
    simp; omega
  constructor
  · intro g hg
    show execDbgRead core (8 * r) s = _
    unfold execDbgRead
    rw [if_neg hserved, if_neg hcell, hg]
    dsimp only
    unfold State.showRegister
    rw [dbgRegister_scalar s core g hr]
    dsimp only
    rw [if_neg (by simp; omega)]
  · intro hg
    show execDbgRead core (8 * r) s = _
    unfold execDbgRead
    rw [if_neg hserved, if_neg hcell, hg]
    dsimp only
    rw [dbgRegister_scalar s core {} hr]
    rfl

/-- With no agent on the core, the image slot shown holds the register. -/
theorem dbgAgent_slot {s : State} {core r : Nat} {g : Agent} (hr : r < 32) (hidle : (s.agent ⟨core, .main⟩).act = .idle)
    (hg : g ∈ s.slotAgents core) (hh : s.imageHolds g r = true) :
    ∃ x ∈ s.slotAgents core, s.imageHolds x r = true ∧ s.dbgAgent core (8 * r) = some x := by
  have hagent : s.dbgAgent core (8 * r) = (s.slotAgents core).find? fun x => (s.dbgRegister core x (8 * r)).any fun r => s.imageHolds x r.1 := by
    unfold State.dbgAgent
    dsimp only
    rw [hidle]
    exact if_neg (by decide)
  have hholds : ∀ x, ((s.dbgRegister core x (8 * r)).any fun r => s.imageHolds x r.1) = s.imageHolds x r := by
    intro x
    rw [dbgRegister_scalar s core x hr]
    rfl
  cases hfind : (s.slotAgents core).find? fun x => (s.dbgRegister core x (8 * r)).any fun r => s.imageHolds x r.1 with
  | none =>
    have hno := List.find?_eq_none.mp hfind g hg
    rw [hholds] at hno
    exact absurd hh hno
  | some x =>
    have hx := List.find?_some hfind
    rw [hholds] at hx
    exact ⟨x, List.mem_of_find?_eq_some hfind, hx, hagent.trans hfind⟩

/-! ## Writes of the management window (R215, R217, R219) -/

/-- The command block takes writes while no command is given. -/
theorem commandWrite_run {s : State} {i : Nat} (v : Word) (hb : s.booted = true) (hi : i < 8) :
    (s.command = none → exec (.mgmtRegisterWrite (0x30000 + 8 * i) v) s = .next { s with host := { s.host with hcmd := s.host.hcmd.set i v } }) ∧
    (s.command.isSome = true → exec (.mgmtRegisterWrite (0x30000 + 8 * i) v) s = .next s) := by
  have hplace : exec (.mgmtRegisterWrite (0x30000 + 8 * i) v) s = if s.command.isSome then .next s
      else .next { s with host := { s.host with hcmd := s.host.hcmd.set i v } } := by
    show execMgmtRegisterWrite (0x30000 + 8 * i) v s = _
    unfold execMgmtRegisterWrite
    rw [if_neg (by simp [hb]), if_neg (by omega), if_neg (by omega), if_neg (by omega), if_neg (by simp; omega), if_pos (by simp; omega)]
    rw [show (0x30000 + 8 * i - 0x30000) / 8 = i by omega]
  rw [hplace]
  exact ⟨fun h => by rw [h]; rfl, fun h => if_pos h⟩

/-- A partition descriptor that is not live takes its words without their reserved bits. -/
theorem descriptorWrite_run {s : State} {asid i : Nat} (v : Word) (hb : s.booted = true) (ha : asid < 256) (hi : i < 12) (hi0 : i ≠ 0)
    (hl : s.live asid = false) : exec (.mgmtRegisterWrite (0x10000 + 128 * asid + 8 * i) v) s = .next (s.setPd asid i (pdMask i v)) := by
  show execMgmtRegisterWrite (0x10000 + 128 * asid + 8 * i) v s = _
  unfold execMgmtRegisterWrite
  rw [if_neg (by simp [hb]; omega), if_neg (by omega), if_neg (by omega), if_neg (by omega), if_pos (by simp; omega),
    show (0x10000 + 128 * asid + 8 * i - 0x10000) / 128 = asid by omega, show (0x10000 + 128 * asid + 8 * i) % 128 / 8 = i by omega]
  unfold State.writePd
  dsimp only
  rw [hl, if_neg Bool.false_ne_true, if_neg hi0]

/-! ## Attestation (R222) -/

/-- An answer takes `GO` away. -/
theorem answer_spec (s : State) (status : Nat) : (s.answer status).command = none ∧ (s.answer status).host.hres = BitVec.ofNat 64 (status + 2 ^ 63) ∧
    (s.answer status).mem = s.mem ∧ (s.answer status).host.sig = s.host.sig := by
  refine ⟨if_neg ?_, rfl, rfl, rfl⟩
  have hword : wordAt (s.answer status).host.hcmd 0 = BitVec.ofNat 64 ((wordAt s.host.hcmd 0).toNat % 2 ^ 63) := rfl
  rw [hword]
  simp only [wbit, wbits, BitVec.toNat_ofNat, beq_iff_eq]
  omega

/-- A command with the code of its event. -/
theorem onCommand_run {s : State} {code asid : Nat} (h : s.command = some (code, asid)) (f : Nat → State) : s.onCommand code f = .next (f asid) := by
  unfold State.onCommand
  rw [h]
  exact congrArg Host.Outcome.next (if_pos rfl)

/-- Settles O59: register by register of the window, with the two halves of the aperture on their own. -/
theorem hostEvents : Obligations.HostEvents := by
  intro s
  refine ⟨fun b => ?reset, fun hb => ?window, fun asid h => ?attest⟩
  case reset =>
    have hstatus : (s.boot b).host.bootst = bootStatus b (s.boot b).dev.pairs := by
      unfold State.boot
      dsimp only
    obtain ⟨hbad, hold, hok⟩ := bootStatus_spec b (s.boot b).dev.pairs
    rw [← hstatus] at hbad hold hok
    refine ⟨s.boot b, rfl, rfl, rfl, rfl, rfl, hbad, hold, hok, fun hpos => ?_⟩
    unfold State.boot
    dsimp only
    rw [hpos]
    exact placement_good
  case attest => 
    obtain ⟨hcmd, hres, hmem, hsig⟩ := answer_spec ({ s with host := { s.host with
      sig := (List.range 96).map (Config.attestByte (sha384 s.attestText)) } } : State) 0
    exact ⟨_, onCommand_run h _, hres, hcmd, hsig, hmem⟩
  case window =>
    have hserved : s.booted = true := by rw [State.booted, hb]; rfl
    refine ⟨fun asid ha hl => ?live, fun st v hst => ?base, fun st v hst => ?word, fun off n hn => apertureRead_run hserved hn,
      fun off bs pa hn hlow hsegs hp hr hw => ⟨_, (apertureWrite_run hserved (by omega)).1, hostWrite_lower hlow hsegs hp hr hw⟩,
      fun off bs pa hup hn ho hap hlen hsegs hp hr hw => ⟨_, (apertureWrite_run hserved (by omega)).2, hostWrite_tagged hup ho hap hlen hsegs hp hr hw⟩,
      fun off bs hup hn hbad => ⟨s.setHerr 0, ?dropped, setHerr_bit s (by decide), rfl⟩, fun v => ⟨{ s with host := { s.host with herr := s.host.herr &&& ~~~ (BitVec.ofNat 3 v.toNat) } }, ?herr, rfl, rfl⟩, fun core v hc => ?cell,
      fun core r g hc hr => ?debug, fun v => ?plain, fun i v hi => ?command, fun asid i v ha hi hi0 hl => ?descriptor⟩
    case live =>
      obtain ⟨hfree, htaken⟩ := goLive_spec hl
      have hrun : exec (.partitionGoLive asid) s = .next (s.goLive asid) :=
        congrArg Host.Outcome.next (if_pos (by simp [hserved, ha]))
      exact ⟨fun h => ⟨_, hrun, hfree h⟩, fun h => by rw [hrun, htaken h]⟩
    case base =>
      exact ⟨_, _, if_neg (by simp [hserved]; omega), tabGet_tabSet_same _ _ _, rfl, rfl, rfl⟩
    case word =>
      refine ⟨_, _, if_neg (by simp [hserved]; omega), tabGet_tabSet_same _ _ _, rfl, rfl, rfl, fun h => ?_, rfl⟩
      show (((tabGet st s.streams).getD { logn := 1 }).jerr && !wbit v 63) = false
      rw [h, Bool.not_true, Bool.and_false]
    case dropped => rw [(apertureWrite_run hserved hn).2, hostWrite_dropped hup hbad]
    case herr => exact congrArg Host.Outcome.next (if_pos hserved)
    case cell =>
      constructor
      · intro h
        refine ⟨_, congrArg Host.Outcome.next (if_pos (by simp [hserved, hc, h])), ?_, rfl⟩
        exact congrArg Core.hpend (State.core_modCore s core _)
      · exact fun h => congrArg Host.Outcome.next (if_neg (by simp [h]))
    case debug =>
      obtain ⟨hshow, hnone⟩ := dbgRead_run hserved hc hr
      refine ⟨hshow g, hnone, fun hidle hg hh => ?_⟩
      obtain ⟨x, hx, hxh, hagent⟩ := dbgAgent_slot hr hidle hg hh
      exact ⟨x, hx, hxh, hshow x hagent⟩
    case plain =>
      have hgo : ∀ off, off % 8 = 0 → ¬ (!s.booted || off % 8 != 0) = true := fun off h => by simp [hserved, h]
      refine ⟨(if_neg (hgo _ rfl)).trans (if_pos rfl), (if_neg (hgo _ rfl)).trans ((if_neg (by decide)).trans (if_pos rfl)),
        (if_neg (hgo _ rfl)).trans ((if_neg (by decide)).trans ((if_neg (by decide)).trans (if_pos rfl)))⟩
    case command =>
      obtain ⟨hgo, hstay⟩ := commandWrite_run v hserved hi
      exact ⟨fun h => ⟨_, hgo h, rfl, rfl⟩, hstay⟩
    case descriptor => exact ⟨_, descriptorWrite_run v hserved ha hi hi0 hl, pdWord_setPd s asid _ (by omega), rfl⟩

end Sys2Proof.Machine
end

section
/-! O60: a containment where the table of jobs is out of order (R219). -/

namespace Sys2Proof.Machine

/-- Contain is given for address space 0, which has one running span; the table of jobs lists a job of another address space with a greater key
before it. -/
def outOfOrder : State :=
  { State.reset with
    host := { hcmd := [BitVec.ofNat 64 (2 ^ 63 + 7)] }
    jobs := [(1, { asid := 1 }), (0, { stage := .running })] }

/-- The span, told to stop, enters the table a second time; the old entry still runs, so that the answer is a refusal. -/
theorem outOfOrder_refused : (outOfOrder.preempt 0 .host none).jobs.map (·.2.stage) = [.stopping, .waiting, .running] := by decide +kernel

theorem outOfOrder_command : outOfOrder.command = some (7, 0) ∧ outOfOrder.canSave 0 = true ∧
    (outOfOrder.jobs.filter fun kj => kj.2.asid == 0 && !kj.2.bag) = [(0, { stage := .running })] := by decide +kernel

/-- The answer that an event leaves in `HRES`. -/
def answerAfter : Host.Outcome State Fault Refusal → Option Word
  | .next t => some t.host.hres
  | _ => none

/-- The command is answered with 1. -/
theorem outOfOrder_contain : answerAfter (exec .contain outOfOrder) = some (BitVec.ofNat 64 (2 ^ 63 + 1)) := by decide +kernel

/-- Refutes O60: the clause on a containment holds for a table of jobs in any order, and where the keys do not rise the span that stops is entered
beside its old entry, which is counted as one that still runs. -/
theorem not_commandEvents : ¬ Obligations.CommandEvents := by
  unfold Obligations.CommandEvents
  intro h
  obtain ⟨hcmd, hsave, hmine⟩ := outOfOrder_command
  obtain ⟨-, -, -, -, -, -, -, -, hcontain, -⟩ := h outOfOrder
  obtain ⟨hstop, -⟩ := (hcontain 0 hcmd).2 0 { stage := .running } hmine rfl
  have hrun := hstop rfl hsave
  have hanswer := outOfOrder_contain
  rw [hrun] at hanswer
  exact absurd (Option.some.inj hanswer) (by decide)

end Sys2Proof.Machine
end

section
/-! PROOFS. The dispatcher: job streams, placement of spans, records and tasks, completion words (R23–R46, R54, R422). -/

namespace Sys2Proof.Machine

/-! ## Operations of the device -/

theorem devTry_ok {α : Type} {m : D α} {s t : State} {a : α} (h : m s = .ok (a, t)) : devTry m s = .ok (.ok a, t) := by
  unfold devTry
  rw [h]

/-- An operation that fails before it has used a reply leaves the state as it was. -/
theorem devTry_fails {α : Type} {m : D α} {s : State} {c : Cause} (h : m s = .error (.fails c [])) : devTry m s = .ok (.error c, s) := by
  unfold devTry
  rw [h]
  simp

theorem devPure_run {α : Type} (a : α) (s : State) : (pure a : D α) s = .ok (a, s) := rfl

theorem orEnd_ok {key : Nat} {m : D Unit} {s t : State} (h : m s = .ok ((), t)) : orEnd key m s = .ok ((), t) := by
  unfold orEnd
  rw [devBind_ok (devTry_ok h)]
  rfl

theorem orEnd_fails {key : Nat} {m : D Unit} {s : State} {c : Cause} (h : m s = .error (.fails c [])) :
    orEnd key m s = endJob key c.code true s := by
  unfold orEnd
  rw [devBind_ok (devTry_fails h)]

/-! ## Job streams (R41–R44) -/

/-- A stream error stands in the stream's register. -/
theorem streamError_found {s : State} {st : Nat} {x : Stream} (slot code : Nat) (h : tabGet st s.streams = some x) :
    tabGet st (s.streamError st slot code).streams = some { x with eslot := slot, ecause := code, jerr := true } := by
  unfold State.streamError
  rw [h]
  exact tabGet_tabSet_same _ _ _

/-- A slot freed for its producer (R42). -/
theorem freeSlot_frame (s : State) (st : Nat) (x : Stream) (pa : Nat) : (s.freeSlot st x pa).mem.bytes = s.mem.bytes ∧
    pa ∉ (s.freeSlot st x pa).mem.tags ∧ (s.freeSlot st x pa).host = s.host ∧ (s.freeSlot st x pa).dev = s.dev ∧
    (s.freeSlot st x pa).jobCount = s.jobCount := by
  obtain ⟨hmem, hhost, hdev, -⟩ := squashAll_frame s [lineOf pa]
  refine ⟨(congrArg Memory.bytes hmem : (s.squashAll [lineOf pa]).mem.bytes = s.mem.bytes), not_mem_setDel pa _, hhost, hdev, ?_⟩
  show (s.squashAll [lineOf pa]).jobCount = s.jobCount
  unfold State.squashAll State.squashOthers
  dsimp only
  split <;> split <;> rfl

/-- The job that a head slot makes, with the clusters its gangs take. -/
theorem enterJob_found (s : State) (j : Job) : ∃ y, tabGet (jobKey j.asid j.id) (s.enterJob j).jobs = some y ∧ y.bag = j.bag ∧ y.entry = j.entry ∧
    y.arg = j.arg ∧ y.donep = j.donep ∧ y.det = j.det ∧ (s.enterJob j).mem = s.mem ∧ (s.enterJob j).lastTaken = s.lastTaken ∧
    (s.enterJob j).streams = s.streams := by
  unfold State.enterJob
  dsimp only
  split
  · exact ⟨_, tabGet_tabSet_same _ _ _, rfl, rfl, rfl, rfl, rfl, rfl, rfl, rfl⟩
  · exact ⟨_, tabGet_tabSet_same _ _ _, rfl, rfl, rfl, rfl, rfl, rfl, rfl, rfl⟩

/-- The head slot whose turn it is, taken. -/
theorem takeSlot_run {s : State} {st pa : Nat} {x : Stream} {ws : List Word} (hx : tabGet st s.streams = some x) (hs : s.headSlot st = .slot pa ws) :
    (s.mustWait st x ws = true → exec (.takeSlot st) s = .next { s with
      streams := tabSet st { x with waitAt := some (x.waitAt.getD s.now) } s.streams }) ∧
    (s.mustWait st x ws = false → s.nextStream = some st → exec (.takeSlot st) s = .next (s.attempt (takeHead st x pa ws))) := by
  have hrun : exec (.takeSlot st) s = if s.mustWait st x ws then
      .next { s with streams := tabSet st { x with waitAt := some (x.waitAt.getD s.now) } s.streams }
      else if s.nextStream = some st then .next (s.attempt (takeHead st x pa ws)) else .next s := by
    show execTakeSlot st s = _
    unfold execTakeSlot
    rw [hx]
    dsimp only
    rw [hs]
  rw [hrun]
  refine ⟨fun h => if_pos h, fun h hn => ?_⟩
  rw [h, if_neg Bool.false_ne_true, if_pos hn]

/-- A slot whose `DONEP` fails its checks is a stream error (R43). -/
theorem takeHead_fails {s : State} {st pa : Nat} {x : Stream} {ws : List Word} {c : Cause}
    (h : (s.freeSlot st x pa).donepCheck x.asid ws = .error c) :
    takeHead st x pa ws s = .ok ((), (s.freeSlot st x pa).streamError st x.head c.code) := by
  unfold takeHead
  rw [devBind_ok (devMod_run _ s), devBind_ok (devGet_run _ _), h]
  rfl

/-- A slot of a job that its partition can hold is entered as that job (R42). -/
theorem takeHead_enters {s : State} {st pa : Nat} {x : Stream} {ws : List Word} {p : Place}
    (h : (s.freeSlot st x pa).donepCheck x.asid ws = .ok p) (hk : jKind ws ≤ 1) (hg : jKind ws = 0 → jGangs ws ≤ (s.clustersOf x.asid).length) :
    ∃ t j, takeHead st x pa ws s = .ok ((), t) ∧ t.lastTaken = st ∧ tabGet (jobKey x.asid (s.nextJob x.asid)) t.jobs = some j ∧
      j.bag = (jKind ws == 1) ∧ j.entry = wordAt ws 1 ∧ j.arg = wordAt ws 2 ∧ j.donep = wordAt ws 3 ∧ j.det = jDet ws ∧
      t.mem.bytes = s.mem.bytes ∧ pa ∉ t.mem.tags ∧
      ∃ y, tabGet st t.streams = some y ∧ y.head = (x.head + 1) % 2 ^ x.logn ∧ y.waitAt = none := by
  obtain ⟨hbytes, htag, hhost, hdev, hcount⟩ := freeSlot_frame s st x pa
  let u := s.freeSlot st x pa
  let j := u.makeJob st x ws
  let v : State := { u with jobCount := tabSet x.asid j.id u.jobCount }
  have hid : u.nextJob x.asid = s.nextJob x.asid := by
    unfold State.nextJob
    rw [show u.jobCount = s.jobCount from hcount]
  have hclusters : v.clustersOf x.asid = s.clustersOf x.asid := by
    unfold State.clustersOf State.ownsPair State.pdWord
    rw [show v.host = s.host from hhost, show v.dev = s.dev from hdev]
  have hgood : v.jobBad x ws = false := by
    unfold State.jobBad
    rw [hclusters, Bool.or_eq_false_iff, Bool.and_eq_false_iff, decide_eq_false_iff_not, decide_eq_false_iff_not, beq_eq_false_iff_ne]
    refine ⟨by omega, ?_⟩
    by_cases h0 : jKind ws = 0
    · exact Or.inr (Nat.not_lt.mpr (hg h0))
    · exact Or.inl h0
  have hbag : (jKind ws != 0) = (jKind ws == 1) := by
    have hcases : jKind ws = 0 ∨ jKind ws = 1 := by omega
    rcases hcases with h | h <;> rw [h] <;> rfl
  obtain ⟨y, hy, hbag', hentry, harg, hdonep, hdet, hmem, hlast, hstreams⟩ := enterJob_found v j
  refine ⟨v.enterJob j, y, ?run, hlast, ?job, hbag'.trans hbag, hentry, harg, hdonep, hdet, (congrArg Memory.bytes hmem).trans hbytes, ?tag, ?stream⟩
  case run =>
    unfold takeHead
    rw [devBind_ok (devMod_run _ s), devBind_ok (devGet_run _ _), h]
    dsimp only
    rw [devBind_ok (devGet_run _ _), devBind_ok (devMod_run _ _), devBind_ok (devGet_run _ _)]
    exact congrFun (if_neg (by rw [show State.jobBad _ x ws = false from hgood]; exact Bool.false_ne_true)) v
  case job =>
    rw [← hid]
    exact hy
  case tag =>
    rw [hmem]
    exact htag
  case stream =>
    rw [hstreams]
    exact ⟨_, tabGet_tabSet_same _ _ _, rfl, rfl⟩

/-- A span that has waited 1 ms at its head (R44). -/
theorem spanWait_run {s : State} {st t0 : Nat} {x : Stream} (hx : tabGet st s.streams = some x) (hw : x.waitAt = some t0) :
    exec (.spanWait1ms st) s =
      .next (if t0 + 1000000 ≤ s.now then { s with streams := tabSet st { x with blocks := true } s.streams } else s) := by
  show execSpanWait1ms st s = _
  unfold execSpanWait1ms
  rw [hx]
  dsimp only
  rw [hw]

/-! ## Placement of a span (R24, R54, R55) -/

/-- A core with no task is clear already (R202). -/
theorem evict_clear {s : State} {c : Nat} (h : (s.agent ⟨c, .main⟩).task = none) : evict c s = .ok ((), s) := by
  unfold evict
  rw [devBind_ok (devGet_run _ s), h]
  rfl

/-- Cores with no tasks are clear already. -/
theorem forM_evict_clear {s : State} {cs : List Nat} (h : ∀ c ∈ cs, (s.agent ⟨c, .main⟩).task = none) : cs.forM evict s = .ok ((), s) := by
  induction cs with
  | nil => rfl
  | cons c cs ih =>
    show (evict c >>= fun _ => cs.forM evict) s = _
    rw [devBind_ok (evict_clear (h c (List.mem_cons_self ..)))]
    exact ih fun c hc => h c (List.mem_cons_of_mem _ hc)

/-- A span with its cores clear is placed. -/
theorem spanPlace_run {s : State} {j : Job} (hj : tabGet (jobKey j.asid j.id) s.jobs = some j) (hbag : j.bag = false) (hstage : j.stage = .waiting)
    (husable : ∀ k ∈ j.gangs, s.usable k = true) (hvacant : ∀ c ∈ j.cores, s.vacant c = true)
    (htask : ∀ c ∈ j.cores, (s.agent ⟨c, .main⟩).task = none) :
    ∃ m : D Unit, exec (.spanPlace j.asid j.id) s = .next (s.attempt m) ∧ m s = placeNow j s := by
  refine ⟨placeSpan (jobKey j.asid j.id) j, ?_, ?_⟩
  · show execSpanPlace j.asid j.id s = _
    unfold execSpanPlace
    rw [hj]
    dsimp only
    rw [hbag, hstage]
    rfl
  · unfold placeSpan
    rw [devBind_ok (devGet_run _ s), List.all_eq_true.mpr husable]
    refine (devBind_ok (forM_evict_clear htask)).trans ?_
    rw [devBind_ok (devGet_run _ s), List.all_eq_true.mpr hvacant]
    rfl

/-- Bytes poked are there. -/
theorem poke_there (s : State) (a : Nat) {n : Nat} {bs : List Byte} (h : bs.length = n) : bytesAt (s.poke a bs).mem.bytes a n = bs := by
  rw [State.poke_mem, ← h]
  exact bytesAt_setBytes_same a bs s.mem.bytes

/-- Nothing but the agents, the stores and tables, the free values and the taken record of a core changes as its agents start. -/
theorem startCore_spec (s : State) (j : Job) (h : List Word) (gang slot core : Nat) :
    (s.startCore j h gang slot core).jobs = s.jobs ∧
    bytesAt (s.startCore j h gang slot core).mem.bytes (tableAddr core 0) 1024 = presetBytes 1 ∧
    (s.startCore j h gang slot core).agent ⟨core, .main⟩ = s.freshStrand j h gang slot ∧
    (imageLen h false ≠ 0 → (s.startCore j h gang slot core).agent ⟨core, .loader⟩ = freshHelper j h gang slot false) := by
  unfold State.startCore
  extract_lets main loaded stored filled
  have hjobs : ∀ (t : State) (a : AgentId) (g : Agent), (t.setAgent a g).jobs = t.jobs := fun t a g => (State.setAgent_frame t a g).2
  have hmain : main.jobs = s.jobs ∧ main.agent ⟨core, .main⟩ = s.freshStrand j h gang slot :=
    ⟨hjobs s _ _, State.agent_setAgent s ⟨core, .main⟩ _⟩
  have hloaded : loaded.jobs = s.jobs ∧ loaded.agent ⟨core, .main⟩ = s.freshStrand j h gang slot ∧
      (imageLen h false ≠ 0 → loaded.agent ⟨core, .loader⟩ = freshHelper j h gang slot false) := by
    unfold loaded
    split
    · next h0 => exact ⟨hmain.1, hmain.2, fun hne => absurd h0 hne⟩
    · exact ⟨(hjobs _ _ _).trans hmain.1, (State.agent_setAgent_other _ (by simp)).trans hmain.2, fun _ => State.agent_setAgent _ _ _⟩
  have hstored : stored.jobs = s.jobs ∧ stored.agent ⟨core, .main⟩ = s.freshStrand j h gang slot ∧
      (imageLen h false ≠ 0 → stored.agent ⟨core, .loader⟩ = freshHelper j h gang slot false) := by
    unfold stored
    split
    · exact hloaded
    · exact ⟨(hjobs _ _ _).trans hloaded.1, (State.agent_setAgent_other _ (by simp)).trans hloaded.2.1,
        fun hne => (State.agent_setAgent_other _ (by simp)).trans (hloaded.2.2 hne)⟩
  have hlast : ∀ (t : State) (f : Core → Core), (t.modCore core f).agent = t.agent := fun _ _ => rfl
  have hpoke : ∀ (t : State) (bs : List Byte), (t.poke (tableAddr core 0) bs).agent = t.agent := fun _ _ => rfl
  rw [State.modCore_jobs, State.modCore_mem, hlast, State.poke_jobs, hpoke]
  exact ⟨hstored.1, poke_there stored _ (presetBytes_length 1), hstored.2.1, hstored.2.2⟩

/-- A span of one gang and one strand starts on its core. -/
theorem startSpan_single {s : State} {j : Job} (h : List Word) (l t : List Byte) {k : Nat} (hj : tabGet (jobKey j.asid j.id) s.jobs = some j)
    (hgangs : j.gangs = [k]) (hn : j.nstr = 1) : ∃ u : State, s.startSpan j h l t = u.startCore j h 0 0 (8 * k) ∧
      tabGet (jobKey j.asid j.id) u.jobs = some { j with stage := .running, hdr := h } := by
  let cold : State := j.cores.foldl (fun s c => s.fillStores l t c) s
  have hjobs : cold.jobs = s.jobs :=
    Composes.foldl (P := fun s t => t.jobs = s.jobs) (f := fun s c => s.fillStores l t c) ⟨fun _ => rfl, fun _ _ _ h h' => h'.trans h⟩ (fun _ _ => rfl) j.cores s
  refine ⟨({ cold with groups := cold.groups.filter fun kg => !j.cores.contains (kg.1 / 64) } : State).modJob (jobKey j.asid j.id)
    fun j => { j with stage := .running, hdr := h }, ?_, ?_⟩
  · unfold State.startSpan
    dsimp only
    rw [hgangs, hn]
    rfl
  · unfold State.modJob
    rw [show tabGet (jobKey j.asid j.id) cold.jobs = some j by rw [hjobs]; exact hj]
    exact tabGet_tabSet_same _ _ _

/-- The strand of a span as it starts reads its argument in `s1` and 0 elsewhere (R41). -/
theorem freshStrand_reg (s : State) (j : Job) (h : List Word) (gang slot : Nat) : (s.freshStrand j h gang slot).ctx.reg 1 = j.arg ∧
    ∀ r, r ≠ 1 → (s.freshStrand j h gang slot).ctx.reg r = 0 := by
  refine ⟨rfl, fun r hr => ?_⟩
  unfold Ctx.reg
  split
  · rfl
  · have hne : (1 : Nat) ≠ r.toNat := fun h => hr (BitVec.eq_of_toNat_eq h.symm)
    show ((Vector.replicate 32 (0 : Word)).set 1 j.arg)[r.toNat] = 0
    rw [Vector.getElem_set_ne _ _ hne, Vector.getElem_replicate]

/-! ## Records and tasks (R27–R33, R44, R45) -/

/-- A bag's record entered, and its chain followed (R44). -/
theorem enterRecord_spec {s : State} {key : Nat} {j : Job} (asid k : Nat) (p link : Word) (hj : tabGet key s.jobs = some j) :
    ∃ y, tabGet key (s.enterRecord key asid k p link).jobs = some y ∧ (s.enterRecord key asid k p link).mem = s.mem ∧
      y.recs = j.recs ++ [({ ptr := p, at_ := .waiting, cluster := k, entry := true } : Rec)] ∧ (link = 0 → y.next = none) ∧
      (link ∈ p :: j.taken → y.next = none) ∧ (link ≠ 0 → link ∉ p :: j.taken → y.next = some link) ∧
      tabGet asid (s.enterRecord key asid k p link).bagRot = some k := by
  unfold State.enterRecord State.modJob
  rw [show tabGet key ({ s with bagRot := tabSet asid k s.bagRot } : State).jobs = some j from hj]
  refine ⟨_, tabGet_tabSet_same _ _ _, rfl, rfl, fun h => if_pos (by simp [h]), fun h => if_pos ?_, fun h0 hin => if_neg ?_, tabGet_tabSet_same _ _ _⟩
  · rw [List.contains_iff_mem.mpr h, Bool.or_true]
  · rw [Bool.or_eq_true, decide_eq_true_eq, List.contains_iff_mem]
    exact fun h => h.elim h0 hin

/-- The next record of a bag, where its cluster's queue has room. -/
theorem bagRecordEnter_run {s : State} {j : Job} {p : Word} (hj : tabGet (jobKey j.asid j.id) s.jobs = some j) (hn : j.next = some p)
    (hroom : s.queueLoad (s.nextCluster j.asid) < 256) : exec (.bagRecordEnter j.asid j.id) s =
      .next (s.attempt (orEnd (jobKey j.asid j.id) (takeRecord (jobKey j.asid j.id) (s.nextCluster j.asid) j p))) := by
  show execBagRecordEnter j.asid j.id s = _
  unfold execBagRecordEnter
  dsimp only
  rw [hj]
  dsimp only
  rw [hn]
  exact if_neg (Nat.not_le.mpr hroom)

/-- A record taken: its pointer's alignment, its head, its job and its `STATE` (R422). -/
theorem takeRecord_spec {s : State} (key k : Nat) (j : Job) (p : Word) :
    (p.toNat % 64 ≠ 0 → takeRecord key k j p s = .error (.fails .align [])) ∧
    (∀ c, p.toNat % 64 = 0 → recRead (s.recWho j) p 0 64 s = .error (.fails c []) → takeRecord key k j p s = .error (.fails c [])) ∧
    (∀ bs a b u, p.toNat % 64 = 0 → recRead (s.recWho j) p 0 64 s = .ok (bs, a) →
      recWrite (s.recWho j) p 0x38 (leBytes 8 j.id) a = .ok ((), b) → recState (s.recWho j) p 0 b = .ok ((), u) →
      takeRecord key k j p s = .ok ((), u.enterRecord key j.asid k p (wordAt (leWords 8 bs) 2))) := by
  unfold takeRecord
  refine ⟨fun h => ?_, fun c h hr => ?_, fun bs a b u h hr hw hs => ?_⟩
  · rw [if_pos (by simpa using h)]
    rfl
  · rw [if_neg (by simp [h])]
    refine (devBind_ok (devGet_run _ s)).trans ?_
    exact devBind_error hr
  · rw [if_neg (by simp [h])]
    refine (devBind_ok (devGet_run _ s)).trans ?_
    rw [devBind_ok hr, devBind_ok hw, devBind_ok hs]
    rfl

/-- A waiting record is one of a job of its address space. -/
theorem waitingRec_spec {s : State} {asid : Nat} {p : Word} {j : Job} {r : Rec} (h : s.waitingRec asid p = some (j, r)) :
    j.asid = asid ∧ r.ptr = p := by
  obtain ⟨kj, hkj, hmap⟩ := List.exists_of_findSome?_eq_some h
  obtain ⟨x, hx, heq⟩ := Option.map_eq_some_iff.mp hmap
  have hr := List.find?_some hx
  have ha := (List.mem_filter.mp hkj).2
  obtain ⟨hj, hrx⟩ := Prod.mk.inj heq
  rw [Bool.and_eq_true, beq_iff_eq] at hr
  exact ⟨hj ▸ (beq_iff_eq.mp ha), hrx ▸ hr.1⟩

/-- The readiness of a waiting record is tested, unless its queue is full (R31–R33). -/
theorem recordReady_run {s : State} {asid : Nat} {p : Word} {j : Job} {r : Rec} (h : s.waitingRec asid p = some (j, r)) :
    (r.entry = false → 256 ≤ s.queueLoad r.cluster → exec (.recordReady asid p) s = .next s) ∧
    ((r.entry = true ∨ s.queueLoad r.cluster < 256) →
      exec (.recordReady asid p) s = .next (s.attempt (orEnd (jobKey j.asid j.id) (testRecord (jobKey j.asid j.id) j r)))) := by
  have hrun : exec (.recordReady asid p) s = if !r.entry && 256 ≤ s.queueLoad r.cluster then .next s
      else .next (s.attempt (orEnd (jobKey j.asid j.id) (testRecord (jobKey j.asid j.id) j r))) := by
    show execRecordReady asid p s = _
    unfold execRecordReady
    rw [h]
  rw [hrun]
  refine ⟨fun he hl => if_pos (by simp [he, hl]), fun hc => if_neg ?_⟩
  rw [Bool.and_eq_true, Bool.not_eq_true', decide_eq_true_eq]
  rintro ⟨he, hl⟩
  rcases hc with hc | hc
  · rw [he] at hc
    cases hc
  · omega

/-- A record that became READY stands last in the queue of its cluster. -/
theorem queueRecord_spec (s : State) (key : Nat) (j : Job) (r : Rec) (prio : Nat) : (s.queueRecord key j r prio).mem = s.mem ∧
    ((s.queueRecord key j r prio).cluster r.cluster).tasks =
      (s.cluster r.cluster).tasks ++ [⟨r.ptr, j.asid, j.id, prio, s.now, none, false⟩] := by
  have hjob : ∀ (u : State) (f : Job → Job), (u.modJob key f).mem = u.mem ∧ (u.modJob key f).clusters = u.clusters := by
    intro u f
    unfold State.modJob
    split <;> exact ⟨rfl, rfl⟩
  unfold State.queueRecord
  dsimp only
  refine ⟨(hjob _ _).1, ?_⟩
  unfold State.cluster
  rw [(hjob _ _).2]
  exact congrArg Cluster.tasks (State.cluster_modCluster s r.cluster _)

/-- The conditions of a record as its test reads them (R32). -/
def readyTest (w : Who) (ws : List Word) : D Bool :=
  if 5 ≤ wbits (wordAt ws 1) 36 3 then pure true else condsReady w ((ws.drop 3).take (wbits (wordAt ws 1) 36 3))

theorem readyTest_run {w : Who} {ws : List Word} {a b : State} :
    (5 ≤ wbits (wordAt ws 1) 36 3 → readyTest w ws a = .ok (true, a)) ∧
    (∀ x, wbits (wordAt ws 1) 36 3 < 5 → condsReady w ((ws.drop 3).take (wbits (wordAt ws 1) 36 3)) a = .ok (x, b) →
      readyTest w ws a = .ok (x, b)) := by
  unfold readyTest
  refine ⟨fun h => ?_, fun x h hc => ?_⟩
  · rw [if_pos h]
    rfl
  · rw [if_neg (Nat.not_le.mpr h)]
    exact hc

/-- A record tested: one that is ready enters its queue. -/
theorem testRecord_spec {s a b : State} {key : Nat} {j : Job} {r : Rec} {bs : List Byte} (hr : recRead (s.recWho j) r.ptr 0 64 s = .ok (bs, a)) :
    (∀ t, readyTest (s.recWho j) (leWords 8 bs) a = .ok (true, b) → recState (s.recWho j) r.ptr 1 b = .ok ((), t) →
      testRecord key j r s = .ok ((), t.queueRecord key j r (wbits (wordAt (leWords 8 bs) 1) 32 3))) ∧
    (readyTest (s.recWho j) (leWords 8 bs) a = .ok (false, b) → testRecord key j r s = .ok ((), b)) := by
  refine ⟨fun t hready ht => ?_, fun hready => ?_⟩
  · unfold testRecord
    rw [devBind_ok (devGet_run _ s), devBind_ok hr]
    refine (devBind_ok hready).trans ?_
    rw [if_pos rfl, devBind_ok ht]
    rfl
  · unfold testRecord
    rw [devBind_ok (devGet_run _ s), devBind_ok hr]
    refine (devBind_ok hready).trans ?_
    rw [if_neg Bool.false_ne_true]
    rfl

/-- A core that may run tasks takes the best entry of its source (R45). -/
theorem claimRecord_run {s : State} {core asid k : Nat} {e : TaskEnt} (ha : s.asidOfPair (pairOf (clusterOf core)) = some asid)
    (hmay : s.mayClaim core = true) (hk : s.sourceCluster asid (clusterOf core) = some k) (he : bestTask s.now (s.cluster k).tasks = some e) :
    (∀ g table, e.image = some (g, table) → e.soft = false → exec (.claimRecord core) s =
      .next ((s.modCluster k fun c => { c with tasks := c.tasks.erase e }).restoreTask e core g table)) ∧
    (∀ g table, e.image = some (g, table) → e.soft = true → exec (.claimRecord core) s =
      .next (s.attempt (endJob (jobKey e.asid e.job) (Cause.soft).code true))) ∧
    (∀ t, e.image = none → startRecord e core (s.modCluster k fun c => { c with tasks := c.tasks.erase e }) = .ok ((), t) →
      exec (.claimRecord core) s = .next t) := by
  refine ⟨fun g table him hs => ?_, fun g table him hs => ?_, fun t him ht => ?_⟩
  · show execClaimRecord core s = _
    unfold execClaimRecord
    rw [ha]
    dsimp only
    rw [hmay, hk]
    dsimp only
    rw [he]
    dsimp only
    rw [him]
    dsimp only
    rw [hs]
    rfl
  · show execClaimRecord core s = _
    unfold execClaimRecord
    rw [ha]
    dsimp only
    rw [hmay, hk]
    dsimp only
    rw [he]
    dsimp only
    rw [him]
    dsimp only
    rw [hs]
    rfl
  · show execClaimRecord core s = _
    unfold execClaimRecord
    rw [ha]
    dsimp only
    rw [hmay, hk]
    dsimp only
    rw [he]
    dsimp only
    rw [him]
    exact congrArg Host.Outcome.next (State.attempt_ok ((devBind_ok (devMod_run _ s)).trans (orEnd_ok ht)))

theorem modJob_agents (s : State) (key : Nat) (f : Job → Job) : (s.modJob key f).agent = s.agent ∧ (s.modJob key f).mem = s.mem ∧
    (s.modJob key f).clusters = s.clusters := by
  unfold State.modJob
  split <;> exact ⟨rfl, rfl, rfl⟩

/-- A stopped task restored with the table it left (R202). -/
theorem restoreTask_spec {s : State} (e : TaskEnt) (core : Nat) (g : Agent) {table : List Byte} (hlen : table.length = 1024) :
    (s.restoreTask e core g table).agent ⟨core, .main⟩ = g.goOn ∧
    bytesAt (s.restoreTask e core g table).mem.bytes (tableAddr core 0) 1024 = table ∧ (s.restoreTask e core g table).clusters = s.clusters := by
  have hmod := modJob_agents ((s.setAgent ⟨core, .main⟩ g.goOn).poke (tableAddr core 0) table) (jobKey e.asid e.job) fun j =>
    { j with recs := j.recs.map fun r => if r.ptr = e.ptr then { r with at_ := .running core } else r }
  obtain ⟨hagent, hmem, hclusters⟩ := hmod
  refine ⟨(congrFun hagent _).trans (State.agent_setAgent s _ _), ?_, hclusters.trans ?_⟩
  · refine (congrArg (fun m : Memory => bytesAt m.bytes (tableAddr core 0) 1024) hmem).trans ?_
    rw [State.poke_mem, ← hlen]
    exact bytesAt_setBytes_same _ _ _
  · show (s.setAgent _ _).clusters = s.clusters
    unfold State.setAgent
    split <;> rfl

/-- The state in which a task has begun on a core from its record. -/
def State.taskBegun (s : State) (e : TaskEnt) (core : Nat) (ws tail : List Word) : State :=
  ((s.setAgent ⟨core, .main⟩ (s.freshTask e core ws tail)).draw e.asid 128).moveRec (jobKey e.asid e.job) e.ptr (.running core)

theorem taskBegun_agent (s : State) (e : TaskEnt) (core : Nat) (ws tail : List Word) :
    (s.taskBegun e core ws tail).agent ⟨core, .main⟩ = s.freshTask e core ws tail :=
  (congrFun (modJob_agents _ _ _).1 _).trans (State.agent_setAgent s _ _)

/-- A record starts on a core, or takes ILLEGAL there (R28, R29). -/
theorem startRecord_spec {u b c d f : State} {e : TaskEnt} {core : Nat} {bs : List Byte} {bad : Bool} {tail : List Word}
    (hstate : recState { u.whoOf e.asid (jobKey e.asid e.job) ⟨core, .main⟩ with wgen := 0 } e.ptr 2 u = .ok ((), b))
    (hread : recRead { u.whoOf e.asid (jobKey e.asid e.job) ⟨core, .main⟩ with wgen := 0 } e.ptr 0 64 b = .ok (bs, c))
    (hbad : headBad { u.whoOf e.asid (jobKey e.asid e.job) ⟨core, .main⟩ with wgen := 0 } (leWords 8 bs) c = .ok (bad, d))
    (htail : readTail { u.whoOf e.asid (jobKey e.asid e.job) ⟨core, .main⟩ with wgen := 0 } e.ptr (leWords 8 bs) d = .ok (tail, f)) :
    startRecord e core u = if bad then trapAt ⟨core, .main⟩ .illegal (wordAt (leWords 8 bs) 1) (f.taskBegun e core (leWords 8 bs) tail)
      else .ok ((), f.taskBegun e core (leWords 8 bs) tail) := by
  unfold startRecord
  rw [devBind_ok (devGet_run _ u), devBind_ok hstate, devBind_ok hread, devBind_ok hbad, devBind_ok htail, devBind_ok (devMod_run _ f)]
  cases bad <;> rfl

/-! ## Completion (R26, R42) -/

/-- The dispatcher's completion word of a job: a stream error where its place fails its checks. -/
theorem finishWord_spec {c : State} (j : Job) (status : Nat) (cov : List Nat) :
    (∀ e, c.donepPlace { c.whoOf j.asid (jobKey j.asid j.id) ⟨0, .main⟩ with det := false } j.donep 8 = .error e →
      finishWord j status cov c = .ok ((), c.streamError j.stream j.slotIx e.code)) ∧
    (∀ pl v, c.donepPlace { c.whoOf j.asid (jobKey j.asid j.id) ⟨0, .main⟩ with det := false } j.donep 8 = .ok pl →
      finishAt { c.whoOf j.asid (jobKey j.asid j.id) ⟨0, .main⟩ with det := false } j.donep status cov pl c = .ok ((), v) →
      finishWord j status cov c = .ok ((), v)) := by
  unfold finishWord
  refine ⟨fun e h => ?_, fun pl v h hv => ?_⟩
  · rw [devBind_ok (devGet_run _ c), devBind_ok (devGet_run _ c), h]
    rfl
  · rw [devBind_ok (devGet_run _ c), devBind_ok (devGet_run _ c), h]
    dsimp only
    rw [devBind_ok (devTry_ok hv)]
    rfl

/-- A job that is complete ends, once what it still counts is flushed. -/
theorem jobComplete_run {s u t : State} {j : Job} (hj : tabGet (jobKey j.asid j.id) s.jobs = some j) (hf : s.finished (jobKey j.asid j.id) j = true)
    (hdet : j.det = false) (hflush : flushJob j.asid (jobKey j.asid j.id) s = .ok ((), u))
    (ht : finishWord j 0 (u.jobOutside (jobKey j.asid j.id)) (u.clearJob (jobKey j.asid j.id)) = .ok ((), t)) :
    exec (.jobComplete j.asid j.id) s = .next t := by
  show execJobComplete j.asid j.id s = _
  unfold execJobComplete
  dsimp only
  rw [hj]
  dsimp only
  rw [hf, if_neg (by decide)]
  refine congrArg Host.Outcome.next (State.attempt_ok ?_)
  have hstatus : writeDigest j u = .ok (0, u) := by
    unfold writeDigest
    rw [hdet]
    rfl
  rw [devBind_ok hflush, devBind_ok hstatus]
  unfold endWord
  rw [devBind_ok (devGet_run _ u), devBind_ok (devMod_run _ u)]
  exact ht

/-- Bytes that the device writes at a grant of its own below the stash. -/
theorem devStore_low {c : State} (w : Who) {pa : Nat} {bs : List Byte} (hpa : pa < 2 ^ 44)
    (hown : c.ownedNot none (segLines [(pa, bs.length)]) = false) (hres : c.reservedAny (segLines [(pa, bs.length)]) = false) :
    ∃ t, devStore none w false [(pa, bs.length)] bs c = .ok ((), t) ∧ t.mem.bytes = setBytes pa bs c.mem.bytes ∧ t.jobs = c.jobs := by
  let u := (c.pinDev w.job [(pa, bs.length)]).squashAll (segLines [(pa, bs.length)])
  have hu : u.mem = c.mem ∧ u.jobs = c.jobs := by
    have hpin : c.pinDev w.job [(pa, bs.length)] = c.squashAll [] := by
      unfold State.pinDev
      rw [swapLines_low hpa, pinSegs_low hpa]
    have h1 := squashAll_frame c []
    have h2 := squashAll_frame (c.squashAll []) (segLines [(pa, bs.length)])
    unfold u
    rw [hpin]
    exact ⟨h2.1.trans h1.1, h2.2.2.2.trans h1.2.2.2⟩
  have hpoke : (u.pokeSegs [(pa, bs.length)] bs).mem.bytes = setBytes pa bs c.mem.bytes := by
    rw [State.pokeSegs, State.pokeSegs, State.poke_mem, List.take_of_length_le (Nat.le_refl bs.length), hu.1]
  have hrun : devStore none w false [(pa, bs.length)] bs c = .ok ((), if (u.pokeSegs [(pa, bs.length)] bs).mem.poison.isEmpty
      then u.pokeSegs [(pa, bs.length)] bs else (u.pokeSegs [(pa, bs.length)] bs).clearPoison (holdSegs [(pa, bs.length)] bs [])) := by
    unfold devStore
    rw [frozenSegs_low hpa, swapLines_low hpa]
    dsimp only
    rw [List.append_nil, hown, hres]
    rfl
  refine ⟨_, hrun, ?_, ?_⟩
  · split <;> exact hpoke
  · split <;> exact hu.2

/-- A completion word below the stash, outside any window: its bytes and its full tag (R42). -/
theorem finishAt_low {c : State} (w : Who) {p : Word} {pa : Nat} (status : Nat) (cov : List Nat) (hpa : pa + 8 ≤ 2 ^ 44)
    (hwin : hWin (c.handle w.asid (handleOf p)) = 0) (hown : c.ownedNot none (segLines [(pa, 8)]) = false)
    (hres : c.reservedAny (segLines [(pa, 8)]) = false) : ∃ t, finishAt w p status cov (.mem [(pa, 8)]) c = .ok ((), t) ∧ t.jobs = c.jobs ∧
      bytesAt t.mem.bytes pa 8 = doneBytes status ∧ pa ∈ t.mem.tags := by
  have hlen : (doneBytes status).length = 8 := leBytes_length _ _
  obtain ⟨u, hu, hbytes, hjobs⟩ := devStore_low w (bs := doneBytes status) (by omega) (hlen ▸ hown) (hlen ▸ hres)
  have hput : putDone w p status (.mem [(pa, 8)]) c = .ok ((), u.setTag pa true) := by
    unfold putDone
    rw [devBind_ok (devGet_run _ c)]
    refine (devBind_ok (a := ()) (t := u) ?_).trans ?_
    · unfold writePlace
      dsimp only
      rw [hwin, if_pos rfl, devBind_ok (devPure_run _ c), ← hu, hlen]
    · dsimp only
      rw [hwin, if_pos rfl]
      rfl
  have hread : bytesAt u.mem.bytes pa 8 = doneBytes status := by
    rw [hbytes, ← hlen]
    exact bytesAt_setBytes_same _ _ _
  unfold finishAt
  dsimp only
  rw [devBind_ok hput]
  by_cases hcov : cov.isEmpty = true
  · rw [hcov]
    exact ⟨_, rfl, hjobs, hread, mem_setAdd_self pa _⟩
  · rw [Bool.not_eq_true] at hcov
    rw [hcov]
    exact ⟨_, rfl, hjobs, hread, mem_setAdd_self pa _⟩

/-- Settles O56: event by event, from what each operation of the device does where it completes. -/
theorem dispatchEvents : Obligations.DispatchEvents := by
  intro s
  refine ⟨fun st x pa ws hx hs => ?take, fun st x slot code hx => streamError_found slot code hx, fun st x t0 hx hw => ?wait,
    fun j hj hbag hstage husable hvacant htask => ?place, fun j p hj hn hroom => ?bag, fun asid p j r hw => ?ready,
    fun core asid k e ha hmay hk he => ?claim, fun j hj => ?complete⟩
  case take =>
    obtain ⟨hwaits, htakes⟩ := takeSlot_run hx hs
    refine ⟨hwaits, fun hno hnext => ⟨fun c hc => ?_, fun p hp hk hg => ?_⟩⟩
    · rw [htakes hno hnext, State.attempt_ok (takeHead_fails hc)]
    · obtain ⟨t, j, hrun, hrest⟩ := takeHead_enters hp hk hg
      exact ⟨t, j, by rw [htakes hno hnext, State.attempt_ok hrun], hrest⟩
  case wait =>
    rw [spanWait_run hx hw]
    exact ⟨fun h => by rw [if_pos h], fun h => by rw [if_neg (Nat.not_le.mpr h)]⟩
  case place =>
    obtain ⟨m, hrun, hm⟩ := spanPlace_run hj hbag hstage husable hvacant htask
    refine ⟨fun c u hfails hu => ?_, fun h l st k u hread hju hgangs hn => ?_⟩
    · rw [hrun, State.attempt_ok (t := u)]
      rw [hm]
      unfold placeNow
      rw [devBind_ok (devTry_fails hfails)]
      exact hu
    · obtain ⟨v, hstart, hjv⟩ := startSpan_single h l st hju hgangs hn
      obtain ⟨hjobs, htable, hmain, hloader⟩ := startCore_spec v j h 0 0 (8 * k)
      obtain ⟨harg, hzero⟩ := freshStrand_reg v j h 0 0
      refine ⟨v.startCore j h 0 0 (8 * k), ?_, ?_, htable, fun hlen => ?_, ?_⟩
      · rw [hrun, State.attempt_ok (t := u.startSpan j h l st), hstart]
        rw [hm]
        unfold placeNow
        rw [devBind_ok (devTry_ok hread)]
        rfl
      · rw [hjobs]
        exact hjv
      · rw [hloader hlen]
        exact ⟨rfl, rfl⟩
      · rw [hmain]
        exact ⟨rfl, rfl, rfl, rfl, rfl, rfl, harg, hzero⟩
  case bag =>
    have hrun := bagRecordEnter_run hj hn hroom
    obtain ⟨halign, hfails, htakes⟩ := takeRecord_spec (s := s) (jobKey j.asid j.id) (s.nextCluster j.asid) j p
    refine ⟨fun u hp hu => ?_, fun c u hp hr hu => ?_, fun bs a b u hp hr hw hst hju => ?_⟩
    · rw [hrun, State.attempt_ok ((orEnd_fails (halign hp)).trans hu)]
    · rw [hrun, State.attempt_ok ((orEnd_fails (hfails c hp hr)).trans hu)]
    · obtain ⟨y, hy, hmem, hrecs, hzero, hseen, hlink, hrot⟩ :=
        enterRecord_spec j.asid (s.nextCluster j.asid) p (wordAt (leWords 8 bs) 2) hju
      exact ⟨_, y, by rw [hrun, State.attempt_ok (orEnd_ok (htakes bs a b u hp hr hw hst))], hmem, hy, hrecs, hzero, hseen, hlink, hrot⟩
  case ready =>
    obtain ⟨hfull, htest⟩ := recordReady_run hw
    obtain ⟨rfl, rfl⟩ := waitingRec_spec hw
    refine ⟨hfull, fun bs a hc hr => ⟨fun b t hready ht => ?_, fun b hlt hcond => ?_⟩⟩
    · have hgo : readyTest (s.recWho j) (leWords 8 bs) a = .ok (true, b) := by
        rcases hready with ⟨h5, rfl⟩ | ⟨hlt, hcond⟩
        · exact (readyTest_run (b := b)).1 h5
        · exact readyTest_run.2 true hlt hcond
      obtain ⟨hmem, htasks⟩ := queueRecord_spec t (jobKey j.asid j.id) j r (wbits (wordAt (leWords 8 bs) 1) 32 3)
      exact ⟨_, by rw [htest hc, State.attempt_ok (orEnd_ok ((testRecord_spec hr).1 t hgo ht))], hmem, htasks⟩
    · rw [htest hc, State.attempt_ok (orEnd_ok ((testRecord_spec hr).2 (readyTest_run.2 false hlt hcond)))]
  case claim =>
    obtain ⟨hrestores, hdamaged, hstarts⟩ := claimRecord_run ha hmay hk he
    refine ⟨fun g table him hlen hsoft => ?_, fun g u him hsoft hu => ?_, fun him => ?_⟩
    · obtain ⟨hagent, htable, hclusters⟩ := restoreTask_spec (s := s.modCluster k fun c => { c with tasks := c.tasks.erase e }) e core g hlen
      refine ⟨_, hrestores g table him hsoft, hagent, htable, ?_⟩
      unfold State.cluster
      rw [hclusters]
      exact congrArg Cluster.tasks (State.cluster_modCluster s k _)
    · rw [hdamaged g.1 g.2 him hsoft, State.attempt_ok hu]
    · intro key a u w bs bad tail b c d f hstate hread hbad htail v
      have hrec := startRecord_spec hstate hread hbad htail
      have hagent : v.agent a = f.freshTask e core (leWords 8 bs) tail := taskBegun_agent f e core (leWords 8 bs) tail
      refine ⟨fun hgood => ⟨hstarts v him (hrec.trans ?_), ?_⟩, fun x hb hx => hstarts x him (hrec.trans ?_)⟩
      · rw [hgood]
        rfl
      · rw [hagent]
        exact ⟨rfl, rfl, rfl⟩
      · rw [hb, if_pos rfl]
        exact hx
  case complete =>
    refine ⟨fun hf => ?_, fun u hf hdet hflush => ?_, fun pa u hf hdet hflush => ?_⟩
    · show execJobComplete j.asid j.id s = _
      unfold execJobComplete
      dsimp only
      rw [hj]
      dsimp only
      rw [hf]
      rfl
    · obtain ⟨hfails, hwrites⟩ := finishWord_spec (c := u.clearJob (jobKey j.asid j.id)) j 0 (u.jobOutside (jobKey j.asid j.id))
      exact ⟨fun e he => jobComplete_run hj hf hdet hflush (hfails e he), fun pl v hpl hv => jobComplete_run hj hf hdet hflush (hwrites pl v hpl hv)⟩
    · intro c w hwin hplace hpa hown hres
      obtain ⟨-, hwrites⟩ := finishWord_spec (c := u.clearJob (jobKey j.asid j.id)) j 0 (u.jobOutside (jobKey j.asid j.id))
      obtain ⟨t, ht, hjobs, hbytes, htag⟩ := finishAt_low (c := c) w 0 (u.jobOutside (jobKey j.asid j.id)) hpa hwin hown hres
      refine ⟨t, jobComplete_run hj hf hdet hflush (hwrites _ t hplace ht), ?_, hbytes, htag⟩
      rw [hjobs]
      exact tabGet_tabDel_same _ _

end Sys2Proof.Machine
end

section
/-! O57: a row of no bytes at the end of what lies below the stash (R144, R195). -/

namespace Sys2Proof.Machine

/-- A package whose core 0 has a frozen slice. -/
def frozenFirst : State := { State.reset with mem := { frozen := [0] } }

/-- A copy job of core 0 with rows of no bytes, from the start of that core's slice to itself. -/
def emptyRow : QJob :=
  { key := 0, id := 0, copy := true, words := [], pub := ⟨0, .main⟩, asid := 0, job := 0, det := false, table := [], tabBad := false
    st := .running, sts := 0, handles := [(0, [0, 0, 1, 0])], mi := 0, ni := 0, ki := 0, acc := [], rows := 0, prkd := false
    atRecord := 0, seq := 0 }

/-- The row lies at the first address of the stash and ends there. -/
theorem emptyRow_place : frozenFirst.jobPlace emptyRow (emptyRow.fromRow emptyRow.rows) emptyRow.len false = .ok (.mem [(2 ^ 44, 0)]) := by decide +kernel

/-- A read of it is refused, as the slice is frozen. -/
theorem emptyRow_refused : unitRead emptyRow emptyRow.len (emptyRow.fromRow emptyRow.rows) frozenFirst = .error (.fails .peerdead []) := by
  have hlow : frozenFirst.frozenSegs [(2 ^ 44, 0)] = true := by decide
  unfold unitRead
  rw [devBind_ok (devGet_run _ frozenFirst), emptyRow_place]
  dsimp only
  rw [devBind_ok (devGet_run _ frozenFirst), devBind_ok (devGet_run _ frozenFirst)]
  refine devBind_error ?_
  unfold devLoad
  rw [hlow, if_pos rfl]

/-- Refutes O57: the clause on a copy row bounds every segment by the start of the stash, which one of no bytes at that very address meets; where the
slice there is frozen the row is refused. -/
theorem not_engineEvents : ¬ Obligations.EngineEvents := by
  unfold Obligations.EngineEvents
  intro h
  obtain ⟨-, -, -, -, -, -, -, hrow, -⟩ := h frozenFirst 0
  obtain ⟨bs, a, b, hread, -⟩ := hrow emptyRow [(2 ^ 44, 0)] [] emptyRow_place (by decide) (by decide +kernel) (by decide +kernel) rfl rfl rfl rfl rfl
  rw [emptyRow_refused] at hread
  cases hread

end Sys2Proof.Machine
end

section
/-! O58: whose copy of an agent a failed store marks where two entries of the table stand for one agent (R196). -/

namespace Sys2Proof.Machine

/-- A posted store of core 0 to another device. -/
def lostStore : ExtOp := ⟨0, some ⟨0, .main⟩, 0, 0, none, false, 1, 0, 0, .write [], 0, true, true, [], 0⟩

/-- Core 1 has the turn; the table of the other agents holds core 0 under its key and, before it, one more entry under a key that no agent has, which
is read as core 0 too. -/
def twofold : State :=
  { State.reset with
    cur := ⟨1, .main⟩
    others := [(3, { act := .running, word := 1 }), (0, { act := .running })]
    fab := { exts := [lostStore] } }

theorem twofold_store : twofold.extOp 0 = some lostStore ∧ (twofold.agent ⟨0, .main⟩).act = .running ∧ (twofold.agent ⟨0, .main⟩).err = none ∧
    (twofold.agent ⟨0, .main⟩).word = 0 ∧ ∀ b ∈ twofold.agents, b.2.task = none := by decide +kernel

/-- The word that an agent is in after an event. -/
def wordAfter (a : AgentId) : Host.Outcome State Fault Refusal → Option W32
  | .next t => some (t.agent a).word
  | _ => none

/-- The store that proves unreachable leaves core 0 as the other entry has it. -/
theorem twofold_marked : wordAfter ⟨0, .main⟩ (exec (.peerStoreUnreachable 0) twofold) = some 1 := by decide +kernel

/-- Refutes O58: the clause on a store that proves unreachable holds for a table of agents in which two entries stand for its issuer, and there the
issuer is left as the first of them has it. -/
theorem not_outsideEvents : ¬ Obligations.OutsideEvents := by
  unfold Obligations.OutsideEvents
  intro h
  obtain ⟨-, -, -, hstore, -⟩ := h twofold
  obtain ⟨hext, hact, herr, hword, htask⟩ := twofold_store
  obtain ⟨t, hrun, -, -, hagent⟩ := hstore 0 lostStore ⟨0, .main⟩ hext rfl rfl rfl hact (by decide) (by decide) (fun b hb _ => Or.inl (htask b hb)) herr
  have hmarked := twofold_marked
  rw [hrun] at hmarked
  have hsame := Option.some.inj hmarked
  rw [hagent] at hsame
  exact absurd (hword.symm.trans hsame) (by decide)

end Sys2Proof.Machine
end

section
/-! What every step keeps: the canonical form of memory. The rules for computations, for outcomes of words and for the state, and the
operations that rebuild the byte list or the tags. -/

namespace Sys2Proof.Machine

/-! ## Rules -/

/-- Memory stays in its canonical form from one state to another. -/
def State.InvStep (s t : State) : Prop := s.Inv → t.Inv

theorem invStep_composes : Composes State.InvStep := ⟨fun _ h => h, fun _ _ _ h h' hs => h' (h hs)⟩

/-- A computation that keeps the form of memory wherever it completes. -/
def InvM {ε α : Type} (m : StateT State (Except ε) α) : Prop := Keeps State.InvStep m

/-- The result of a computation leaves memory in its form, if it is one. -/
def InvR {ε α : Type} (r : Except ε (α × State)) : Prop := ∀ a t, r = .ok (a, t) → t.Inv

/-- The state that an outcome leads to, if it leads to one, holds memory in its form. -/
def OutInv (o : Host.Outcome State Fault Refusal) : Prop := ∀ t, o = .next t → t.Inv

theorem inv_ite {c : Prop} [Decidable c] {s t : State} (hs : s.Inv) (ht : t.Inv) : (if c then s else t).Inv := by
  split
  · exact hs
  · exact ht

/-- A fold whose every step keeps the form of memory. -/
theorem foldl_inv {α : Type} {f : State → α → State} (hf : ∀ s x, s.Inv → (f s x).Inv) {s : State} {xs : List α} (h : s.Inv) :
    (xs.foldl f s).Inv := by
  induction xs generalizing s with
  | nil => exact h
  | cons x xs ih => exact ih (hf s x h)

/-- A fold of one operation with an argument of its own. (Its steps are kept folded up: a proof that unfolds a count of statistics is
out of the kernel's reach.) -/
theorem foldl_apply_inv {α β : Type} {g : State → β → α → State} (hg : ∀ s b x, s.Inv → (g s b x).Inv) {s : State} {b : β}
    {xs : List α} (h : s.Inv) : (xs.foldl (fun s x => g s b x) s).Inv := foldl_inv (fun s x h => hg s b x h) h

namespace InvR

variable {ε α : Type}

theorem ok {a : α} {t : State} (h : t.Inv) : InvR (.ok (a, t) : Except ε (α × State)) := by
  intro b u e
  cases e
  exact h

theorem error (x : ε) : InvR (.error x : Except ε (α × State)) := fun _ _ e => nomatch e

theorem ite {c : Prop} [Decidable c] {r r' : Except ε (α × State)} (h : InvR r) (h' : InvR r') : InvR (if c then r else r') := by
  split
  · exact h
  · exact h'

theorem run {m : StateT State (Except ε) α} (hm : InvM m) {s : State} (h : s.Inv) : InvR (m s) := fun a t e => hm s a t e h

end InvR

namespace InvM

variable {ε α β : Type}

/-- A computation given by what it does in each state. -/
theorem of {m : StateT State (Except ε) α} (hm : ∀ s, s.Inv → InvR (m s)) : InvM m := fun s a t e h => hm s h a t e

theorem run {m : StateT State (Except ε) α} (hm : InvM m) {s : State} (h : s.Inv) (a : α) (t : State) (e : m s = .ok (a, t)) : t.Inv :=
  hm s a t e h

theorem bind {m : StateT State (Except ε) α} {f : α → StateT State (Except ε) β} (hm : InvM m) (hf : ∀ a, InvM (f a)) :
    InvM (m >>= f) := Keeps.bind invStep_composes hm hf

theorem pure (a : α) : InvM (Pure.pure a : StateT State (Except ε) α) := Keeps.pure invStep_composes a

theorem get : InvM (MonadState.get : StateT State (Except ε) State) := .of fun _ h => .ok h

theorem ite {c : Prop} [Decidable c] {m m' : StateT State (Except ε) α} (h : InvM m) (h' : InvM m') : InvM (if c then m else m') := by
  split
  · exact h
  · exact h'

/-- A part that is done only under a condition. -/
theorem opt {c : Prop} [Decidable c] {m : StateT State (Except ε) Unit} {k : Unit → StateT State (Except ε) α} (hm : InvM m)
    (hk : ∀ b, InvM (k b)) : InvM (if c then m >>= k else k ()) := .ite (.bind hm hk) (hk ())

theorem forM {xs : List β} {f : β → StateT State (Except ε) PUnit} (hf : ∀ x, InvM (f x)) : InvM (xs.forM f) := by
  induction xs with
  | nil => exact .pure _
  | cons x xs ih => exact .bind (hf x) fun _ => ih

theorem getM (f : State → α) : InvM (Machine.getM f) := Keeps.getM invStep_composes f

/-- What is read of the state comes with the form of its memory. -/
theorem getM_bind {f : State → α} {g : α → M β} (hg : ∀ s, s.Inv → InvR (g (f s) s)) : InvM (Machine.getM f >>= g) :=
  .of fun s h => hg s h

theorem modM {f : State → State} (h : ∀ s, s.Inv → (f s).Inv) : InvM (Machine.modM f) := Keeps.modM h

theorem needM (b : Bool) (x : Stop) : InvM (Machine.needM b x) := Keeps.needM invStep_composes b x

theorem legalM (b : Bool) : InvM (Machine.legalM b) := Keeps.legalM invStep_composes b

theorem trapM (c : Cause) (v : Word) : InvM (Machine.trapM c v : M α) := Keeps.trapM c v

theorem streamM (code : Nat) : InvM (Machine.streamM code : M α) := Keeps.trapM _ _

theorem illegalM : InvM (Machine.illegalM : M α) := Keeps.illegalM

theorem stallM : InvM (Machine.stallM : M α) := .of fun _ _ => .error _

theorem againM : InvM (Machine.againM : M α) := .of fun _ _ => .error _

theorem accessM (p : Word) (a : Acc) : InvM (Machine.accessM p a) := Keeps.accessM invStep_composes p a

theorem devGet (f : State → α) : InvM (Machine.devGet f) := Keeps.devGet invStep_composes f

theorem devMod {f : State → State} (h : ∀ s, s.Inv → (f s).Inv) : InvM (Machine.devMod f) := Keeps.devMod h

theorem devNeed (b : Bool) : InvM (Machine.devNeed b) := Keeps.devNeed invStep_composes b

theorem devFail (c : Cause) : InvM (Machine.devFail c : D α) := .of fun _ _ => .error _

theorem devTry {m : D α} (hm : InvM m) : InvM (Machine.devTry m) := Keeps.devTry (fun _ _ h => h) hm

theorem devM {m : D α} (hm : InvM m) : InvM (Machine.devM m) := Keeps.devM (fun _ _ h => h) hm

end InvM

namespace OutInv

theorem next {t : State} (h : t.Inv) : OutInv (.next t) := by
  intro u e
  cases e
  exact h

theorem fault (x : Fault) : OutInv (.fault x) := fun _ e => nomatch e

theorem refused (x : Refusal) : OutInv (.refused x) := fun _ e => nomatch e

theorem ite {c : Prop} [Decidable c] {o o' : Host.Outcome State Fault Refusal} (h : OutInv o) (h' : OutInv o') :
    OutInv (if c then o else o') := by
  split
  · exact h
  · exact h'

end OutInv

/-! ## The byte list and the tags -/

/-- Bytes written one by one keep the byte list canonical. -/
theorem setHeld_canonical (cells : List Host.Cell) (m : List Host.Cell) (hs : tabSorted m = true) (hn : noIdle m = true) :
    tabSorted (cells.foldl (fun m (x : Nat × Byte) => setByte x.1 x.2 m) m) = true ∧
      noIdle (cells.foldl (fun m (x : Nat × Byte) => setByte x.1 x.2 m) m) = true := by
  induction cells generalizing m with
  | nil => exact ⟨hs, hn⟩
  | cons x xs ih => exact ih _ (tabSorted_setByte x.1 x.2 m hs) (noIdle_setByte x.1 x.2 m hn)

/-- Tags set and cleared one by one stay in rising order. -/
theorem setTags_rising (tags : List (Nat × Bool)) (m : List Nat) (hm : risingFrom m = true) :
    risingFrom (tags.foldl (fun m (x : Nat × Bool) => if x.2 then setAdd x.1 m else setDel x.1 m) m) = true := by
  induction tags generalizing m with
  | nil => exact hm
  | cons x xs ih =>
    refine ih _ ?_
    dsimp only
    split
    · exact risingFrom_setAdd x.1 m hm
    · exact risingFrom_filter _ m hm

/-! ## Accesses of words -/

theorem setAgent_inv {s : State} {a g} (h : s.Inv) : (State.setAgent s a g).Inv := inv_ite h h
theorem modAgent_inv {s : State} {a f} (h : s.Inv) : (State.modAgent s a f).Inv := setAgent_inv h
theorem focus_inv {s : State} {a} (h : s.Inv) : (State.focus s a).Inv := inv_ite h h

theorem asAgent_inv {s : State} {a f} (hf : ∀ s, s.Inv → (f s).Inv) (h : s.Inv) : (State.asAgent s a f).Inv :=
  focus_inv (hf _ (focus_inv h))

theorem modCtx_inv {s : State} {f} (h : s.Inv) : (State.modCtx s f).Inv := h
theorem modChunk_inv {s : State} {f} (h : s.Inv) : (State.modChunk s f).Inv := h
theorem draw_inv {s : State} {asid n} (h : s.Inv) : (State.draw s asid n).Inv := h

theorem modJob_inv {s : State} {key f} (h : s.Inv) : (State.modJob s key f).Inv := by
  unfold State.modJob
  split <;> exact h

theorem modCore_inv {s : State} {c f} (h : s.Inv) : (State.modCore s c f).Inv := h
theorem modCluster_inv {s : State} {k f} (h : s.Inv) : (State.modCluster s k f).Inv := h
theorem modPair_inv {s : State} {k f} (h : s.Inv) : (State.modPair s k f).Inv := h
theorem noteReads_inv {s : State} {ls} (h : s.Inv) : (State.noteReads s ls).Inv := modChunk_inv h
theorem noteWrites_inv {s : State} {ls} (h : s.Inv) : (State.noteWrites s ls).Inv := modChunk_inv h
theorem squashOthers_inv {s : State} {ls} (h : s.Inv) : (State.squashOthers s ls).Inv := inv_ite h h
theorem squashAll_inv {s : State} {ls} (h : s.Inv) : (State.squashAll s ls).Inv := inv_ite (squashOthers_inv h) (squashOthers_inv h)
theorem pinM_inv {segs} : InvM (pinM segs) := .of fun _ h => .ite (.error _) (.ite (.error _) (.ok (pinSegs_inv _ _ _ h)))
theorem release_inv {s : State} {a ls} (h : s.Inv) : (State.release s a ls).Inv := inv_ite h h
theorem acquire_inv {s : State} {ls} (h : s.Inv) : (State.acquire s ls).Inv := h
theorem freeze_inv {s : State} {cores} (h : s.Inv) : (State.freeze s cores).Inv := h

theorem addCountAt_inv {s : State} {w n r} (h : s.Inv) : (State.addCountAt s w n r).Inv := by
  cases r with
  | ok segs => exact softPoke_inv _ _ _ (squashOthers_inv (pinSegs_inv _ _ _ h))
  | error c => exact h

theorem addCount_inv {s : State} {w x o n} (h : s.Inv) : (State.addCount s w x o n).Inv := by
  rw [addCount_eq]
  exact addCountAt_inv h

theorem flushStat_inv {s : State} {w x} (h : s.Inv) : (State.flushStat s w x).Inv := addCount_inv (addCount_inv (addCount_inv h))

theorem countStats_inv {s : State} {w c xs} (h : s.Inv) : (State.countStats s w c xs).Inv := by
  unfold State.countStats
  exact inv_ite h (foldl_apply_inv (g := State.flushStat) (fun _ _ _ h => flushStat_inv h) (modCore_inv h))

theorem clearPoison_inv {s : State} {cells} (h : s.Inv) : (State.clearPoison s cells).Inv := h

/-- What a chunk holds, put in place byte by byte and tag by tag, keeps the form. -/
theorem heldInPlace_inv {s : State} (h : s.Inv) : (State.heldInPlace s).Inv := by
  obtain ⟨hs, hn, ht⟩ := (Memory.wf_iff _).mp h
  have hb := setHeld_canonical s.me.chunk.held s.mem.bytes hs hn
  exact spoilRecords_inv _ _ (inv_ite ((Memory.wf_iff _).mpr ⟨hb.1, hb.2, setTags_rising _ _ ht⟩)
    ((Memory.wf_iff _).mpr ⟨hb.1, hb.2, setTags_rising _ _ ht⟩))

theorem grant_inv {s : State} (h : s.Inv) : (State.grant s).Inv :=
  inv_ite h (countStats_inv (release_inv (heldInPlace_inv (squashOthers_inv h))))

/-! ## Operands, late results and streams -/

theorem noteTable_inv {s : State} (h : s.Inv) : (State.noteTable s).Inv := inv_ite h (noteReads_inv h)

theorem loadSegs_inv {segs p} : InvM (loadSegs segs p) :=
  .bind (.getM _) fun _ => .bind (.needM _ _) fun _ => .bind (.getM _) fun _ => .bind (.needM _ _) fun _ => .bind pinM_inv fun _ =>
    .bind (.getM _) fun _ => .bind (.needM _ _) fun _ => .bind (.getM _) fun _ =>
    .bind (.modM fun _ h => inv_ite h (noteReads_inv h)) fun _ => .pure _

theorem claimM_inv {segs p} : InvM (claimM segs p) :=
  .bind (.getM _) fun _ => .bind (.needM _ _) fun _ => .bind (.getM _) fun _ => .bind (.needM _ _) fun _ => .bind pinM_inv fun _ =>
    .bind (.getM _) fun _ => .ite (.bind (.getM _) fun _ => .bind (.needM _ _) fun _ =>
    .modM fun _ h => squashOthers_inv h) (.bind (.getM _) fun _ => .bind (.needM _ _) fun _ => .modM fun _ h => noteWrites_inv h)

theorem putSegs_inv {s : State} {segs bs} (h : s.Inv) : (State.putSegs s segs bs).Inv :=
  inv_ite (inv_ite (softPoke_inv _ _ _ h) (clearPoison_inv (softPoke_inv _ _ _ h))) (modChunk_inv h)

theorem putTag_inv {s : State} {a full} (h : s.Inv) : (State.putTag s a full).Inv := inv_ite (setTag_inv _ _ _ h) (modChunk_inv h)
theorem storeSegs_inv {segs bs p} : InvM (storeSegs segs bs p) := .bind claimM_inv fun _ => .modM fun _ h => putSegs_inv h
theorem ownM_inv : InvM (ownM) := .of fun _ h => .ite (.error _) (.ok h)

theorem awaitM_inv {host dev pod addr n op p cov} : InvM (awaitM host dev pod addr n op p cov) := by
  refine .of fun _ h => ?_
  unfold awaitM
  split
  · exact .ok h
  · exact .error _
  · exact .ite (.ok h) (.error _)

theorem outsideLoad_inv {host dev pod addr n p} : InvM (outsideLoad host dev pod addr n p) := .bind ownM_inv fun _ => awaitM_inv
theorem postOutside_inv {s : State} {host dev pod addr op p cov} (h : s.Inv) : (State.postOutside s host dev pod addr op p cov).Inv := h

theorem tableLoad_inv {o n} : InvM (tableLoad o n) :=
  .of fun _ h => .ite (.ite (.error _) (.ok (inv_ite h (noteReads_inv h)))) (.ite (.ite (.error _) (.ok (noteTable_inv h))) (.ok h))

theorem tableReadyM_inv : InvM (tableReadyM) := .of fun _ h => .ite (.error _) (.ok (noteTable_inv h))

theorem loadM_inv {p a} : InvM (loadM p a) := by
  refine .bind (.accessM _ _) fun ⟨_, _⟩ => ?_
  dsimp only
  split
  · exact .bind loadSegs_inv fun _ => .ite (.pure _) (.opt tableReadyM_inv fun _ => .bind .get fun _ => .pure _)
  · exact tableLoad_inv
  · exact .of fun _ h => .ok h
  · exact outsideLoad_inv

theorem countWindow_inv {e win xs ys} : InvM (countWindow e win xs ys) :=
  .of fun _ h => .ite (.ok h) (.ite (.ite (.error _) (.ok (countStats_inv h))) (.ok (modChunk_inv h)))

theorem stageM_inv {p a bs rel} : InvM (stageM p a bs rel) := by
  refine .bind (.accessM _ _) fun ⟨_, _⟩ => ?_
  dsimp only
  split
  · exact .ite (.bind claimM_inv fun _ => .pure _)
      (.ite
        (.bind tableReadyM_inv fun _ => .bind (.getM _) fun _ => .bind (.needM _ _) fun _ => .bind (.getM _) fun _ =>
          .bind claimM_inv fun _ => .bind countWindow_inv fun _ => .pure _)
        (.bind (.getM _) fun _ => .bind claimM_inv fun _ => .bind countWindow_inv fun _ => .pure _))
  · exact .ite (.bind (.getM _) fun _ => .bind (.needM _ _) fun _ => .bind (.getM _) fun _ => .bind claimM_inv fun _ => .pure _)
      (.ite (.bind (.getM _) fun _ => .bind claimM_inv fun _ => .pure _) (.pure _))
  · exact .trapM _ _
  · exact .bind ownM_inv fun _ => .bind (.getM _) fun _ => .pure _

theorem applyPut_inv {s : State} {x1} (h : s.Inv) : (State.applyPut s x1).Inv := by
  unfold State.applyPut
  split
  · exact putSegs_inv h
  · exact modCtx_inv (putSegs_inv h)
  · exact modCtx_inv h
  · exact h
  · exact postOutside_inv h

theorem carryRelease_inv {s : State} {x1} (h : s.Inv) : (State.carryRelease s x1).Inv := by
  unfold State.carryRelease
  split
  · exact inv_ite (release_inv h) (modChunk_inv h)
  all_goals exact h

theorem storeM_inv {p a bs rel} : InvM (storeM p a bs rel) :=
  .bind stageM_inv fun _ => .bind (.modM fun _ h => applyPut_inv h) fun _ => .ite (.modM fun _ h => carryRelease_inv h) (.pure _)

theorem viewReg_inv {s : State} {r v} (h : s.Inv) : (State.viewReg s r v).Inv := by
  unfold State.viewReg
  split <;> exact h

theorem viewRow_inv {s : State} {i v} (h : s.Inv) : (State.viewRow s i v).Inv := by
  unfold State.viewRow
  split <;> exact h

theorem land_inv {s : State} {v} (h : s.Inv) : (State.land s v).Inv := by
  unfold State.land
  split
  · exact viewReg_inv (modCtx_inv h)
  · exact foldl_inv (fun _ _ h => viewRow_inv (modCtx_inv h)) h
  · exact foldl_inv (fun _ _ h => viewRow_inv (modCtx_inv h)) h
  · exact modCtx_inv h
  · exact foldl_inv (fun _ _ h => applyPut_inv h) h

theorem landDue_inv {s : State} (h : s.Inv) : (State.landDue s).Inv := foldl_inv (fun _ _ h => land_inv h) (modCtx_inv h)
theorem ageLates_inv {s : State} (h : s.Inv) : (State.ageLates s).Inv := inv_ite h (landDue_inv (modCtx_inv h))

theorem landOlder_inv {s : State} {v} (h : s.Inv) : (State.landOlder s v).Inv :=
  inv_ite h (foldl_inv (fun _ _ h => land_inv h) (modCtx_inv h))

theorem landAll_inv {s : State} (h : s.Inv) : (State.landAll s).Inv := inv_ite h (foldl_inv (fun _ _ h => land_inv h) (modCtx_inv h))
theorem popBytes_inv {b k n} : InvM (popBytes b k n) := .ite (.streamM _) loadM_inv

theorem readS_inv {r} : InvM (readS r) := by
  refine .bind (.getM _) fun _ => ?_
  split
  · exact .getM _
  · exact .ite (.streamM _) (.bind (.getM _) fun _ => .ite (.getM _) (.bind popBytes_inv fun _ =>
      .bind (.modM fun _ h => viewReg_inv (modCtx_inv (modCtx_inv h))) fun _ => .pure _))

theorem appendM_inv {i b n bs} : InvM (appendM i b n bs) :=
  .ite (.streamM _) (.bind stageM_inv fun _ => .bind (.modM fun _ h => modCtx_inv h) fun _ => .pure _)

theorem writeS_inv {r v} : InvM (writeS r v) := by
  refine .bind (.getM _) fun _ => ?_
  split
  · exact .modM fun _ h => modCtx_inv h
  · exact .bind appendM_inv fun _ => .modM fun _ h => applyPut_inv h

theorem lateM_inv {la v} : InvM (lateM la v) := .modM fun _ h => inv_ite (land_inv (landOlder_inv h)) (modCtx_inv h)

theorem writeLate_inv {la r v} : InvM (writeLate la r v) := by
  refine .bind (.getM _) fun _ => ?_
  split
  · exact .ite (.pure _) lateM_inv
  · exact .bind appendM_inv fun _ => lateM_inv

theorem popRows_inv {t i k x3} : InvM (popRows t i k x3) := by
  induction x3 generalizing k with
  | zero => exact .pure _
  | succ n ih =>
    refine .bind (.getM _) fun _ => ?_
    split
    · exact .pure _
    · exact .bind popBytes_inv fun _ => .bind (.modM fun _ h => viewRow_inv (modCtx_inv h)) fun _ => ih

theorem readRows_inv {t f n} : InvM (readRows t f n) := by
  refine .bind (.getM _) fun _ => ?_
  dsimp only
  split
  · exact .getM _
  · exact .ite (.streamM _) (.bind (.getM _) fun _ => .ite (.getM _) (.bind popRows_inv fun _ => .bind (.modM fun _ h => h) fun _ =>
      .getM _))

theorem appendRowsM_inv {i vs} : InvM (appendRowsM i vs) := by
  induction vs with
  | nil => exact .pure _
  | cons v vs ih =>
    refine .bind (.getM _) fun _ => ?_
    split
    · exact .pure _
    · exact .bind appendM_inv fun _ => .bind ih fun _ => .pure _

theorem writeRows_inv {t f vs} : InvM (writeRows t f vs) := by
  refine .bind (.getM _) fun _ => ?_
  split
  · exact .modM fun _ h => modCtx_inv h
  · exact .bind appendRowsM_inv fun _ => .modM fun _ h => foldl_inv (fun _ _ h => applyPut_inv h) h

theorem writeRowsLate_inv {la t f vs} : InvM (writeRowsLate la t f vs) := by
  refine .bind (.getM _) fun _ => ?_
  split
  · exact lateM_inv
  · exact .bind appendRowsM_inv fun _ => lateM_inv

end Sys2Proof.Machine
end

section
/-! The canonical form of memory is kept by the device's accesses for jobs, by units, and by traps, interrupts and the frame of a word. -/

namespace Sys2Proof.Machine

/-! ## Jobs and accesses of the device -/

theorem raiseStrand_inv {s : State} {core job src v} (h : s.Inv) : (State.raiseStrand s core job src v).Inv :=
  inv_ite (setAgent_inv h) (modCore_inv h)

theorem raiseTask_inv {s : State} {p job src v} (h : s.Inv) : (State.raiseTask s p job src v).Inv := by
  unfold State.raiseTask
  split
  · exact setAgent_inv h
  · exact h

theorem raiseUI_inv {s : State} {core job task src v} (h : s.Inv) : (State.raiseUI s core job task src v).Inv := by
  unfold State.raiseUI
  split
  · exact raiseTask_inv h
  · exact raiseStrand_inv h

theorem msix_inv {s : State} {v} (h : s.Inv) : (State.msix s v).Inv := h
theorem askOutside_inv {s : State} {x} (h : s.Inv) : (State.askOutside s x).Inv := inv_ite h h

theorem attempt_inv {s : State} {m} (hm : InvM m) (h : s.Inv) : (State.attempt s m).Inv := by
  unfold State.attempt
  split
  · next t hs => exact hm.run h _ _ hs
  · exact askOutside_inv h
  · exact h
  · exact h

theorem pinDev_inv {s : State} {job segs} (h : s.Inv) : (State.pinDev s job segs).Inv := pinSegs_inv _ _ _ (squashAll_inv h)

theorem devLoad_inv {own w segs} : InvM (devLoad own w segs) :=
  .of fun _ h => .ite (.error _) (.ite (.error _) (.ite (.error _) (.ok (pinDev_inv h))))

theorem devStore_inv {own w soft segs bs} : InvM (devStore own w soft segs bs) :=
  .of fun _ h => .ite (.error _) (.ite (.error _) (.ok (inv_ite (inv_ite (softPoke_inv _ _ _ (squashAll_inv (pinDev_inv h)))
    (pokeSegs_inv _ _ _ (squashAll_inv (pinDev_inv h)))) (clearPoison_inv (inv_ite (softPoke_inv _ _ _ (squashAll_inv (pinDev_inv h)))
    (pokeSegs_inv _ _ _ (squashAll_inv (pinDev_inv h))))))))

theorem devTable_inv {core o n} : InvM (devTable core o n) := .of fun _ h => .ite (.ok h) (.ite (.error _) (.ok h))
theorem tableChanged_inv {s : State} {core} (h : s.Inv) : (State.tableChanged s core).Inv := modAgent_inv h

theorem devTablePut_inv {own w o n bs} : InvM (devTablePut own w o n bs) :=
  .ite (.bind devStore_inv fun _ => .bind (.devMod fun _ h => tableChanged_inv h) fun _ => .ite (.ite (.bind devStore_inv fun _ =>
    .devMod fun _ h => tableChanged_inv h) (.pure _)) (.pure _)) (.ite (.ite (.bind devStore_inv fun _ =>
    .devMod fun _ h => tableChanged_inv h) (.pure _)) (.pure _))

theorem devOutside_inv {x} : InvM (devOutside x) := by
  refine .of fun _ h => ?_
  unfold devOutside
  split
  · exact .error _
  · split
    · exact .ok h
    · exact .error _

theorem readPlace_inv {own w e p n x5} : InvM (readPlace own w e p n x5) := by
  unfold readPlace
  split
  · exact .bind devLoad_inv fun _ => .ite (.bind (.devGet _) fun _ => .bind (.devNeed _) fun _ => .devGet _) (.devGet _)
  · exact devTable_inv
  · exact .devGet _
  · exact devOutside_inv

theorem devEncode_inv {w e bs} : InvM (devEncode w e bs) :=
  .ite (.bind (.devGet _) fun _ => .bind (.devNeed _) fun _ => .bind (.devGet _) fun _ => .opt (.devFail _) fun _ =>
    .bind (.devGet _) fun _ => .ite (.bind (.devGet _) fun _ => .bind (.devGet _) fun _ => .bind (.devNeed _) fun _ =>
    .bind (.devMod fun _ h => countStats_inv h) fun _ => .pure _) (.pure _)) (.bind (.devGet _) fun _ => .ite (.bind (.devGet _) fun _ =>
    .bind (.devGet _) fun _ => .bind (.devNeed _) fun _ => .bind (.devMod fun _ h => countStats_inv h) fun _ => .pure _) (.pure _))

theorem postFor_inv {s : State} {w host dev pod addr bs p cov} (h : s.Inv) : (State.postFor s w host dev pod addr bs p cov).Inv := h

theorem writePlace_inv {own w e soft p bs x6} : InvM (writePlace own w e soft p bs x6) := by
  unfold writePlace
  split
  · exact .ite (.bind (.pure _) fun _ => devStore_inv) (.bind devEncode_inv fun _ => devStore_inv)
  · exact devTablePut_inv
  · exact .devFail _
  · exact .devMod fun _ h => postFor_inv h

theorem readAt_inv {w p a} : InvM (readAt w p a) := by
  refine .bind (.devGet _) fun _ => ?_
  split
  · exact .devFail _
  · exact .bind (.devGet _) fun _ => readPlace_inv

theorem writeAt_inv {w soft p a bs} : InvM (writeAt w soft p a bs) := by
  refine .bind (.devGet _) fun _ => ?_
  split
  · exact .devFail _
  · exact .bind (.devGet _) fun _ => writePlace_inv

theorem putDone_inv {w p status pl} : InvM (putDone w p status pl) := by
  refine .bind (.devGet _) fun _ => .bind writePlace_inv fun _ => ?_
  split
  · exact .ite (.devMod fun _ h => setTag_inv _ _ _ h) (.pure _)
  all_goals exact .pure _

theorem writeDone_inv {w p status} : InvM (writeDone w p status) := by
  refine .bind (.devGet _) fun _ => ?_
  split
  · exact .devFail _
  · exact putDone_inv

theorem flushAll_inv {w xs} : InvM (flushAll w xs) := by
  refine .of fun _ h => ?_
  unfold flushAll
  exact .ite (.error _) (.ok (foldl_apply_inv (g := State.flushStat) (fun _ _ _ h => flushStat_inv h) (squashAll_inv h)))

theorem flushCore_inv {w c} : InvM (flushCore w c) :=
  .bind (.devGet _) fun _ => .bind flushAll_inv fun _ => .devMod fun _ h => modCore_inv h

theorem flushJob_inv {asid job} : InvM (flushJob asid job) :=
  .bind (.devGet _) fun _ => .forM fun _ => .ite (.bind (.devGet _) fun _ => .bind flushAll_inv fun _ =>
    .devMod fun _ h => modCore_inv h) (.pure _)

theorem modQ_inv {s : State} {k key f} (h : s.Inv) : (State.modQ s k key f).Inv := modCluster_inv h

theorem letIn_inv {s : State} {k} (h : s.Inv) : (State.letIn s k).Inv := by
  unfold State.letIn
  split
  · exact h
  · exact inv_ite (modCluster_inv h) h

theorem letInAll_inv {s : State} {k} (h : s.Inv) : (State.letInAll s k).Inv := foldl_inv (fun _ _ h => letIn_inv h) h

theorem flushQ_inv {q} : InvM (flushQ q) := by
  unfold flushQ
  split
  · exact .ite (.pure _) (.bind (.devGet _) fun _ => flushAll_inv)
  · exact .pure _

theorem grantLic_inv {s : State} {p u r} (h : s.Inv) : (State.grantLic s p u r).Inv :=
  inv_ite (raiseUI_inv (modPair_inv h)) (modPair_inv h)

theorem licFree_inv {s : State} {p} (h : s.Inv) : (State.licFree s p).Inv := by
  unfold State.licFree
  dsimp only
  split
  · exact grantLic_inv h
  · exact grantLic_inv h
  · exact modPair_inv h

theorem licSettle_inv {s : State} {p} (h : s.Inv) : (State.licSettle s p).Inv := inv_ite h (by
  split
  · exact licFree_inv h
  · exact inv_ite (licFree_inv h) h)

theorem moveEngineJobs_inv {s : State} {src dst} (h : s.Inv) : (State.moveEngineJobs s src dst).Inv :=
  letInAll_inv (modCluster_inv (modCluster_inv h))

theorem licMoved_inv {s : State} {p} (h : s.Inv) : (State.licMoved s p).Inv := by
  unfold State.licMoved
  dsimp only
  split
  · split
    · exact grantLic_inv (modPair_inv h)
    · exact licFree_inv (modPair_inv h)
  · exact moveEngineJobs_inv (modPair_inv h)
  · exact h
  · exact h

theorem licMove_inv {s : State} {p m} (h : s.Inv) : (State.licMove s p m).Inv := by
  unfold State.licMove
  split
  · exact h
  · exact inv_ite (modPair_inv h) (licMoved_inv (modPair_inv h))

theorem dropPin_inv {s : State} {p job} (h : s.Inv) : (State.dropPin s p job).Inv := inv_ite (licSettle_inv (modPair_inv h)) h
theorem dropPins_inv {s : State} {job} (h : s.Inv) : (State.dropPins s job).Inv := foldl_inv (fun _ _ h => dropPin_inv (modPair_inv h)) h
theorem takeOutQ_inv {s : State} {k q} (h : s.Inv) : (State.takeOutQ s k q).Inv := h
theorem noteDone_inv {s : State} {q sts} (h : s.Inv) : (State.noteDone s q sts).Inv := modCluster_inv h

theorem endQ_inv {k q sts word} : InvM (endQ k q sts word) :=
  .bind (.devMod fun _ h => takeOutQ_inv h) fun _ => .bind flushQ_inv fun _ => .ite (.bind (.devGet _) fun _ =>
    .bind (.devTry writeDone_inv) fun _ => .devMod fun _ h =>
    inv_ite (inv_ite (raiseUI_inv (noteDone_inv h)) (noteDone_inv h)) (licSettle_inv (inv_ite (raiseUI_inv (noteDone_inv h))
    (noteDone_inv h)))) (.bind (.pure _) fun _ =>
    .devMod fun _ h => inv_ite (inv_ite (raiseUI_inv (noteDone_inv h)) (noteDone_inv h)) (licSettle_inv (inv_ite (raiseUI_inv
    (noteDone_inv h)) (noteDone_inv h))))

theorem freeCaps_inv {s : State} {job} (h : s.Inv) : (State.freeCaps s job).Inv := h
theorem unpinJob_inv {s : State} {job} (h : s.Inv) : (State.unpinJob s job).Inv := h
theorem unbindImages_inv {s : State} {job} (h : s.Inv) : (State.unbindImages s job).Inv := h
theorem recRead_inv {w ptr o n} : InvM (recRead w ptr o n) := readAt_inv
theorem recWrite_inv {w ptr o bs} : InvM (recWrite w ptr o bs) := writeAt_inv

theorem recState_inv {w ptr st} : InvM (recState w ptr st) := by
  refine .bind (.devGet _) fun _ => ?_
  split
  · exact .devFail _
  · exact .bind (.devGet _) fun _ => .bind readPlace_inv fun _ => writePlace_inv

theorem streamError_inv {s : State} {st slot code} (h : s.Inv) : (State.streamError s st slot code).Inv := msix_inv (by
  split
  · exact h
  · exact h)

theorem finishAt_inv {w p status cov x4} : InvM (finishAt w p status cov x4) := by
  unfold finishAt
  split
  · exact .devMod fun _ h => postFor_inv h
  · exact .bind putDone_inv fun _ => .ite (.devMod fun _ h => h) (.pure _)
  · exact putDone_inv
  · exact putDone_inv

theorem finishWord_inv {j status cov} : InvM (finishWord j status cov) := by
  refine .bind (.devGet _) fun _ => .bind (.devGet _) fun _ => ?_
  split
  · exact .devMod fun _ h => streamError_inv h
  · exact .bind (.devTry finishAt_inv) fun _ => by
      split
      · exact .pure _
      · exact .devMod fun _ h => streamError_inv h

theorem presetNow_inv {s : State} {a} (h : s.Inv) : (State.presetNow s a).Inv := by
  unfold State.presetNow
  split
  · exact h
  · exact modAgent_inv (pokeSegs_inv _ _ _ (squashAll_inv h))

theorem leaveCore_inv {s : State} {a} (h : s.Inv) : (State.leaveCore s a).Inv := modCore_inv (setAgent_inv (presetNow_inv h))

theorem clearJob_inv {s : State} {job} (h : s.Inv) : (State.clearJob s job).Inv :=
  foldl_inv (fun _ _ h => leaveCore_inv h) (unbindImages_inv (unpinJob_inv (dropPins_inv (freeCaps_inv h))))

theorem grantOf_inv {s : State} {a} (h : s.Inv) : (State.grantOf s a).Inv := asAgent_inv (fun _ h => grant_inv (landAll_inv h)) h

/-! ## Units -/

theorem unitRead_inv {q n p} : InvM (unitRead q n p) := by
  refine .bind (.devGet _) fun _ => ?_
  split
  · exact .devFail _
  · exact .bind (.devGet _) fun _ => .bind (.devGet _) fun _ => readPlace_inv

theorem unitReads_inv {q n ps} : InvM (unitReads q n ps) := by
  induction ps with
  | nil => exact .pure _
  | cons p ps ih => exact .bind unitRead_inv fun _ => .bind ih fun _ => .pure _

theorem unitWrite_inv {q p bs pl} : InvM (unitWrite q p bs pl) := .bind (.devGet _) fun _ => .bind (.devGet _) fun _ => writePlace_inv

theorem unitWrites_inv {q xs} : InvM (unitWrites q xs) := by
  refine .bind (.devGet _) fun _ => ?_
  split
  · exact .devFail _
  · exact .forM fun _ => by
      split
      · exact unitWrite_inv
      · exact .pure _

theorem report_inv {q o v} : InvM (report q o v) := by
  refine .bind (.devGet _) fun _ => .bind (.devGet _) fun _ => ?_
  split
  · exact .pure _
  · exact .bind (.devGet _) fun _ => .bind (.devTry writePlace_inv) fun _ => .pure _

theorem seedOf_inv {q isB} : InvM (seedOf q isB) :=
  .bind (.devGet _) fun _ => .ite (.bind (.devGet _) fun _ => .bind readAt_inv fun _ => .pure _) (.pure _)

theorem startAcc_inv {q} : InvM (startAcc q) := .ite (.pure _) (.ite (.pure _) (.bind unitReads_inv fun _ => .pure _))

theorem stepResult_inv {q} : InvM (stepResult q) :=
  .bind startAcc_inv fun _ => .bind unitReads_inv fun _ => .bind unitReads_inv fun _ => .bind seedOf_inv fun _ =>
    .bind seedOf_inv fun _ => .pure _

theorem writeBlock_inv {q acc} : InvM (writeBlock q acc) := .bind unitWrites_inv fun _ => .bind (.devGet _) fun _ => .pure _
theorem countSteps_inv {s : State} {k} (h : s.Inv) : (State.countSteps s k).Inv := foldl_inv (fun _ _ h => inv_ite h (modAgent_inv h)) h

theorem kStep_inv {k q} : InvM (kStep k q) :=
  .bind stepResult_inv fun _ => .bind (.devMod fun _ h => countSteps_inv (modQ_inv h)) fun _ => .pure _

theorem blockDone_inv {k q} : InvM (blockDone k q) := .bind writeBlock_inv fun _ => .bind (.devMod fun _ h => modQ_inv h) fun _ => .pure _

theorem engineStep_inv {k q} : InvM (engineStep k q) :=
  .ite (.bind kStep_inv fun _ => .ite blockDone_inv (.pure _)) (.bind (.pure _) fun _ => .ite blockDone_inv (.pure _))

theorem orEndQ_inv {k q m} (hm : InvM m) : InvM (orEndQ k q m) := by
  refine .bind (.devTry hm) fun _ => ?_
  split
  · exact .pure _
  · exact .bind endQ_inv fun _ => .pure _

theorem runStep_inv {k q} : InvM (runStep k q) := .ite (.pure _) (orEndQ_inv engineStep_inv)
theorem stopStep_inv {k q} : InvM (stopStep k q) := .ite (.pure _) (orEndQ_inv kStep_inv)

theorem parkJob_inv {k q} : InvM (parkJob k q) := by
  refine .bind (.devTry unitWrites_inv) fun _ => ?_
  split
  · exact endQ_inv
  · exact .bind report_inv fun _ => .devMod fun _ h => modCluster_inv (modQ_inv (modCluster_inv h))

theorem parkEngine_inv {k} : InvM (parkEngine k) := by
  refine .bind (.devGet _) fun _ => ?_
  split
  · exact .pure _
  · exact .bind stopStep_inv fun _ => by
      split
      · exact .pure _
      · exact .ite endQ_inv parkJob_inv

theorem copyRow_inv {k q} : InvM (copyRow k q) := by
  refine .bind (.devGet _) fun _ => ?_
  split
  · exact .devFail _
  · exact .ite (.bind unitWrite_inv fun _ => .bind report_inv fun _ => .bind (.devMod fun _ h => modQ_inv h) fun _ =>
      .pure _) (.bind (.devGet _) fun _ => by
      split
      · exact .bind (.devFail _) fun _ => .bind report_inv fun _ => .bind (.devMod fun _ h => modQ_inv h) fun _ => .pure _
      · exact .bind unitRead_inv fun _ => .bind (.devGet _) fun _ => .bind unitWrite_inv fun _ => .bind report_inv fun _ =>
          .bind (.devMod fun _ h => modQ_inv h) fun _ => .pure _)

theorem runRow_inv {k q} : InvM (runRow k q) := .ite (.pure _) (orEndQ_inv copyRow_inv)

theorem killOne_inv {k q} : InvM (killOne k q) := by
  refine .ite (.bind (.ite runRow_inv stopStep_inv) fun _ => ?_) (.bind (.pure _) fun _ => ?_) <;>
  · dsimp only
    split
    · exact endQ_inv
    · exact .pure _

theorem killQ_inv {job} : InvM (killQ job) := .bind (.devGet _) fun _ => .bind (.devMod fun _ h => h) fun _ => .forM fun _ => killOne_inv
theorem deadGroups_inv {s : State} {job cores} (h : s.Inv) : (State.deadGroups s job cores).Inv := h

theorem endJob_inv {job code freeze} : InvM (endJob job code freeze) := by
  refine .bind (.devGet _) fun _ => ?_
  split
  · exact .pure _
  · exact .bind (.devGet _) fun _ => .bind (.devGet _) fun _ => .bind (.devGet _) fun _ => .bind (.devNeed _) fun _ =>
      .bind (.devMod fun _ h => foldl_inv (fun _ _ h => grantOf_inv h) h) fun _ => .bind killQ_inv fun _ => .bind (.forM fun _ =>
      .bind (.devGet _) fun _ => flushCore_inv) fun _ => .bind flushJob_inv fun _ => .bind (.devGet _) fun _ =>
      .bind (.devMod fun _ h => clearJob_inv (inv_ite (freeze_inv (foldl_inv (fun _ _ h => modCore_inv h) (deadGroups_inv h))) (foldl_inv
      (fun _ _ h => modCore_inv h) (deadGroups_inv h)))) fun _ => finishWord_inv

/-! ## Traps, interrupts and the words' frame -/

theorem endChunk_inv {s : State} (h : s.Inv) : (State.endChunk s).Inv := inv_ite (landAll_inv h) (modChunk_inv (landAll_inv h))
theorem enterTrap_inv {s : State} {k v tpc} (h : s.Inv) : (State.enterTrap s k v tpc).Inv := draw_inv (modCtx_inv h)

theorem retireHung_inv {a job} : InvM (retireHung a job) :=
  .bind (.devGet _) fun _ => .forM fun _ => .bind (.devGet _) fun _ => .bind (.devTry recState_inv) fun _ => .pure _

theorem fatalTrap_inv {k v tpc} : InvM (fatalTrap k v tpc) := by
  refine .bind (.devMod fun _ h => h) fun _ => .bind (.devGet _) fun _ => ?_
  dsimp only
  split
  · exact .bind (.devGet _) fun _ => .bind (.devTry recState_inv) fun _ => .ite (.bind (.devGet _) fun _ => .bind (.devGet _) fun _ =>
      .bind retireHung_inv fun _ => .bind (.devGet _) fun _ => endJob_inv) (.bind (.devGet _) fun _ => endJob_inv)
  · exact .ite (.bind (.devGet _) fun _ => .bind (.devGet _) fun _ => .bind retireHung_inv fun _ => .bind (.devGet _) fun _ =>
      endJob_inv) (.bind (.devGet _) fun _ => endJob_inv)

theorem beforeTrap_inv {s : State} {k v} (h : s.Inv) : (State.beforeTrap s k v).Inv := grant_inv (landAll_inv h)
theorem endAs_inv {s : State} {r} (h : s.Inv) : (State.endAs s r).Inv := h

theorem takeTrap_inv {s : State} {k v} (h : s.Inv) : (State.takeTrap s k v).Inv := by
  have ht := beforeTrap_inv (k := k) (v := v) h
  unfold State.takeTrap
  refine inv_ite (endAs_inv h) (inv_ite ?_ (endAs_inv (enterTrap_inv ht)))
  split
  · next u hs => exact endAs_inv (fatalTrap_inv.run ht _ _ hs)
  · exact endAs_inv (askOutside_inv h)
  · exact endAs_inv h
  · exact endAs_inv h

theorem returnTo_inv {s : State} {p} (h : s.Inv) : (State.returnTo s p).Inv := h
theorem trapReturn_inv {s : State} (h : s.Inv) : (State.trapReturn s).Inv := returnTo_inv (modCtx_inv h)
theorem enterInterrupt_inv {s : State} (h : s.Inv) : (State.enterInterrupt s).Inv := draw_inv (modCtx_inv h)
theorem interruptReturn_inv {s : State} (h : s.Inv) : (State.interruptReturn s).Inv := returnTo_inv (modCtx_inv h)
theorem branchM_inv {target pops} : InvM (branchM target pops) := .modM fun _ h => h
theorem endBundle_inv {s : State} (h : s.Inv) : (State.endBundle s).Inv := modCtx_inv h

theorem advancePc_inv {s : State} (h : s.Inv) : (State.advancePc s).Inv := by
  unfold State.advancePc
  split
  · exact modCtx_inv h
  · exact inv_ite (modCtx_inv h) (endBundle_inv h)

theorem finishUnit_inv {s : State} {n} (h : s.Inv) : (State.finishUnit s n).Inv :=
  inv_ite (grant_inv (landAll_inv (advancePc_inv (ageLates_inv h)))) (inv_ite (endChunk_inv (advancePc_inv (ageLates_inv h)))
    (advancePc_inv (ageLates_inv h)))

theorem sendExt_inv {s : State} {host dev pod addr op p cov} (h : s.Inv) : (State.sendExt s host dev pod addr op p cov).Inv := h
theorem sendOutside_inv {s : State} {host dev pod addr op p cov} (h : s.Inv) : (State.sendOutside s host dev pod addr op p cov).Inv := h

theorem arrive_inv {s : State} {x1} (h : s.Inv) : (State.arrive s x1).Inv := by
  unfold State.arrive
  split
  · exact modJob_inv h
  · exact modJob_inv h
  all_goals exact h

theorem pinConds_inv {s : State} {cs} (h : s.Inv) : (State.pinConds s cs).Inv := foldl_inv (fun _ _ h => pinSegs_inv _ _ _ h) h

theorem pinSleep_inv {s : State} {x1} (h : s.Inv) : (State.pinSleep s x1).Inv := by
  unfold State.pinSleep
  split
  · exact pinConds_inv h
  all_goals exact h

theorem applyRes_inv {s : State} {r} (h : s.Inv) : (State.applyRes s r).Inv := by
  unfold State.applyRes
  split
  · exact endAs_inv h
  · exact endAs_inv h
  · exact endAs_inv h
  · exact takeTrap_inv h
  · exact takeTrap_inv h
  · exact endChunk_inv h
  · exact endChunk_inv h
  · exact arrive_inv (pinSleep_inv h)
  · exact sendOutside_inv h

theorem stopAt_inv {s : State} {x1} (h : s.Inv) : OutInv (State.stopAt s x1) := by
  unfold State.stopAt
  split
  · exact .next (applyRes_inv h)
  · exact .next (applyRes_inv h)
  · exact .next (applyRes_inv (askOutside_inv h))
  all_goals exact .next (applyRes_inv h)

theorem runWord_inv {s : State} {i m} (hm : InvM m) (h : s.Inv) : OutInv (runWord i m s) := by
  unfold runWord
  refine .ite ?_ (.next (applyRes_inv h))
  split
  · exact .next (applyRes_inv h)
  · split
    · next t hs => exact .next (hm.run h _ _ hs)
    · exact stopAt_inv h

theorem systemM_inv : InvM (systemM) := .of fun _ h => .ite (.ok h) (.error _)

theorem releaseM_inv {rel} : InvM (releaseM rel) := by
  refine .of fun _ h => ?_
  unfold releaseM
  split
  · exact .ite (.error _) (.ok h)
  · exact .ok h

theorem restM_inv {k m} (hm : InvM m) : InvM (restM k m) := .of fun _ h => .ite (.run hm h) (.error _)

theorem acquireM_inv {acq p a} : InvM (acquireM acq p a) := .modM fun _ h => inv_ite h (by
  split
  · exact acquire_inv h
  · exact h
  · exact h
  · exact h
  · exact h)

theorem unboundM_inv {r} : InvM (unboundM r) := by
  refine .bind (.getM _) fun _ => ?_
  split
  · exact .streamM _
  · exact .pure _

theorem wordPlaceM_inv {p rd wr} : InvM (wordPlaceM p rd wr) := by
  refine .bind (.accessM _ _) fun ⟨_, _⟩ => ?_
  dsimp only
  split
  · exact .pure _
  all_goals exact .trapM _ _

end Sys2Proof.Machine
end

section
/-! The canonical form of memory is kept by atomics, control, the cycle unit, engine and copy jobs, and vector words. -/

namespace Sys2Proof.Machine

/-! ## Atomics -/

theorem probeM_inv {m} : InvM (probeM m) := by
  refine .of fun _ h => ?_
  unfold probeM
  split
  · exact .ok h
  · exact .error _

theorem homeAtomicM_inv {la o d p n f op} : InvM (homeAtomicM la o d p n f op) := by
  refine .bind releaseM_inv fun _ => .bind (.accessM _ _) fun ⟨_, _⟩ => ?_
  dsimp only
  split
  · refine .bind loadSegs_inv fun _ => .opt (.modM fun _ h => acquire_inv h) fun _ => ?_
    split
    · exact .bind storeSegs_inv fun _ => .opt (.modM fun _ h => release_inv h) fun _ => .pure _
    · exact .pure _
  · exact .bind probeM_inv fun _ => .bind (.getM _) fun _ => .bind awaitM_inv fun _ => .pure _
  · exact .trapM _ _
  · exact .trapM _ _

theorem atomicM_inv {la o d p n f op} : InvM (atomicM la o d p n f op) := by
  refine .bind (.getM _) fun _ => ?_
  split
  · exact .pure _
  · exact .trapM _ _
  · exact homeAtomicM_inv

theorem addM_inv {la o d a v wd} : InvM (addM la o d a v wd) :=
  .bind ownM_inv fun _ => .bind readS_inv fun _ => .bind readS_inv fun _ => .bind atomicM_inv fun _ => writeLate_inv

theorem minMaxM_inv {wantMax la o d a v v2} : InvM (minMaxM wantMax la o d a v v2) :=
  .bind ownM_inv fun _ => .bind readS_inv fun _ => .bind readS_inv fun _ => .bind atomicM_inv fun _ => writeLate_inv

theorem execAadd_inv {s : State} {la o d a v wd} (h : s.Inv) : OutInv (execAadd la o d a v wd s) := runWord_inv addM_inv h
theorem execAagg_inv {s : State} {la o d a v wd} (h : s.Inv) : OutInv (execAagg la o d a v wd s) := runWord_inv addM_inv h
theorem execAmin_inv {s : State} {la o d a v v2} (h : s.Inv) : OutInv (execAmin la o d a v v2 s) := runWord_inv minMaxM_inv h
theorem execAmax_inv {s : State} {la o d a v v2} (h : s.Inv) : OutInv (execAmax la o d a v v2 s) := runWord_inv minMaxM_inv h

theorem execAbit_inv {s : State} {la o d a v op} (h : s.Inv) : OutInv (execAbit la o d a v op s) :=
  runWord_inv (.bind ownM_inv fun _ => .bind readS_inv fun _ => .bind readS_inv fun _ => .bind atomicM_inv fun _ => writeLate_inv) h

theorem execAswap_inv {s : State} {la o d a v wd} (h : s.Inv) : OutInv (execAswap la o d a v wd s) :=
  runWord_inv (.bind ownM_inv fun _ => .bind readS_inv fun _ => .bind readS_inv fun _ => .bind atomicM_inv fun _ => writeLate_inv) h

theorem execAcas_inv {s : State} {la o d a v wd} (h : s.Inv) : OutInv (execAcas la o d a v wd s) :=
  runWord_inv (.bind ownM_inv fun _ => .bind readS_inv fun _ => .bind readS_inv fun _ => .bind readS_inv fun _ =>
    .bind atomicM_inv fun _ => writeLate_inv) h

theorem applyAdd_inv {s : State} {pa fm v} (h : s.Inv) : (State.applyAdd s pa fm v).1.Inv := softPoke_inv _ _ _ h

theorem releaseAdds_inv {s : State} {pa fuel} (h : s.Inv) : (State.releaseAdds pa fuel s).Inv := by
  induction fuel generalizing s with
  | zero => exact h
  | succ fuel ih =>
    unfold State.releaseAdds
    dsimp only
    split
    · exact h
    · exact inv_ite (ih h) (ih (inv_ite (release_inv (applyAdd_inv h)) (applyAdd_inv h)))

theorem homeAddM_inv {la o d p x q fm segs} : InvM (homeAddM la o d p x q fm segs) := by
  refine .bind loadSegs_inv fun _ => .opt (.modM fun _ h => acquire_inv h) fun _ => .ite (.trapM _ _) (.ite ?early ?due)
  case early => exact .bind probeM_inv fun _ => .bind (.getM _) fun _ => .ite .stallM (restM_inv writeLate_inv)
  case due =>
    refine .bind claimM_inv fun _ => .getM_bind fun s h => .run (.bind (.modM fun _ _ => applyAdd_inv h) fun _ => ?_) h
    exact .opt (.modM fun _ h => release_inv h) fun _ => .bind (.modM fun _ h => releaseAdds_inv h) fun _ => writeLate_inv

theorem execAfadd_inv {s : State} {la o d a v fm} (h : s.Inv) : OutInv (execAfadd la o d a v fm s) := by
  refine runWord_inv (.bind ownM_inv fun _ => .bind readS_inv fun _ => .bind readS_inv fun _ => .bind readS_inv fun _ =>
      .bind (.getM _) fun _ => ?_) h
  split
  · exact writeLate_inv
  · exact .bind releaseM_inv fun _ => .bind (.accessM _ _) fun ⟨_, _⟩ => by
      dsimp only
      split
      · exact homeAddM_inv
      all_goals exact .trapM _ _
  · exact .bind releaseM_inv fun _ => .bind (.accessM _ _) fun ⟨_, _⟩ => by
      dsimp only
      split
      · exact homeAddM_inv
      all_goals exact .trapM _ _
  · exact .bind releaseM_inv fun _ => .bind (.accessM _ _) fun ⟨_, _⟩ => by
      dsimp only
      split
      · exact homeAddM_inv
      all_goals exact .trapM _ _
  · exact .bind releaseM_inv fun _ => .bind (.accessM _ _) fun ⟨_, _⟩ => by
      dsimp only
      split
      · exact homeAddM_inv
      all_goals exact .trapM _ _
  · exact .bind releaseM_inv fun _ => .bind (.accessM _ _) fun ⟨_, _⟩ => by
      dsimp only
      split
      · exact homeAddM_inv
      all_goals exact .trapM _ _

theorem execAfaddHoldTimeout_inv {s : State} {i} (h : s.Inv) : OutInv (execAfaddHoldTimeout i s) := by
  unfold execAfaddHoldTimeout
  dsimp only
  split
  · exact .next (inv_ite (setAgent_inv h) h)
  · exact .next h

/-! ## Control -/

theorem execNop_inv {s : State} {la} (h : s.Inv) : OutInv (execNop la s) := runWord_inv (.pure _) h
theorem execBranch_inv {s : State} {o} (h : s.Inv) : OutInv (execBranch o s) := runWord_inv (.bind (.getM _) fun _ => branchM_inv) h

theorem execCall_inv {s : State} {o} (h : s.Inv) : OutInv (execCall o s) :=
  runWord_inv (.bind (.getM _) fun _ => .bind (.getM _) fun _ => .bind writeS_inv fun _ => branchM_inv) h

theorem execBcc_inv {s : State} {c a b o} (h : s.Inv) : OutInv (execBcc c a b o s) :=
  runWord_inv (.bind readS_inv fun _ => .bind readS_inv fun _ => .bind (.getM _) fun _ => .ite branchM_inv (.pure _)) h

theorem jumpM_inv {a} : InvM (jumpM a) := .bind readS_inv fun _ => .bind (.needM _ _) fun _ => .bind (.getM _) fun _ => branchM_inv
theorem execJr_inv {s : State} {la a} (h : s.Inv) : OutInv (execJr la a s) := runWord_inv jumpM_inv h
theorem execRet_inv {s : State} {la} (h : s.Inv) : OutInv (execRet la s) := runWord_inv jumpM_inv h

theorem execLoop_inv {s : State} {la a n} (h : s.Inv) : OutInv (execLoop la a n s) :=
  runWord_inv (.bind unboundM_inv fun _ => .bind readS_inv fun _ => .bind (.getM _) fun _ => .bind (.getM _) fun _ =>
    .bind (.legalM _) fun _ => .modM fun _ h => modCtx_inv h) h

theorem execTrap_inv {s : State} {la a c} (h : s.Inv) : OutInv (execTrap la a c s) := by
  refine runWord_inv (.bind readS_inv fun _ => ?_) h
  split
  · exact .trapM _ _
  · exact .illegalM

theorem execTret_inv {s : State} {la} (h : s.Inv) : OutInv (execTret la s) :=
  runWord_inv (.bind (.getM _) fun _ => .ite (.modM fun _ h => trapReturn_inv h) (.ite (.modM fun _ h =>
    interruptReturn_inv h) .illegalM)) h

theorem fenceM_inv : InvM (fenceM) :=
  .bind releaseM_inv fun _ => .bind (.getM _) fun _ => .ite (.pure _) (.bind (.getM _) fun _ => .ite .againM .stallM)

theorem execFence_inv {s : State} {la} (h : s.Inv) : OutInv (execFence la s) :=
  runWord_inv (.bind fenceM_inv fun _ => .modM fun _ h => h) h

theorem execChunk_inv {s : State} {la} (h : s.Inv) : OutInv (execChunk la s) := runWord_inv (.modM fun _ h => h) h

theorem execHcall_inv {s : State} {la a c} (h : s.Inv) : OutInv (execHcall la a c s) :=
  runWord_inv (.bind systemM_inv fun _ => .bind readS_inv fun _ => .bind (.getM _) fun _ => .bind releaseM_inv fun _ =>
    .bind (.getM _) fun _ => .bind (.needM _ _) fun _ => .bind ownM_inv fun _ => .bind fenceM_inv fun _ => .bind (.getM _) fun _ =>
    .bind (.needM _ _) fun _ => .modM fun _ h => msix_inv (modCore_inv h)) h

/-! ## Cycle unit -/

theorem commitStaged_inv {s : State} {job} (h : s.Inv) : (State.commitStaged s job).Inv :=
  foldl_inv (fun _ _ h => modAgent_inv h) (modJob_inv h)

theorem strandM_inv : InvM (strandM) := .bind (.getM _) fun _ => .legalM _
theorem stagedM_inv {f} : InvM (stagedM f) := .modM fun _ h => modCtx_inv h

theorem execCycbeg_inv {s : State} {la bwd} (h : s.Inv) : OutInv (execCycbeg la bwd s) :=
  runWord_inv (.bind strandM_inv fun _ => .bind (.getM _) fun _ => .bind (.legalM _) fun _ => stagedM_inv) h

theorem execCycend_inv {s : State} {la} (h : s.Inv) : OutInv (execCycend la s) :=
  runWord_inv (.bind strandM_inv fun _ => .bind (.getM _) fun _ => .bind (.legalM _) fun _ => stagedM_inv) h

theorem execWgfence_inv {s : State} {la} (h : s.Inv) : OutInv (execWgfence la s) :=
  runWord_inv (.bind strandM_inv fun _ => .bind (.getM _) fun _ => .bind (.legalM _) fun _ => stagedM_inv) h

theorem execCycstat_inv {s : State} {la d} (h : s.Inv) : OutInv (execCycstat la d s) :=
  runWord_inv (.bind (.getM _) fun _ => writeS_inv) h

theorem execRestst_inv {s : State} {la d b tol} (h : s.Inv) : OutInv (execRestst la d b tol s) :=
  runWord_inv (.ite (.bind (.getM _) fun _ => .bind (.getM _) fun _ => writeS_inv) (.bind readS_inv fun _ => .bind (.pure _) fun _ =>
    .bind (.getM _) fun _ => writeS_inv)) h

/-! ## Jobs of engines and copy units -/

theorem recordM_inv {p} : InvM (recordM p) := .bind loadM_inv fun _ => .pure _
theorem readyQ_inv {s : State} {k q} (h : s.Inv) : (State.readyQ s k q).Inv := inv_ite (modQ_inv h) (licSettle_inv (modQ_inv h))

theorem enqueue_inv {s : State} {copy p ws x} (h : s.Inv) (hx : s.enqueue copy p ws = some x) : x.1.Inv := by
  unfold State.enqueue at hx
  dsimp only at hx
  split at hx
  · cases hx
  · cases hx
    exact inv_ite (readyQ_inv (modCluster_inv h)) (modCluster_inv h)

theorem publishM_inv {copy d p ws} : InvM (publishM copy d p ws) := by
  refine .getM_bind fun s h => ?_
  cases hx : s.enqueue copy p ws with
  | none => exact .run writeS_inv h
  | some x => exact .run (.bind (.modM fun _ _ => enqueue_inv h hx) fun _ => writeS_inv) h

theorem execMxpub_inv {s : State} {la d b} (h : s.Inv) : OutInv (execMxpub la d b s) :=
  runWord_inv (.bind ownM_inv fun _ => .bind readS_inv fun _ => .bind recordM_inv fun _ => .bind tableReadyM_inv fun _ => publishM_inv) h

theorem execCppub_inv {s : State} {la d b} (h : s.Inv) : OutInv (execCppub la d b s) :=
  runWord_inv (.bind ownM_inv fun _ => .bind readS_inv fun _ => .bind recordM_inv fun _ => publishM_inv) h

theorem execJobq_inv {s : State} {la d b} (h : s.Inv) : OutInv (execJobq la d b s) :=
  runWord_inv (.bind readS_inv fun _ => .bind (.getM _) fun _ => writeS_inv) h

theorem licenceM_inv {b} : InvM (licenceM b) := .of fun _ h => .ite (.ok h) (.error _)
theorem setLicReq_inv {s : State} {k r} (h : s.Inv) : (State.setLicReq s k r).Inv := modPair_inv h

theorem execLicacq_inv {s : State} {la d note} (h : s.Inv) : OutInv (execLicacq la d note s) :=
  runWord_inv (.bind (.getM _) fun _ => .bind licenceM_inv fun _ => .bind ownM_inv fun _ => .bind (.getM _) fun _ =>
    .bind (.getM _) fun _ => .bind licenceM_inv fun _ => .bind (.getM _) fun _ => .ite (.bind (.modM fun _ h => modPair_inv h) fun _ =>
    writeS_inv) (.bind (.modM fun _ h => setLicReq_inv h) fun _ => writeS_inv)) h

theorem execLicrel_inv {s : State} {la} (h : s.Inv) : OutInv (execLicrel la s) :=
  runWord_inv (.bind (.getM _) fun _ => .bind licenceM_inv fun _ => .bind ownM_inv fun _ => .bind (.getM _) fun _ =>
    .bind (.getM _) fun _ => .ite (.modM fun _ h => setLicReq_inv h) (.bind (.getM _) fun _ => .bind (.getM _) fun _ =>
    .bind licenceM_inv fun _ => .modM fun _ h => inv_ite (licMove_inv (modPair_inv h)) (modPair_inv h))) h

theorem condReady_inv {w p} : InvM (condReady w p) :=
  .bind (.devGet _) fun _ => .ite (.bind readAt_inv fun _ => .pure _) (.bind (.devGet _) fun _ => by
  split
  · exact .devFail _
  · exact .bind devLoad_inv fun _ => .devGet _
  · exact .pure _
  · exact .devFail _
  · exact .devFail _)

theorem condsReady_inv {w ps} : InvM (condsReady w ps) := by
  induction ps with
  | nil => exact .pure _
  | cons p ps ih => exact .bind condReady_inv fun _ => .bind ih fun _ => .pure _

theorem testQ_inv {k q} : InvM (testQ k q) := by
  refine .bind (.devGet _) fun _ => .bind (.devTry condsReady_inv) fun _ => ?_
  split
  · exact endQ_inv
  · exact .devMod fun _ h => readyQ_inv h
  · exact .pure _

theorem execJobQueueReady_inv {s : State} {k id} (h : s.Inv) : OutInv (execJobQueueReady k id s) :=
  .next (foldl_inv (fun _ _ h => attempt_inv testQ_inv h) h)

theorem takeLines_inv {q ls} : InvM (takeLines q ls) :=
  .bind (.devGet _) fun _ => .bind (.devNeed _) fun _ => .devMod fun _ h => squashAll_inv h

theorem startJob_inv {s : State} {k q} (h : s.Inv) : (State.startJob s k q).Inv := modCluster_inv (modQ_inv h)

theorem issueQ_inv {k q fault ls} : InvM (issueQ k q fault ls) := by
  unfold issueQ
  split
  · exact endQ_inv
  · exact .bind takeLines_inv fun _ => .devMod fun _ h => startJob_inv h

theorem execEngineIssue_inv {s : State} {k} (h : s.Inv) : OutInv (execEngineIssue k s) := .ite (.next h) (by
  split
  · exact .next h
  · exact .next (attempt_inv issueQ_inv h))

theorem execEngineStep_inv {s : State} {k} (h : s.Inv) : OutInv (execEngineStep k s) := by
  unfold execEngineStep
  split
  · exact .next h
  · exact .ite (.next (attempt_inv (.bind runStep_inv fun _ => .pure _) h)) (.next h)

theorem execEngineComplete_inv {s : State} {k} (h : s.Inv) : OutInv (execEngineComplete k s) := by
  unfold execEngineComplete
  split
  · exact .next h
  · exact .ite (.next h) (.next (attempt_inv (.bind endQ_inv fun _ => .devMod fun _ h => licMoved_inv h) h))

theorem execPark_inv {s : State} {k} (h : s.Inv) : OutInv (execPark k s) :=
  .ite (.next h) (.next (attempt_inv (.bind parkEngine_inv fun _ => .devMod fun _ h => licMoved_inv h) h))

theorem unparkJob_inv {k q} : InvM (unparkJob k q) := by
  refine .bind (.devTry unitRead_inv) fun _ => ?_
  split
  · exact endQ_inv
  · exact .devMod fun _ h => modCluster_inv (modQ_inv h)

theorem execUnpark_inv {s : State} {k} (h : s.Inv) : OutInv (execUnpark k s) := .ite (.next h) (by
  split
  · exact .next h
  · exact .ite (.next (attempt_inv unparkJob_inv h)) (.next h))

theorem execJobMove_inv {s : State} {k} (h : s.Inv) : OutInv (execJobMove k s) := .next (licSettle_inv (letIn_inv h))

theorem execCopyIssue_inv {s : State} {k} (h : s.Inv) : OutInv (execCopyIssue k s) := .ite (.next h) (by
  split
  · exact .next h
  · exact .next (attempt_inv issueQ_inv h))

theorem execCopyRow_inv {s : State} {k} (h : s.Inv) : OutInv (execCopyRow k s) := by
  unfold execCopyRow
  split
  · exact .next h
  · exact .next (attempt_inv (.bind runRow_inv fun _ => .pure _) h)

theorem execCopyComplete_inv {s : State} {k} (h : s.Inv) : OutInv (execCopyComplete k s) := by
  unfold execCopyComplete
  split
  · exact .next h
  · exact .ite (.next h) (.next (attempt_inv endQ_inv h))

/-! ## Vector words -/

theorem keptRows_inv {t f n} : InvM (keptRows t f n) := .getM _
theorem tile2_inv {i td ta tb n f} : InvM (tile2 i td ta tb n f) := .bind readRows_inv fun _ => .bind readRows_inv fun _ => writeRows_inv

theorem tile3_inv {i td ta tb n f} : InvM (tile3 i td ta tb n f) :=
  .bind readRows_inv fun _ => .bind readRows_inv fun _ => .bind readRows_inv fun _ => writeRows_inv

theorem tile1_inv {i td ta n f} : InvM (tile1 i td ta n f) := .bind readRows_inv fun _ => .bind keptRows_inv fun _ => writeRows_inv
theorem tableGoodM_inv : InvM (tableGoodM) := .of fun _ h => .ite (.error _) (.ok h)

theorem keysM_inv : InvM (keysM) :=
  .bind readS_inv fun _ => .bind readS_inv fun _ => .bind readS_inv fun _ => .ite (.pure _) (.bind loadM_inv fun _ => .pure _)

theorem execVadd_inv {s : State} {td ta tb n f lt} (h : s.Inv) : OutInv (execVadd td ta tb n f lt s) := runWord_inv tile2_inv h
theorem execVsub_inv {s : State} {td ta tb n f lt} (h : s.Inv) : OutInv (execVsub td ta tb n f lt s) := runWord_inv tile2_inv h
theorem execVmul_inv {s : State} {td ta tb n f lt} (h : s.Inv) : OutInv (execVmul td ta tb n f lt s) := runWord_inv tile2_inv h
theorem execVfma_inv {s : State} {td ta tb n f lt} (h : s.Inv) : OutInv (execVfma td ta tb n f lt s) := runWord_inv tile3_inv h
theorem execVmin_inv {s : State} {td ta tb n f lt} (h : s.Inv) : OutInv (execVmin td ta tb n f lt s) := runWord_inv tile2_inv h
theorem execVmax_inv {s : State} {td ta tb n f lt} (h : s.Inv) : OutInv (execVmax td ta tb n f lt s) := runWord_inv tile2_inv h
theorem execVand_inv {s : State} {td ta tb n f lt} (h : s.Inv) : OutInv (execVand td ta tb n f lt s) := runWord_inv tile2_inv h
theorem execVor_inv {s : State} {td ta tb n f lt} (h : s.Inv) : OutInv (execVor td ta tb n f lt s) := runWord_inv tile2_inv h
theorem execVxor_inv {s : State} {td ta tb n f lt} (h : s.Inv) : OutInv (execVxor td ta tb n f lt s) := runWord_inv tile2_inv h
theorem execVshl_inv {s : State} {td ta tb n f lt k} (h : s.Inv) : OutInv (execVshl td ta tb n f lt k s) := runWord_inv tile2_inv h
theorem execVcmp_inv {s : State} {td ta tb n f lt c} (h : s.Inv) : OutInv (execVcmp td ta tb n f lt c s) := runWord_inv tile2_inv h
theorem execVsel_inv {s : State} {td ta tb n f lt} (h : s.Inv) : OutInv (execVsel td ta tb n f lt s) := runWord_inv tile3_inv h
theorem execVcvt_inv {s : State} {td ta k n f lt dst} (h : s.Inv) : OutInv (execVcvt td ta k n f lt dst s) := runWord_inv tile1_inv h

theorem execVdec_inv {s : State} {td ta k n f lt} (h : s.Inv) : OutInv (execVdec td ta k n f lt s) :=
  runWord_inv (.bind tableReadyM_inv fun _ => .bind readRows_inv fun _ => .bind (.getM _) fun _ => writeRows_inv) h

theorem execVenc_inv {s : State} {td ta k n f lt} (h : s.Inv) : OutInv (execVenc td ta k n f lt s) :=
  runWord_inv (.bind tableReadyM_inv fun _ => .bind readRows_inv fun _ => .bind tableGoodM_inv fun _ => .bind keptRows_inv fun _ =>
    .bind (.getM _) fun _ => writeRows_inv) h

theorem execVbcast_inv {s : State} {td r n f lt} (h : s.Inv) : OutInv (execVbcast td r n f lt s) :=
  runWord_inv (.bind readS_inv fun _ => writeRows_inv) h

theorem execVperm_inv {s : State} {td ta tb n f lt} (h : s.Inv) : OutInv (execVperm td ta tb n f lt s) :=
  runWord_inv (.bind readRows_inv fun _ => .bind readRows_inv fun _ => writeRows_inv) h

theorem execVrep_inv {s : State} {td ta k n f lt} (h : s.Inv) : OutInv (execVrep td ta k n f lt s) :=
  runWord_inv (.bind readRows_inv fun _ => writeRows_inv) h

theorem execTzero_inv {s : State} {td n f lt} (h : s.Inv) : OutInv (execTzero td n f lt s) := runWord_inv writeRows_inv h
theorem execTmov_inv {s : State} {td ta n f lt} (h : s.Inv) : OutInv (execTmov td ta n f lt s) := runWord_inv tile1_inv h
theorem execTtrans_inv {s : State} {td ta n f lt} (h : s.Inv) : OutInv (execTtrans td ta n f lt s) := runWord_inv tile1_inv h

theorem execVins_inv {s : State} {td r f lt} (h : s.Inv) : OutInv (execVins td r f lt s) :=
  runWord_inv (.bind readS_inv fun _ => .bind readS_inv fun _ => .bind keptRows_inv fun _ => writeRows_inv) h

theorem execVext_inv {s : State} {td r f lt} (h : s.Inv) : OutInv (execVext td r f lt s) :=
  runWord_inv (.bind readS_inv fun _ => .bind readRows_inv fun _ => writeS_inv) h

theorem execVdot_inv {s : State} {td ta tb n f lt} (h : s.Inv) : OutInv (execVdot td ta tb n f lt s) :=
  runWord_inv (.bind readRows_inv fun _ => .bind readRows_inv fun _ => writeRows_inv) h

theorem execVsign_inv {s : State} {td ta n f lt} (h : s.Inv) : OutInv (execVsign td ta n f lt s) :=
  runWord_inv (.bind readRows_inv fun _ => .bind keysM_inv fun _ => writeRows_inv) h

theorem execVmpld_inv {s : State} {first ta n f} (h : s.Inv) : OutInv (execVmpld first ta n f s) := by
  refine runWord_inv (.bind (.getM _) fun _ => .opt systemM_inv fun _ => .bind readRows_inv fun _ => ?_) h
  dsimp only
  split
  · exact .trapM _ _
  · exact .modM fun _ h => modCtx_inv h

end Sys2Proof.Machine
end

section
/-! The canonical form of memory is kept by groups, the ordered class and pipelines. -/

namespace Sys2Proof.Machine

/-! ## Groups -/

theorem modGroup_inv {s : State} {key f} (h : s.Inv) : (State.modGroup s key f).Inv := by
  unfold State.modGroup
  split <;> exact h

theorem launch_inv {s : State} {slk it} (h : s.Inv) : (State.launch s slk it).Inv := inv_ite h (inv_ite h h)

theorem killDown_inv {s : State} {k key} (h : s.Inv) : (State.killDown k key s).Inv := by
  induction k generalizing s key with
  | zero => exact h
  | succ k ih =>
    unfold State.killDown
    split
    · exact h
    · exact inv_ite h (inv_ite (foldl_inv (fun _ _ h => inv_ite (ih h) h) (modGroup_inv h)) (modGroup_inv h))

theorem killUp_inv {s : State} {k key} (h : s.Inv) : (State.killUp k key s).Inv := by
  induction k generalizing s key with
  | zero => exact h
  | succ k ih =>
    unfold State.killUp
    split
    · exact h
    · exact inv_ite (inv_ite (modGroup_inv h) h) (inv_ite h (inv_ite (ih (killDown_inv h)) (killDown_inv h)))

theorem pump_inv {s : State} {key n} (h : s.Inv) : (State.pump key n s).Inv := by
  induction n generalizing s with
  | zero => exact h
  | succ n ih =>
    unfold State.pump
    split
    · exact h
    · split
      · exact h
      · split
        · exact ih (launch_inv (modGroup_inv h))
        · exact inv_ite (ih (modGroup_inv h)) (killDown_inv h)

theorem pumpRouter_inv {s : State} {core} (h : s.Inv) : (State.pumpRouter s core).Inv := foldl_inv (fun _ _ h => inv_ite (pump_inv h) h) h

theorem emit_inv {s : State} {key it} (h : s.Inv) : (State.emit s key it).Inv := by
  unfold State.emit
  split
  · exact h
  · exact inv_ite (by
      split
      · exact launch_inv (modGroup_inv h)
      · exact modGroup_inv h) (pump_inv (modGroup_inv h))

theorem sendTo_inv {s : State} {key node via dir round chunk bodies} (h : s.Inv) :
    (State.sendTo s key node via dir round chunk bodies).Inv := by
  unfold State.sendTo
  split
  · exact h
  · exact foldl_inv (fun _ _ h => emit_inv h) h

theorem sendDown_inv {s : State} {key round chunk bodies} (h : s.Inv) : (State.sendDown s key round chunk bodies).Inv := by
  unfold State.sendDown
  split
  · exact h
  · exact foldl_inv (fun _ _ h => sendTo_inv h) h

theorem output_inv {s : State} {key round chunk body} (h : s.Inv) : (State.output s key round chunk body).Inv := by
  unfold State.output
  split
  · exact h
  · exact inv_ite (inv_ite (sendDown_inv (modGroup_inv h)) (modGroup_inv h)) (sendTo_inv h)

theorem combineHead_inv {s : State} {key round chunk g} (h : s.Inv) : (State.combineHead s key round chunk g).Inv :=
  inv_ite h (output_inv (modGroup_inv h))

theorem combineBlock_inv {s : State} {key round chunk g k} (h : s.Inv) : (State.combineBlock s key round chunk g k).Inv := inv_ite h (by
  split
  · exact h
  · exact output_inv (modGroup_inv h))

theorem combine_inv {s : State} {key round chunk} (h : s.Inv) : (State.combine s key round chunk).Inv := by
  unfold State.combine
  split
  · exact h
  · exact inv_ite h (foldl_inv (fun _ _ h => combineBlock_inv h) (combineHead_inv h))

theorem readBlocks_inv {segs o p ks} : InvM (readBlocks segs o p ks) := by
  induction ks with
  | nil => exact .pure _
  | cons k ks ih => exact .bind loadSegs_inv fun _ => .bind ih fun _ => .pure _

theorem readImages_inv {segs p n o} : InvM (readImages segs p n o) := by
  induction n generalizing o with
  | zero => exact .pure _
  | succ n ih => exact .bind loadSegs_inv fun _ => .bind readBlocks_inv fun _ => .bind ih fun _ => .pure _

theorem contributeOwn_inv {s : State} {key round chunk bmap blocks} (h : s.Inv) :
    (State.contributeOwn s key round chunk bmap blocks).Inv := by
  unfold State.contributeOwn
  split
  · exact h
  · exact inv_ite (modGroup_inv h) (combine_inv (modGroup_inv h))

theorem contributeChunk_inv {s : State} {key kind round succ x} (h : s.Inv) : (State.contributeChunk s key kind round succ x).Inv := by
  unfold State.contributeChunk
  split
  · exact sendDown_inv h
  · exact sendTo_inv h
  · exact contributeOwn_inv h

theorem contribute_inv {s : State} {key images} (h : s.Inv) : (State.contribute s key images).Inv := by
  unfold State.contribute
  split
  · exact h
  · exact modGroup_inv (foldl_inv (fun _ _ h => contributeChunk_inv h) (modGroup_inv h))

theorem memberM_inv {n} : InvM (memberM n) := by
  refine .bind (.getM _) fun _ => ?_
  split
  · exact .ite (.pure _) (.trapM _ _)
  · exact .trapM _ _

theorem execGsend_inv {s : State} {la b n} (h : s.Inv) : OutInv (execGsend la b n s) := by
  refine runWord_inv (.bind ownM_inv fun _ => .bind readS_inv fun _ => .bind memberM_inv fun _ => .bind (.needM _ _) fun _ =>
      .bind (.needM _ _) fun _ => .bind (.needM _ _) fun _ => .bind (.accessM _ _) fun ⟨_, _⟩ => .bind (.needM _ _) fun _ => ?_) h
  split
  · exact .bind readImages_inv fun _ => .modM fun _ h => contribute_inv h
  all_goals exact .trapM _ _

theorem execGrecv_inv {s : State} {la d b n} (h : s.Inv) : OutInv (execGrecv la d b n s) := by
  refine runWord_inv (.bind ownM_inv fun _ => .bind readS_inv fun _ => .bind memberM_inv fun _ => .bind (.needM _ _) fun _ =>
      .bind (.needM _ _) fun _ => .bind (.accessM _ _) fun ⟨_, _⟩ => ?_) h
  dsimp only
  split
  · exact writeS_inv
  · split
    · exact .bind storeSegs_inv fun _ => .bind (.modM fun _ h => modGroup_inv h) fun _ => .bind (.getM _) fun _ => writeS_inv
    · exact .bind (.trapM _ _) fun _ => .bind (.modM fun _ h => modGroup_inv h) fun _ => .bind (.getM _) fun _ => writeS_inv
    · exact .bind (.trapM _ _) fun _ => .bind (.modM fun _ h => modGroup_inv h) fun _ => .bind (.getM _) fun _ => writeS_inv
    · exact .bind (.trapM _ _) fun _ => .bind (.modM fun _ h => modGroup_inv h) fun _ => .bind (.getM _) fun _ => writeS_inv

theorem execGstat_inv {s : State} {la d n} (h : s.Inv) : OutInv (execGstat la d n s) :=
  runWord_inv (.bind (.getM _) fun _ => writeS_inv) h

theorem execGcfg_inv {s : State} {la b n} (h : s.Inv) : OutInv (execGcfg la b n s) :=
  runWord_inv (.bind (.getM _) fun _ => .bind (.legalM _) fun _ => .bind readS_inv fun _ => .bind loadM_inv fun _ =>
    .bind (.getM _) fun _ => .bind (.needM _ _) fun _ => stagedM_inv) h

theorem ackItem_inv {s : State} {it} (h : s.Inv) : (State.ackItem s it).Inv := inv_ite h h
theorem sendLate_inv {s : State} {node group asid deep} (h : s.Inv) : (State.sendLate s node group asid deep).Inv := inv_ite h h
theorem notHung_inv {s : State} {asid} (h : s.Inv) : (State.notHung s asid).Inv := h

theorem noteSlack_inv {s : State} {g it} (h : s.Inv) : (State.noteSlack s g it).Inv := by
  unfold State.noteSlack
  dsimp only
  split
  · exact inv_ite h h
  · exact h

theorem takeUp_inv {s : State} {key slot g it} (h : s.Inv) : (State.takeUp s key slot g it).Inv := inv_ite (ackItem_inv (by
  split
  · exact modGroup_inv h
  · exact h)) (inv_ite (ackItem_inv (sendLate_inv (by
  split
  · exact modGroup_inv h
  · exact h))) (combine_inv (ackItem_inv (modGroup_inv (by
  split
  · exact modGroup_inv h
  · exact h)))))

theorem takeResult_inv {s : State} {key g it} (h : s.Inv) : (State.takeResult s key g it).Inv :=
  inv_ite (ackItem_inv h) (inv_ite (sendDown_inv (noteSlack_inv (ackItem_inv (modGroup_inv h)))) (noteSlack_inv (ackItem_inv
    (modGroup_inv h))))

theorem takeItem_inv {s : State} {it} (h : s.Inv) : (State.takeItem s it).Inv := by
  unfold State.takeItem
  dsimp only
  split
  · exact ackItem_inv (sendLate_inv h)
  · exact inv_ite (ackItem_inv (sendLate_inv h)) (inv_ite (ackItem_inv h) (inv_ite (ackItem_inv (sendLate_inv h)) (by
      split
      · exact takeUp_inv h
      · exact takeResult_inv h)))

theorem execGroupItemArrive_inv {s : State} {it} (h : s.Inv) : OutInv (execGroupItemArrive it s) :=
  .ite (.next h) (.ite (.ite (.next h) (.next h)) (.ite (.next h) (.ite (.next (inv_ite h (notHung_inv h))) (.next (takeItem_inv
    (notHung_inv h))))))

theorem execGroupResultArrive_inv {s : State} {core n} (h : s.Inv) : OutInv (execGroupResultArrive core n s) := by
  unfold execGroupResultArrive
  split
  · exact .next h
  · split
    · exact .next h
    · exact .ite (.next h) (.next (inv_ite (modAgent_inv (modGroup_inv h)) (modGroup_inv h)))

theorem ackDone_inv {s : State} {core n it} (h : s.Inv) : (State.ackDone s core n it).Inv :=
  modGroup_inv (pumpRouter_inv (modGroup_inv h))

theorem execGroupAck_inv {s : State} {core n} (h : s.Inv) : OutInv (execGroupAck core n s) := by
  unfold execGroupAck
  split
  · exact .next h
  · split
    · exact .next (ackDone_inv h)
    · dsimp only
      split
      · exact .next (ackDone_inv (inv_ite h (draw_inv h)))
      · exact .next h

theorem takeDoor_inv {s : State} {key round chunk} (h : s.Inv) : (State.takeDoor s key round chunk).Inv := foldl_inv (fun _ _ h => by
  split
  · exact inv_ite (ackItem_inv (modGroup_inv h)) h
  · exact h) h

theorem execGroupTimeout_inv {s : State} {core n q} (h : s.Inv) : OutInv (execGroupTimeout core n q s) := by
  unfold execGroupTimeout
  dsimp only
  split
  · exact .next h
  · split
    · exact .next h
    · exact .next (combine_inv (modGroup_inv (takeDoor_inv h)))

theorem takeLate_inv {s : State} {core n asid deep g} (h : s.Inv) : (State.takeLate s core n asid deep g).Inv :=
  inv_ite (foldl_inv (fun _ _ h => sendLate_inv h) (modGroup_inv h)) (modGroup_inv h)

theorem takeFarLate_inv {s : State} {core n g} (h : s.Inv) : (State.takeFarLate s core n g).Inv := by
  unfold State.takeFarLate
  dsimp only
  split
  · exact takeLate_inv (draw_inv h)
  · exact takeLate_inv h
  · exact takeLate_inv h
  · exact h

theorem execLateNoticeArrive_inv {s : State} {core n} (h : s.Inv) : OutInv (execLateNoticeArrive core n s) := by
  unfold execLateNoticeArrive
  split
  · dsimp only
    split
    · exact .ite (.next (takeLate_inv h)) (.ite (.next h) (.next h))
    · exact .ite (.next h) (.next h)
  · split
    · exact .next (takeFarLate_inv h)
    · exact .next h

theorem execRouteNoticeArrive_inv {s : State} {core n slot relay} (h : s.Inv) : OutInv (execRouteNoticeArrive core n slot relay s) := by
  unfold execRouteNoticeArrive
  dsimp only
  split
  · exact .next h
  · exact .ite (.next h) (.next (pump_inv (modGroup_inv h)))

theorem groupDeath_inv {s : State} {key g} (h : s.Inv) : (State.groupDeath s key g).Inv :=
  inv_ite (killUp_inv (inv_ite (inv_ite (pump_inv (modGroup_inv h)) (killDown_inv (pump_inv (modGroup_inv h)))) (inv_ite (pump_inv
    (modGroup_inv h)) (inv_ite (pump_inv (modGroup_inv h)) (killDown_inv (pump_inv (modGroup_inv h))))))) (inv_ite (inv_ite (pump_inv
    (modGroup_inv h)) (killDown_inv (pump_inv (modGroup_inv h)))) (inv_ite (pump_inv (modGroup_inv h)) (inv_ite (pump_inv
    (modGroup_inv h)) (killDown_inv (pump_inv (modGroup_inv h))))))

theorem groupsDeath_inv {s : State} {gs} (h : s.Inv) : (State.groupsDeath s gs).Inv :=
  foldl_inv (fun _ _ h => inv_ite (groupDeath_inv h) h) h

theorem execSlackWindow_inv {s : State} (h : s.Inv) : OutInv (execSlackWindow s) := .ite (.next h) (.next h)

/-! ## The ordered class -/

theorem modOut_inv {s : State} {p f} (h : s.Inv) : (State.modOut s p f).Inv := h
theorem modIn_inv {s : State} {p f} (h : s.Inv) : (State.modIn s p f).Inv := h
theorem sendOn_inv {s : State} {p x} (h : s.Inv) : (State.sendOn s p x).Inv := h

theorem sendOrdered_inv {s : State} {p xs} (h : s.Inv) : (State.sendOrdered s p xs).Inv := by
  induction xs generalizing s with
  | nil => exact h
  | cons x xs ih => exact inv_ite (ih (sendOn_inv (modOut_inv h))) h

theorem flushPorts_inv {s : State} (h : s.Inv) : (State.flushPorts s).Inv := foldl_inv (fun _ _ h => inv_ite h (sendOrdered_inv h)) h

theorem discard_inv {s : State} {from_ x} (h : s.Inv) : (State.discard s from_ x).Inv := by
  unfold State.discard
  split
  · exact modIn_inv h
  · exact h

theorem forward_inv {s : State} {from_ x} (h : s.Inv) : (State.forward s from_ x).Inv := by
  unfold State.forward
  split
  · exact discard_inv h
  · exact inv_ite h (by
      split
      · exact modOut_inv h
      · exact discard_inv h)

theorem channelM_inv {c} : InvM (channelM c) := by
  refine .bind (.getM _) fun _ => ?_
  split
  · exact .trapM _ _
  · exact .bind (.getM _) fun _ => .bind (.needM _ _) fun _ => .pure _

theorem execOsend_inv {s : State} {la b c} (h : s.Inv) : OutInv (execOsend la b c s) :=
  runWord_inv (.bind ownM_inv fun _ => .bind readS_inv fun _ => .bind channelM_inv fun _ => .bind releaseM_inv fun _ =>
    .modM fun _ h => h) h

theorem execOrecv_inv {s : State} {la d key c} (h : s.Inv) : OutInv (execOrecv la d key c s) := by
  refine runWord_inv (.bind (.getM _) fun _ => .bind (.legalM _) fun _ => .bind ownM_inv fun _ => .bind channelM_inv fun _ =>
      .bind (.getM _) fun _ => ?_) h
  dsimp only
  split
  · exact .bind (.trapM _ _) fun _ => .bind (.getM _) fun _ => .bind (.getM _) fun _ => by
      split
      · exact restM_inv (.bind writeS_inv fun _ => .ite (.bind writeS_inv fun _ => .bind writeS_inv fun _ => writeS_inv) (.pure _))
      · exact .bind (.modM fun _ h => h) fun _ => .bind writeS_inv fun _ => .ite (.bind writeS_inv fun _ => .bind writeS_inv fun _ =>
          writeS_inv) (.pure _)
  · exact .bind (.getM _) fun _ => .bind (.getM _) fun _ => by
      split
      · exact restM_inv (.bind writeS_inv fun _ => .ite (.bind writeS_inv fun _ => .bind writeS_inv fun _ => writeS_inv) (.pure _))
      · exact .bind (.modM fun _ h => h) fun _ => .bind writeS_inv fun _ => .ite (.bind writeS_inv fun _ => .bind writeS_inv fun _ =>
          writeS_inv) (.pure _)

theorem inject_inv {s : State} {x} (h : s.Inv) : (State.inject s x).Inv := by
  unfold State.inject
  dsimp only
  split
  · exact h
  · exact flushPorts_inv (foldl_inv (fun _ _ h => forward_inv h) h)

theorem execOrderedInject_inv {s : State} (h : s.Inv) : OutInv (execOrderedInject s) := by
  unfold execOrderedInject
  split
  · exact .next h
  · exact .next (inject_inv h)

theorem takePacket_inv {s : State} {port x} (h : s.Inv) : (State.takePacket s port x).Inv := forward_inv (notHung_inv h)
theorem advance_inv {s : State} {p b} (h : s.Inv) : (State.advance s p b).Inv := modIn_inv h

theorem sendTagged_inv {s : State} {from_ x tag} (h : s.Inv) : (State.sendTagged s from_ x tag).Inv := by
  unfold State.sendTagged
  split
  · exact h
  · exact discard_inv h

theorem sendClose_inv {s : State} {tag} (h : s.Inv) : (State.sendClose s tag).Inv := inv_ite h (by
  split
  · exact h
  · exact h)

theorem takeTagged_inv {s : State} {port x tag} (h : s.Inv) : (State.takeTagged s port x tag).Inv :=
  inv_ite (sendTagged_inv h) (inv_ite h (takePacket_inv h))

theorem execOrderedPacketArrive_inv {s : State} {port a} (h : s.Inv) : OutInv (execOrderedPacketArrive port a s) := by
  unfold execOrderedPacketArrive
  dsimp only
  split
  · split
    · exact .ite (.next h) (.next (flushPorts_inv (takeTagged_inv h)))
    · exact .ite (.next h) (.next (flushPorts_inv (takePacket_inv (advance_inv h))))
  · exact .ite (.next h) (.next (flushPorts_inv (advance_inv h)))

theorem execOrderedBeacon_inv {s : State} {port} (h : s.Inv) : OutInv (execOrderedBeacon port s) :=
  .ite (.next (flushPorts_inv h)) (.next (flushPorts_inv h))

theorem deliver_inv {s : State} {asid mark xs} (h : s.Inv) : (State.deliver s asid mark xs).Inv := by
  induction xs generalizing s with
  | nil => exact h
  | cons x xs ih => exact inv_ite h (inv_ite h (inv_ite (ih h) (ih h)))

theorem execOrderedDeliver_inv {s : State} {asid} (h : s.Inv) : OutInv (execOrderedDeliver asid s) := .next (deliver_inv h)

theorem execCloseBeaconArrive_inv {s : State} {dev port} (h : s.Inv) : OutInv (execCloseBeaconArrive dev port s) :=
  .ite (.next (sendClose_inv h)) (.ite (.next (flushPorts_inv (modIn_inv h))) (.next h))

theorem execWatermarkStall_inv {s : State} {asid} (h : s.Inv) : OutInv (execWatermarkStall asid s) := .ite (.next h) (by
  split
  · exact .next h
  · exact .next (foldl_inv (fun _ _ h => modAgent_inv h) h))

theorem resendOrdered_inv {s : State} {port xs closes} (h : s.Inv) : (State.resendOrdered s port xs closes).Inv :=
  foldl_inv (fun _ _ h => sendClose_inv h) (foldl_inv (fun _ _ h => sendTagged_inv h) h)

theorem orderedDeath_inv {s : State} {port} (h : s.Inv) : (State.orderedDeath s port).Inv :=
  flushPorts_inv (resendOrdered_inv (foldl_inv (fun _ _ h => forward_inv h) (modOut_inv (modIn_inv h))))

theorem execFelrilLinkDeath_inv {s : State} {port} (h : s.Inv) : OutInv (execFelrilLinkDeath port s) :=
  .ite (.next h) (.next (groupsDeath_inv (orderedDeath_inv h)))

/-! ## Pipelines -/

theorem modPipe_inv {s : State} {key f} (h : s.Inv) : (State.modPipe s key f).Inv := by
  unfold State.modPipe
  split <;> exact h

theorem namePipe_inv {s : State} {key d} (h : s.Inv) : (State.namePipe s key d).Inv := by
  unfold State.namePipe
  split <;> exact h

theorem pipeDescM_inv {p} : InvM (pipeDescM p) :=
  .bind (.getM _) fun _ => .bind (.getM _) fun _ => .bind (.getM _) fun _ => .bind (.needM _ _) fun _ => .bind loadM_inv fun _ =>
    .bind (.legalM _) fun _ => .bind loadM_inv fun _ => .bind (.getM _) fun _ => .bind (.legalM _) fun _ => .pure _

theorem pipeM_inv {p} : InvM (pipeM p) :=
  .bind pipeDescM_inv fun _ => .bind (.getM _) fun _ => .bind (.modM fun _ h => namePipe_inv h) fun _ => .pure _

theorem stamp_inv {key r} : InvM (stamp key r) :=
  .bind (.devGet _) fun _ => .bind (.devGet _) fun _ => .bind (.devTry writeAt_inv) fun _ => .pure _

theorem stampSlot_inv {key slot} : InvM (stampSlot key slot) := by
  refine .bind (.devGet _) fun _ => ?_
  split
  · exact stamp_inv
  · exact .pure _

theorem comeTo_inv {key slot i core} : InvM (comeTo key slot i core) := .bind (.devMod fun _ h => modPipe_inv h) fun _ => stampSlot_inv

theorem soleM_inv {key} : InvM (soleM key) := .bind (.getM _) fun _ => .ite (.bind (.getM _) fun _ => .bind (.getM _) fun _ => by
  split
  · exact .legalM _
  · exact .modM fun _ h => modPipe_inv h) (.pure _)

theorem execPenq_inv {s : State} {la d b p} (h : s.Inv) : OutInv (execPenq la d b p s) := by
  refine runWord_inv (.bind ownM_inv fun _ => .bind readS_inv fun _ => .bind pipeM_inv fun _ => .bind (.getM _) fun _ =>
      .bind (.accessM _ _) fun _ => .bind soleM_inv fun _ => ?_) h
  split
  · exact writeS_inv
  · exact .ite (restM_inv writeS_inv) (.bind loadM_inv fun _ => .bind (.accessM _ _) fun ⟨_, _⟩ => by
      dsimp only
      split
      · exact .bind storeSegs_inv fun _ => .bind (.getM _) fun _ => .bind (.modM fun _ h => modPipe_inv h) fun _ => writeS_inv
      · exact .bind (.trapM _ _) fun _ => .bind (.getM _) fun _ => .bind (.modM fun _ h => modPipe_inv h) fun _ => writeS_inv
      · exact .bind (.trapM _ _) fun _ => .bind (.getM _) fun _ => .bind (.modM fun _ h => modPipe_inv h) fun _ => writeS_inv
      · exact .bind (.trapM _ _) fun _ => .bind (.getM _) fun _ => .bind (.modM fun _ h => modPipe_inv h) fun _ => writeS_inv)

theorem execPdeq_inv {s : State} {la d p} (h : s.Inv) : OutInv (execPdeq la d p s) := by
  refine runWord_inv (.bind (.getM _) fun _ => .bind (.legalM _) fun _ => .bind ownM_inv fun _ => .bind pipeM_inv fun _ =>
      .bind (.getM _) fun _ => .bind (.getM _) fun _ => ?_) h
  split
  · exact .illegalM
  · exact .bind (.getM _) fun _ => by
      split
      · exact restM_inv (.bind writeS_inv fun _ => writeS_inv)
      · exact .bind (.modM fun _ h => modPipe_inv h) fun _ => .bind (.modM fun _ h => modCore_inv h) fun _ => .bind writeS_inv fun _ =>
          writeS_inv

theorem effectChecksM_inv {ws xs} : InvM (effectChecksM ws xs) := by
  induction xs with
  | nil => exact .pure _
  | cons x xs ih => exact .ite (.bind (.accessM _ _) fun _ => ih) ih

theorem finishStage_inv {key c r drop} : InvM (finishStage key c r drop) :=
  .bind (.devMod fun _ h => modPipe_inv h) fun _ => .ite (.bind stamp_inv fun _ =>
    .devMod fun _ h => modPipe_inv h) (.bind (.devMod fun _ h => modPipe_inv h) fun _ => stampSlot_inv)

theorem execPdone_inv {s : State} {la b p drop} (h : s.Inv) : OutInv (execPdone la b p drop s) := by
  refine runWord_inv (.bind (.getM _) fun _ => .bind (.legalM _) fun _ => .bind ownM_inv fun _ => .bind readS_inv fun _ =>
      .bind pipeM_inv fun _ => .bind (.getM _) fun _ => .bind (.getM _) fun _ => .bind (.legalM _) fun _ => .bind (.getM _) fun _ => ?_) h
  split
  · exact .illegalM
  · exact .bind loadM_inv fun _ => .bind (.legalM _) fun _ => .bind effectChecksM_inv fun _ =>
      .ite (restM_inv (.pure _)) (.bind (.devM finishStage_inv) fun _ => .modM fun _ h => modCore_inv h)

theorem execPstat_inv {s : State} {la d p st} (h : s.Inv) : OutInv (execPstat la d p st s) :=
  runWord_inv (.bind pipeDescM_inv fun _ => .bind (.legalM _) fun _ => .bind (.getM _) fun _ => .bind (.getM _) fun _ => writeS_inv) h

theorem execStageQueueRoom_inv {s : State} {a} (h : s.Inv) : OutInv (execStageQueueRoom a s) := by
  unfold execStageQueueRoom
  dsimp only
  split
  · exact .next (inv_ite (setAgent_inv h) h)
  all_goals exact .next h

theorem execSpeedwellRoute_inv {s : State} {asid p k} (h : s.Inv) : OutInv (execSpeedwellRoute asid p k s) := .ite (.next h) (by
  split
  · exact .next h
  · exact .next (attempt_inv (.bind (.devGet _) fun _ => .opt (.devMod fun _ h => modPipe_inv h) fun _ =>
      .bind (.devMod fun _ h => modPipe_inv h) fun _ => stampSlot_inv) h))

theorem perform_inv {key r k addr v} : InvM (perform key r k addr v) :=
  .bind (.devGet _) fun _ => .ite writeAt_inv (.bind (.devGet _) fun _ => .bind readAt_inv fun _ => .bind writeAt_inv fun _ =>
    writeAt_inv)

theorem performAll_inv {key r ws xs} : InvM (performAll key r ws xs) := by
  induction xs with
  | nil => exact .pure _
  | cons x xs ih =>
    refine .bind (.devTry perform_inv) fun _ => ?_
    split
    · exact ih
    · exact .pure _

theorem settleEffects_inv {key r} : InvM (settleEffects key r) := by
  refine .bind (.devGet _) fun _ => .bind (.devGet _) fun _ => .bind (.devTry readAt_inv) fun _ => ?_
  split
  · exact .pure _
  · exact performAll_inv

theorem moveOn_inv {key r next} : InvM (moveOn key r next) := by
  unfold moveOn
  split
  · exact .devMod fun _ h => modPipe_inv h
  · exact .bind (.devGet _) fun _ => .ite comeTo_inv (.pure _)

theorem execDeferredEffects_inv {s : State} {asid p} (h : s.Inv) : OutInv (execDeferredEffects asid p s) := .ite (.next h) (by
  split
  · exact .next h
  · exact .next (attempt_inv (.ite moveOn_inv (.bind settleEffects_inv fun _ => by
      split
      · exact endJob_inv
      · exact .bind (.devMod fun _ h => modPipe_inv h) fun _ => moveOn_inv)) h))

theorem execPipelineCoreMove_inv {s : State} {asid p} (h : s.Inv) : OutInv (execPipelineCoreMove asid p s) := .ite (.next h) (by
  split
  · exact .next h
  · split
    · exact .next h
    · exact .next (modPipe_inv h))

end Sys2Proof.Machine
end

section
/-! The canonical form of memory is kept by loads, stores and handles, by waiting, and by the dispatcher. -/

namespace Sys2Proof.Machine

/-! ## Loads, stores and handles -/

theorem pointerM_inv {b disp} : InvM (pointerM b disp) := .bind readS_inv fun _ => .pure _
theorem wordAccessM_inv {pa p} : InvM (wordAccessM pa p) := .bind loadSegs_inv fun _ => .bind claimM_inv fun _ => .pure _
theorem hintCheckM_inv {p} : InvM (hintCheckM p) := .bind (.accessM _ _) fun _ => .pure _

theorem execLd_inv {s : State} {la o d b sz x} (h : s.Inv) : OutInv (execLd la o d b sz x s) :=
  runWord_inv (.bind pointerM_inv fun _ => .bind loadM_inv fun _ => .bind acquireM_inv fun _ => writeLate_inv) h

theorem execSt_inv {s : State} {la o d b sz x} (h : s.Inv) : OutInv (execSt la o d b sz x s) :=
  runWord_inv (.bind releaseM_inv fun _ => .bind readS_inv fun _ => .bind pointerM_inv fun _ => storeM_inv) h

theorem execLdt_inv {s : State} {la o t b n f e} (h : s.Inv) : OutInv (execLdt la o t b n f e s) :=
  runWord_inv (.bind pointerM_inv fun _ => .bind loadM_inv fun _ => .bind acquireM_inv fun _ => writeRowsLate_inv) h

theorem execStt_inv {s : State} {la o t b n f e} (h : s.Inv) : OutInv (execStt la o t b n f e s) :=
  runWord_inv (.bind releaseM_inv fun _ => .bind readRows_inv fun _ => .bind pointerM_inv fun _ => storeM_inv) h

theorem execLdfe_inv {s : State} {la o d b x} (h : s.Inv) : OutInv (execLdfe la o d b x s) :=
  runWord_inv (.bind pointerM_inv fun _ => .bind wordPlaceM_inv fun _ => .bind wordAccessM_inv fun _ =>
    .opt (.modM fun _ h => acquire_inv h) fun _ => .bind (.modM fun _ h => putTag_inv h) fun _ => writeLate_inv) h

theorem execStfe_inv {s : State} {la o d b x} (h : s.Inv) : OutInv (execStfe la o d b x s) :=
  runWord_inv (.bind releaseM_inv fun _ => .bind readS_inv fun _ => .bind pointerM_inv fun _ => .bind wordPlaceM_inv fun _ =>
    .bind storeSegs_inv fun _ => .bind (.modM fun _ h => putTag_inv h) fun _ => .ite (.modM fun _ h => carryRelease_inv h) (.pure _)) h

theorem execFeset_inv {s : State} {la a full} (h : s.Inv) : OutInv (execFeset la a full s) :=
  runWord_inv (.bind readS_inv fun _ => .bind wordPlaceM_inv fun _ => .bind claimM_inv fun _ => .modM fun _ h => putTag_inv h) h

theorem execFeq_inv {s : State} {la d b} (h : s.Inv) : OutInv (execFeq la d b s) :=
  runWord_inv (.bind readS_inv fun _ => .bind wordPlaceM_inv fun _ => .bind loadSegs_inv fun _ => .bind (.getM _) fun _ => writeS_inv) h

theorem execPref_inv {s : State} {la a} (h : s.Inv) : OutInv (execPref la a s) := runWord_inv (.bind readS_inv fun _ => .pure _) h

theorem execWback_inv {s : State} {la a} (h : s.Inv) : OutInv (execWback la a s) :=
  runWord_inv (.bind readS_inv fun _ => hintCheckM_inv) h

theorem execInval_inv {s : State} {la a} (h : s.Inv) : OutInv (execInval la a s) :=
  runWord_inv (.bind readS_inv fun _ => hintCheckM_inv) h

theorem execSbind_inv {s : State} {la a r n tile out} (h : s.Inv) : OutInv (execSbind la a r n tile out s) := by
  refine runWord_inv (.bind readS_inv fun _ => .bind (.getM _) fun _ => .bind (.legalM _) fun _ => .bind loadM_inv fun _ => ?_) h
  split
  · exact .illegalM
  · exact .modM fun _ h => modCtx_inv h

theorem execSfree_inv {s : State} {la n} (h : s.Inv) : OutInv (execSfree la n s) := runWord_inv (.modM fun _ h => modCtx_inv h) h

theorem execSsync_inv {s : State} {la d n} (h : s.Inv) : OutInv (execSsync la d n s) :=
  runWord_inv (.bind (.getM _) fun _ => writeS_inv) h

theorem execHtld_inv {s : State} {la a b} (h : s.Inv) : OutInv (execHtld la a b s) :=
  runWord_inv (.bind readS_inv fun _ => .bind readS_inv fun _ => .bind (.getM _) fun _ => storeM_inv) h

theorem setHandle_inv {s : State} {asid x2 e} (h : s.Inv) : (State.setHandle s asid x2 e).Inv := softPoke_inv _ _ _ h

theorem execHtwr_inv {s : State} {la a b} (h : s.Inv) : OutInv (execHtwr la a b s) :=
  runWord_inv (.bind ownM_inv fun _ => .bind readS_inv fun _ => .opt systemM_inv fun _ => .bind readS_inv fun _ =>
    .bind (.needM _ _) fun _ => .bind loadM_inv fun _ => .bind (.getM _) fun _ => .bind (.getM _) fun _ => .bind (.needM _ _) fun _ =>
    .modM fun _ h => setHandle_inv (squashOthers_inv h)) h

theorem execTsflush_inv {s : State} {la} (h : s.Inv) : OutInv (execTsflush la s) := by
  refine runWord_inv (.bind ownM_inv fun _ => .bind (.getM _) fun _ => ?_) h
  split
  · exact .trapM _ _
  · exact .bind (.getM _) fun _ => .bind (.getM _) fun _ => .bind (.devM flushCore_inv) fun _ => .pure _

/-! ## Waiting -/

theorem condM_inv {k v} : InvM (condM k v) := by
  unfold condM
  split
  · exact .bind wordPlaceM_inv fun _ => .bind loadSegs_inv fun _ => .getM _
  · exact .bind wordPlaceM_inv fun _ => .bind loadSegs_inv fun _ => .getM _
  · exact .bind loadM_inv fun _ => .pure _
  all_goals exact .getM _

theorem condsM_inv {cs} : InvM (condsM cs) := by
  induction cs with
  | nil => exact .pure _
  | cons c cs ih => exact .bind condM_inv fun _ => .bind ih fun _ => .pure _

theorem freeCore_inv {s : State} (h : s.Inv) : (State.freeCore s).Inv := endAs_inv (leaveCore_inv h)
theorem endMyJob_inv {c} : InvM (endMyJob c) := .bind (.devGet _) fun _ => .bind endJob_inv fun _ => .devMod fun _ h => endAs_inv h
theorem placeRec_inv {s : State} {p at_ cluster} (h : s.Inv) : (State.placeRec s p at_ cluster).Inv := modJob_inv h

theorem suspendInto_inv {p v ncond conds} : InvM (suspendInto p v ncond conds) := by
  refine .bind (.devMod fun _ h => landAll_inv h) fun _ => .bind (.devGet _) fun _ => .bind flushCore_inv fun _ =>
      .bind (.devGet _) fun _ => .bind (.devTry (.forM fun _ => recWrite_inv)) fun _ => ?_
  split
  · exact .devMod fun _ h => freeCore_inv (placeRec_inv h)
  · exact endMyJob_inv

theorem suspendM_inv {v b ncond conds} : InvM (suspendM v b ncond conds) := by
  refine .bind (.needM _ _) fun _ => .bind (.getM _) fun _ => ?_
  split
  · exact .bind (.devM suspendInto_inv) fun _ => .pure _
  · exact .illegalM

theorem readFrom_inv {b n} : InvM (readFrom b n) := by
  induction n generalizing b with
  | zero => exact .pure _
  | succ n ih => exact .bind readS_inv fun _ => .bind ih fun _ => .pure _

theorem kindsM_inv {cs} : InvM (kindsM cs) := by
  unfold kindsM
  split
  · exact .trapM _ _
  · split
    · exact .trapM _ _
    · exact .pure _

theorem yieldM_inv {any cs v} : InvM (yieldM any cs v) :=
  .bind (.getM _) fun _ => .bind (.legalM _) fun _ => .bind (.getM _) fun _ => .bind (.legalM _) fun _ => suspendM_inv

theorem firstLookM_inv {any cs limit t} : InvM (firstLookM any cs limit t) :=
  .bind condsM_inv fun _ => .ite writeS_inv (.ite writeS_inv (.bind (.getM _) fun _ => .bind (.getM _) fun _ => restM_inv writeS_inv))

theorem execWait_inv {s : State} {yld any n f t} (h : s.Inv) : OutInv (execWait yld any n f t s) :=
  runWord_inv (.bind (.legalM _) fun _ => .bind (.legalM _) fun _ => .bind ownM_inv fun _ => .bind readFrom_inv fun _ =>
    .bind kindsM_inv fun _ => .bind readS_inv fun _ => .bind (.getM _) fun _ => .bind (.legalM _) fun _ => .bind (.getM _) fun _ =>
    .bind (.legalM _) fun _ => .bind (.getM _) fun _ => .ite yieldM_inv (.bind (.getM _) fun _ => by
  split
  · exact writeS_inv
  · exact firstLookM_inv
  · exact firstLookM_inv
  · exact firstLookM_inv
  · exact firstLookM_inv
  · exact firstLookM_inv)) h

theorem reevaluate_inv {s : State} {a expired} (h : s.Inv) : (State.reevaluate s a expired).Inv := by
  unfold State.reevaluate
  dsimp only
  split
  · split
    · exact inv_ite (setAgent_inv (asAgent_inv (fun _ h => pinConds_inv h) h)) (inv_ite (setAgent_inv (asAgent_inv
        (fun _ h => pinConds_inv h) h)) (setAgent_inv (asAgent_inv (fun _ h => pinConds_inv h) h)))
    · exact setAgent_inv h
    · exact inv_ite h (asAgent_inv (fun _ h => sendExt_inv h) h)
    · exact h
  · exact h
  · exact h
  · exact h
  · exact h
  · exact h

theorem execWaitEvaluate_inv {s : State} {a} (h : s.Inv) : OutInv (execWaitEvaluate a s) := .next (reevaluate_inv h)

theorem execWaitTimeout_inv {s : State} {a} (h : s.Inv) : OutInv (execWaitTimeout a s) := by
  unfold execWaitTimeout
  split
  · exact .next (inv_ite (reevaluate_inv h) h)
  · exact .next h

theorem completeBar_inv {s : State} {job gang} (h : s.Inv) : (State.completeBar s job gang).Inv :=
  foldl_inv (fun _ _ h => modAgent_inv h) (modJob_inv h)

theorem commitVote_inv {s : State} {job} (h : s.Inv) : (State.commitVote s job).Inv :=
  groupsDeath_inv (commitStaged_inv (inv_ite (foldl_inv (fun _ _ h => grantOf_inv h) h) h))

theorem meetM_inv {k ready complete} (hf : ∀ s, s.Inv → (complete s).Inv) : InvM (meetM k ready complete) := by
  refine .bind (.getM _) fun _ => .bind (.legalM _) fun _ => .bind ownM_inv fun _ => .ite (.pure _) (.getM_bind fun s h => .run ?_ h)
  exact .ite (.modM fun _ _ => hf _ (arrive_inv h)) (restM_inv (.pure _))

theorem execBar_inv {s : State} {la} (h : s.Inv) : OutInv (execBar la s) := runWord_inv (meetM_inv (fun _ h => completeBar_inv h)) h
theorem execVote_inv {s : State} {la} (h : s.Inv) : OutInv (execVote la s) := runWord_inv (meetM_inv (fun _ h => commitVote_inv h)) h

theorem execBarComplete_inv {s : State} {asid job gang} (h : s.Inv) : OutInv (execBarComplete asid job gang s) :=
  .next (inv_ite (completeBar_inv h) h)

theorem execVoteCommit_inv {s : State} {asid job} (h : s.Inv) : OutInv (execVoteCommit asid job s) := .next (inv_ite (commitVote_inv h) h)

theorem spawnRec_inv {p} : InvM (spawnRec p) :=
  .bind (.devGet _) fun _ => .bind (.devGet _) fun _ => .bind recWrite_inv fun _ => .bind recState_inv fun _ =>
    .devMod fun _ h => modJob_inv h

theorem execSpawn_inv {s : State} {la a} (h : s.Inv) : OutInv (execSpawn la a s) := by
  refine runWord_inv (.bind (.getM _) fun _ => .bind (.legalM _) fun _ => .bind ownM_inv fun _ => .bind readS_inv fun _ =>
      .bind (.accessM _ _) fun ⟨_, _⟩ => ?_) h
  dsimp only
  split
  · exact .bind claimM_inv fun _ => .bind (.devM spawnRec_inv) fun _ => by
      split
      · exact .pure _
      · exact .bind (.devM endMyJob_inv) fun _ => .pure _
  · exact .bind (.trapM _ _) fun _ => .bind (.devM spawnRec_inv) fun _ => by
      split
      · exact .pure _
      · exact .bind (.devM endMyJob_inv) fun _ => .pure _
  · exact .bind (.trapM _ _) fun _ => .bind (.devM spawnRec_inv) fun _ => by
      split
      · exact .pure _
      · exact .bind (.devM endMyJob_inv) fun _ => .pure _
  · exact .bind (.trapM _ _) fun _ => .bind (.devM spawnRec_inv) fun _ => by
      split
      · exact .pure _
      · exact .bind (.devM endMyJob_inv) fun _ => .pure _

theorem execSuspend_inv {s : State} {la a b} (h : s.Inv) : OutInv (execSuspend la a b s) :=
  runWord_inv (.bind (.getM _) fun _ => .bind (.legalM _) fun _ => .bind ownM_inv fun _ => .bind readS_inv fun _ =>
    .bind (.needM _ _) fun _ => .bind readFrom_inv fun _ => suspendM_inv) h

theorem retireAgent_inv : InvM (retireAgent) := by
  refine .bind (.devMod fun _ h => landAll_inv h) fun _ => .bind (.devGet _) fun _ => .bind flushCore_inv fun _ =>
      .bind (.devMod fun _ h => modCtx_inv h) fun _ => .bind (.devGet _) fun _ => ?_
  split
  · exact .devMod fun _ h => endAs_inv (modCore_inv h)
  · exact .bind (.devTry recState_inv) fun _ => by
      split
      · exact .devMod fun _ h => freeCore_inv (placeRec_inv h)
      · exact endMyJob_inv

theorem execRetire_inv {s : State} {la} (h : s.Inv) : OutInv (execRetire la s) :=
  runWord_inv (.bind (.getM _) fun _ => .bind (.legalM _) fun _ => .bind ownM_inv fun _ => .bind (.devM retireAgent_inv) fun _ =>
    .pure _) h

theorem execLateResultLand_inv {s : State} {a} (h : s.Inv) : OutInv (execLateResultLand a s) :=
  .next (asAgent_inv (fun _ h => landDue_inv h) h)

theorem execCommitGrant_inv {s : State} {a} (h : s.Inv) : OutInv (execCommitGrant a s) :=
  .next (asAgent_inv (fun _ h => inv_ite (grant_inv h) h) h)

theorem execUserInterruptEntry_inv {s : State} {core} (h : s.Inv) : OutInv (execUserInterruptEntry core s) :=
  .next (asAgent_inv (fun _ h => inv_ite (inv_ite (enterInterrupt_inv h) (endChunk_inv h)) h) h)

theorem parityAt_inv {s : State} {a code} (h : s.Inv) : (State.parityAt s a code).Inv :=
  inv_ite h (inv_ite (draw_inv (setAgent_inv h)) (setAgent_inv h))

theorem execCoreWake_inv {s : State} {core bad} (h : s.Inv) : OutInv (execCoreWake core bad s) :=
  .ite (.next h) (.next (foldl_inv (fun _ _ h => parityAt_inv h) (modCore_inv h)))

theorem execCoreGate_inv {s : State} {core} (h : s.Inv) : OutInv (execCoreGate core s) := .next (inv_ite (modCore_inv h) h)
theorem execTableRecheckDone_inv {s : State} {a} (h : s.Inv) : OutInv (execTableRecheckDone a s) := .next (modAgent_inv h)

theorem loadPreset_inv {s : State} {k inChunk} (h : s.Inv) : (State.loadPreset s k inChunk).Inv :=
  inv_ite (pokeSegs_inv _ _ _ (squashOthers_inv (modCtx_inv h))) (modChunk_inv (noteWrites_inv (modCtx_inv h)))

theorem execPresetLoad_inv {s : State} {a} (h : s.Inv) : OutInv (execPresetLoad a s) := .next (asAgent_inv (fun _ h => by
  split
  · exact inv_ite h (loadPreset_inv h)
  · exact h) h)

/-! ## The dispatcher -/

theorem moveRec_inv {s : State} {job p at_} (h : s.Inv) : (State.moveRec s job p at_).Inv := modJob_inv h
theorem bindSlot_inv {s : State} {core key g} (h : s.Inv) : (State.bindSlot s core key g).Inv := modCore_inv h

theorem requeue_inv {s : State} {core p} (h : s.Inv) : (State.requeue s core p).Inv :=
  leaveCore_inv (bindSlot_inv (moveRec_inv (modCluster_inv (presetNow_inv h))))

theorem evict_inv {core} : InvM (evict core) := by
  refine .bind (.devGet _) fun _ => ?_
  split
  · exact .pure _
  · exact .ite (.bind (.devGet _) fun _ => .bind flushCore_inv fun _ => .devMod fun _ h => requeue_inv h) (.bind (.devGet _) fun _ =>
      .ite (.devMod fun _ h => modAgent_inv h) (.pure _))

theorem freeSlot_inv {s : State} {st x pa} (h : s.Inv) : (State.freeSlot s st x pa).Inv := setTag_inv _ _ _ (squashAll_inv h)
theorem enterJob_inv {s : State} {j} (h : s.Inv) : (State.enterJob s j).Inv := h

theorem takeHead_inv {st x pa ws} : InvM (takeHead st x pa ws) := by
  refine .bind (.devMod fun _ h => freeSlot_inv h) fun _ => .bind (.devGet _) fun _ => ?_
  split
  · exact .devMod fun _ h => streamError_inv h
  · exact .bind (.devGet _) fun _ => .bind (.devMod fun _ h => h) fun _ => .bind (.devGet _) fun _ =>
      .ite finishWord_inv (.devMod fun _ h => enterJob_inv h)

theorem execTakeSlot_inv {s : State} {st} (h : s.Inv) : OutInv (execTakeSlot st s) := by
  unfold execTakeSlot
  split
  · exact .next h
  · split
    · exact .next h
    · exact .next (by
        split
        · exact streamError_inv h
        · exact streamError_inv h)
    · exact .ite (.next h) (.ite (.next (attempt_inv takeHead_inv h)) (.next h))

theorem execSpanWait1ms_inv {s : State} {st} (h : s.Inv) : OutInv (execSpanWait1ms st s) := by
  unfold execSpanWait1ms
  split
  · exact .next h
  · split
    · exact .next h
    · exact .next (inv_ite h h)

theorem readRun_inv {w p n} : InvM (readRun w p n) := by
  induction n generalizing p with
  | zero => exact .pure _
  | succ n ih => exact .bind readAt_inv fun _ => .bind ih fun _ => .pure _

theorem codeImage_inv {w x1 storer} : InvM (codeImage w x1 storer) := readRun_inv

theorem readKernel_inv {j} : InvM (readKernel j) :=
  .bind (.devGet _) fun _ => .opt (.devFail _) fun _ => .bind readAt_inv fun _ => .opt (.devFail _) fun _ => .opt (.devFail _) fun _ =>
    .bind codeImage_inv fun _ => .bind codeImage_inv fun _ => .pure _

theorem fillStores_inv {s : State} {l t core} (h : s.Inv) : (State.fillStores s l t core).Inv := poke_inv _ _ _ (poke_inv _ _ _ h)

theorem startCore_inv {s : State} {j x2 gang slot core} (h : s.Inv) : (State.startCore s j x2 gang slot core).Inv :=
  modCore_inv (poke_inv _ _ _ (inv_ite (inv_ite (draw_inv (setAgent_inv h)) (setAgent_inv (draw_inv (setAgent_inv h)))) (setAgent_inv
    (inv_ite (draw_inv (setAgent_inv h)) (setAgent_inv (draw_inv (setAgent_inv h)))))))

theorem endWord_inv {key j status} : InvM (endWord key j status) :=
  .bind (.devGet _) fun _ => .bind (.devMod fun _ h => clearJob_inv h) fun _ => finishWord_inv

theorem completeWith_inv {key j status} : InvM (completeWith key j status) := .bind flushJob_inv fun _ => endWord_inv

theorem startSpan_inv {s : State} {j x2 l t} (h : s.Inv) : (State.startSpan s j x2 l t).Inv :=
  foldl_inv (fun _ _ h => foldl_inv (fun _ _ h => startCore_inv h) h) (modJob_inv (foldl_inv (fun _ _ h => fillStores_inv h) h))

theorem placeNow_inv {j} : InvM (placeNow j) := by
  refine .bind (.devTry readKernel_inv) fun _ => ?_
  split
  · exact completeWith_inv
  · exact .devMod fun _ h => startSpan_inv h

theorem regang_inv {s : State} {key j} (h : s.Inv) : (State.regang s key j).Inv :=
  inv_ite h (modJob_inv (foldl_inv (fun _ _ h => modAgent_inv h) (modJob_inv h)))

theorem placeSpan_inv {key j} : InvM (placeSpan key j) :=
  .bind (.devGet _) fun _ => .ite (.devMod fun _ h => regang_inv h) (.bind (.forM fun _ => evict_inv) fun _ => .bind (.devGet _) fun _ =>
    .ite placeNow_inv (.pure _))

theorem execSpanPlace_inv {s : State} {asid job} (h : s.Inv) : OutInv (execSpanPlace asid job s) := by
  unfold execSpanPlace
  split
  · exact .next h
  · exact .ite (.next h) (.next (attempt_inv placeSpan_inv h))

theorem enterRecord_inv {s : State} {key asid k p link} (h : s.Inv) : (State.enterRecord s key asid k p link).Inv := modJob_inv h

theorem takeRecord_inv {key k j p} : InvM (takeRecord key k j p) := by
  unfold takeRecord
  refine .ite (.bind (.devFail _) fun _ => ?_) ?_ <;>
    exact .bind (.devGet _) fun _ => .bind recRead_inv fun _ => .bind recWrite_inv fun _ => .bind recState_inv fun _ =>
      .devMod fun _ h => enterRecord_inv h

theorem orEnd_inv {key m} (hm : InvM m) : InvM (orEnd key m) := by
  refine .bind (.devTry hm) fun _ => ?_
  split
  · exact .pure _
  · exact endJob_inv

theorem execBagRecordEnter_inv {s : State} {asid job} (h : s.Inv) : OutInv (execBagRecordEnter asid job s) := by
  unfold execBagRecordEnter
  dsimp only
  split
  · exact .next h
  · split
    · exact .next h
    · exact .ite (.next h) (.next (attempt_inv (orEnd_inv takeRecord_inv) h))

theorem queueRecord_inv {s : State} {key j r prio} (h : s.Inv) : (State.queueRecord s key j r prio).Inv := modJob_inv (modCluster_inv h)

theorem testRecord_inv {key j r} : InvM (testRecord key j r) :=
  .bind (.devGet _) fun _ => .bind recRead_inv fun _ => .bind (.ite (.pure _) condsReady_inv) fun _ => .ite (.bind recState_inv fun _ =>
    .devMod fun _ h => queueRecord_inv h) (.pure _)

theorem execRecordReady_inv {s : State} {asid p} (h : s.Inv) : OutInv (execRecordReady asid p s) := by
  unfold execRecordReady
  split
  · exact .next h
  · exact .ite (.next h) (.next (attempt_inv (orEnd_inv testRecord_inv) h))

theorem readTail_inv {w p ws} : InvM (readTail w p ws) := .ite (.bind recRead_inv fun _ => .pure _) (.pure _)

theorem headBad_inv {w ws} : InvM (headBad w ws) := .ite (.pure _) (.bind (.devTry readAt_inv) fun _ => by
  split
  · exact .pure _
  · exact .pure _)

theorem trapAt_inv {a c v} : InvM (trapAt a c v) := by
  refine .of fun s h => ?_
  have ht : ({ s.focus a with unit := { second := (s.focus a).me.ctx.slot } } : State).Inv := focus_inv h
  unfold trapAt
  refine .ite ?_ (.ok (focus_inv (enterTrap_inv ht)))
  split
  · next u hs => exact .ok (focus_inv (fatalTrap_inv.run ht _ _ hs))
  · exact .error _

theorem startRecord_inv {e core} : InvM (startRecord e core) :=
  .bind (.devGet _) fun _ => .bind recState_inv fun _ => .bind recRead_inv fun _ => .bind headBad_inv fun _ =>
    .bind readTail_inv fun _ => .bind (.devMod fun _ h => moveRec_inv (draw_inv (setAgent_inv h))) fun _ => .ite trapAt_inv (.pure _)

theorem restoreTask_inv {s : State} {e core g table} (h : s.Inv) : (State.restoreTask s e core g table).Inv :=
  moveRec_inv (poke_inv _ _ _ (setAgent_inv h))

theorem execClaimRecord_inv {s : State} {core} (h : s.Inv) : OutInv (execClaimRecord core s) := by
  unfold execClaimRecord
  split
  · exact .next h
  · exact .ite (.next h) (by
      split
      · exact .next h
      · split
        · exact .next h
        · dsimp only
          split
          · exact .ite (.next (attempt_inv endJob_inv h)) (.next (restoreTask_inv (modCluster_inv h)))
          · exact .next (attempt_inv (.bind (.devMod fun _ h => modCluster_inv h) fun _ => orEnd_inv startRecord_inv) h))

theorem region_inv {w x1} : InvM (region w x1) := .bind (.devGet _) fun _ => .ite (.pure _) (.bind (.devGet _) fun _ => by
  split
  · exact .devFail _
  · exact .bind devLoad_inv fun _ => .pure _)

theorem regions_inv {w hs} : InvM (regions w hs) := by
  induction hs with
  | nil => exact .pure _
  | cons x xs ih => exact .bind region_inv fun _ => .bind ih fun _ => .pure _

theorem putDigest_inv {w p bs} : InvM (putDigest w p bs) := writeAt_inv

theorem spoilDigest_inv {w p} : InvM (spoilDigest w p) :=
  .bind (.devGet _) fun _ => .bind (.devGet _) fun _ => .bind (.forM fun _ => .bind (.devTry putDigest_inv) fun _ => .pure _) fun _ =>
    .devMod fun _ h => draw_inv h

theorem writeDigest_inv {j} : InvM (writeDigest j) :=
  .ite (.pure _) (.bind (.devGet _) fun _ => .bind (.devTry (.bind regions_inv fun _ => putDigest_inv)) fun _ => by
  split
  · exact .pure _
  · exact .bind spoilDigest_inv fun _ => .bind (.devMod fun _ h => streamError_inv h) fun _ => .pure _)

theorem execJobComplete_inv {s : State} {asid job} (h : s.Inv) : OutInv (execJobComplete asid job s) := by
  unfold execJobComplete
  dsimp only
  split
  · exact .next h
  · exact .ite (.next h) (.next (attempt_inv (.bind flushJob_inv fun _ => .bind writeDigest_inv fun _ => endWord_inv) h))

theorem declareHung_inv {key j} : InvM (declareHung key j) :=
  .bind (.devGet _) fun _ => .ite completeWith_inv (.devMod fun _ h => foldl_inv (fun _ _ h => modAgent_inv h) h)

theorem execWaitTableSummary_inv {s : State} (h : s.Inv) : OutInv (execWaitTableSummary s) :=
  .ite (.next h) (.next (foldl_inv (fun _ _ h => attempt_inv declareHung_inv h) h))

end Sys2Proof.Machine
end

section
/-! The canonical form of memory is kept by messages and registers, pre-emption, the plant, accesses from
outside, and scalar floating point. -/

namespace Sys2Proof.Machine

/-! ## Messages, twins, capabilities and registers -/

theorem sendMsg_inv {s : State} {node v} (h : s.Inv) : (State.sendMsg s node v).Inv := inv_ite h h

theorem execMsend_inv {s : State} {la a b} (h : s.Inv) : OutInv (execMsend la a b s) :=
  runWord_inv (.bind ownM_inv fun _ => .bind readS_inv fun _ => .bind readS_inv fun _ => .bind (.needM _ _) fun _ =>
    .bind (.getM _) fun _ => .bind (.needM _ _) fun _ => .modM fun _ h => sendMsg_inv h) h

theorem execMrecv_inv {s : State} {la d} (h : s.Inv) : OutInv (execMrecv la d s) := by
  refine runWord_inv (.bind ownM_inv fun _ => .bind (.getM _) fun _ => ?_) h
  split
  · exact .bind writeS_inv fun _ => writeS_inv
  · exact .bind (.modM fun _ h => modCore_inv h) fun _ => .bind writeS_inv fun _ => writeS_inv

theorem failedAt_inv {s : State} {a job task v} (h : s.Inv) : (State.failedAt s a job task v).Inv := by
  unfold State.failedAt
  dsimp only
  split
  · exact setAgent_inv h
  · exact h

theorem intoBox_inv {s : State} {m} (h : s.Inv) : (State.intoBox s m).Inv := modCore_inv h
theorem emitOut_inv {s : State} {x} (h : s.Inv) : (State.emitOut s x).Inv := h

theorem enterBox_inv {s : State} {f} (h : s.Inv) : (State.enterBox s f).Inv := inv_ite (by
  split
  · exact failedAt_inv h
  · exact h) (inv_ite (intoBox_inv h) h)

theorem enterRemote_inv {s : State} {m} (h : s.Inv) : (State.enterRemote s m).Inv :=
  inv_ite (emitOut_inv h) (inv_ite (emitOut_inv (intoBox_inv h)) h)

theorem execMessageArrive_inv {s : State} {m} (h : s.Inv) : OutInv (execMessageArrive m s) := .ite (by
  split
  · exact .next h
  · exact .next (enterBox_inv h)) (.next (enterRemote_inv (notHung_inv h)))

theorem twinWrite_inv {s : State} {n v} (h : s.Inv) : (State.twinWrite s n v).Inv := h

theorem execTwx_inv {s : State} {la d b n} (h : s.Inv) : OutInv (execTwx la d b n s) :=
  runWord_inv (.bind ownM_inv fun _ => .bind readS_inv fun _ => .bind (.getM _) fun _ =>
    .bind (.modM fun _ h => twinWrite_inv h) fun _ => writeS_inv) h

theorem execTwxRd_inv {s : State} {la d n} (h : s.Inv) : OutInv (execTwxRd la d n s) :=
  runWord_inv (.bind ownM_inv fun _ => .bind (.getM _) fun _ => writeS_inv) h

theorem execTwxWr_inv {s : State} {la b n} (h : s.Inv) : OutInv (execTwxWr la b n s) :=
  runWord_inv (.bind ownM_inv fun _ => .bind readS_inv fun _ => .modM fun _ h => twinWrite_inv h) h

theorem setCap_inv {s : State} {asid x2 c} (h : s.Inv) : (State.setCap s asid x2 c).Inv := h

theorem execCapgive_inv {s : State} {la a b} (h : s.Inv) : OutInv (execCapgive la a b s) := by
  refine runWord_inv (.bind ownM_inv fun _ => .bind readS_inv fun _ => .bind readS_inv fun _ => .bind (.getM _) fun _ =>
      .bind (.needM _ _) fun _ => .bind (.getM _) fun _ => .bind (.getM _) fun _ => .bind (.getM _) fun _ => .bind (.getM _) fun _ =>
      .bind (.needM _ _) fun _ => ?_) h
  dsimp only
  split
  · exact .trapM _ _
  · exact .bind (.getM _) fun _ => .bind (.needM _ _) fun _ => .modM fun _ h => setCap_inv h

theorem execCaptake_inv {s : State} {la d b} (h : s.Inv) : OutInv (execCaptake la d b s) := by
  refine runWord_inv (.bind (.getM _) fun _ => .bind (.legalM _) fun _ => .bind ownM_inv fun _ => .bind readS_inv fun _ =>
      .bind (.getM _) fun _ => .bind (.getM _) fun _ => .bind (.getM _) fun _ => .bind (.getM _) fun _ => ?_) h
  split
  · exact .trapM _ _
  · exact .ite (.bind (.modM fun _ h => modJob_inv (setCap_inv h)) fun _ => writeS_inv) writeS_inv

theorem execCapq_inv {s : State} {la d b} (h : s.Inv) : OutInv (execCapq la d b s) :=
  runWord_inv (.bind readS_inv fun _ => .bind (.getM _) fun _ => writeS_inv) h

theorem settlePmc_inv {s : State} (h : s.Inv) : (State.settlePmc s).Inv := draw_inv h

theorem execGetsr_inv {s : State} {la d i} (h : s.Inv) : OutInv (execGetsr la d i s) :=
  runWord_inv (.bind (.legalM _) fun _ => .bind (.getM _) fun _ => .bind (.legalM _) fun _ =>
    .opt (.modM fun _ h => settlePmc_inv h) fun _ => .bind (.getM _) fun _ => writeS_inv) h

theorem putSr_inv {i v} : InvM (putSr i v) := by
  unfold putSr
  split
  · exact stagedM_inv
  · exact stagedM_inv
  · exact stagedM_inv
  · exact stagedM_inv
  · exact .modM fun _ h => h
  · exact .modM fun _ h => h
  · exact .modM fun _ h => h
  · exact .modM fun _ h => h
  · exact .modM fun _ h => modCtx_inv (settlePmc_inv h)
  · exact .modM fun _ h => modCtx_inv h

theorem execSetsr_inv {s : State} {la a i} (h : s.Inv) : OutInv (execSetsr la a i s) :=
  runWord_inv (.bind (.legalM _) fun _ => .bind (.getM _) fun _ => .bind (.legalM _) fun _ => .ite (.bind systemM_inv fun _ =>
    .bind ownM_inv fun _ => .bind readS_inv fun _ => .bind (.legalM _) fun _ => .bind (.getM _) fun _ => .bind (.legalM _) fun _ =>
    .bind (.getM _) fun _ => .bind (.legalM _) fun _ => putSr_inv) (.bind readS_inv fun _ => .bind (.legalM _) fun _ =>
    .bind (.getM _) fun _ => .bind (.legalM _) fun _ => .bind (.getM _) fun _ => .bind (.legalM _) fun _ => putSr_inv)) h

/-! ## Pre-emption and commands -/

theorem answer_inv {s : State} {status} (h : s.Inv) : (State.answer s status).Inv := msix_inv h

theorem onCommand_inv {s : State} {code f} (hf : ∀ x, (f x).Inv) (h : s.Inv) : OutInv (State.onCommand s code f) := by
  unfold State.onCommand
  split
  · exact .next (inv_ite (hf _) h)
  · exact .next h

theorem preempt_inv {s : State} {key why pair} (h : s.Inv) : (State.preempt s key why pair).Inv :=
  foldl_inv (fun _ _ h => modAgent_inv h) (modJob_inv h)

theorem storeCore_inv {s : State} {key core} (h : s.Inv) : (State.storeCore s key core).Inv :=
  modJob_inv (modCore_inv (foldl_inv (fun _ _ h => leaveCore_inv h) h))

theorem saveCore_inv {key core} : InvM (saveCore key core) :=
  .bind (.devGet _) fun _ => .bind flushCore_inv fun _ => .devMod fun _ h => storeCore_inv h

theorem saveRouters_inv {s : State} {key cores} (h : s.Inv) : (State.saveRouters s key cores).Inv := modJob_inv h

theorem giveLicence_inv {s : State} {key k} (h : s.Inv) : (State.giveLicence s key k).Inv :=
  inv_ite (licMoved_inv h) (inv_ite (licMove_inv h) (licFree_inv h))

theorem stopCopy_inv {key k} : InvM (stopCopy key k) := by
  refine .bind (.devGet _) fun _ => ?_
  split
  · exact .pure _
  · exact .ite (.bind runRow_inv fun _ => by
      split
      · exact .ite endQ_inv (.pure _)
      · exact .pure _) (.pure _)

theorem takeUnits_inv {s : State} {key k lic} (h : s.Inv) : (State.takeUnits s key k lic).Inv :=
  modJob_inv (modPair_inv (modCluster_inv h))

theorem stopUnits_inv {key k lic} : InvM (stopUnits key k lic) :=
  .bind stopCopy_inv fun _ => .bind parkEngine_inv fun _ =>
    .devMod fun _ h => inv_ite (giveLicence_inv (takeUnits_inv h)) (inv_ite (takeUnits_inv h) (licSettle_inv (takeUnits_inv h)))

theorem save_inv {key} : InvM (save key) :=
  .bind (.devGet _) fun _ => .bind (.devGet _) fun _ => .bind (.forM fun _ => stopUnits_inv) fun _ => .bind (.forM fun _ =>
    saveCore_inv) fun _ => .bind (.devMod fun _ h => foldl_inv (fun _ _ h => licSettle_inv h) h) fun _ =>
    .devMod fun _ h => modJob_inv (saveRouters_inv h)

theorem reacquire_inv {s : State} {key k} (h : s.Inv) : (State.reacquire s key k).Inv := inv_ite (modPair_inv h) (by
  split
  · exact setLicReq_inv h
  · exact setLicReq_inv h)

theorem putQ_inv {s : State} {k qs} (h : s.Inv) : (State.putQ s k qs).Inv := modCluster_inv h
theorem appendQ_inv {s : State} {k qs} (h : s.Inv) : (State.appendQ s k qs).Inv := letInAll_inv (modCluster_inv h)

theorem restoreCluster_inv {s : State} {key moved x} (h : s.Inv) : (State.restoreCluster s key moved x).Inv :=
  inv_ite (inv_ite (modPair_inv (appendQ_inv (putQ_inv h))) (licSettle_inv (inv_ite (reacquire_inv (appendQ_inv (putQ_inv h)))
    (appendQ_inv (putQ_inv h))))) (licSettle_inv (inv_ite (reacquire_inv (putQ_inv h)) (putQ_inv h)))

theorem restoreCore_inv {s : State} {key core} (h : s.Inv) : (State.restoreCore s key core).Inv := by
  unfold State.restoreCore
  dsimp only
  split
  · exact h
  · exact modCore_inv (poke_inv _ _ _ (foldl_inv (fun _ _ h => draw_inv (setAgent_inv h)) h))

theorem bringBack_inv {s : State} {key j l t} (h : s.Inv) : (State.bringBack s key j l t).Inv :=
  groupsDeath_inv (foldl_inv (fun _ _ h => licSettle_inv h) (foldl_inv (fun _ _ h => restoreCluster_inv h) (modJob_inv (foldl_inv
    (fun _ _ h => restoreCore_inv (fillStores_inv h)) h))))

theorem resumeNow_inv {key} : InvM (resumeNow key) :=
  .bind (.devGet _) fun _ => .bind (.devGet _) fun _ => .ite endJob_inv (.bind (.devTry (.bind codeImage_inv fun _ =>
    .bind codeImage_inv fun _ => .pure _)) fun _ => by
  split
  · exact endJob_inv
  · exact .devMod fun _ h => bringBack_inv h)

theorem noResume_inv {s : State} {key} (h : s.Inv) : (State.noResume s key).Inv := h

theorem tryResume_inv {key} : InvM (tryResume key) :=
  .bind (.devGet _) fun _ => .bind (.devGet _) fun _ => .ite (.devMod fun _ h => noResume_inv h) (.bind (.devGet _) fun _ =>
    .ite (.bind (.devMod fun _ h => modJob_inv h) fun _ => .bind (.forM fun _ => evict_inv) fun _ => .bind (.devGet _) fun _ =>
    .ite (.bind (.devMod fun _ h => noResume_inv h) fun _ => resumeNow_inv) (.pure _)) (.pure _))

theorem answerResume_inv {s : State} {key} (h : s.Inv) : (State.answerResume s key).Inv := by
  unfold State.answerResume
  split
  · exact inv_ite (answer_inv h) h
  · exact h
  · exact h

theorem resumeMoved_inv {key} : InvM (resumeMoved key) :=
  .bind (.devMod fun _ h => modJob_inv (answerResume_inv h)) fun _ => tryResume_inv

theorem freeVacated_inv {s : State} (h : s.Inv) : (State.freeVacated s).Inv := h
theorem raiseTthr_inv {s : State} {p} (h : s.Inv) : (State.raiseTthr s p).Inv := inv_ite h h

theorem migrateStep_inv : InvM (migrateStep) := by
  refine .bind (.devGet _) fun _ => ?_
  split
  · exact .pure _
  · exact .bind (.forM fun _ => evict_inv) fun _ => .bind (.devGet _) fun _ => .bind (.devGet _) fun _ =>
      .ite (.bind (.devMod fun _ h => h) fun _ => .forM fun _ => resumeMoved_inv) (.pure _)

theorem stopForMove_inv {s : State} {p key} (h : s.Inv) : (State.stopForMove s p key).Inv := by
  unfold State.stopForMove
  split
  · exact preempt_inv h
  · exact modJob_inv (noResume_inv h)
  all_goals exact h

theorem servePair_inv {p} : InvM (servePair p) := .bind (.devGet _) fun _ => .ite (.pure _) (.bind (.devGet _) fun _ => by
  split
  · exact .bind (.devGet _) fun _ => .bind (.devMod fun _ h => foldl_inv (fun _ _ h => stopForMove_inv h) h) fun _ => migrateStep_inv
  · exact .devMod fun _ h => raiseTthr_inv h)

theorem serveHot_inv : InvM (serveHot) :=
  .bind (.devGet _) fun _ => .ite (.bind (.devGet _) fun _ => .forM fun _ => servePair_inv) (.pure _)

theorem execSaveComplete_inv {s : State} {asid job} (h : s.Inv) : OutInv (execSaveComplete asid job s) := by
  unfold execSaveComplete
  dsimp only
  split
  · exact .next h
  · exact .ite (.next (attempt_inv serveHot_inv (attempt_inv migrateStep_inv (attempt_inv save_inv h)))) (.next
      (attempt_inv migrateStep_inv h))

theorem execPreemptSpan_inv {s : State} (h : s.Inv) : OutInv (execPreemptSpan s) := onCommand_inv (fun _ => by
  split
  · exact answer_inv h
  · split
    · exact inv_ite (answer_inv (preempt_inv h)) (answer_inv h)
    · exact inv_ite h (answer_inv (noResume_inv h))
    · exact inv_ite h (answer_inv (noResume_inv h))
    · exact h
    · exact answer_inv h) h

theorem execResumeSpan_inv {s : State} (h : s.Inv) : OutInv (execResumeSpan s) := by
  unfold execResumeSpan
  dsimp only
  split
  · split
    · exact .next (answer_inv h)
    · split
      · exact .next h
      · exact .next (inv_ite (answer_inv h) (foldl_inv (fun _ _ h => attempt_inv tryResume_inv h) (answer_inv h)))
      · exact .next (answer_inv (foldl_inv (fun _ _ h => attempt_inv tryResume_inv h) h))
      · exact .next (answer_inv h)
      · exact .next (answer_inv h)
  · exact .next (foldl_inv (fun _ _ h => attempt_inv tryResume_inv h) h)
  · exact .next (foldl_inv (fun _ _ h => attempt_inv tryResume_inv h) h)

theorem execContain_inv {s : State} (h : s.Inv) : OutInv (execContain s) :=
  onCommand_inv (fun _ => inv_ite (foldl_inv (fun _ _ h => inv_ite (preempt_inv h) (inv_ite (noResume_inv h) h)) h) (answer_inv
    (foldl_inv (fun _ _ h => inv_ite (preempt_inv h) (inv_ite (noResume_inv h) h)) h))) h

theorem execTranslationShootdown_inv {s : State} (h : s.Inv) : OutInv (execTranslationShootdown s) :=
  onCommand_inv (fun _ => answer_inv h) h

theorem execThaw_inv {s : State} (h : s.Inv) : OutInv (execThaw s) := onCommand_inv (fun _ => inv_ite (answer_inv h) (answer_inv h)) h

theorem execDeclarePortOut_inv {s : State} (h : s.Inv) : OutInv (execDeclarePortOut s) :=
  onCommand_inv (fun _ => inv_ite (answer_inv (flushPorts_inv (modIn_inv h))) (answer_inv h)) h

theorem execReenableDelivery_inv {s : State} (h : s.Inv) : OutInv (execReenableDelivery s) := onCommand_inv (fun _ => answer_inv h) h
theorem endPartition_inv {s : State} {asid} (h : s.Inv) : (State.endPartition s asid).Inv := h

theorem tearDown_inv {asid} : InvM (tearDown asid) :=
  .bind (.devGet _) fun _ => .bind (.devGet _) fun _ => .bind (.devMod fun _ h => h) fun _ => .bind (.forM fun _ => endJob_inv) fun _ =>
    .devMod fun _ h => answer_inv (endPartition_inv h)

theorem execTearDown_inv {s : State} (h : s.Inv) : OutInv (execTearDown s) :=
  onCommand_inv (fun _ => inv_ite (attempt_inv tearDown_inv h) (answer_inv h)) h

theorem execHcmdUnknownCode_inv {s : State} (h : s.Inv) : OutInv (execHcmdUnknownCode s) := by
  unfold execHcmdUnknownCode
  split
  · exact .next (inv_ite h (answer_inv h))
  · exact .next h

/-! ## The plant -/

theorem packageFault_inv : InvM (packageFault) :=
  .bind (.devMod fun _ h => h) fun _ => .bind (.devGet _) fun _ => .bind (.forM fun _ => endJob_inv) fun _ => .devMod fun _ h => h

theorem failPackage_inv {s : State} (h : s.Inv) : (State.failPackage s).Inv := attempt_inv packageFault_inv h
theorem failNow_inv {s : State} (h : s.Inv) : (State.failNow s).Inv := inv_ite (attempt_inv packageFault_inv h) h

theorem execThermalReading_inv {s : State} {d r} (h : s.Inv) : OutInv (execThermalReading d r s) :=
  .ite (.next h) (.ite (.next (freeVacated_inv h)) (.ite (.next (failPackage_inv (freeVacated_inv h))) (.ite (by
  split
  · exact .next (attempt_inv serveHot_inv (attempt_inv migrateStep_inv h))
  · exact .next (freeVacated_inv h)) (.next (freeVacated_inv h)))))

theorem execThrottleStep_inv {s : State} {p} (h : s.Inv) : OutInv (execThrottleStep p s) :=
  .ite (.next (attempt_inv migrateStep_inv h)) (.ite (.next (attempt_inv (.forM fun _ =>
    servePair_inv) (attempt_inv migrateStep_inv h))) (.ite (.next (attempt_inv migrateStep_inv h)) (.next (modPair_inv
    (attempt_inv migrateStep_inv h)))))

theorem execHbmRefresh_inv {s : State} {stack chan} (h : s.Inv) : OutInv (execHbmRefresh stack chan s) := .ite (.next h) (.next h)
theorem execBallastWindow_inv {s : State} {row count} (h : s.Inv) : OutInv (execBallastWindow row count s) := .ite (.next h) (.next h)

/-! ## Accesses from outside and faults -/

theorem outsidePut_inv {s : State} {segs bs} (h : s.Inv) : (State.outsidePut s segs bs).Inv :=
  inv_ite (softPoke_inv _ _ _ (squashAll_inv h)) (clearPoison_inv (softPoke_inv _ _ _ (squashAll_inv h)))

theorem execPeerAccessArrive_inv {s : State} {x} (h : s.Inv) : OutInv (execPeerAccessArrive x s) := by
  unfold execPeerAccessArrive
  split
  · exact .next h
  · exact .ite (.next h) (.next (by
      split
      · exact inv_ite h (outsidePut_inv h)
      · exact h))

theorem execReleasePerformed_inv {s : State} {line} (h : s.Inv) : OutInv (execReleasePerformed line s) := .next h
theorem dropExt_inv {s : State} {id} (h : s.Inv) : (State.dropExt s id).Inv := h
theorem keepReply_inv {s : State} {x data} (h : s.Inv) : (State.keepReply s x data).Inv := inv_ite h h

theorem takeReply_inv {s : State} {x data poisoned} (h : s.Inv) : (State.takeReply s x data poisoned).Inv := by
  unfold State.takeReply
  split
  · exact modAgent_inv h
  · exact keepReply_inv h

theorem dropFlight_inv {s : State} {f} (h : s.Inv) : (State.dropFlight s f).Inv := h

theorem execPeerAccessReply_inv {s : State} {id data poisoned} (h : s.Inv) : OutInv (execPeerAccessReply id data poisoned s) := by
  unfold execPeerAccessReply
  split
  · split
    · exact .next (dropFlight_inv h)
    · exact .next h
  · exact .ite (.next (dropExt_inv (takeReply_inv h))) (.next h)

theorem execPeerLoadTimeout_inv {s : State} {a} (h : s.Inv) : OutInv (execPeerLoadTimeout a s) := by
  unfold execPeerLoadTimeout
  split
  · exact .next h
  · exact .ite (.next h) (.next (dropExt_inv (modAgent_inv h)))

theorem unreachable_inv {s : State} {x} (h : s.Inv) : (State.unreachable s x).Inv := by
  unfold State.unreachable
  split
  · exact inv_ite (modAgent_inv h) (failedAt_inv h)
  · exact keepReply_inv h

theorem execPeerStoreUnreachable_inv {s : State} {id} (h : s.Inv) : OutInv (execPeerStoreUnreachable id s) := by
  unfold execPeerStoreUnreachable
  split
  · split
    · exact .next (failedAt_inv (dropFlight_inv h))
    · exact .next (dropFlight_inv h)
    · exact .next h
  · exact .ite (.next h) (.next (dropExt_inv (unreachable_inv h)))

theorem execDirectoryHandlerTurn_inv {s : State} {_core} (h : s.Inv) : OutInv (execDirectoryHandlerTurn _core s) := .next h
theorem spoilImage_inv {s : State} {key} (h : s.Inv) : (State.spoilImage s key).Inv := inv_ite (modJob_inv h) h
theorem spoilTask_inv {s : State} {key rec} (h : s.Inv) : (State.spoilTask s key rec).Inv := h

theorem execSoftError_inv {s : State} {w} (h : s.Inv) : OutInv (execSoftError w s) := by
  unfold execSoftError
  split
  · exact .next h
  · exact .next h
  · split
    · split
      · exact .next (launch_inv h)
      · exact .next h
    · exact .next h
  · exact .next (parityAt_inv h)
  · exact .next (spoilImage_inv h)
  · exact .next (spoilTask_inv h)
  · exact .next (modAgent_inv h)
  · exact .next (failPackage_inv h)

/-! ## Scalar floating point -/

theorem binaryF_inv {p f d a b} : InvM (binaryF p f d a b) := .bind readS_inv fun _ => .bind readS_inv fun _ => writeS_inv
theorem execFadd_inv {s : State} {d a b r p} (h : s.Inv) : OutInv (execFadd d a b r p s) := runWord_inv binaryF_inv h
theorem execFsub_inv {s : State} {d a b r p} (h : s.Inv) : OutInv (execFsub d a b r p s) := runWord_inv binaryF_inv h
theorem execFmul_inv {s : State} {d a b r p} (h : s.Inv) : OutInv (execFmul d a b r p s) := runWord_inv binaryF_inv h

theorem execFma_inv {s : State} {d a b c r p} (h : s.Inv) : OutInv (execFma d a b c r p s) :=
  runWord_inv (.bind readS_inv fun _ => .bind readS_inv fun _ => .bind readS_inv fun _ => writeS_inv) h

theorem execFdiv_inv {s : State} {d a b la r p} (h : s.Inv) : OutInv (execFdiv d a b la r p s) :=
  runWord_inv (.bind readS_inv fun _ => .bind readS_inv fun _ => writeLate_inv) h

theorem execFsqrt_inv {s : State} {d a la r p} (h : s.Inv) : OutInv (execFsqrt d a la r p s) :=
  runWord_inv (.bind readS_inv fun _ => writeLate_inv) h

theorem execFmin_inv {s : State} {d a b p} (h : s.Inv) : OutInv (execFmin d a b p s) := runWord_inv binaryF_inv h
theorem execFmax_inv {s : State} {d a b p} (h : s.Inv) : OutInv (execFmax d a b p s) := runWord_inv binaryF_inv h
theorem execFcmp_inv {s : State} {d a b rel p} (h : s.Inv) : OutInv (execFcmp d a b rel p s) := runWord_inv binaryF_inv h

theorem execFcvt_inv {s : State} {d a sel r p} (h : s.Inv) : OutInv (execFcvt d a sel r p s) :=
  runWord_inv (.bind readS_inv fun _ => writeS_inv) h

theorem execFclass_inv {s : State} {d a p} (h : s.Inv) : OutInv (execFclass d a p s) :=
  runWord_inv (.bind readS_inv fun _ => writeS_inv) h

end Sys2Proof.Machine
end

section
/-! The canonical form of memory is kept by the host, by scalar integers and by long-latency vector words. -/

namespace Sys2Proof.Machine

/-! ## The host and start-up -/

theorem setHerr_inv {s : State} {bit} (h : s.Inv) : (State.setHerr s bit).Inv := h

theorem hostWrite_inv {s : State} {off bs} (h : s.Inv) : (State.hostWrite s off bs).Inv := inv_ite (setHerr_inv h) (by
  split
  · exact setHerr_inv h
  · exact inv_ite h (inv_ite (setTag_inv _ _ _ (notHung_inv (outsidePut_inv h))) (notHung_inv (outsidePut_inv h))))

theorem execApertureRead_inv {s : State} {off n} (h : s.Inv) : OutInv (execApertureRead off n s) := .ite (.next h) (by
  split
  · exact .next (setHerr_inv h)
  · exact .ite (.next h) (.next h))

theorem execApertureWrite_inv {s : State} {off bs} (h : s.Inv) : OutInv (execApertureWrite off bs s) :=
  .next (inv_ite h (hostWrite_inv h))

theorem execApertureTaggedWrite_inv {s : State} {off bs} (h : s.Inv) : OutInv (execApertureTaggedWrite off bs s) :=
  .next (inv_ite h (hostWrite_inv h))

theorem execJsregWrite_inv {s : State} {st word v} (h : s.Inv) : OutInv (execJsregWrite st word v s) := .ite (.next h) (.next h)
theorem execHerrClear_inv {s : State} {v} (h : s.Inv) : OutInv (execHerrClear v s) := .next (inv_ite h h)
theorem execHcellClear_inv {s : State} {core v} (h : s.Inv) : OutInv (execHcellClear core v s) := .next (inv_ite (modCore_inv h) h)
theorem notPresent_inv {s : State} (h : s.Inv) : (State.notPresent s).Inv := setHerr_inv h
theorem hostWord_inv {s : State} {v} (h : s.Inv) : (State.hostWord s v).Inv := h

theorem showRegister_inv {s : State} {core g off} (h : s.Inv) : (State.showRegister s core g off).Inv := by
  unfold State.showRegister
  split
  · exact hostWord_inv h
  · exact inv_ite (hostWord_inv (draw_inv h)) (hostWord_inv h)

theorem execDbgRead_inv {s : State} {core off} (h : s.Inv) : OutInv (execDbgRead core off s) :=
  .ite (.next h) (.ite (.next (hostWord_inv h)) (by
  split
  · exact .next (showRegister_inv h)
  · exact .next (inv_ite (notPresent_inv h) (hostWord_inv h))))

theorem setPd_inv {s : State} {asid i v} (h : s.Inv) : (State.setPd s asid i v).Inv := h
theorem goLive_inv {s : State} {asid} (h : s.Inv) : (State.goLive s asid).Inv := inv_ite h h
theorem execPartitionGoLive_inv {s : State} {asid} (h : s.Inv) : OutInv (execPartitionGoLive asid s) := .next (inv_ite (goLive_inv h) h)

theorem writePd_inv {s : State} {asid i v} (h : s.Inv) : (State.writePd s asid i v).Inv :=
  inv_ite (inv_ite (setPd_inv h) (inv_ite (setPd_inv h) h)) (inv_ite (inv_ite (goLive_inv (setPd_inv h)) (setPd_inv h)) (setPd_inv h))

theorem execMgmtRegisterWrite_inv {s : State} {off v} (h : s.Inv) : OutInv (execMgmtRegisterWrite off v s) :=
  .ite (.next h) (.ite (.next h) (.ite (.next h) (.ite (.next h) (.ite (.next (writePd_inv h)) (.ite (.ite (.next h) (.next h))
    (.next h))))))

theorem execAttest_inv {s : State} (h : s.Inv) : OutInv (execAttest s) := onCommand_inv (fun _ => answer_inv h) h
theorem boot_inv {s : State} {b} : (State.boot s b).Inv := rfl
theorem execPackageReset_inv {s : State} {b} : OutInv (execPackageReset b s) := .next boot_inv

/-! ## Scalar integers -/

theorem binaryS_inv {f d a b} : InvM (binaryS f d a b) := .bind readS_inv fun _ => .bind readS_inv fun _ => writeS_inv
theorem unaryS_inv {f d a} : InvM (unaryS f d a) := .bind readS_inv fun _ => writeS_inv

theorem updateS_inv {f d a} : InvM (updateS f d a) :=
  .bind unboundM_inv fun _ => .bind readS_inv fun _ => .bind readS_inv fun _ => writeS_inv

theorem execAdd_inv {s : State} {d a b} (h : s.Inv) : OutInv (execAdd d a b s) := runWord_inv binaryS_inv h
theorem execAddImm_inv {s : State} {d a i} (h : s.Inv) : OutInv (execAddImm d a i s) := runWord_inv unaryS_inv h
theorem execSub_inv {s : State} {d a b} (h : s.Inv) : OutInv (execSub d a b s) := runWord_inv binaryS_inv h
theorem execMul_inv {s : State} {d a b} (h : s.Inv) : OutInv (execMul d a b s) := runWord_inv binaryS_inv h
theorem execMulh_inv {s : State} {d a b} (h : s.Inv) : OutInv (execMulh d a b s) := runWord_inv binaryS_inv h
theorem execMulhU_inv {s : State} {d a b} (h : s.Inv) : OutInv (execMulhU d a b s) := runWord_inv binaryS_inv h
theorem execDiv_inv {s : State} {d a b u} (h : s.Inv) : OutInv (execDiv d a b u s) := runWord_inv binaryS_inv h
theorem execRem_inv {s : State} {d a b u} (h : s.Inv) : OutInv (execRem d a b u s) := runWord_inv binaryS_inv h
theorem execAndR_inv {s : State} {d a b} (h : s.Inv) : OutInv (execAndR d a b s) := runWord_inv binaryS_inv h
theorem execOrR_inv {s : State} {d a b} (h : s.Inv) : OutInv (execOrR d a b s) := runWord_inv binaryS_inv h
theorem execXorR_inv {s : State} {d a b} (h : s.Inv) : OutInv (execXorR d a b s) := runWord_inv binaryS_inv h
theorem execAndn_inv {s : State} {d a b} (h : s.Inv) : OutInv (execAndn d a b s) := runWord_inv binaryS_inv h
theorem execAndImm_inv {s : State} {d a i} (h : s.Inv) : OutInv (execAndImm d a i s) := runWord_inv unaryS_inv h
theorem execOrImm_inv {s : State} {d a i} (h : s.Inv) : OutInv (execOrImm d a i s) := runWord_inv unaryS_inv h
theorem execXorImm_inv {s : State} {d a i} (h : s.Inv) : OutInv (execXorImm d a i s) := runWord_inv unaryS_inv h
theorem execShl_inv {s : State} {d a b} (h : s.Inv) : OutInv (execShl d a b s) := runWord_inv binaryS_inv h
theorem execShr_inv {s : State} {d a b} (h : s.Inv) : OutInv (execShr d a b s) := runWord_inv binaryS_inv h
theorem execSra_inv {s : State} {d a b} (h : s.Inv) : OutInv (execSra d a b s) := runWord_inv binaryS_inv h
theorem execRot_inv {s : State} {d a b} (h : s.Inv) : OutInv (execRot d a b s) := runWord_inv binaryS_inv h
theorem execMinS_inv {s : State} {d a b u} (h : s.Inv) : OutInv (execMinS d a b u s) := runWord_inv binaryS_inv h
theorem execMaxS_inv {s : State} {d a b u} (h : s.Inv) : OutInv (execMaxS d a b u s) := runWord_inv binaryS_inv h
theorem execCmp_inv {s : State} {d a b c} (h : s.Inv) : OutInv (execCmp d a b c s) := runWord_inv binaryS_inv h

theorem execSel_inv {s : State} {d a b c} (h : s.Inv) : OutInv (execSel d a b c s) :=
  runWord_inv (.bind readS_inv fun _ => .bind readS_inv fun _ => .bind readS_inv fun _ => writeS_inv) h

theorem execClz_inv {s : State} {d a} (h : s.Inv) : OutInv (execClz d a s) := runWord_inv unaryS_inv h
theorem execPopc_inv {s : State} {d a} (h : s.Inv) : OutInv (execPopc d a s) := runWord_inv unaryS_inv h
theorem execBfx_inv {s : State} {d a p w} (h : s.Inv) : OutInv (execBfx d a p w s) := runWord_inv unaryS_inv h
theorem execBfi_inv {s : State} {d a p w} (h : s.Inv) : OutInv (execBfi d a p w s) := runWord_inv updateS_inv h
theorem execLi_inv {s : State} {d i} (h : s.Inv) : OutInv (execLi d i s) := runWord_inv writeS_inv h

theorem execLiHi_inv {s : State} {d i} (h : s.Inv) : OutInv (execLiHi d i s) :=
  runWord_inv (.bind unboundM_inv fun _ => .bind readS_inv fun _ => writeS_inv) h

theorem execMov_inv {s : State} {d a} (h : s.Inv) : OutInv (execMov d a s) := runWord_inv unaryS_inv h
theorem execLea_inv {s : State} {d a i} (h : s.Inv) : OutInv (execLea d a i s) := runWord_inv unaryS_inv h

/-! ## Long-latency vector words -/

theorem execVsfu_inv {s : State} {td ta la n f lt fn} (h : s.Inv) : OutInv (execVsfu td ta la n f lt fn s) :=
  runWord_inv (.bind readRows_inv fun _ => writeRowsLate_inv) h

theorem execVred_inv {s : State} {td ta la n f lt op} (h : s.Inv) : OutInv (execVred td ta la n f lt op s) :=
  runWord_inv (.bind readRows_inv fun _ => writeRowsLate_inv) h

theorem execVscan_inv {s : State} {td ta la n f lt excl} (h : s.Inv) : OutInv (execVscan td ta la n f lt excl s) :=
  runWord_inv (.bind readRows_inv fun _ => writeRowsLate_inv) h

theorem execVhad_inv {s : State} {td ta la n f lt pts} (h : s.Inv) : OutInv (execVhad td ta la n f lt pts s) :=
  runWord_inv (.bind readRows_inv fun _ => .bind keysM_inv fun _ => writeRowsLate_inv) h

theorem execVchain_inv {s : State} {first last la p} (h : s.Inv) : OutInv (execVchain first last la p s) := by
  refine runWord_inv (.bind (.getM _) fun _ => .bind (.legalM _) fun _ => .bind (.legalM _) fun _ => ?_) h
  split
  · exact .streamM _
  · exact .bind (.getM _) fun _ => lateM_inv

theorem execResacc_inv {s : State} {la ta tb n f lt} (h : s.Inv) : OutInv (execResacc la ta tb n f lt s) :=
  runWord_inv (.bind (.getM _) fun _ => .bind (.legalM _) fun _ => .bind (.getM _) fun _ => .bind (.legalM _) fun _ =>
    .bind readRows_inv fun _ => .bind readRows_inv fun _ => lateM_inv) h

end Sys2Proof.Machine
end

section
/-! Every instruction and every turn keeps the canonical form of memory. -/

namespace Sys2Proof.Machine

/-! ## Dispatch -/

theorem exec_inv {s : State} {i} (h : s.Inv) : OutInv (exec i s) := by
  unfold exec
  split
  · exact execNop_inv h
  · exact execBranch_inv h
  · exact execCall_inv h
  · exact execBcc_inv h
  · exact execJr_inv h
  · exact execRet_inv h
  · exact execLoop_inv h
  · exact execWait_inv h
  · exact execBar_inv h
  · exact execVote_inv h
  · exact execSpawn_inv h
  · exact execSuspend_inv h
  · exact execRetire_inv h
  · exact execTrap_inv h
  · exact execTret_inv h
  · exact execHcall_inv h
  · exact execFence_inv h
  · exact execChunk_inv h
  · exact execLd_inv h
  · exact execSt_inv h
  · exact execLdt_inv h
  · exact execStt_inv h
  · exact execLdfe_inv h
  · exact execStfe_inv h
  · exact execFeset_inv h
  · exact execFeq_inv h
  · exact execAadd_inv h
  · exact execAmin_inv h
  · exact execAmax_inv h
  · exact execAbit_inv h
  · exact execAswap_inv h
  · exact execAcas_inv h
  · exact execAfadd_inv h
  · exact execAagg_inv h
  · exact execPref_inv h
  · exact execWback_inv h
  · exact execInval_inv h
  · exact execSbind_inv h
  · exact execSfree_inv h
  · exact execSsync_inv h
  · exact execMxpub_inv h
  · exact execCppub_inv h
  · exact execJobq_inv h
  · exact execLicacq_inv h
  · exact execLicrel_inv h
  · exact execPenq_inv h
  · exact execPdeq_inv h
  · exact execPdone_inv h
  · exact execPstat_inv h
  · exact execGsend_inv h
  · exact execGrecv_inv h
  · exact execGstat_inv h
  · exact execGcfg_inv h
  · exact execOsend_inv h
  · exact execOrecv_inv h
  · exact execMsend_inv h
  · exact execMrecv_inv h
  · exact execTwx_inv h
  · exact execTwxRd_inv h
  · exact execTwxWr_inv h
  · exact execCapgive_inv h
  · exact execCaptake_inv h
  · exact execCapq_inv h
  · exact execCycbeg_inv h
  · exact execCycend_inv h
  · exact execCycstat_inv h
  · exact execRestst_inv h
  · exact execWgfence_inv h
  · exact execGetsr_inv h
  · exact execSetsr_inv h
  · exact execHtld_inv h
  · exact execHtwr_inv h
  · exact execTsflush_inv h
  · exact execAdd_inv h
  · exact execAddImm_inv h
  · exact execSub_inv h
  · exact execMul_inv h
  · exact execMulh_inv h
  · exact execMulhU_inv h
  · exact execDiv_inv h
  · exact execRem_inv h
  · exact execAndR_inv h
  · exact execOrR_inv h
  · exact execXorR_inv h
  · exact execAndn_inv h
  · exact execAndImm_inv h
  · exact execOrImm_inv h
  · exact execXorImm_inv h
  · exact execShl_inv h
  · exact execShr_inv h
  · exact execSra_inv h
  · exact execRot_inv h
  · exact execMinS_inv h
  · exact execMaxS_inv h
  · exact execCmp_inv h
  · exact execSel_inv h
  · exact execClz_inv h
  · exact execPopc_inv h
  · exact execBfx_inv h
  · exact execBfi_inv h
  · exact execLi_inv h
  · exact execLiHi_inv h
  · exact execMov_inv h
  · exact execLea_inv h
  · exact execFadd_inv h
  · exact execFsub_inv h
  · exact execFmul_inv h
  · exact execFma_inv h
  · exact execFdiv_inv h
  · exact execFsqrt_inv h
  · exact execFmin_inv h
  · exact execFmax_inv h
  · exact execFcmp_inv h
  · exact execFcvt_inv h
  · exact execFclass_inv h
  · exact execResacc_inv h
  · exact execVadd_inv h
  · exact execVsub_inv h
  · exact execVmul_inv h
  · exact execVfma_inv h
  · exact execVmin_inv h
  · exact execVmax_inv h
  · exact execVand_inv h
  · exact execVor_inv h
  · exact execVxor_inv h
  · exact execVshl_inv h
  · exact execVcmp_inv h
  · exact execVsel_inv h
  · exact execVcvt_inv h
  · exact execVdec_inv h
  · exact execVenc_inv h
  · exact execVbcast_inv h
  · exact execVperm_inv h
  · exact execVsfu_inv h
  · exact execVred_inv h
  · exact execVscan_inv h
  · exact execVhad_inv h
  · exact execVsign_inv h
  · exact execVchain_inv h
  · exact execVmpld_inv h
  · exact execVrep_inv h
  · exact execTzero_inv h
  · exact execTmov_inv h
  · exact execTtrans_inv h
  · exact execVins_inv h
  · exact execVext_inv h
  · exact execVdot_inv h
  · exact execAfaddHoldTimeout_inv h
  · exact execStageQueueRoom_inv h
  · exact execSpeedwellRoute_inv h
  · exact execDeferredEffects_inv h
  · exact execPipelineCoreMove_inv h
  · exact execGroupItemArrive_inv h
  · exact execGroupResultArrive_inv h
  · exact execGroupAck_inv h
  · exact execGroupTimeout_inv h
  · exact execLateNoticeArrive_inv h
  · exact execRouteNoticeArrive_inv h
  · exact execSlackWindow_inv h
  · exact execOrderedInject_inv h
  · exact execOrderedPacketArrive_inv h
  · exact execOrderedBeacon_inv h
  · exact execOrderedDeliver_inv h
  · exact execCloseBeaconArrive_inv h
  · exact execWatermarkStall_inv h
  · exact execMessageArrive_inv h
  · exact execLateResultLand_inv h
  · exact execCommitGrant_inv h
  · exact execUserInterruptEntry_inv h
  · exact execWaitEvaluate_inv h
  · exact execWaitTimeout_inv h
  · exact execWaitTableSummary_inv h
  · exact execBarComplete_inv h
  · exact execVoteCommit_inv h
  · exact execCoreWake_inv h
  · exact execCoreGate_inv h
  · exact execTableRecheckDone_inv h
  · exact execPresetLoad_inv h
  · exact execTakeSlot_inv h
  · exact execSpanPlace_inv h
  · exact execSpanWait1ms_inv h
  · exact execBagRecordEnter_inv h
  · exact execRecordReady_inv h
  · exact execClaimRecord_inv h
  · exact execJobComplete_inv h
  · exact execJobQueueReady_inv h
  · exact execEngineIssue_inv h
  · exact execEngineStep_inv h
  · exact execEngineComplete_inv h
  · exact execCopyIssue_inv h
  · exact execCopyRow_inv h
  · exact execCopyComplete_inv h
  · exact execPark_inv h
  · exact execUnpark_inv h
  · exact execJobMove_inv h
  · exact execFelrilLinkDeath_inv h
  · exact execPeerAccessArrive_inv h
  · exact execReleasePerformed_inv h
  · exact execPeerLoadTimeout_inv h
  · exact execDirectoryHandlerTurn_inv h
  · exact execSaveComplete_inv h
  · exact execThermalReading_inv h
  · exact execThrottleStep_inv h
  · exact execHbmRefresh_inv h
  · exact execBallastWindow_inv h
  · exact execSoftError_inv h
  · exact execPackageReset_inv
  · exact execPartitionGoLive_inv h
  · exact execJsregWrite_inv h
  · exact execApertureRead_inv h
  · exact execApertureWrite_inv h
  · exact execApertureTaggedWrite_inv h
  · exact execHerrClear_inv h
  · exact execHcellClear_inv h
  · exact execDbgRead_inv h
  · exact execMgmtRegisterWrite_inv h
  · exact execPreemptSpan_inv h
  · exact execResumeSpan_inv h
  · exact execTranslationShootdown_inv h
  · exact execThaw_inv h
  · exact execDeclarePortOut_inv h
  · exact execReenableDelivery_inv h
  · exact execContain_inv h
  · exact execTearDown_inv h
  · exact execAttest_inv h
  · exact execHcmdUnknownCode_inv h
  · exact execPeerStoreUnreachable_inv h
  · exact execPeerAccessReply_inv h

/-! ## Fetch and issue -/

theorem fetchSegs_inv {segs p} : InvM (fetchSegs segs p) :=
  .bind (.getM _) fun _ => .bind (.needM _ _) fun _ => .bind (.getM _) fun _ => .bind (.needM _ _) fun _ => .bind pinM_inv fun _ =>
    .bind (.getM _) fun _ => .bind (.needM _ _) fun _ => .getM _

theorem fetchOutside_inv {host dev pod addr p} : InvM (fetchOutside host dev pod addr p) := .bind (.getM _) fun _ => .devM devOutside_inv
theorem fetchImage_inv {win bs} : InvM (fetchImage win bs) := .of fun _ h => .ite (.ok h) (.ite (.error _) (.ok h))
theorem fetchTable_inv {o} : InvM (fetchTable o) := .of fun _ h => .ite (.ok h) (.ite (.error _) (.ok h))

theorem fetchMain_inv {p} : InvM (fetchMain p) := by
  refine .bind (.accessM _ _) fun ⟨_, _⟩ => ?_
  dsimp only
  split
  · exact .bind fetchSegs_inv fun _ => .bind fetchImage_inv fun _ => .pure _
  · exact .bind fetchTable_inv fun _ => .pure _
  · exact .bind (.getM _) fun _ => .pure _
  · exact fetchOutside_inv

theorem fetchM_inv : InvM (fetchM) :=
  .bind (.getM _) fun _ => .bind (.getM _) fun _ => .ite fetchMain_inv (.bind (.getM _) fun _ => .pure _)

theorem openChunk_inv {s : State} (h : s.Inv) : (State.openChunk s).Inv := inv_ite h h
theorem withWord_inv {s : State} {w second} (h : s.Inv) : (State.withWord s w second).Inv := h

theorem runEncoded_inv {s : State} {w} (h : s.Inv) : OutInv (State.runEncoded s w) := by
  unfold State.runEncoded
  split
  · exact exec_inv h
  · exact .next (applyRes_inv h)

theorem runSecond_inv {s : State} {w} (h : s.Inv) : OutInv (State.runSecond s w) :=
  .ite (.next (applyRes_inv (withWord_inv h))) (runEncoded_inv (withWord_inv h))

theorem keepAsks_inv {s : State} {u : State} (h : s.Inv) : (State.keepAsks s u).Inv := foldl_inv (fun _ _ h => by
  split
  · exact askOutside_inv h
  · exact h
  · exact h
  · exact h
  · exact h
  · exact h
  · exact h) h

theorem dropBundle_inv {start u : State} {w second} (h : start.Inv) : (State.dropBundle start u w second).Inv :=
  applyRes_inv (withWord_inv (keepAsks_inv h))

theorem endLone_inv {start : State} {w second o} (h : start.Inv) (ho : OutInv o) : OutInv (State.endLone start w second o) := by
  unfold State.endLone
  split
  · next t => exact .next (inv_ite (ho t rfl) (inv_ite (dropBundle_inv h) (finishUnit_inv (ho t rfl))))
  · exact ho

theorem issueLone_inv {s : State} {w second} (h : s.Inv) : OutInv (State.issueLone s w second) :=
  endLone_inv h (.ite (runSecond_inv h) (runEncoded_inv (withWord_inv h)))

theorem settleTable_inv {s : State} (h : s.Inv) : (State.settleTable s).Inv := modCtx_inv (by
  split
  · exact loadPreset_inv h
  · exact h)

theorem inPlace_inv {s : State} (h : s.Inv) : (State.inPlace s).Inv := inv_ite h (modChunk_inv (heldInPlace_inv h))

theorem runBehind_inv {t : State} {w1} (h : t.Inv) : OutInv (State.runBehind t w1) := by
  have hr := runSecond_inv (w := w1) h
  unfold State.runBehind
  split
  · next u hu => exact .ite (runSecond_inv (inPlace_inv h)) (.next (hr u hu))
  · exact hr

theorem runAfter_inv {t : State} {w1} (h : t.Inv) : OutInv (State.runAfter t w1) := by
  have hr := runBehind_inv (w1 := w1) h
  unfold State.runAfter
  split
  · next u hu => exact .ite (runBehind_inv (settleTable_inv h)) (.next (hr u hu))
  · exact hr

theorem issueSecond_inv {start t : State} {w1} (h : start.Inv) (ht : t.Inv) : OutInv (State.issueSecond start t w1) := by
  have hr := runAfter_inv (w1 := w1) (ageLates_inv ht)
  unfold State.issueSecond
  split
  · next u hu => exact .next (inv_ite (dropBundle_inv h) (inv_ite (dropBundle_inv h) (finishUnit_inv (hr u hu))))
  · exact hr

theorem pairWaits_inv {start t : State} {w0 w1} (h : start.Inv) (ht : t.Inv) : (State.pairWaits start t w0 w1).Inv := by
  unfold State.pairWaits
  split
  · exact applyRes_inv (withWord_inv h)
  · exact ht

theorem issueEnding_inv {start : State} {w0 w1} (h : start.Inv) : OutInv (State.issueEnding start w0 w1) := by
  have hr : OutInv (({ start with unit := { start.unit with own := true } } : State).runSecond w1) := runSecond_inv h
  unfold State.issueEnding
  split
  · next t ht =>
    have hq := runEncoded_inv (w := w0) (withWord_inv (w := w0) (second := false) (hr t ht))
    refine .ite ?_ (.next (dropBundle_inv h))
    split
    · next u hu => exact .next (inv_ite (hq u hu) (dropBundle_inv h))
    · exact hq
  · exact hr

theorem afterFirst_inv {start t : State} {w0 w1} (h : start.Inv) (ht : t.Inv) : OutInv (State.afterFirst start t w0 w1) := by
  have hw : OutInv (.next (start.pairWaits t w0 w1)) := .next (pairWaits_inv h ht)
  unfold State.afterFirst
  split
  · exact .ite (.next (pairWaits_inv h (endAs_inv ht))) (issueSecond_inv h ht)
  · exact issueEnding_inv h
  · exact hw
  · exact hw
  · exact hw
  · exact hw
  · exact hw
  · exact .next ht
  · exact .next ht

theorem issuePair_inv {s : State} {w0 w1} (h : s.Inv) : OutInv (State.issuePair s w0 w1) := by
  have hstart : (({ s with unit := { s.unit with paired := true, view := some (s.me.ctx.regs, s.me.ctx.tiles) } } : State).withWord
      w0 false).Inv := h
  have hr := runEncoded_inv (w := w0) hstart
  have hstop {w r} : OutInv (.next ((s.withWord w false).applyRes r)) := .next (applyRes_inv h)
  unfold State.issuePair
  refine .ite hstop (.ite hstop (.ite hstop ?_))
  dsimp only
  split
  · next t ht => exact afterFirst_inv hstart (hr t ht)
  · exact hr

theorem issue_inv {s : State} (h : s.Inv) : OutInv (State.issue s) := by
  have hopen : (({ s with unit := { second := s.me.ctx.slot } } : State).openChunk).Inv := openChunk_inv h
  unfold State.issue
  dsimp only
  split
  · exact stopAt_inv hopen
  · next hs => exact .next (applyRes_inv (fetchM_inv.run hopen _ _ hs))
  · next hs =>
    have ht := fetchM_inv.run hopen _ _ hs
    exact .ite (.ite (issueLone_inv ht) (issueLone_inv ht)) (issuePair_inv ht)

theorem stopNow_inv {s : State} (h : s.Inv) : (State.stopNow s).Inv := inv_ite (endChunk_inv h) (endChunk_inv h)

theorem issueNext_inv {s : State} (h : s.Inv) : OutInv (State.issueNext s) := by
  unfold State.issueNext
  dsimp only
  split
  · exact .next (takeTrap_inv (inv_ite (modCore_inv h) h))
  · exact issue_inv (inv_ite (modCore_inv h) h)

theorem runTurn_inv {s : State} (h : s.Inv) : OutInv (State.runTurn s) :=
  .ite (exec_inv h) (.ite (exec_inv h) (.ite (exec_inv h) (.ite (.next (stopNow_inv h)) (.ite (exec_inv h) (issueNext_inv h)))))

theorem agentTurn_inv {s : State} {a} (h : s.Inv) : OutInv (State.agentTurn s a) := by
  unfold State.agentTurn
  dsimp only
  split
  · exact .next (focus_inv h)
  · exact .next (focus_inv h)
  · exact .next (focus_inv h)
  · exact runTurn_inv (focus_inv h)
  · exact .ite (issueNext_inv (focus_inv h)) (.ite (.next (stopNow_inv (focus_inv h))) (exec_inv (focus_inv h)))

theorem cacheMove_inv {s : State} {x1} (h : s.Inv) : (State.cacheMove s x1).Inv := by
  unfold State.cacheMove
  split
  · split
    · exact inv_ite h h
    · exact h
  · exact h
  · exact h
  · exact h
  · exact h

theorem turn_inv {s : State} (h : s.Inv) : OutInv (State.turn s) := by
  unfold State.turn
  dsimp only
  split
  · exact .ite (.next (failNow_inv h)) (agentTurn_inv (failNow_inv h))
  · exact .ite (.next (foldl_inv (fun _ _ h => cacheMove_inv h) (failNow_inv h))) (by
      split
      · exact agentTurn_inv (foldl_inv (fun _ _ h => cacheMove_inv h) (failNow_inv h))
      · exact .ite (exec_inv (foldl_inv (fun _ _ h => cacheMove_inv h) (failNow_inv h))) (.next (foldl_inv (fun _ _ h => cacheMove_inv h)
          (failNow_inv h))))

theorem step_inv {s : State} (h : s.Inv) : OutInv (step s) := turn_inv h

/-- Settles O39: memory is rewritten only by operations that keep its form, and each instruction, fetch, trap and turn is composed of
these. -/
theorem stepKeepsInv : Obligations.StepKeepsInv := by
  unfold Obligations.StepKeepsInv
  exact fun s t h hstep => step_inv h t hstep

end Sys2Proof.Machine
end

section
/-! Decoding undoes encoding (R223, R227–R231). A word is a sum of values put at their places; the laws of fields read each value back, and
every instruction's fields are read by its own major's decoder. -/

namespace Sys2Proof

set_option Elab.async false

/-! ## Fields of a sum of placed values -/

/-- A field below a placed value does not see it. -/
@[simp] theorem fld_add_put_below {x p v lo n : Nat} (h : lo + n ≤ p) : fld (x + put p v) lo n = fld x lo n := by
  obtain ⟨m, rfl⟩ := Nat.exists_eq_add_of_le h
  have e : put (lo + n + m) v = 2 ^ lo * (2 ^ n * (2 ^ m * v)) := by rw [put, pow_add, pow_add]; ring
  rw [fld, fld, e, Nat.add_mul_div_left _ _ (Nat.two_pow_pos lo), Nat.add_mul_mod_self_left]

/-- A value put into a place that was 0 stands there, with the rest above it. -/
theorem div_add_put {x p k v : Nat} (h : fld x p k = 0) : (x + put p v) / 2 ^ p = v + 2 ^ k * (x / 2 ^ p / 2 ^ k) := by
  have e : x / 2 ^ p = 2 ^ k * (x / 2 ^ p / 2 ^ k) := (Nat.mul_div_cancel' (Nat.dvd_of_mod_eq_zero h)).symm
  rw [put, Nat.add_mul_div_right _ _ (Nat.two_pow_pos p), ← e, Nat.add_comm]

/-- A field that was 0 reads the value put there. -/
@[simp] theorem fld_add_put_same {x p k : Nat} {v : BitVec k} (h : fld x p k = 0) : fld (x + put p v.toNat) p k = v.toNat := by
  rw [fld, div_add_put h, Nat.add_mul_mod_self_left, Nat.mod_eq_of_lt v.isLt]

/-- A field above a value that fits its place does not see it. -/
@[simp] theorem fld_add_put_above {x p k lo n : Nat} {v : BitVec k} (hlo : p + k ≤ lo) (h : fld x p k = 0) :
    fld (x + put p v.toNat) lo n = fld x lo n := by
  obtain ⟨m, rfl⟩ := Nat.exists_eq_add_of_le hlo
  have low : (v.toNat + 2 ^ k * (x / 2 ^ p / 2 ^ k)) / 2 ^ k = x / 2 ^ p / 2 ^ k := by
    rw [Nat.add_mul_div_left _ _ (Nat.two_pow_pos k), Nat.div_eq_of_lt v.isLt, Nat.zero_add]
  rw [fld, fld, pow_add, pow_add, ← Nat.div_div_eq_div_mul, ← Nat.div_div_eq_div_mul, ← Nat.div_div_eq_div_mul,
    ← Nat.div_div_eq_div_mul, div_add_put h, low]

@[simp] theorem fld_zero (lo n : Nat) : fld 0 lo n = 0 := by simp [fld]

@[simp] theorem fld_put_below {p v lo n : Nat} (h : lo + n ≤ p) : fld (put p v) lo n = 0 := by
  simpa using fld_add_put_below (x := 0) (v := v) h

@[simp] theorem fld_put_same {p k : Nat} {v : BitVec k} : fld (put p v.toNat) p k = v.toNat := by
  simpa using fld_add_put_same (v := v) (fld_zero p k)

@[simp] theorem fld_put_above {p k lo n : Nat} {v : BitVec k} (hlo : p + k ≤ lo) : fld (put p v.toNat) lo n = 0 := by
  simpa using fld_add_put_above (n := n) (v := v) hlo (fld_zero p k)

/-- A field of a numeral is computed. -/
@[simp] theorem fld_numeral (c lo n : Nat) : fld (no_index (OfNat.ofNat c)) lo n = OfNat.ofNat c / 2 ^ lo % 2 ^ n := by rw [fld]

/-- A field whose low bits are wrong is wrong. -/
theorem fld_ne_of_low {w lo n m c : Nat} (hmn : m ≤ n) (h : fld w lo m ≠ c % 2 ^ m) : fld w lo n ≠ c := by
  rintro rfl
  exact h (Nat.mod_mod_of_dvd _ (Nat.pow_dvd_pow 2 hmn)).symm

@[simp] theorem fbv_eq (w lo n : Nat) : fbv w lo n = BitVec.ofNat n (fld w lo n) := by rw [fbv]

/-! ## Codes as fields: what a code's field holds, and the selector it stands for -/

/-- A Boolean as a field of one bit. -/
def bitOf (b : Bool) : BitVec 1 := BitVec.ofNat 1 (bitNat b)
@[simp] theorem bitNat_eq_bitOf (b : Bool) : bitNat b = (bitOf b).toNat := by cases b <;> rfl
@[simp] theorem bitOf_beq_one (b : Bool) : ((bitOf b).toNat == 1) = b := by cases b <;> rfl
@[simp] theorem fbit_eq (w lo : Nat) : fbit w lo = (fld w lo 1 == 1) := by rw [fbit]

/-- The field that holds a code of `Cond`. -/
def Cond.bits (c : Cond) : BitVec 3 := BitVec.ofNat 3 c.code
@[simp] theorem Cond.code_eq_bits (c : Cond) : c.code = c.bits.toNat := by cases c <;> rfl
@[simp] theorem Cond.ofCode_bits (c : Cond) : Cond.ofCode c.bits.toNat = c := by cases c <;> rfl

/-- The field that holds a code of `LaneTy`. -/
def LaneTy.bits (t : LaneTy) : BitVec 3 := BitVec.ofNat 3 t.code
@[simp] theorem LaneTy.code_eq_bits (t : LaneTy) : t.code = t.bits.toNat := by cases t <;> rfl
@[simp] theorem LaneTy.ofCode_bits (t : LaneTy) : LaneTy.ofCode t.bits.toNat = t := by cases t <;> rfl

/-- The field that holds a code of `RMode`. -/
def RMode.bits (r : RMode) : BitVec 3 := BitVec.ofNat 3 r.code
@[simp] theorem RMode.code_eq_bits (r : RMode) : r.code = r.bits.toNat := by cases r <;> rfl
@[simp] theorem RMode.ofCode_bits (r : RMode) : RMode.ofCode r.bits.toNat = some r := by cases r <;> rfl

theorem RMode.ofCode_fld {w lo : Nat} {o : RMode} (h : fld w lo 3 = o.bits.toNat) : RMode.ofCode (fld w lo 3) = some o := by
  rw [h, RMode.ofCode_bits]

/-- The field that holds a code of `Prec`. -/
def Prec.bits (p : Prec) : BitVec 1 := BitVec.ofNat 1 p.code
@[simp] theorem Prec.code_eq_bits (p : Prec) : p.code = p.bits.toNat := by cases p <;> rfl
@[simp] theorem Prec.ofCode_bits (p : Prec) : Prec.ofCode p.bits.toNat = p := by cases p <;> rfl

/-- The field that holds a code of `CmOrd`. -/
def CmOrd.bits (o : CmOrd) : BitVec 2 := BitVec.ofNat 2 o.code
@[simp] theorem CmOrd.code_eq_bits (o : CmOrd) : o.code = o.bits.toNat := by cases o <;> rfl
@[simp] theorem CmOrd.ofCode_bits (o : CmOrd) : CmOrd.ofCode o.bits.toNat = some o := by cases o <;> rfl

theorem CmOrd.ofCode_fld {w lo : Nat} {o : CmOrd} (h : fld w lo 2 = o.bits.toNat) : CmOrd.ofCode (fld w lo 2) = some o := by
  rw [h, CmOrd.ofCode_bits]

/-- The field that holds a code of `MSize`. -/
def MSize.bits (n : MSize) : BitVec 2 := BitVec.ofNat 2 n.code
@[simp] theorem MSize.code_eq_bits (n : MSize) : n.code = n.bits.toNat := by cases n <;> rfl
@[simp] theorem MSize.ofCode_bits (n : MSize) : MSize.ofCode n.bits.toNat = n := by cases n <;> rfl

/-- The field that holds a code of `AWidth`. -/
def AWidth.bits (n : AWidth) : BitVec 1 := BitVec.ofNat 1 n.code
@[simp] theorem AWidth.code_eq_bits (n : AWidth) : n.code = n.bits.toNat := by cases n <;> rfl
@[simp] theorem AWidth.ofCode_bits (n : AWidth) : AWidth.ofCode n.bits.toNat = n := by cases n <;> rfl

/-- The field that holds a code of `MMVar`. -/
def MMVar.bits (v : MMVar) : BitVec 2 := BitVec.ofNat 2 v.code
@[simp] theorem MMVar.code_eq_bits (v : MMVar) : v.code = v.bits.toNat := by cases v <;> rfl
@[simp] theorem MMVar.ofCode_bits (v : MMVar) : MMVar.ofCode v.bits.toNat = v := by cases v <;> rfl

/-- The field that holds a code of `BitOp`. -/
def BitOp.bits (op : BitOp) : BitVec 2 := BitVec.ofNat 2 op.code
@[simp] theorem BitOp.code_eq_bits (op : BitOp) : op.code = op.bits.toNat := by cases op <;> rfl
@[simp] theorem BitOp.ofCode_bits (op : BitOp) : BitOp.ofCode op.bits.toNat = some op := by cases op <;> rfl

theorem BitOp.ofCode_fld {w lo : Nat} {o : BitOp} (h : fld w lo 2 = o.bits.toNat) : BitOp.ofCode (fld w lo 2) = some o := by
  rw [h, BitOp.ofCode_bits]

/-- The field that holds a code of `FFmt`. -/
def FFmt.bits (f : FFmt) : BitVec 2 := BitVec.ofNat 2 f.code
@[simp] theorem FFmt.code_eq_bits (f : FFmt) : f.code = f.bits.toNat := by cases f <;> rfl
@[simp] theorem FFmt.ofCode_bits (f : FFmt) : FFmt.ofCode f.bits.toNat = f := by cases f <;> rfl

/-- The field that holds a code of `ShiftKind`. -/
def ShiftKind.bits (k : ShiftKind) : BitVec 3 := BitVec.ofNat 3 k.code
@[simp] theorem ShiftKind.code_eq_bits (k : ShiftKind) : k.code = k.bits.toNat := by cases k <;> rfl
@[simp] theorem ShiftKind.ofCode_bits (k : ShiftKind) : ShiftKind.ofCode k.bits.toNat = some k := by cases k <;> rfl

theorem ShiftKind.ofCode_fld {w lo : Nat} {o : ShiftKind} (h : fld w lo 3 = o.bits.toNat) : ShiftKind.ofCode (fld w lo 3) = some o := by
  rw [h, ShiftKind.ofCode_bits]

/-- The field that holds a code of `SfuFn`. -/
def SfuFn.bits (f : SfuFn) : BitVec 3 := BitVec.ofNat 3 f.code
@[simp] theorem SfuFn.code_eq_bits (f : SfuFn) : f.code = f.bits.toNat := by cases f <;> rfl
@[simp] theorem SfuFn.ofCode_bits (f : SfuFn) : SfuFn.ofCode f.bits.toNat = f := by cases f <;> rfl

/-- The field that holds a code of `RedOp`. -/
def RedOp.bits (op : RedOp) : BitVec 3 := BitVec.ofNat 3 op.code
@[simp] theorem RedOp.code_eq_bits (op : RedOp) : op.code = op.bits.toNat := by cases op <;> rfl
@[simp] theorem RedOp.ofCode_bits (op : RedOp) : RedOp.ofCode op.bits.toNat = some op := by cases op <;> rfl

theorem RedOp.ofCode_fld {w lo : Nat} {o : RedOp} (h : fld w lo 3 = o.bits.toNat) : RedOp.ofCode (fld w lo 3) = some o := by
  rw [h, RedOp.ofCode_bits]

/-- The field that holds a code of `HadN`. -/
def HadN.bits (n : HadN) : BitVec 3 := BitVec.ofNat 3 n.code
@[simp] theorem HadN.code_eq_bits (n : HadN) : n.code = n.bits.toNat := by cases n <;> rfl
@[simp] theorem HadN.ofCode_bits (n : HadN) : HadN.ofCode n.bits.toNat = some n := by cases n <;> rfl

theorem HadN.ofCode_fld {w lo : Nat} {o : HadN} (h : fld w lo 3 = o.bits.toNat) : HadN.ofCode (fld w lo 3) = some o := by
  rw [h, HadN.ofCode_bits]

/-- The field that holds a code of `FRel`. -/
def FRel.bits (r : FRel) : BitVec 2 := BitVec.ofNat 2 r.code
@[simp] theorem FRel.code_eq_bits (r : FRel) : r.code = r.bits.toNat := by cases r <;> rfl
@[simp] theorem FRel.ofCode_bits (r : FRel) : FRel.ofCode r.bits.toNat = r := by cases r <;> rfl

/-- The field that holds a code of `CvtSel`. -/
def CvtSel.bits (c : CvtSel) : BitVec 3 := BitVec.ofNat 3 c.code
@[simp] theorem CvtSel.code_eq_bits (c : CvtSel) : c.code = c.bits.toNat := by cases c <;> rfl
@[simp] theorem CvtSel.ofCode_bits (c : CvtSel) : CvtSel.ofCode c.bits.toNat = c := by cases c <;> rfl

/-- The word that encodes an instruction decodes to it. -/
def Decodes (i : Instr) : Prop := decodeWord (encode i) = .ok i

/-! ## The decoder of a major -/

theorem decodeWord_00 {w : Nat} (h : fld w 24 7 = 0x00) : decodeWord w = decode00 w := by rw [decodeWord, h]; rfl
theorem decodeWord_01 {w : Nat} (h : fld w 24 7 = 0x01) : decodeWord w = decode01 w := by rw [decodeWord, h]; rfl
theorem decodeWord_02 {w : Nat} (h : fld w 24 7 = 0x02) : decodeWord w = decode02 w := by rw [decodeWord, h]; rfl
theorem decodeWord_03 {w : Nat} (h : fld w 24 7 = 0x03) : decodeWord w = decode03 w := by rw [decodeWord, h]; rfl
theorem decodeWord_04 {w : Nat} (h : fld w 24 7 = 0x04) : decodeWord w = decode04 w := by rw [decodeWord, h]; rfl
theorem decodeWord_05 {w : Nat} (h : fld w 24 7 = 0x05) : decodeWord w = decode05 w := by rw [decodeWord, h]; rfl
theorem decodeWord_06 {w : Nat} (h : fld w 24 7 = 0x06) : decodeWord w = decode06 w := by rw [decodeWord, h]; rfl
theorem decodeWord_07 {w : Nat} (h : fld w 24 7 = 0x07) : decodeWord w = decode07 w := by rw [decodeWord, h]; rfl
theorem decodeWord_08 {w : Nat} (h : fld w 24 7 = 0x08) : decodeWord w = decode08 w := by rw [decodeWord, h]; rfl
theorem decodeWord_09 {w : Nat} (h : fld w 24 7 = 0x09) : decodeWord w = decode09 w := by rw [decodeWord, h]; rfl
theorem decodeWord_0A {w : Nat} (h : fld w 24 7 = 0x0A) : decodeWord w = decode0A w := by rw [decodeWord, h]; rfl
theorem decodeWord_0B {w : Nat} (h : fld w 24 7 = 0x0B) : decodeWord w = decode0B w := by rw [decodeWord, h]; rfl
theorem decodeWord_0C {w : Nat} (h : fld w 24 7 = 0x0C) : decodeWord w = decode0C w := by rw [decodeWord, h]; rfl
theorem decodeWord_0D {w : Nat} (h : fld w 24 7 = 0x0D) : decodeWord w = decode0D w := by rw [decodeWord, h]; rfl
theorem decodeWord_0E {w : Nat} (h : fld w 24 7 = 0x0E) : decodeWord w = decode0E w := by rw [decodeWord, h]; rfl
theorem decodeWord_0F {w : Nat} (h : fld w 24 7 = 0x0F) : decodeWord w = decode0F w := by rw [decodeWord, h]; rfl
theorem decodeWord_10 {w : Nat} (h : fld w 24 7 = 0x10) : decodeWord w = decode10 w := by rw [decodeWord, h]; rfl
theorem decodeWord_11 {w : Nat} (h : fld w 24 7 = 0x11) : decodeWord w = decode11 w := by rw [decodeWord, h]; rfl
theorem decodeWord_12 {w : Nat} (h : fld w 24 7 = 0x12) : decodeWord w = decode12 w := by rw [decodeWord, h]; rfl
theorem decodeWord_13 {w : Nat} (h : fld w 24 7 = 0x13) : decodeWord w = decode13 w := by rw [decodeWord, h]; rfl
theorem decodeWord_14 {w : Nat} (h : fld w 24 7 = 0x14) : decodeWord w = decode14 w := by rw [decodeWord, h]; rfl
theorem decodeWord_15 {w : Nat} (h : fld w 24 7 = 0x15) : decodeWord w = decode15 w := by rw [decodeWord, h]; rfl
theorem decodeWord_16 {w : Nat} (h : fld w 24 7 = 0x16) : decodeWord w = decode16 w := by rw [decodeWord, h]; rfl
theorem decodeWord_17 {w : Nat} (h : fld w 24 7 = 0x17) : decodeWord w = decode17 w := by rw [decodeWord, h]; rfl
theorem decodeWord_18 {w : Nat} (h : fld w 24 7 = 0x18) : decodeWord w = decode18 w := by rw [decodeWord, h]; rfl
theorem decodeWord_19 {w : Nat} (h : fld w 24 7 = 0x19) : decodeWord w = decode19 w := by rw [decodeWord, h]; rfl
theorem decodeWord_1A {w : Nat} (h : fld w 24 7 = 0x1A) : decodeWord w = decode1A w := by rw [decodeWord, h]; rfl
theorem decodeWord_1B {w : Nat} (h : fld w 24 7 = 0x1B) : decodeWord w = decode1B w := by rw [decodeWord, h]; rfl
theorem decodeWord_1C {w : Nat} (h : fld w 24 7 = 0x1C) : decodeWord w = decode1C w := by rw [decodeWord, h]; rfl
theorem decodeWord_1D {w : Nat} (h : fld w 24 7 = 0x1D) : decodeWord w = decode1D w := by rw [decodeWord, h]; rfl
theorem decodeWord_1E {w : Nat} (h : fld w 24 7 = 0x1E) : decodeWord w = decode1E w := by rw [decodeWord, h]; rfl
theorem decodeWord_1F {w : Nat} (h : fld w 24 7 = 0x1F) : decodeWord w = decode1F w := by rw [decodeWord, h]; rfl
theorem decodeWord_20 {w : Nat} (h : fld w 24 7 = 0x20) : decodeWord w = decode20 w := by rw [decodeWord, h]; rfl
theorem decodeWord_21 {w : Nat} (h : fld w 24 7 = 0x21) : decodeWord w = decode21 w := by rw [decodeWord, h]; rfl
theorem decodeWord_22 {w : Nat} (h : fld w 24 7 = 0x22) : decodeWord w = decode22 w := by rw [decodeWord, h]; rfl
theorem decodeWord_23 {w : Nat} (h : fld w 24 7 = 0x23) : decodeWord w = decode23 w := by rw [decodeWord, h]; rfl
theorem decodeWord_24 {w : Nat} (h : fld w 24 7 = 0x24) : decodeWord w = decode24 w := by rw [decodeWord, h]; rfl
theorem decodeWord_25 {w : Nat} (h : fld w 24 7 = 0x25) : decodeWord w = decode25 w := by rw [decodeWord, h]; rfl
theorem decodeWord_26 {w : Nat} (h : fld w 24 7 = 0x26) : decodeWord w = decode26 w := by rw [decodeWord, h]; rfl
theorem decodeWord_27 {w : Nat} (h : fld w 24 7 = 0x27) : decodeWord w = decode27 w := by rw [decodeWord, h]; rfl
theorem decodeWord_28 {w : Nat} (h : fld w 24 7 = 0x28) : decodeWord w = decode28 w := by rw [decodeWord, h]; rfl
theorem decodeWord_29 {w : Nat} (h : fld w 24 7 = 0x29) : decodeWord w = decode29 w := by rw [decodeWord, h]; rfl
theorem decodeWord_2A {w : Nat} (h : fld w 24 7 = 0x2A) : decodeWord w = decode2A w := by rw [decodeWord, h]; rfl
theorem decodeWord_2B {w : Nat} (h : fld w 24 7 = 0x2B) : decodeWord w = decode2B w := by rw [decodeWord, h]; rfl
theorem decodeWord_2C {w : Nat} (h : fld w 24 7 = 0x2C) : decodeWord w = decode2C w := by rw [decodeWord, h]; rfl
theorem decodeWord_2D {w : Nat} (h : fld w 24 7 = 0x2D) : decodeWord w = decode2D w := by rw [decodeWord, h]; rfl
theorem decodeWord_2E {w : Nat} (h : fld w 24 7 = 0x2E) : decodeWord w = decode2E w := by rw [decodeWord, h]; rfl
theorem decodeWord_2F {w : Nat} (h : fld w 24 7 = 0x2F) : decodeWord w = decode2F w := by rw [decodeWord, h]; rfl
theorem decodeWord_30 {w : Nat} (h : fld w 24 7 = 0x30) : decodeWord w = decode30 w := by rw [decodeWord, h]; rfl
theorem decodeWord_31 {w : Nat} (h : fld w 24 7 = 0x31) : decodeWord w = decode31 w := by rw [decodeWord, h]; rfl
theorem decodeWord_32 {w : Nat} (h : fld w 24 7 = 0x32) : decodeWord w = decode32 w := by rw [decodeWord, h]; rfl
theorem decodeWord_33 {w : Nat} (h : fld w 24 7 = 0x33) : decodeWord w = decode33 w := by rw [decodeWord, h]; rfl
theorem decodeWord_40 {w : Nat} (h : fld w 24 7 = 0x40) : decodeWord w = decode40 w := by rw [decodeWord, h]; rfl
theorem decodeWord_41 {w : Nat} (h : fld w 24 7 = 0x41) : decodeWord w = decode41 w := by rw [decodeWord, h]; rfl
theorem decodeWord_42 {w : Nat} (h : fld w 24 7 = 0x42) : decodeWord w = decode42 w := by rw [decodeWord, h]; rfl
theorem decodeWord_43 {w : Nat} (h : fld w 24 7 = 0x43) : decodeWord w = decode43 w := by rw [decodeWord, h]; rfl
theorem decodeWord_44 {w : Nat} (h : fld w 24 7 = 0x44) : decodeWord w = decode44 w := by rw [decodeWord, h]; rfl
theorem decodeWord_45 {w : Nat} (h : fld w 24 7 = 0x45) : decodeWord w = decode45 w := by rw [decodeWord, h]; rfl
theorem decodeWord_46 {w : Nat} (h : fld w 24 7 = 0x46) : decodeWord w = decode46 w := by rw [decodeWord, h]; rfl
theorem decodeWord_47 {w : Nat} (h : fld w 24 7 = 0x47) : decodeWord w = decode47 w := by rw [decodeWord, h]; rfl
theorem decodeWord_48 {w : Nat} (h : fld w 24 7 = 0x48) : decodeWord w = decode48 w := by rw [decodeWord, h]; rfl
theorem decodeWord_49 {w : Nat} (h : fld w 24 7 = 0x49) : decodeWord w = decode49 w := by rw [decodeWord, h]; rfl
theorem decodeWord_4A {w : Nat} (h : fld w 24 7 = 0x4A) : decodeWord w = decode4A w := by rw [decodeWord, h]; rfl
theorem decodeWord_4B {w : Nat} (h : fld w 24 7 = 0x4B) : decodeWord w = decode4B w := by rw [decodeWord, h]; rfl
theorem decodeWord_4C {w : Nat} (h : fld w 24 7 = 0x4C) : decodeWord w = decode4C w := by rw [decodeWord, h]; rfl
theorem decodeWord_4D {w : Nat} (h : fld w 24 7 = 0x4D) : decodeWord w = decode4D w := by rw [decodeWord, h]; rfl
theorem decodeWord_4E {w : Nat} (h : fld w 24 7 = 0x4E) : decodeWord w = decode4E w := by rw [decodeWord, h]; rfl
theorem decodeWord_4F {w : Nat} (h : fld w 24 7 = 0x4F) : decodeWord w = decode4F w := by rw [decodeWord, h]; rfl
theorem decodeWord_50 {w : Nat} (h : fld w 24 7 = 0x50) : decodeWord w = decode50 w := by rw [decodeWord, h]; rfl
theorem decodeWord_51 {w : Nat} (h : fld w 24 7 = 0x51) : decodeWord w = decode51 w := by rw [decodeWord, h]; rfl
theorem decodeWord_52 {w : Nat} (h : fld w 24 7 = 0x52) : decodeWord w = decode52 w := by rw [decodeWord, h]; rfl
theorem decodeWord_53 {w : Nat} (h : fld w 24 7 = 0x53) : decodeWord w = decode53 w := by rw [decodeWord, h]; rfl
theorem decodeWord_54 {w : Nat} (h : fld w 24 7 = 0x54) : decodeWord w = decode54 w := by rw [decodeWord, h]; rfl
theorem decodeWord_55 {w : Nat} (h : fld w 24 7 = 0x55) : decodeWord w = decode55 w := by rw [decodeWord, h]; rfl
theorem decodeWord_56 {w : Nat} (h : fld w 24 7 = 0x56) : decodeWord w = decode56 w := by rw [decodeWord, h]; rfl
theorem decodeWord_57 {w : Nat} (h : fld w 24 7 = 0x57) : decodeWord w = decode57 w := by rw [decodeWord, h]; rfl
theorem decodeWord_58 {w : Nat} (h : fld w 24 7 = 0x58) : decodeWord w = decode58 w := by rw [decodeWord, h]; rfl
theorem decodeWord_59 {w : Nat} (h : fld w 24 7 = 0x59) : decodeWord w = decode59 w := by rw [decodeWord, h]; rfl
theorem decodeWord_5A {w : Nat} (h : fld w 24 7 = 0x5A) : decodeWord w = decode5A w := by rw [decodeWord, h]; rfl
theorem decodeWord_5B {w : Nat} (h : fld w 24 7 = 0x5B) : decodeWord w = decode5B w := by rw [decodeWord, h]; rfl
theorem decodeWord_5C {w : Nat} (h : fld w 24 7 = 0x5C) : decodeWord w = decode5C w := by rw [decodeWord, h]; rfl
theorem decodeWord_5D {w : Nat} (h : fld w 24 7 = 0x5D) : decodeWord w = decode5D w := by rw [decodeWord, h]; rfl
theorem decodeWord_5E {w : Nat} (h : fld w 24 7 = 0x5E) : decodeWord w = decode5E w := by rw [decodeWord, h]; rfl
theorem decodeWord_60 {w : Nat} (h : fld w 24 7 = 0x60) : decodeWord w = decode60 w := by rw [decodeWord, h]; rfl
theorem decodeWord_61 {w : Nat} (h : fld w 24 7 = 0x61) : decodeWord w = decode61 w := by rw [decodeWord, h]; rfl
theorem decodeWord_62 {w : Nat} (h : fld w 24 7 = 0x62) : decodeWord w = decode62 w := by rw [decodeWord, h]; rfl
theorem decodeWord_63 {w : Nat} (h : fld w 24 7 = 0x63) : decodeWord w = decode63 w := by rw [decodeWord, h]; rfl
theorem decodeWord_64 {w : Nat} (h : fld w 24 7 = 0x64) : decodeWord w = decode64 w := by rw [decodeWord, h]; rfl
theorem decodeWord_65 {w : Nat} (h : fld w 24 7 = 0x65) : decodeWord w = decode65 w := by rw [decodeWord, h]; rfl
theorem decodeWord_66 {w : Nat} (h : fld w 24 7 = 0x66) : decodeWord w = decode66 w := by rw [decodeWord, h]; rfl
theorem decodeWord_67 {w : Nat} (h : fld w 24 7 = 0x67) : decodeWord w = decode67 w := by rw [decodeWord, h]; rfl
theorem decodeWord_68 {w : Nat} (h : fld w 24 7 = 0x68) : decodeWord w = decode68 w := by rw [decodeWord, h]; rfl
theorem decodeWord_69 {w : Nat} (h : fld w 24 7 = 0x69) : decodeWord w = decode69 w := by rw [decodeWord, h]; rfl
theorem decodeWord_6A {w : Nat} (h : fld w 24 7 = 0x6A) : decodeWord w = decode6A w := by rw [decodeWord, h]; rfl
theorem decodeWord_6B {w : Nat} (h : fld w 24 7 = 0x6B) : decodeWord w = decode6B w := by rw [decodeWord, h]; rfl
theorem decodeWord_6C {w : Nat} (h : fld w 24 7 = 0x6C) : decodeWord w = decode6C w := by rw [decodeWord, h]; rfl
theorem decodeWord_6D {w : Nat} (h : fld w 24 7 = 0x6D) : decodeWord w = decode6D w := by rw [decodeWord, h]; rfl
theorem decodeWord_6E {w : Nat} (h : fld w 24 7 = 0x6E) : decodeWord w = decode6E w := by rw [decodeWord, h]; rfl
theorem decodeWord_6F {w : Nat} (h : fld w 24 7 = 0x6F) : decodeWord w = decode6F w := by rw [decodeWord, h]; rfl
theorem decodeWord_70 {w : Nat} (h : fld w 24 7 = 0x70) : decodeWord w = decode70 w := by rw [decodeWord, h]; rfl
theorem decodeWord_71 {w : Nat} (h : fld w 24 7 = 0x71) : decodeWord w = decode71 w := by rw [decodeWord, h]; rfl
theorem decodeWord_72 {w : Nat} (h : fld w 24 7 = 0x72) : decodeWord w = decode72 w := by rw [decodeWord, h]; rfl
theorem decodeWord_73 {w : Nat} (h : fld w 24 7 = 0x73) : decodeWord w = decode73 w := by rw [decodeWord, h]; rfl
theorem decodeWord_74 {w : Nat} (h : fld w 24 7 = 0x74) : decodeWord w = decode74 w := by rw [decodeWord, h]; rfl
theorem decodeWord_75 {w : Nat} (h : fld w 24 7 = 0x75) : decodeWord w = decode75 w := by rw [decodeWord, h]; rfl
theorem decodeWord_76 {w : Nat} (h : fld w 24 7 = 0x76) : decodeWord w = decode76 w := by rw [decodeWord, h]; rfl
theorem decodeWord_77 {w : Nat} (h : fld w 24 7 = 0x77) : decodeWord w = decode77 w := by rw [decodeWord, h]; rfl
theorem decodeWord_78 {w : Nat} (h : fld w 24 7 = 0x78) : decodeWord w = decode78 w := by rw [decodeWord, h]; rfl

/-! ## Every instruction with a word (R227–R231)

A word's major and fields are read off its encoding by the laws above; a selector that may be unassigned is read first. -/

namespace Decodes

theorem nop la : Decodes (.nop la) := by
  rw [Decodes, encode, decodeWord_00] <;> simp [decode00]
theorem branch o : Decodes (.branch o) := by
  rw [Decodes, encode, decodeWord_01] <;> simp [decode01]
theorem call o : Decodes (.call o) := by
  rw [Decodes, encode, decodeWord_02] <;> simp [decode02]
theorem bcc c a b o : Decodes (.bcc c a b o) := by
  rw [Decodes, encode, decodeWord_03] <;> simp [decode03]
theorem jr la a : Decodes (.jr la a) := by
  rw [Decodes, encode, decodeWord_04] <;> simp [decode04]
theorem ret la : Decodes (.ret la) := by
  rw [Decodes, encode, decodeWord_04] <;> simp [decode04]
theorem loop la a n : Decodes (.loop la a n) := by
  rw [Decodes, encode, decodeWord_05] <;> simp [decode05]
theorem wait yld any n f t : Decodes (.wait yld any n f t) := by
  rw [Decodes, encode, decodeWord_06] <;> simp [decode06]
theorem bar la : Decodes (.bar la) := by
  rw [Decodes, encode, decodeWord_07] <;> simp [decode07]
theorem vote la : Decodes (.vote la) := by
  rw [Decodes, encode, decodeWord_08] <;> simp [decode08]
theorem spawn la a : Decodes (.spawn la a) := by
  rw [Decodes, encode, decodeWord_09] <;> simp [decode09]
theorem suspend la a b : Decodes (.suspend la a b) := by
  rw [Decodes, encode, decodeWord_0A] <;> simp [decode0A]
theorem retire la : Decodes (.retire la) := by
  rw [Decodes, encode, decodeWord_0B] <;> simp [decode0B]
theorem trap la a c : Decodes (.trap la a c) := by
  rw [Decodes, encode, decodeWord_0C] <;> simp [decode0C]
theorem tret la : Decodes (.tret la) := by
  rw [Decodes, encode, decodeWord_0D] <;> simp [decode0D]
theorem hcall la a c : Decodes (.hcall la a c) := by
  rw [Decodes, encode, decodeWord_0E] <;> simp [decode0E]
theorem fence la : Decodes (.fence la) := by
  rw [Decodes, encode, decodeWord_0F] <;> simp [decode0F]
theorem chunk la : Decodes (.chunk la) := by
  rw [Decodes, encode, decodeWord_0F] <;> simp [decode0F]
theorem ld la o d b sz x : Decodes (.ld la o d b sz x) := by
  rw [Decodes, encode, decodeWord_10, decode10, CmOrd.ofCode_fld (o := o)] <;> simp
theorem st la o d b sz x : Decodes (.st la o d b sz x) := by
  rw [Decodes, encode, decodeWord_11, decode11, CmOrd.ofCode_fld (o := o)] <;> simp
theorem ldt la o t b n f e : Decodes (.ldt la o t b n f e) := by
  rw [Decodes, encode, decodeWord_12, decode12, CmOrd.ofCode_fld (o := o)] <;> simp
theorem stt la o t b n f e : Decodes (.stt la o t b n f e) := by
  rw [Decodes, encode, decodeWord_13, decode13, CmOrd.ofCode_fld (o := o)] <;> simp
theorem ldfe la o d b x : Decodes (.ldfe la o d b x) := by
  rw [Decodes, encode, decodeWord_14, decode14, CmOrd.ofCode_fld (o := o)] <;> simp
theorem stfe la o d b x : Decodes (.stfe la o d b x) := by
  rw [Decodes, encode, decodeWord_15, decode15, CmOrd.ofCode_fld (o := o)] <;> simp
theorem feset la a full : Decodes (.feset la a full) := by
  rw [Decodes, encode, decodeWord_16] <;> simp [decode16]
theorem feq la d b : Decodes (.feq la d b) := by
  rw [Decodes, encode, decodeWord_16] <;> simp [decode16]
theorem aadd la o d a v wd : Decodes (.aadd la o d a v wd) := by
  rw [Decodes, encode, decodeWord_17] <;> simp [decode17]
theorem amin la o d a v v2 : Decodes (.amin la o d a v v2) := by
  rw [Decodes, encode, decodeWord_18] <;> simp [decode18]
theorem amax la o d a v v2 : Decodes (.amax la o d a v v2) := by
  rw [Decodes, encode, decodeWord_19] <;> simp [decode19]
theorem abit la o d a v op : Decodes (.abit la o d a v op) := by
  rw [Decodes, encode, decodeWord_1A, decode1A, BitOp.ofCode_fld (o := op)] <;> simp
theorem aswap la o d a v wd : Decodes (.aswap la o d a v wd) := by
  rw [Decodes, encode, decodeWord_1B] <;> simp [decode1B]
theorem acas la o d a v wd : Decodes (.acas la o d a v wd) := by
  rw [Decodes, encode, decodeWord_1C] <;> simp [decode1C]
theorem afadd la o d a v fm : Decodes (.afadd la o d a v fm) := by
  rw [Decodes, encode, decodeWord_1D] <;> simp [decode1D]
theorem aagg la o d a v wd : Decodes (.aagg la o d a v wd) := by
  rw [Decodes, encode, decodeWord_1E] <;> simp [decode1E]
theorem pref la a : Decodes (.pref la a) := by
  rw [Decodes, encode, decodeWord_1F] <;> simp [decode1F]
theorem wback la a : Decodes (.wback la a) := by
  rw [Decodes, encode, decodeWord_1F] <;> simp [decode1F]
theorem inval la a : Decodes (.inval la a) := by
  rw [Decodes, encode, decodeWord_1F] <;> simp [decode1F]
theorem sbind la a r n tile out : Decodes (.sbind la a r n tile out) := by
  rw [Decodes, encode, decodeWord_20] <;> simp [decode20]
theorem sfree la n : Decodes (.sfree la n) := by
  rw [Decodes, encode, decodeWord_20] <;> simp [decode20]
theorem ssync la d n : Decodes (.ssync la d n) := by
  rw [Decodes, encode, decodeWord_20] <;> simp [decode20]
theorem mxpub la d b : Decodes (.mxpub la d b) := by
  rw [Decodes, encode, decodeWord_21] <;> simp [decode21]
theorem cppub la d b : Decodes (.cppub la d b) := by
  rw [Decodes, encode, decodeWord_22] <;> simp [decode22]
theorem jobq la d b : Decodes (.jobq la d b) := by
  rw [Decodes, encode, decodeWord_23] <;> simp [decode23]
theorem licacq la d note : Decodes (.licacq la d note) := by
  rw [Decodes, encode, decodeWord_24] <;> simp [decode24]
theorem licrel la : Decodes (.licrel la) := by
  rw [Decodes, encode, decodeWord_24] <;> simp [decode24]
theorem penq la d b p : Decodes (.penq la d b p) := by
  rw [Decodes, encode, decodeWord_25] <;> simp [decode25]
theorem pdeq la d p : Decodes (.pdeq la d p) := by
  rw [Decodes, encode, decodeWord_25] <;> simp [decode25]
theorem pdone la b p drop : Decodes (.pdone la b p drop) := by
  rw [Decodes, encode, decodeWord_25]
  · rw [decode25, if_neg (fld_ne_of_low (m := 2) (by decide) ?_), if_neg (not_and_of_not_left _ (fld_ne_of_low (m := 2) (by decide) ?_))] <;> simp
  · simp
theorem pstat la d p s : Decodes (.pstat la d p s) := by
  rw [Decodes, encode, decodeWord_25]
  · rw [decode25, if_neg (fld_ne_of_low (m := 2) (by decide) ?_), if_neg (not_and_of_not_left _ (fld_ne_of_low (m := 2) (by decide) ?_))] <;> simp
  · simp
theorem gsend la b n : Decodes (.gsend la b n) := by
  rw [Decodes, encode, decodeWord_26] <;> simp [decode26]
theorem grecv la d b n : Decodes (.grecv la d b n) := by
  rw [Decodes, encode, decodeWord_27] <;> simp [decode27]
theorem gstat la d n : Decodes (.gstat la d n) := by
  rw [Decodes, encode, decodeWord_27] <;> simp [decode27]
theorem gcfg la b n : Decodes (.gcfg la b n) := by
  rw [Decodes, encode, decodeWord_28] <;> simp [decode28]
theorem osend la b c : Decodes (.osend la b c) := by
  rw [Decodes, encode, decodeWord_29] <;> simp [decode29]
theorem orecv la d key c : Decodes (.orecv la d key c) := by
  rw [Decodes, encode, decodeWord_29] <;> simp [decode29]
theorem msend la a b : Decodes (.msend la a b) := by
  rw [Decodes, encode, decodeWord_2A] <;> simp [decode2A]
theorem mrecv la d : Decodes (.mrecv la d) := by
  rw [Decodes, encode, decodeWord_2A] <;> simp [decode2A]
theorem twx la d b n : Decodes (.twx la d b n) := by
  rw [Decodes, encode, decodeWord_2B] <;> simp [decode2B]
theorem twxRd la d n : Decodes (.twxRd la d n) := by
  rw [Decodes, encode, decodeWord_2B] <;> simp [decode2B]
theorem twxWr la b n : Decodes (.twxWr la b n) := by
  rw [Decodes, encode, decodeWord_2B] <;> simp [decode2B]
theorem capgive la a b : Decodes (.capgive la a b) := by
  rw [Decodes, encode, decodeWord_2C] <;> simp [decode2C]
theorem captake la d b : Decodes (.captake la d b) := by
  rw [Decodes, encode, decodeWord_2C] <;> simp [decode2C]
theorem capq la d b : Decodes (.capq la d b) := by
  rw [Decodes, encode, decodeWord_2C] <;> simp [decode2C]
theorem cycbeg la bwd : Decodes (.cycbeg la bwd) := by
  rw [Decodes, encode, decodeWord_2D] <;> simp [decode2D]
theorem cycend la : Decodes (.cycend la) := by
  rw [Decodes, encode, decodeWord_2D] <;> simp [decode2D]
theorem cycstat la d : Decodes (.cycstat la d) := by
  rw [Decodes, encode, decodeWord_2D]
  · rw [decode2D, if_neg (not_and_of_not_left _ ?_), if_neg (fld_ne_of_low (m := 2) (by decide) ?_)] <;> simp
  · simp
theorem restst la d b tol : Decodes (.restst la d b tol) := by
  rw [Decodes, encode, decodeWord_2E] <;> simp [decode2E]
theorem wgfence la : Decodes (.wgfence la) := by
  rw [Decodes, encode, decodeWord_2F] <;> simp [decode2F]
theorem getsr la d i : Decodes (.getsr la d i) := by
  rw [Decodes, encode, decodeWord_30] <;> simp [decode30]
theorem setsr la a i : Decodes (.setsr la a i) := by
  rw [Decodes, encode, decodeWord_31] <;> simp [decode31]
theorem htld la a b : Decodes (.htld la a b) := by
  rw [Decodes, encode, decodeWord_32] <;> simp [decode32]
theorem htwr la a b : Decodes (.htwr la a b) := by
  rw [Decodes, encode, decodeWord_32] <;> simp [decode32]
theorem tsflush la : Decodes (.tsflush la) := by
  rw [Decodes, encode, decodeWord_33] <;> simp [decode33]
theorem add d a b : Decodes (.add d a b) := by
  rw [Decodes, encode, decodeWord_40] <;> simp [decode40]
theorem addImm d a i : Decodes (.addImm d a i) := by
  rw [Decodes, encode, decodeWord_41] <;> simp [decode41]
theorem sub d a b : Decodes (.sub d a b) := by
  rw [Decodes, encode, decodeWord_42] <;> simp [decode42]
theorem mul d a b : Decodes (.mul d a b) := by
  rw [Decodes, encode, decodeWord_43] <;> simp [decode43]
theorem mulh d a b : Decodes (.mulh d a b) := by
  rw [Decodes, encode, decodeWord_43] <;> simp [decode43]
theorem mulhU d a b : Decodes (.mulhU d a b) := by
  rw [Decodes, encode, decodeWord_43] <;> simp [decode43]
theorem div d a b u : Decodes (.div d a b u) := by
  rw [Decodes, encode, decodeWord_44] <;> simp [decode44]
theorem rem d a b u : Decodes (.rem d a b u) := by
  rw [Decodes, encode, decodeWord_44] <;> simp [decode44]
theorem andR d a b : Decodes (.andR d a b) := by
  rw [Decodes, encode, decodeWord_45] <;> simp [decode45]
theorem orR d a b : Decodes (.orR d a b) := by
  rw [Decodes, encode, decodeWord_45] <;> simp [decode45]
theorem xorR d a b : Decodes (.xorR d a b) := by
  rw [Decodes, encode, decodeWord_45] <;> simp [decode45]
theorem andn d a b : Decodes (.andn d a b) := by
  rw [Decodes, encode, decodeWord_45] <;> simp [decode45]
theorem andImm d a i : Decodes (.andImm d a i) := by
  rw [Decodes, encode, decodeWord_46] <;> simp [decode46]
theorem orImm d a i : Decodes (.orImm d a i) := by
  rw [Decodes, encode, decodeWord_47] <;> simp [decode47]
theorem xorImm d a i : Decodes (.xorImm d a i) := by
  rw [Decodes, encode, decodeWord_48] <;> simp [decode48]
theorem shl d a b : Decodes (.shl d a b) := by
  rw [Decodes, encode, decodeWord_49] <;> simp [decode49]
theorem shr d a b : Decodes (.shr d a b) := by
  rw [Decodes, encode, decodeWord_49] <;> simp [decode49]
theorem sra d a b : Decodes (.sra d a b) := by
  rw [Decodes, encode, decodeWord_49] <;> simp [decode49]
theorem rot d a b : Decodes (.rot d a b) := by
  rw [Decodes, encode, decodeWord_49] <;> simp [decode49]
theorem minS d a b u : Decodes (.minS d a b u) := by
  rw [Decodes, encode, decodeWord_4A] <;> simp [decode4A]
theorem maxS d a b u : Decodes (.maxS d a b u) := by
  rw [Decodes, encode, decodeWord_4A] <;> simp [decode4A]
theorem cmp d a b c : Decodes (.cmp d a b c) := by
  rw [Decodes, encode, decodeWord_4B] <;> simp [decode4B]
theorem sel d a b c : Decodes (.sel d a b c) := by
  rw [Decodes, encode, decodeWord_4C] <;> simp [decode4C]
theorem clz d a : Decodes (.clz d a) := by
  rw [Decodes, encode, decodeWord_4D] <;> simp [decode4D]
theorem popc d a : Decodes (.popc d a) := by
  rw [Decodes, encode, decodeWord_4D] <;> simp [decode4D]
theorem bfx d a p w : Decodes (.bfx d a p w) := by
  rw [Decodes, encode, decodeWord_4E] <;> simp [decode4E]
theorem bfi d a p w : Decodes (.bfi d a p w) := by
  rw [Decodes, encode, decodeWord_4F] <;> simp [decode4F]
theorem li d i : Decodes (.li d i) := by
  rw [Decodes, encode, decodeWord_50] <;> simp [decode50]
theorem liHi d i : Decodes (.liHi d i) := by
  rw [Decodes, encode, decodeWord_51] <;> simp [decode51]
theorem mov d a : Decodes (.mov d a) := by
  rw [Decodes, encode, decodeWord_52] <;> simp [decode52]
theorem lea d a i : Decodes (.lea d a i) := by
  rw [Decodes, encode, decodeWord_53] <;> simp [decode53]
theorem fadd d a b r p : Decodes (.fadd d a b r p) := by
  rw [Decodes, encode, decodeWord_54, decode54, RMode.ofCode_fld (o := r)] <;> simp
theorem fsub d a b r p : Decodes (.fsub d a b r p) := by
  rw [Decodes, encode, decodeWord_55, decode55, RMode.ofCode_fld (o := r)] <;> simp
theorem fmul d a b r p : Decodes (.fmul d a b r p) := by
  rw [Decodes, encode, decodeWord_56, decode56, RMode.ofCode_fld (o := r)] <;> simp
theorem fma d a b c r p : Decodes (.fma d a b c r p) := by
  rw [Decodes, encode, decodeWord_57, decode57, RMode.ofCode_fld (o := r)] <;> simp
theorem fdiv d a b la r p : Decodes (.fdiv d a b la r p) := by
  rw [Decodes, encode, decodeWord_58, decode58, RMode.ofCode_fld (o := r)] <;> simp
theorem fsqrt d a la r p : Decodes (.fsqrt d a la r p) := by
  rw [Decodes, encode, decodeWord_59, decode59, RMode.ofCode_fld (o := r)] <;> simp
theorem fmin d a b p : Decodes (.fmin d a b p) := by
  rw [Decodes, encode, decodeWord_5A] <;> simp [decode5A]
theorem fmax d a b p : Decodes (.fmax d a b p) := by
  rw [Decodes, encode, decodeWord_5A] <;> simp [decode5A]
theorem fcmp d a b rel p : Decodes (.fcmp d a b rel p) := by
  rw [Decodes, encode, decodeWord_5B] <;> simp [decode5B]
theorem fcvt d a sel r p : Decodes (.fcvt d a sel r p) := by
  rw [Decodes, encode, decodeWord_5C, decode5C, RMode.ofCode_fld (o := r)] <;> simp
theorem fclass d a p : Decodes (.fclass d a p) := by
  rw [Decodes, encode, decodeWord_5D] <;> simp [decode5D]
theorem resacc la ta tb n f lt : Decodes (.resacc la ta tb n f lt) := by
  rw [Decodes, encode, decodeWord_5E] <;> simp [decode5E]
theorem vadd td ta tb n f lt : Decodes (.vadd td ta tb n f lt) := by
  rw [Decodes, encode, decodeWord_60] <;> simp [decode60]
theorem vsub td ta tb n f lt : Decodes (.vsub td ta tb n f lt) := by
  rw [Decodes, encode, decodeWord_61] <;> simp [decode61]
theorem vmul td ta tb n f lt : Decodes (.vmul td ta tb n f lt) := by
  rw [Decodes, encode, decodeWord_62] <;> simp [decode62]
theorem vfma td ta tb n f lt : Decodes (.vfma td ta tb n f lt) := by
  rw [Decodes, encode, decodeWord_63] <;> simp [decode63]
theorem vmin td ta tb n f lt : Decodes (.vmin td ta tb n f lt) := by
  rw [Decodes, encode, decodeWord_64] <;> simp [decode64]
theorem vmax td ta tb n f lt : Decodes (.vmax td ta tb n f lt) := by
  rw [Decodes, encode, decodeWord_64] <;> simp [decode64]
theorem vand td ta tb n f lt : Decodes (.vand td ta tb n f lt) := by
  rw [Decodes, encode, decodeWord_65] <;> simp [decode65]
theorem vor td ta tb n f lt : Decodes (.vor td ta tb n f lt) := by
  rw [Decodes, encode, decodeWord_65] <;> simp [decode65]
theorem vxor td ta tb n f lt : Decodes (.vxor td ta tb n f lt) := by
  rw [Decodes, encode, decodeWord_65] <;> simp [decode65]
theorem vshl td ta tb n f lt k : Decodes (.vshl td ta tb n f lt k) := by
  rw [Decodes, encode, decodeWord_66, decode66, ShiftKind.ofCode_fld (o := k)] <;> simp
theorem vcmp td ta tb n f lt c : Decodes (.vcmp td ta tb n f lt c) := by
  rw [Decodes, encode, decodeWord_67] <;> simp [decode67]
theorem vsel td ta tb n f lt : Decodes (.vsel td ta tb n f lt) := by
  rw [Decodes, encode, decodeWord_68] <;> simp [decode68]
theorem vcvt td ta k n f lt dst : Decodes (.vcvt td ta k n f lt dst) := by
  rw [Decodes, encode, decodeWord_69] <;> simp [decode69]
theorem vdec td ta k n f lt : Decodes (.vdec td ta k n f lt) := by
  rw [Decodes, encode, decodeWord_6A] <;> simp [decode6A]
theorem venc td ta k n f lt : Decodes (.venc td ta k n f lt) := by
  rw [Decodes, encode, decodeWord_6B] <;> simp [decode6B]
theorem vbcast td s n f lt : Decodes (.vbcast td s n f lt) := by
  rw [Decodes, encode, decodeWord_6C] <;> simp [decode6C]
theorem vperm td ta tb n f lt : Decodes (.vperm td ta tb n f lt) := by
  rw [Decodes, encode, decodeWord_6D] <;> simp [decode6D]
theorem vsfu td ta la n f lt fn : Decodes (.vsfu td ta la n f lt fn) := by
  rw [Decodes, encode, decodeWord_6E] <;> simp [decode6E]
theorem vred td ta la n f lt op : Decodes (.vred td ta la n f lt op) := by
  rw [Decodes, encode, decodeWord_6F, decode6F, RedOp.ofCode_fld (o := op)] <;> simp
theorem vscan td ta la n f lt excl : Decodes (.vscan td ta la n f lt excl) := by
  rw [Decodes, encode, decodeWord_70] <;> simp [decode70]
theorem vhad td ta la n f lt pts : Decodes (.vhad td ta la n f lt pts) := by
  rw [Decodes, encode, decodeWord_71, decode71, HadN.ofCode_fld (o := pts)] <;> simp
theorem vsign td ta n f lt : Decodes (.vsign td ta n f lt) := by
  rw [Decodes, encode, decodeWord_72] <;> simp [decode72]
theorem vchain first last la p : Decodes (.vchain first last la p) := by
  rw [Decodes, encode, decodeWord_73] <;> simp [decode73]
theorem vmpld first ta n f : Decodes (.vmpld first ta n f) := by
  rw [Decodes, encode, decodeWord_74] <;> simp [decode74]
theorem vrep td ta k n f lt : Decodes (.vrep td ta k n f lt) := by
  rw [Decodes, encode, decodeWord_75] <;> simp [decode75]
theorem tzero td n f lt : Decodes (.tzero td n f lt) := by
  rw [Decodes, encode, decodeWord_76] <;> simp [decode76]
theorem tmov td ta n f lt : Decodes (.tmov td ta n f lt) := by
  rw [Decodes, encode, decodeWord_76] <;> simp [decode76]
theorem ttrans td ta n f lt : Decodes (.ttrans td ta n f lt) := by
  rw [Decodes, encode, decodeWord_76] <;> simp [decode76]
theorem vins td s f lt : Decodes (.vins td s f lt) := by
  rw [Decodes, encode, decodeWord_77] <;> simp [decode77]
theorem vext td s f lt : Decodes (.vext td s f lt) := by
  rw [Decodes, encode, decodeWord_77] <;> simp [decode77]
theorem vdot td ta tb n f lt : Decodes (.vdot td ta tb n f lt) := by
  rw [Decodes, encode, decodeWord_78] <;> simp [decode78]

end Decodes

/-! ## The statement -/

/-- Settles O37: one law for every instruction with a word; an event has none. -/
theorem roundTrip : Obligations.RoundTrip := by
  unfold Obligations.RoundTrip
  intro i hword _
  cases i with
  | nop la => exact Decodes.nop ..
  | branch o => exact Decodes.branch ..
  | call o => exact Decodes.call ..
  | bcc c a b o => exact Decodes.bcc ..
  | jr la a => exact Decodes.jr ..
  | ret la => exact Decodes.ret ..
  | loop la a n => exact Decodes.loop ..
  | wait yld any n f t => exact Decodes.wait ..
  | bar la => exact Decodes.bar ..
  | vote la => exact Decodes.vote ..
  | spawn la a => exact Decodes.spawn ..
  | suspend la a b => exact Decodes.suspend ..
  | retire la => exact Decodes.retire ..
  | trap la a c => exact Decodes.trap ..
  | tret la => exact Decodes.tret ..
  | hcall la a c => exact Decodes.hcall ..
  | fence la => exact Decodes.fence ..
  | chunk la => exact Decodes.chunk ..
  | ld la o d b sz x => exact Decodes.ld ..
  | st la o d b sz x => exact Decodes.st ..
  | ldt la o t b n f e => exact Decodes.ldt ..
  | stt la o t b n f e => exact Decodes.stt ..
  | ldfe la o d b x => exact Decodes.ldfe ..
  | stfe la o d b x => exact Decodes.stfe ..
  | feset la a full => exact Decodes.feset ..
  | feq la d b => exact Decodes.feq ..
  | aadd la o d a v wd => exact Decodes.aadd ..
  | amin la o d a v v2 => exact Decodes.amin ..
  | amax la o d a v v2 => exact Decodes.amax ..
  | abit la o d a v op => exact Decodes.abit ..
  | aswap la o d a v wd => exact Decodes.aswap ..
  | acas la o d a v wd => exact Decodes.acas ..
  | afadd la o d a v fm => exact Decodes.afadd ..
  | aagg la o d a v wd => exact Decodes.aagg ..
  | pref la a => exact Decodes.pref ..
  | wback la a => exact Decodes.wback ..
  | inval la a => exact Decodes.inval ..
  | sbind la a r n tile out => exact Decodes.sbind ..
  | sfree la n => exact Decodes.sfree ..
  | ssync la d n => exact Decodes.ssync ..
  | mxpub la d b => exact Decodes.mxpub ..
  | cppub la d b => exact Decodes.cppub ..
  | jobq la d b => exact Decodes.jobq ..
  | licacq la d note => exact Decodes.licacq ..
  | licrel la => exact Decodes.licrel ..
  | penq la d b p => exact Decodes.penq ..
  | pdeq la d p => exact Decodes.pdeq ..
  | pdone la b p drop => exact Decodes.pdone ..
  | pstat la d p s => exact Decodes.pstat ..
  | gsend la b n => exact Decodes.gsend ..
  | grecv la d b n => exact Decodes.grecv ..
  | gstat la d n => exact Decodes.gstat ..
  | gcfg la b n => exact Decodes.gcfg ..
  | osend la b c => exact Decodes.osend ..
  | orecv la d key c => exact Decodes.orecv ..
  | msend la a b => exact Decodes.msend ..
  | mrecv la d => exact Decodes.mrecv ..
  | twx la d b n => exact Decodes.twx ..
  | twxRd la d n => exact Decodes.twxRd ..
  | twxWr la b n => exact Decodes.twxWr ..
  | capgive la a b => exact Decodes.capgive ..
  | captake la d b => exact Decodes.captake ..
  | capq la d b => exact Decodes.capq ..
  | cycbeg la bwd => exact Decodes.cycbeg ..
  | cycend la => exact Decodes.cycend ..
  | cycstat la d => exact Decodes.cycstat ..
  | restst la d b tol => exact Decodes.restst ..
  | wgfence la => exact Decodes.wgfence ..
  | getsr la d i => exact Decodes.getsr ..
  | setsr la a i => exact Decodes.setsr ..
  | htld la a b => exact Decodes.htld ..
  | htwr la a b => exact Decodes.htwr ..
  | tsflush la => exact Decodes.tsflush ..
  | add d a b => exact Decodes.add ..
  | addImm d a i => exact Decodes.addImm ..
  | sub d a b => exact Decodes.sub ..
  | mul d a b => exact Decodes.mul ..
  | mulh d a b => exact Decodes.mulh ..
  | mulhU d a b => exact Decodes.mulhU ..
  | div d a b u => exact Decodes.div ..
  | rem d a b u => exact Decodes.rem ..
  | andR d a b => exact Decodes.andR ..
  | orR d a b => exact Decodes.orR ..
  | xorR d a b => exact Decodes.xorR ..
  | andn d a b => exact Decodes.andn ..
  | andImm d a i => exact Decodes.andImm ..
  | orImm d a i => exact Decodes.orImm ..
  | xorImm d a i => exact Decodes.xorImm ..
  | shl d a b => exact Decodes.shl ..
  | shr d a b => exact Decodes.shr ..
  | sra d a b => exact Decodes.sra ..
  | rot d a b => exact Decodes.rot ..
  | minS d a b u => exact Decodes.minS ..
  | maxS d a b u => exact Decodes.maxS ..
  | cmp d a b c => exact Decodes.cmp ..
  | sel d a b c => exact Decodes.sel ..
  | clz d a => exact Decodes.clz ..
  | popc d a => exact Decodes.popc ..
  | bfx d a p w => exact Decodes.bfx ..
  | bfi d a p w => exact Decodes.bfi ..
  | li d i => exact Decodes.li ..
  | liHi d i => exact Decodes.liHi ..
  | mov d a => exact Decodes.mov ..
  | lea d a i => exact Decodes.lea ..
  | fadd d a b r p => exact Decodes.fadd ..
  | fsub d a b r p => exact Decodes.fsub ..
  | fmul d a b r p => exact Decodes.fmul ..
  | fma d a b c r p => exact Decodes.fma ..
  | fdiv d a b la r p => exact Decodes.fdiv ..
  | fsqrt d a la r p => exact Decodes.fsqrt ..
  | fmin d a b p => exact Decodes.fmin ..
  | fmax d a b p => exact Decodes.fmax ..
  | fcmp d a b rel p => exact Decodes.fcmp ..
  | fcvt d a sel r p => exact Decodes.fcvt ..
  | fclass d a p => exact Decodes.fclass ..
  | resacc la ta tb n f lt => exact Decodes.resacc ..
  | vadd td ta tb n f lt => exact Decodes.vadd ..
  | vsub td ta tb n f lt => exact Decodes.vsub ..
  | vmul td ta tb n f lt => exact Decodes.vmul ..
  | vfma td ta tb n f lt => exact Decodes.vfma ..
  | vmin td ta tb n f lt => exact Decodes.vmin ..
  | vmax td ta tb n f lt => exact Decodes.vmax ..
  | vand td ta tb n f lt => exact Decodes.vand ..
  | vor td ta tb n f lt => exact Decodes.vor ..
  | vxor td ta tb n f lt => exact Decodes.vxor ..
  | vshl td ta tb n f lt k => exact Decodes.vshl ..
  | vcmp td ta tb n f lt c => exact Decodes.vcmp ..
  | vsel td ta tb n f lt => exact Decodes.vsel ..
  | vcvt td ta k n f lt dst => exact Decodes.vcvt ..
  | vdec td ta k n f lt => exact Decodes.vdec ..
  | venc td ta k n f lt => exact Decodes.venc ..
  | vbcast td s n f lt => exact Decodes.vbcast ..
  | vperm td ta tb n f lt => exact Decodes.vperm ..
  | vsfu td ta la n f lt fn => exact Decodes.vsfu ..
  | vred td ta la n f lt op => exact Decodes.vred ..
  | vscan td ta la n f lt excl => exact Decodes.vscan ..
  | vhad td ta la n f lt pts => exact Decodes.vhad ..
  | vsign td ta n f lt => exact Decodes.vsign ..
  | vchain first last la p => exact Decodes.vchain ..
  | vmpld first ta n f => exact Decodes.vmpld ..
  | vrep td ta k n f lt => exact Decodes.vrep ..
  | tzero td n f lt => exact Decodes.tzero ..
  | tmov td ta n f lt => exact Decodes.tmov ..
  | ttrans td ta n f lt => exact Decodes.ttrans ..
  | vins td s f lt => exact Decodes.vins ..
  | vext td s f lt => exact Decodes.vext ..
  | vdot td ta tb n f lt => exact Decodes.vdot ..
  | afaddHoldTimeout | stageQueueRoom | speedwellRoute | deferredEffects | pipelineCoreMove | groupItemArrive | groupResultArrive
    | groupAck | groupTimeout | lateNoticeArrive | routeNoticeArrive | slackWindow | orderedInject | orderedPacketArrive
    | orderedBeacon | orderedDeliver | closeBeaconArrive | watermarkStall | messageArrive | lateResultLand | commitGrant
    | userInterruptEntry | waitEvaluate | waitTimeout | waitTableSummary | barComplete | voteCommit | coreWake | coreGate
    | tableRecheckDone | presetLoad | takeSlot | spanPlace | spanWait1ms | bagRecordEnter | recordReady | claimRecord | jobComplete
    | jobQueueReady | engineIssue | engineStep | engineComplete | copyIssue | copyRow | copyComplete | park | unpark | jobMove
    | felrilLinkDeath | peerAccessArrive | releasePerformed | peerLoadTimeout | directoryHandlerTurn | saveComplete | thermalReading
    | throttleStep | hbmRefresh | ballastWindow | softError | packageReset | partitionGoLive | jsregWrite | apertureRead
    | apertureWrite | apertureTaggedWrite | herrClear | hcellClear | dbgRead | mgmtRegisterWrite | preemptSpan | resumeSpan
    | translationShootdown | thaw | declarePortOut | reenableDelivery | contain | tearDown | attest | hcmdUnknownCode
    | peerStoreUnreachable | peerAccessReply => cases hword

end Sys2Proof
end
